-- ==== Sys2Proof/Word.lean ====
section
/-! DEFINITION. The word types of the Crelis Oleus (R5, R74). -/

namespace Sys2Proof

/-- A byte of memory (R5). -/
abbrev Byte := BitVec 8

/-- A 32-bit register or instruction word (R74, R143). -/
abbrev Word := BitVec 32

/-- A 64-bit register pair (R88). -/
abbrev Dword := BitVec 64

/-- A 57-bit virtual address (R5). -/
abbrev VAddr := BitVec 57

/-- The number of a vector or uniform register, as an instruction field holds it (R153). -/
abbrev Reg := BitVec 8

/-- A set of team-wide lanes: bit 32·W + L stands for lane L of word W (R24, R169). -/
abbrev LaneSet := BitVec 1024

end Sys2Proof
end

