-- ==== Sys2Proof/Config.lean ====
section
/-! DEFINITION. What bring-up sets for the module, and the values that the spec leaves free. -/

namespace Sys2Proof

/-- The parameters that "bring-up" sets (R320, R330, R332, R334, R341, R354, R356, R357, R315, R55).
Husk sets them (R358); they take effect when Husk reports ready. -/
structure BringUp where
  /-- `x.pkg`, the number of the module in its pod (R12). -/
  pkg : Nat
  /-- The module is in a pod (R12, R43). -/
  inPod : Bool
  /-- Physical base of the space table (R320). -/
  spaceBase : Nat
  /-- Physical base of the fault queue of each die (R330). -/
  faultBase : List Nat
  /-- Physical address of the fault reply doorbell of each die (R332). -/
  replyDoorbell : List Nat
  /-- Virtual base of the service area of each die, `c.svcbase` (R282, R294). -/
  svcBase : List Nat
  /-- Entry of the service-mode teams of core 63 (R47). -/
  svcEntry : Nat
  /-- Service numbers that are registered (R265). -/
  services : List Nat
  /-- Virtual base, in world 0, of the table of weight contexts (R341). -/
  ctxTable : Nat
  /-- Virtual base, in world 0, of the receive-ring table (R356). -/
  ringTable : Nat
  /-- Physical ranges (base, bytes) of the carve-outs (R319). -/
  carveOuts : List (Nat × Nat)
  /-- Entries of the quarantine region of one slice (R354). -/
  quarantine : Nat
  /-- Heartbeat interval H in local cycles (R357). -/
  heartbeat : Nat
  /-- Intervals T after which a neighbour is silent (R357). -/
  silence : Nat
  /-- Neighbouring modules (R357). -/
  neighbours : List Nat
  /-- (m, primary successor, secondary successor) of each module m (R357). -/
  successors : List (Nat × Nat × Nat)
  /-- (m, ring): takeover ring that receives the sends addressed to module m (R356). -/
  takeover : List (Nat × Nat)
  /-- Exponent t of the access-counter threshold (R334). -/
  counterLog2 : Nat
  /-- The seven read-level shifts of the retry table (R55, R314). -/
  retryTable : List Nat
  /-- Thermal migration is enabled (R315). -/
  migration : Bool
  /-- min_residency in local cycles (R315). -/
  minResidency : Nat
  deriving DecidableEq, Repr

/-- A number brought into a range. -/
def clamp (lo hi x : Nat) : Nat := Nat.max lo (Nat.min hi x)

/-- The parameters as the machine holds them: a retry table of seven shifts (R314), and every number in the range that its rule gives it
(R315, R334, R354, R357). -/
def BringUp.fit (b : BringUp) : BringUp :=
  { b with retryTable := (List.range 7).map (fun i => b.retryTable.getD i 0), minResidency := clamp (2 ^ 16) (2 ^ 30) b.minResidency
           counterLog2 := clamp 8 24 b.counterLog2, quarantine := clamp (2 ^ 10) (2 ^ 20) b.quarantine, silence := clamp 2 255 b.silence
           heartbeat := clamp (2 ^ 16) (2 ^ 24) b.heartbeat }

/-- The parameters before Husk has reported ready.  DESIGN CHOICE (log 11): the spec gives no
reset value for them but the default of min_residency, 2^20 (R315). -/
def BringUp.initial : BringUp where
  pkg := 0
  inPod := false
  spaceBase := 0
  faultBase := []
  replyDoorbell := []
  svcBase := []
  svcEntry := 0
  services := []
  ctxTable := 0
  ringTable := 0
  carveOuts := []
  quarantine := 1024
  heartbeat := 65536
  silence := 2
  neighbours := []
  successors := []
  takeover := []
  counterLog2 := 8
  retryTable := [0, 0, 0, 0, 0, 0, 0]
  migration := false
  minResidency := 1048576

/-! Free values.  None has a body: nothing can be proved of what they are (log 3). -/

/-- Unsettled read (R150): which value a read of a register still to be written returns, the old one or one of those to come;
arguments: the step's free counter, the lane (1024 for a read that the team makes once) and the register (a uniform one plus 256). -/
opaque Config.unsettledRead : Nat → Nat → Nat → Nat

/-- Unsettled write (R150): whether the earlier writer's value is the one that stays. -/
opaque Config.unsettledWriteIsOld : Nat → Nat → Nat → Bool

/-- Whether a line that an L1 may still hold serves a relaxed load (R131). -/
opaque Config.l1Serves : Nat → Bool

/-- Whether a translation that a TLB may still hold serves an access (R327, R328). -/
opaque Config.tlbServes : Nat → Bool

/-- Entry of the frame map of another module of the pod, which this module does not hold (R325); arguments: the step's
free counter and the physical address. -/
opaque Config.podFrame : Nat → Nat → BitVec 16

/-- Crews that the grids of a group have on another module of the pod, which this module does not hold (R251, R253);
arguments: the group and the module. -/
opaque Config.podCrews : Nat → Nat → Nat

/-- Whether the dispatcher has no room for one more submission (R260 status 3, R303): the spec gives the launch queue of device-side
submissions no size; argument: the step's free counter. -/
opaque Config.launchFull : Nat → Bool

/-- Whether a flash page that an engine or an expert load reads stays uncorrectable after its retries (R55, R125); arguments: the
step's free counter and the page. -/
opaque Config.flashFails : Nat → Nat → Bool

/-- The parts of a Husk image (R358), whose layout the spec does not give: the bytes that are signed, the public key and the signature. -/
opaque Config.imageBody : List (BitVec 8) → List (BitVec 8)
opaque Config.imageKey : List (BitVec 8) → List (BitVec 8)
opaque Config.imageSignature : List (BitVec 8) → List (BitVec 8)

/-- RSASSA-PSS verification with RSA-3072 (R358), which the spec names and does not define; arguments: public key, digest and signature. -/
opaque Config.pssHolds : List (BitVec 8) → BitVec 256 → List (BitVec 8) → Bool

/-- The digest of the public key that is fused in die 0 (R358). -/
opaque Config.fusedDigest : BitVec 256

/-- Germ's signature of an attestation report, by the module's identity key (R358); argument: the measurement log. -/
opaque Config.germSigns : List (BitVec 256) → List (BitVec 8)

/-- The address in the record of a send that was refused or whose destination is fenced (R123), which the spec does not state;
argument: the step's free counter. -/
opaque Config.sendAddr : Nat → BitVec 64

/-- The correctly rounded result of a special function whose rounding is not decided within the
model's working precision (R197); arguments: opcode, format code, operand bits, rounding mode. -/
opaque Config.specialResult : Nat → Nat → Nat → Nat → BitVec 64

end Sys2Proof
end

