-- ==== Sys2Proof/Syntax.lean ====
section
/-! DEFINITION. The instructions and machine events of the Crelis Oleus, one constructor of `Instr` per row of
spec/opcode_table.json.  Instructions carry the fields of their words (R153, R154); machine events have
no word and carry what the outside world or timing decides (95_what_each_step_holds.md). -/

namespace Sys2Proof

/-- Scopes (R43), in the order of their codes (R154). -/
inductive Scope where
  | core | quad | die | pkg | pod | sys
  deriving DecidableEq, Repr

/-- Orders of E-M (R154). -/
inductive Order where
  | relaxed | acq | rel | ar
  deriving DecidableEq, Repr

/-- Matrix operand formats, in the order of their codes (R87). -/
inductive Fmt where
  | f64 | f32 | fp19 | bf16 | f16 | e4m3 | e5m2 | e3m2 | e2m3 | e2m1 | int8 | nat8 | int4 | nat4 | e8m0
  deriving DecidableEq, Repr

/-- Element types of `mode`.etype, in the order of their codes (R76). -/
inductive EType where
  | i32 | n32 | i64 | n64 | f32 | f64 | f16x2 | bf16x2
  deriving DecidableEq, Repr

/-- Operations of reductions and scans, in the order of their codes (R206). -/
inductive RedOp where
  | add | min | max | and | or | xor
  deriving DecidableEq, Repr

/-- A resident team by its die, its core and its residency slot (R366). -/
structure TeamRef where
  die : Nat
  core : Nat
  slot : Nat
  deriving DecidableEq, Repr

/-- What a session-ring message shows of itself to Germ (R359). -/
structure Msg where
  session : Nat
  seq : Nat
  macOk : Bool
  deriving DecidableEq, Repr

/-- The functions that the message MODE_SET names (R365). -/
inductive DevFn where
  | faults | migration | keys | routing | scrub
  deriving DecidableEq, Repr

/-- What is trained during a start (R358, R364). -/
inductive TrainPart where
  | hbm | controlLink | dataLink
  deriving DecidableEq, Repr

/-- An arrival at a `pod` or `sys` barrier from another module (R253). -/
structure RemoteArrival where
  module : Nat
  scope : Scope
  barrier : Nat
  group : Word
  crew : Nat
  crews : Nat
  deriving DecidableEq, Repr

/-- The host's answer to an ATS Translation Request (R333). -/
structure AtsAnswer where
  pasid : Nat
  page : Nat
  granted : Bool
  frame : Nat
  read : Bool
  write : Bool
  exec : Bool
  deriving DecidableEq, Repr

/-- A send that arrives at a fabric engine of this module (R356). -/
structure SendMsg where
  src : Nat
  world : Nat
  module : Nat
  ring : Nat
  tag : Dword
  payload : List Byte
  sender : Option (TeamRef × Nat)
  deriving DecidableEq, Repr

/-- What another module does to this module's HBM (R319). -/
inductive PodOp where
  | load (bytes : Nat)
  | store (data : List Byte)
  | add (width : Nat) (operand : Dword)
  | swap (width : Nat) (operand : Dword)
  | cas (width : Nat) (expected operand : Dword)
  deriving DecidableEq, Repr

/-- An access from another module over the fabric (R319, R325). -/
structure PodAccess where
  module : Nat
  world : Nat
  offset : Nat
  op : PodOp
  attr : Nat
  msd : Bool
  deriving DecidableEq, Repr

/-- Registers that an event REGISTER_WRITE writes: those with writable fields that no other row of the table
writes (R7): the core registers of R282, the enabled bit and the current generation of a weight context
(R341), the head of a receive ring (R356), the status of a fault record (R330), an entry of the retry table (R314), min_residency
and the enable of thermal migration (R315). -/
inductive DevReg where
  | tvec (die core : Nat)
  | tframe (die core : Nat)
  | ctxCtl (ctx : Nat)
  | ctxCurrent (ctx : Nat)
  | ringHead (ring : Nat)
  | faultStatus (die : Nat) (index : Word)
  | retryShift (i : Nat)
  | minResidency
  | migration
  deriving DecidableEq, Repr

/-- Instructions and machine events. -/
inductive Instr where
  /-- NOP, R165. -/
  | nop
  /-- BRA, R165. -/
  | bra (off : BitVec 24)
  /-- BRX, R167. -/
  | brx (a : Reg)
  /-- CALL, R166. -/
  | call (off : BitVec 24)
  /-- RET, R166. -/
  | ret
  /-- EXIT, R168. -/
  | exit
  /-- YIELD, R46. -/
  | yield
  /-- MIF, R171. -/
  | mif (c : Reg) (off : BitVec 16)
  /-- MELSE, R171. -/
  | melse (off : BitVec 24)
  /-- MEND, R171. -/
  | mend
  /-- MLOOP, R172. -/
  | mloop (off : BitVec 24)
  /-- MBRK, R172. -/
  | mbrk (c : Reg)
  /-- MCONT, R172. -/
  | mcont (c : Reg)
  /-- MNEXT, R172. -/
  | mnext (off : BitVec 24)
  /-- MANY, R173. -/
  | many (c : Reg) (off : BitVec 16)
  /-- MALL, R173. -/
  | mall (c : Reg) (off : BitVec 16)
  /-- SETM, R175. -/
  | setm (a : Reg)
  /-- GETM, R175. -/
  | getm (d : Reg) (k : BitVec 8)
  /-- PART, R176. -/
  | part (t : BitVec 3)
  /-- RDSP, R177. -/
  | rdsp (d : Reg) (n : BitVec 8)
  /-- XSTAT_READ, R79. -/
  | xstatRead (d : Reg)
  /-- GIVE, R34. -/
  | give (t : BitVec 8) (a : Reg) (n : BitVec 8)
  /-- CLAIM, R34. -/
  | claim (t : BitVec 8) (a : Reg) (n : BitVec 8)
  /-- SVC, R265. -/
  | svc (d : Reg) (a : Reg) (k : BitVec 8)
  /-- TRAP, R266. -/
  | trap (i : BitVec 16)
  /-- VTOS, R187. -/
  | vtos (d : Reg) (a : Reg) (b : Reg)
  /-- STOV, R187. -/
  | stov (d : Reg) (a : Reg)
  /-- ADD, R179. -/
  | add (d : Reg) (a : Reg) (b : Reg)
  /-- SUB, R179. -/
  | sub (d : Reg) (a : Reg) (b : Reg)
  /-- MUL, R179. -/
  | mul (d : Reg) (a : Reg) (b : Reg)
  /-- MULHI, R179. -/
  | mulhi (d : Reg) (a : Reg) (b : Reg)
  /-- MAD, R180. -/
  | mad (d : Reg) (a : Reg) (b : Reg) (c : Reg) (ub : Bool) (uc : Bool)
  /-- MADHI, R180. -/
  | madhi (d : Reg) (a : Reg) (b : Reg) (c : Reg) (ub : Bool) (uc : Bool)
  /-- NEG, R181. -/
  | neg (d : Reg) (a : Reg)
  /-- ABS, R181. -/
  | abs (d : Reg) (a : Reg)
  /-- MIN, R179. -/
  | min (d : Reg) (a : Reg) (b : Reg)
  /-- MAX, R179. -/
  | max (d : Reg) (a : Reg) (b : Reg)
  /-- AND, R179. -/
  | and (d : Reg) (a : Reg) (b : Reg)
  /-- OR, R179. -/
  | or (d : Reg) (a : Reg) (b : Reg)
  /-- XOR, R179. -/
  | xor (d : Reg) (a : Reg) (b : Reg)
  /-- NOT, R181. -/
  | not (d : Reg) (a : Reg)
  /-- ANDN, R179. -/
  | andn (d : Reg) (a : Reg) (b : Reg)
  /-- SHL, R179. -/
  | shl (d : Reg) (a : Reg) (b : Reg)
  /-- SHR, R179. -/
  | shr (d : Reg) (a : Reg) (b : Reg)
  /-- SAR, R179. -/
  | sar (d : Reg) (a : Reg) (b : Reg)
  /-- ROT, R179. -/
  | rot (d : Reg) (a : Reg) (b : Reg)
  /-- POPC, R181. -/
  | popc (d : Reg) (a : Reg)
  /-- CLZ, R181. -/
  | clz (d : Reg) (a : Reg)
  /-- CTZ, R181. -/
  | ctz (d : Reg) (a : Reg)
  /-- BREV, R181. -/
  | brev (d : Reg) (a : Reg)
  /-- BFX, R182. -/
  | bfx (d : Reg) (a : Reg) (pos : BitVec 6) (width : BitVec 7)
  /-- BFI, R182. -/
  | bfi (d : Reg) (a : Reg) (b : Reg) (pos : BitVec 6) (width : BitVec 7)
  /-- SEL, R180. -/
  | sel (d : Reg) (a : Reg) (b : Reg) (c : Reg) (ub : Bool) (uc : Bool)
  /-- CMPEQ, R179. -/
  | cmpeq (d : Reg) (a : Reg) (b : Reg)
  /-- CMPNE, R179. -/
  | cmpne (d : Reg) (a : Reg) (b : Reg)
  /-- CMPLT, R179. -/
  | cmplt (d : Reg) (a : Reg) (b : Reg)
  /-- CMPLE, R179. -/
  | cmple (d : Reg) (a : Reg) (b : Reg)
  /-- MOV, R181. -/
  | mov (d : Reg) (a : Reg)
  /-- CVTI, R184. -/
  | cvti (d : Reg) (a : Reg) (dt : EType) (st : EType)
  /-- LEA, R185. -/
  | lea (d : Reg) (a : Reg) (b : Reg)
  /-- ADDI, R183. -/
  | addi (d : Reg) (i : BitVec 16)
  /-- MULI, R183. -/
  | muli (d : Reg) (i : BitVec 16)
  /-- ANDI, R183. -/
  | andi (d : Reg) (i : BitVec 16)
  /-- ORI, R183. -/
  | ori (d : Reg) (i : BitVec 16)
  /-- XORI, R183. -/
  | xori (d : Reg) (i : BitVec 16)
  /-- SHLI, R183. -/
  | shli (d : Reg) (s : BitVec 6)
  /-- SHRI, R183. -/
  | shri (d : Reg) (s : BitVec 6)
  /-- SARI, R183. -/
  | sari (d : Reg) (s : BitVec 6)
  /-- MOVI, R183. -/
  | movi (d : Reg) (i : BitVec 16)
  /-- MOVH, R183. -/
  | movh (d : Reg) (i : BitVec 16)
  /-- SADD, R186. -/
  | sadd (d : Reg) (a : Reg) (b : Reg)
  /-- SSUB, R186. -/
  | ssub (d : Reg) (a : Reg) (b : Reg)
  /-- SMUL, R186. -/
  | smul (d : Reg) (a : Reg) (b : Reg)
  /-- SMULHI, R186. -/
  | smulhi (d : Reg) (a : Reg) (b : Reg)
  /-- SMAD, R186. -/
  | smad (d : Reg) (a : Reg) (b : Reg) (c : Reg)
  /-- SMADHI, R186. -/
  | smadhi (d : Reg) (a : Reg) (b : Reg) (c : Reg)
  /-- SNEG, R186. -/
  | sneg (d : Reg) (a : Reg)
  /-- SABS, R186. -/
  | sabs (d : Reg) (a : Reg)
  /-- SMIN, R186. -/
  | smin (d : Reg) (a : Reg) (b : Reg)
  /-- SMAX, R186. -/
  | smax (d : Reg) (a : Reg) (b : Reg)
  /-- SAND, R186. -/
  | sand (d : Reg) (a : Reg) (b : Reg)
  /-- SOR, R186. -/
  | sor (d : Reg) (a : Reg) (b : Reg)
  /-- SXOR, R186. -/
  | sxor (d : Reg) (a : Reg) (b : Reg)
  /-- SNOT, R186. -/
  | snot (d : Reg) (a : Reg)
  /-- SANDN, R186. -/
  | sandn (d : Reg) (a : Reg) (b : Reg)
  /-- SSHL, R186. -/
  | sshl (d : Reg) (a : Reg) (b : Reg)
  /-- SSHR, R186. -/
  | sshr (d : Reg) (a : Reg) (b : Reg)
  /-- SSAR, R186. -/
  | ssar (d : Reg) (a : Reg) (b : Reg)
  /-- SROT, R186. -/
  | srot (d : Reg) (a : Reg) (b : Reg)
  /-- SPOPC, R186. -/
  | spopc (d : Reg) (a : Reg)
  /-- SCLZ, R186. -/
  | sclz (d : Reg) (a : Reg)
  /-- SCTZ, R186. -/
  | sctz (d : Reg) (a : Reg)
  /-- SBREV, R186. -/
  | sbrev (d : Reg) (a : Reg)
  /-- SBFX, R186. -/
  | sbfx (d : Reg) (a : Reg) (pos : BitVec 6) (width : BitVec 7)
  /-- SBFI, R186. -/
  | sbfi (d : Reg) (a : Reg) (b : Reg) (pos : BitVec 6) (width : BitVec 7)
  /-- SSEL, R186. -/
  | ssel (d : Reg) (a : Reg) (b : Reg) (c : Reg)
  /-- SCMPEQ, R186. -/
  | scmpeq (d : Reg) (a : Reg) (b : Reg)
  /-- SCMPNE, R186. -/
  | scmpne (d : Reg) (a : Reg) (b : Reg)
  /-- SCMPLT, R186. -/
  | scmplt (d : Reg) (a : Reg) (b : Reg)
  /-- SCMPLE, R186. -/
  | scmple (d : Reg) (a : Reg) (b : Reg)
  /-- SMOV, R186. -/
  | smov (d : Reg) (a : Reg)
  /-- SCVTI, R186. -/
  | scvti (d : Reg) (a : Reg) (dt : EType) (st : EType)
  /-- SLEA, R186. -/
  | slea (d : Reg) (a : Reg) (b : Reg)
  /-- SADDI, R186. -/
  | saddi (d : Reg) (i : BitVec 16)
  /-- SMULI, R186. -/
  | smuli (d : Reg) (i : BitVec 16)
  /-- SANDI, R186. -/
  | sandi (d : Reg) (i : BitVec 16)
  /-- SORI, R186. -/
  | sori (d : Reg) (i : BitVec 16)
  /-- SXORI, R186. -/
  | sxori (d : Reg) (i : BitVec 16)
  /-- SSHLI, R186. -/
  | sshli (d : Reg) (s : BitVec 6)
  /-- SSHRI, R186. -/
  | sshri (d : Reg) (s : BitVec 6)
  /-- SSARI, R186. -/
  | ssari (d : Reg) (s : BitVec 6)
  /-- SMOVI, R186. -/
  | smovi (d : Reg) (i : BitVec 16)
  /-- SMOVH, R186. -/
  | smovh (d : Reg) (i : BitVec 16)
  /-- FADD, R191. -/
  | fadd (d : Reg) (a : Reg) (b : Reg)
  /-- FSUB, R191. -/
  | fsub (d : Reg) (a : Reg) (b : Reg)
  /-- FMUL, R191. -/
  | fmul (d : Reg) (a : Reg) (b : Reg)
  /-- FFMA, R191. -/
  | ffma (d : Reg) (a : Reg) (b : Reg) (c : Reg) (ub : Bool) (uc : Bool)
  /-- FMIN, R192. -/
  | fmin (d : Reg) (a : Reg) (b : Reg)
  /-- FMAX, R192. -/
  | fmax (d : Reg) (a : Reg) (b : Reg)
  /-- FNEG, R193. -/
  | fneg (d : Reg) (a : Reg)
  /-- FABS, R193. -/
  | fabs (d : Reg) (a : Reg)
  /-- FCMPEQ, R194. -/
  | fcmpeq (d : Reg) (a : Reg) (b : Reg)
  /-- FCMPNE, R194. -/
  | fcmpne (d : Reg) (a : Reg) (b : Reg)
  /-- FCMPLT, R194. -/
  | fcmplt (d : Reg) (a : Reg) (b : Reg)
  /-- FCMPLE, R194. -/
  | fcmple (d : Reg) (a : Reg) (b : Reg)
  /-- FCMPUN, R194. -/
  | fcmpun (d : Reg) (a : Reg) (b : Reg)
  /-- FCLASS, R195. -/
  | fclass (d : Reg) (a : Reg)
  /-- FRND, R196. -/
  | frnd (d : Reg) (a : Reg)
  /-- CVT, R198. -/
  | cvt (d : Reg) (a : Reg) (dt : EType) (st : EType)
  /-- RCP, R197. -/
  | rcp (d : Reg) (a : Reg)
  /-- RSQ, R197. -/
  | rsq (d : Reg) (a : Reg)
  /-- SQRT, R197. -/
  | sqrt (d : Reg) (a : Reg)
  /-- EXP2, R197. -/
  | exp2 (d : Reg) (a : Reg)
  /-- LOG2, R197. -/
  | log2 (d : Reg) (a : Reg)
  /-- SIN, R197. -/
  | sin (d : Reg) (a : Reg)
  /-- COS, R197. -/
  | cos (d : Reg) (a : Reg)
  /-- TANH, R197. -/
  | tanh (d : Reg) (a : Reg)
  /-- CVTN, R200. -/
  | cvtn (d : Reg) (a : Reg) (b : Reg) (fmt : Fmt) (op : BitVec 4)
  /-- CVTW, R202. -/
  | cvtw (d : Reg) (a : Reg) (fmt : Fmt) (op : BitVec 4)
  /-- DP4, R203. -/
  | dp4 (d : Reg) (a : Reg) (b : Reg) (c : Reg) (ub : Bool) (uc : Bool)
  /-- DP8, R203. -/
  | dp8 (d : Reg) (a : Reg) (b : Reg) (c : Reg) (ub : Bool) (uc : Bool)
  /-- DPF4, R204. -/
  | dpf4 (d : Reg) (a : Reg) (b : Reg) (c : Reg) (ub : Bool) (uc : Bool)
  /-- DPF8, R204. -/
  | dpf8 (d : Reg) (a : Reg) (b : Reg) (c : Reg) (ub : Bool) (uc : Bool)
  /-- SACC, R205. -/
  | sacc (d : Reg) (a : Reg) (b : Reg) (c : Reg) (ub : Bool) (uc : Bool)
  /-- LGET, R207. -/
  | lget (d : Reg) (a : Reg) (b : Reg) (c : Reg)
  /-- LGET_ROT, R207. -/
  | lgetRot (d : Reg) (a : Reg) (b : Reg) (c : Reg)
  /-- LPUT, R208. -/
  | lput (d : Reg) (a : Reg) (b : Reg)
  /-- LBCAST, R207. -/
  | lbcast (d : Reg) (a : Reg) (c : Reg) (k : BitVec 8)
  /-- LXOR, R207. -/
  | lxor (d : Reg) (a : Reg) (c : Reg) (k : BitVec 8)
  /-- VANY, R209. -/
  | vany (d : Reg) (a : Reg)
  /-- VALL, R209. -/
  | vall (d : Reg) (a : Reg)
  /-- VBALLOT, R209. -/
  | vballot (d : Reg) (a : Reg)
  /-- VRED, R210. -/
  | vred (d : Reg) (a : Reg) (op : RedOp)
  /-- VSCAN, R210. -/
  | vscan (d : Reg) (a : Reg) (c : Reg) (op : RedOp) (ex : Bool)
  /-- TRED, R212. -/
  | tred (d : Reg) (a : Reg) (op : RedOp)
  /-- TANY, R213. -/
  | tany (d : Reg) (a : Reg)
  /-- TALL, R213. -/
  | tall (d : Reg) (a : Reg)
  /-- TCOUNT, R213. -/
  | tcount (d : Reg) (a : Reg)
  /-- MMA, R220. -/
  | mma (n : BitVec 8) (a : Reg) (b : Reg) (fa : Fmt) (fb : Fmt) (spad : Bool)
  /-- MMAS, R227. -/
  | mmas (n : BitVec 8) (a : Reg) (b : Reg) (f : Fmt) (slot : BitVec 3) (spad : Bool)
  /-- ACCZ, R228. -/
  | accz (n : BitVec 8)
  /-- ACRD, R228. -/
  | acrd (d : Reg) (n : BitVec 8)
  /-- ACWR, R228. -/
  | acwr (n : BitVec 8) (a : Reg)
  /-- ACLD, R228. -/
  | acld (n : BitVec 8) (a : Reg)
  /-- ACST, R228. -/
  | acst (n : BitVec 8) (a : Reg)
  /-- LDMETA, R226. -/
  | ldmeta (k : BitVec 8) (a : Reg)
  /-- PPDEG, R231. -/
  | ppdeg (n : BitVec 8) (a : Reg)
  /-- PPCLR, R231. -/
  | ppclr (n : BitVec 8)
  /-- PPFAC, R232. -/
  | ppfac (n : BitVec 8) (a : Reg) (b : Reg)
  /-- PPDIV, R232. -/
  | ppdiv (n : BitVec 8) (a : Reg) (b : Reg)
  /-- PPMUL, R233. -/
  | ppmul (n : BitVec 8) (m : BitVec 8)
  /-- PPLD, R234. -/
  | ppld (n : BitVec 8) (a : Reg)
  /-- PPST, R234. -/
  | ppst (n : BitVec 8) (a : Reg)
  /-- PPRD, R235. -/
  | pprd (d : Reg) (n : BitVec 8) (k : BitVec 8)
  /-- PPSCL, R231. -/
  | ppscl (n : BitVec 8) (a : Reg)
  /-- PPINFO, R235. -/
  | ppinfo (d : Reg) (n : BitVec 8)
  /-- LD8, R239. -/
  | ld8 (d : Reg) (a : Reg) (b : Reg) (off : BitVec 16)
  /-- LD16, R239. -/
  | ld16 (d : Reg) (a : Reg) (b : Reg) (off : BitVec 16)
  /-- LD32, R239. -/
  | ld32 (d : Reg) (a : Reg) (b : Reg) (off : BitVec 16)
  /-- LD64, R239. -/
  | ld64 (d : Reg) (a : Reg) (b : Reg) (off : BitVec 16)
  /-- LDQ, R241. -/
  | ldq (d : Reg) (a : Reg) (b : Reg) (off : BitVec 16)
  /-- LDA, R242. -/
  | lda (d : Reg) (a : Reg) (b : Reg) (scope : Scope) (off : BitVec 16)
  /-- LDS, R239. -/
  | lds (d : Reg) (a : Reg) (b : Reg) (off : BitVec 16)
  /-- SLD, R243. -/
  | sld (d : Reg) (a : Reg) (off : BitVec 16)
  /-- LDMX, R244. -/
  | ldmx (d : Reg) (a : Reg) (b : Reg) (off : BitVec 16)
  /-- PREF, R245. -/
  | pref (a : Reg) (b : Reg) (off : BitVec 16)
  /-- ST8, R246. -/
  | st8 (d : Reg) (a : Reg) (b : Reg) (off : BitVec 16)
  /-- ST16, R246. -/
  | st16 (d : Reg) (a : Reg) (b : Reg) (off : BitVec 16)
  /-- ST32, R246. -/
  | st32 (d : Reg) (a : Reg) (b : Reg) (off : BitVec 16)
  /-- ST64, R246. -/
  | st64 (d : Reg) (a : Reg) (b : Reg) (off : BitVec 16)
  /-- STL, R246. -/
  | stl (d : Reg) (a : Reg) (b : Reg) (scope : Scope) (off : BitVec 16)
  /-- STS, R246. -/
  | sts (d : Reg) (a : Reg) (b : Reg) (off : BitVec 16)
  /-- STMX, R244. -/
  | stmx (d : Reg) (a : Reg) (b : Reg) (off : BitVec 16)
  /-- AADD, R247. -/
  | aadd (d : Reg) (a : Reg) (b : Reg) (c : Reg) (scope : Scope) (order : Order) (off : BitVec 16)
  /-- AMIN, R247. -/
  | amin (d : Reg) (a : Reg) (b : Reg) (c : Reg) (scope : Scope) (order : Order) (off : BitVec 16)
  /-- AMAX, R247. -/
  | amax (d : Reg) (a : Reg) (b : Reg) (c : Reg) (scope : Scope) (order : Order) (off : BitVec 16)
  /-- AAND, R247. -/
  | aand (d : Reg) (a : Reg) (b : Reg) (c : Reg) (scope : Scope) (order : Order) (off : BitVec 16)
  /-- AOR, R247. -/
  | aor (d : Reg) (a : Reg) (b : Reg) (c : Reg) (scope : Scope) (order : Order) (off : BitVec 16)
  /-- AXOR, R247. -/
  | axor (d : Reg) (a : Reg) (b : Reg) (c : Reg) (scope : Scope) (order : Order) (off : BitVec 16)
  /-- AXCHG, R247. -/
  | axchg (d : Reg) (a : Reg) (b : Reg) (c : Reg) (scope : Scope) (order : Order) (off : BitVec 16)
  /-- ACAS, R247. -/
  | acas (d : Reg) (a : Reg) (b : Reg) (c : Reg) (scope : Scope) (order : Order) (off : BitVec 16)
  /-- AINC, R247. -/
  | ainc (d : Reg) (a : Reg) (b : Reg) (c : Reg) (scope : Scope) (order : Order) (off : BitVec 16)
  /-- AFADD, R247. -/
  | afadd (d : Reg) (a : Reg) (b : Reg) (c : Reg) (scope : Scope) (order : Order) (off : BitVec 16)
  /-- APMUL, R248. -/
  | apmul (n : BitVec 8) (a : Reg) (scope : Scope) (order : Order)
  /-- FENCE_ACQ, R250. -/
  | fenceAcq (scope : Scope)
  /-- FENCE_REL, R250. -/
  | fenceRel (scope : Scope)
  /-- FENCE_AR, R250. -/
  | fenceAr (scope : Scope)
  /-- BAR, R252. -/
  | bar (scope : Scope) (n : BitVec 13)
  /-- BARR, R252. -/
  | barr (scope : Scope) (n : BitVec 13)
  /-- BARW, R252. -/
  | barw (scope : Scope) (n : BitVec 13)
  /-- POD_BARRIER_ARRIVAL, R253. -/
  | podBarrierArrival (m : RemoteArrival)
  /-- AWAIT, R64. -/
  | await (d : Reg) (a : Reg)
  /-- AWAIT_CYCLE, R67. -/
  | awaitCycle (crew : Nat)
  /-- CREW_WAKE, R269. -/
  | crewWake (crew : Nat)
  /-- STP, R120. -/
  | stp (k : BitVec 8) (a : Reg)
  /-- ENGINE_OPERATION_START, R120. -/
  | engineOperationStart (t : TeamRef)
  /-- BCLOSE, R257. -/
  | bclose (d : Reg)
  /-- BWAIT, R258. -/
  | bwait (a : Reg)
  /-- BCNT, R259. -/
  | bcnt (d : Reg) (a : Reg)
  /-- ENGINE_SECTOR, R125. -/
  | engineSector (t : TeamRef) (op : Nat)
  /-- TSUB, R260. -/
  | tsub (d : Reg) (a : Reg)
  /-- NREC, R262. -/
  | nrec (d : Reg) (a : Reg) (b : Reg)
  /-- BIN_TIMER_EXPIRY, R303. -/
  | binTimerExpiry (node : Nat)
  /-- TCOMMIT, R264. -/
  | tcommit
  /-- GLAUNCH, R263. -/
  | glaunch (d : Reg) (a : Reg)
  /-- ERET, R287. -/
  | eret
  /-- SYSRD, R288. -/
  | sysrd (d : Reg) (i : BitVec 16)
  /-- SYSWR, R288. -/
  | syswr (d : Reg) (i : BitVec 16)
  /-- SVCNEXT_READ, R294. -/
  | svcnextRead (d : Reg)
  /-- SVCDONE_WRITE, R294. -/
  | svcdoneWrite (d : Reg)
  /-- TLBINV, R289. -/
  | tlbinv (a : Reg) (k : BitVec 8)
  /-- CTXSV, R293. -/
  | ctxsv (a : Reg)
  /-- CREW_SAVE, R293. -/
  | crewSave (t : TeamRef)
  /-- CTXLD, R293. -/
  | ctxld (a : Reg)
  /-- ESCAPE, R155. -/
  | escape (bop : BitVec 8) (d : Reg) (a : Reg) (b : Reg) (ua : Bool) (ub : Bool)
  /-- CLAUSE_FETCH, R148. -/
  | clauseFetch (t : TeamRef)
  /-- LONG_LATENCY_COMPLETION, R149. -/
  | longLatencyCompletion (t : TeamRef) (id : Nat)
  /-- TRAP_ENTRY, R283. -/
  | trapEntry (t : TeamRef)
  /-- CREW_RETIRE, R41. -/
  | crewRetire (crew : Nat)
  /-- TAIL_WRITE, R296. -/
  | tailWrite (q : Nat) (tail : Word)
  /-- RESUME_COMMAND, R297. -/
  | resumeCommand (q : Nat)
  /-- DESTROY_COMMAND, R298. -/
  | destroyCommand (q : Nat)
  /-- LAUNCH_RECORD_READ, R297. -/
  | launchRecordRead (q : Nat)
  /-- NODE_SETUP, R302. -/
  | nodeSetup (q : Nat)
  /-- CREW_PLACEMENT, R36. -/
  | crewPlacement (die : Nat)
  /-- KEY_REQUEST, R307. -/
  | keyRequest (task : Nat)
  /-- KEY_GRANT, R307. -/
  | keyGrant (key : Dword)
  /-- KEY_ACQUISITION_RESTART, R308. -/
  | keyAcquisitionRestart (task : Nat)
  /-- TASK_DISCARD, R264. -/
  | taskDiscard (crew : Nat)
  /-- THERMAL_MIGRATION, R315. -/
  | thermalMigration (crew : Nat) (core : Nat) (elapsed : Nat)
  /-- PAGE_LIST_BLOCK_READ, R50. -/
  | pageListBlockRead (die : Nat) (gid : Word) (block : Nat)
  /-- PAGE_RESERVATION, R54. -/
  | pageReservation (die : Nat)
  /-- PAGE_SENSE, R55. -/
  | pageSense (gid : Word) (page : Nat) (corrected : Bool)
  /-- PAGE_LANDING, R56. -/
  | pageLanding (gid : Word) (page : Nat)
  /-- EVICTION, R71. -/
  | eviction (crew : Nat)
  /-- RE_LANDING, R72. -/
  | reLanding (crew : Nat)
  /-- FAULT_RECORD_POST, R330. -/
  | faultRecordPost (die : Nat)
  /-- FAULT_REPLY_RETRY, R332. -/
  | faultReplyRetry (die : Nat) (index : Word)
  /-- FAULT_REPLY_END, R332. -/
  | faultReplyEnd (die : Nat) (index : Word)
  /-- PAGE_REQUEST_SEND, R337. -/
  | pageRequestSend (die : Nat)
  /-- PRG_RESPONSE, R337. -/
  | prgResponse (die : Nat) (group : Nat) (success : Bool)
  /-- ATS_COMPLETION, R333. -/
  | atsCompletion (die : Nat) (answer : AtsAnswer)
  /-- ATS_INVALIDATION, R333. -/
  | atsInvalidation (pasid : Nat) (page : Nat)
  /-- ACCESS_COUNTER_THRESHOLD, R334. -/
  | accessCounterThreshold (die : Nat) (space : Nat) (region : Nat)
  /-- SEND_ARRIVAL, R356. -/
  | sendArrival (m : SendMsg)
  /-- RECEIVE_RING_DELIVERY, R356. -/
  | receiveRingDelivery (ring : Nat)
  /-- SEND_ACKNOWLEDGE, R123. -/
  | sendAcknowledge (t : TeamRef) (op : Nat) (accepted : Bool)
  /-- HEARTBEAT_INTERVAL, R357. -/
  | heartbeatInterval
  /-- HEARTBEAT_RECEIVE, R357. -/
  | heartbeatReceive (m : Nat)
  /-- FENCE_FLIT, R357. -/
  | fenceFlit
  /-- DATA_LINK_DOWN, R354. -/
  | dataLinkDown
  /-- IDE_FAILURE, R361. -/
  | ideFailure
  /-- CONFIG_ACCESS_OUTSIDE_MESSAGE, R361. -/
  | configAccessOutsideMessage
  /-- SPDM_SESSION, R359. -/
  | spdmSession (id : Nat)
  /-- SESSION_DOORBELL, R359. -/
  | sessionDoorbell (tail : Nat)
  /-- LOCK, R359. -/
  | lock (m : Msg)
  /-- START, R361. -/
  | start (m : Msg)
  /-- STOP, R359. -/
  | stop (m : Msg)
  /-- STOP_COMPLETE, R361. -/
  | stopComplete
  /-- QUEUE_CREATE, R296. -/
  | queueCreate (m : Msg) (q : Nat) (desc : Nat) (bell : Nat)
  /-- QUEUE_DESTROY, R298. -/
  | queueDestroy (m : Msg) (q : Nat)
  /-- WORLD_ASSIGN, R362. -/
  | worldAssign (m : Msg) (world : Nat) (first : Nat) (count : Nat) (attr : Nat) (msd : Bool)
  /-- WORLD_RELEASE, R362. -/
  | worldRelease (m : Msg) (world : Nat)
  /-- MODE_SET, R365. -/
  | modeSet (m : Msg) (fn : DevFn) (assisted : Bool)
  /-- FLASH_WRITE, R350. -/
  | flashWrite (m : Msg) (stack : Nat) (block : Nat) (data : List (Nat × Byte))
  /-- QREAD, R354. -/
  | qread (m : Msg) (slice : Nat) (entry : Nat)
  /-- QFREE, R354. -/
  | qfree (m : Msg) (slice : Nat) (entry : Nat)
  /-- STATUS, R364. -/
  | status (m : Msg)
  /-- SCRUB_STEP, R360. -/
  | scrubStep (m : Msg) (entry : Nat)
  /-- SCRUB_PROGRESS, R363. -/
  | scrubProgress (entry : Nat) (frames : Nat)
  /-- HUSK_UPDATE, R360. -/
  | huskUpdate (m : Msg) (off : Nat) (total : Nat) (bytes : List Byte) (claim : Bool)
  /-- DEVICE_START, R358. -/
  | deviceStart (claim : Bool)
  /-- HUSK_READY, R364. -/
  | huskReady (version : BitVec 8) (params : BringUp)
  /-- HUSK_READY_TIMEOUT, R364. -/
  | huskReadyTimeout
  /-- WEIGHT_CONTEXT_ENABLE, R341. -/
  | weightContextEnable (ctx : Nat)
  /-- ROUTE_ENTRY, R346. -/
  | routeEntry (ctx : Nat)
  /-- RETIRE_ENTRY, R346. -/
  | retireEntry (ctx : Nat)
  /-- SLOT_LOAD, R347. -/
  | slotLoad (ctx : Nat) (slot : Nat) (ok : Bool)
  /-- REGISTER_WRITE, R7. -/
  | registerWrite (r : DevReg) (v : Dword)
  /-- DATA_LINK_ACTIVE, R354. -/
  | dataLinkActive
  /-- ERASE_OR_PROGRAM_END, R350. -/
  | eraseOrProgramEnd (stack : Nat) (block : Nat)
  /-- TRAINING_FAILURE, R364. -/
  | trainingFailure (link : TrainPart)
  /-- POWER_FAILURE, R363. -/
  | powerFailure
  /-- CXL_MEM_REQUEST, R51. -/
  | cxlMemRequest (pa : Nat) (write : Option (List Byte))
  /-- HOST_SNOOP, R352. -/
  | hostSnoop (line : Nat) (store : List (Nat × Byte))
  /-- POD_WINDOW_ACCESS, R319. -/
  | podWindowAccess (m : PodAccess)
  /-- LINK_LEVEL_RETRY, R355. -/
  | linkLevelRetry (port : Nat)
  deriving DecidableEq, Repr

end Sys2Proof
end

