-- ==== Sys2Proof/WellFormed.lean ====
section
/-! DEFINITION. Well-formed instructions: terms of `Instr` whose fields have values that R153 to R157, R30, R78 and
R206 allow.  A value outside them raises `ILLEGAL_OP` when the instruction issues; the limits that depend on
the crew's declaration or on `mode` (R75) are no part of this. -/

namespace Sys2Proof

/-- The first register of an even-odd pair (R153). -/
def evenReg (r : Reg) : Bool := r.toNat % 2 == 0

/-- Classes V3 and V2 of the escape's opcode (R153, R155): the number of its register sources. -/
def escapeSources (op : Nat) : Nat :=
  if op ∈ [0x20, 0x21, 0x22, 0x23, 0x28, 0x29, 0x2A, 0x2B, 0x2C, 0x2E, 0x2F, 0x30, 0x31, 0x32, 0x3A, 0x3B, 0x3C, 0x3D,
           0x80, 0x81, 0x82, 0x84, 0x85, 0x88, 0x89, 0x8A, 0x8B, 0x8C, 0xA1] then 2
  else if op ∈ [0x26, 0x27, 0x2D, 0x33, 0x34, 0x35, 0x36, 0x3E, 0x86, 0x87, 0x8D, 0x8E,
           0x90, 0x91, 0x92, 0x93, 0x94, 0x95, 0x96, 0x97, 0xA4, 0xA5, 0xA6] then 1
  else 0

/-- The fields of an escape (R155): its opcode is of class V3 or V2, a uniform source is named,
and a V2 opcode names no b. -/
def escapeOk (op : Nat) (b : Reg) (ua ub : Bool) : Bool :=
  (escapeSources op == 2 && (ua || ub)) || (escapeSources op == 1 && ua && !ub && b == 0)

/-- The format pairs of `mma` (R157). -/
def mmaPair : Fmt → Fmt → Bool
  | .e8m0, .e8m0 => false
  | .e4m3, .e5m2 | .e5m2, .e4m3 | .e3m2, .e2m3 | .e2m3, .e3m2 => true
  | .int8, .nat8 | .nat8, .int8 | .int4, .nat4 | .nat4, .int4 => true
  | a, b => a == b

/-- The formats of `mmas` (R157). -/
def mmasFmt : Fmt → Bool
  | .f16 | .bf16 | .e4m3 | .e5m2 | .int8 => true
  | _ => false

/-- Formats and sources of `cvtn` (R199, R201). -/
def cvtnOk (fmt : Fmt) (op : BitVec 4) : Bool :=
  decide (op.toNat ≤ 1) && fmt != .f64 && fmt != .e8m0 && !(fmt == .f32 && op == 0)

/-- Formats and destinations of `cvtw` (R202). -/
def cvtwOk (fmt : Fmt) (op : BitVec 4) : Bool :=
  decide (op.toNat ≤ 2) && fmt != .f64 && !(fmt == .f32 && op != 1)
    && (op != 2 || fmt == .int8 || fmt == .nat8 || fmt == .int4 || fmt == .nat4)

/-- An integer element type (R184). -/
def EType.isInt : EType → Bool
  | .i32 | .n32 | .i64 | .n64 => true
  | _ => false

/-- The pairs that `cvt` converts between (R198). -/
def cvtOk (dt st : EType) : Bool :=
  match dt, st with
  | .f32, .i32 | .f32, .n32 | .f32, .i64 | .f32, .n64 | .f64, .i32 | .f64, .n32 | .f64, .i64 | .f64, .n64 => true
  | .i32, .f32 | .n32, .f32 | .i64, .f32 | .n64, .f32 | .i32, .f64 | .n32, .f64 | .i64, .f64 | .n64, .f64 => true
  | .f64, .f32 | .f32, .f64 | .f32, .f16x2 | .f32, .bf16x2 | .f16x2, .f32 | .bf16x2, .f32 => true
  | _, _ => false

/-- The numbers of the privileged registers (R282). -/
def privNumber (i : BitVec 16) : Bool := decide (i.toNat ≤ 0x13) || (decide (0x20 ≤ i.toNat) && decide (i.toNat ≤ 0x3F))

/-- A tile number (R153). -/
def tileNumber (n : BitVec 8) : Bool := decide (n.toNat ≤ 31)

/-- A polynomial accumulator number (R153). -/
def ppNumber (n : BitVec 8) : Bool := decide (n.toNat ≤ 7)

/-- Fields of an instruction in their ranges; false for a machine event, which has no word. -/
def Instr.wellFormed : Instr → Bool
  | .nop => true
  | .bra _ => true
  | .brx a => evenReg a
  | .call _ => true
  | .ret => true
  | .exit => true
  | .yield => true
  | .mif _ _ => true
  | .melse _ => true
  | .mend => true
  | .mloop _ => true
  | .mbrk _ => true
  | .mcont _ => true
  | .mnext _ => true
  | .many _ _ => true
  | .mall _ _ => true
  | .setm _ => true
  | .getm _ k => decide (k.toNat ≤ 1)
  | .part t => decide (1 ≤ t.toNat) && decide (t.toNat ≤ 5)
  | .rdsp d n => decide (n.toNat ≤ 17) && (n != 11 || evenReg d)
  | .xstatRead _ => false
  | .give t a n => decide (t.toNat ≤ 3) && decide (1 ≤ n.toNat) && decide (n.toNat ≤ 64) && decide (a.toNat + n.toNat ≤ 256)
  | .claim t a n => decide (t.toNat ≤ 3) && decide (1 ≤ n.toNat) && decide (n.toNat ≤ 64) && decide (a.toNat + n.toNat ≤ 256)
  | .svc _ _ _ => true
  | .trap _ => true
  | .vtos _ _ _ => true
  | .stov _ _ => true
  | .add _ _ _ => true
  | .sub _ _ _ => true
  | .mul _ _ _ => true
  | .mulhi _ _ _ => true
  | .mad _ _ _ _ _ _ => true
  | .madhi _ _ _ _ _ _ => true
  | .neg _ _ => true
  | .abs _ _ => true
  | .min _ _ _ => true
  | .max _ _ _ => true
  | .and _ _ _ => true
  | .or _ _ _ => true
  | .xor _ _ _ => true
  | .not _ _ => true
  | .andn _ _ _ => true
  | .shl _ _ _ => true
  | .shr _ _ _ => true
  | .sar _ _ _ => true
  | .rot _ _ _ => true
  | .popc _ _ => true
  | .clz _ _ => true
  | .ctz _ _ => true
  | .brev _ _ => true
  | .bfx _ _ pos width => decide (1 ≤ width.toNat) && decide (pos.toNat + width.toNat ≤ 64)
  | .bfi _ _ _ pos width => decide (1 ≤ width.toNat) && decide (pos.toNat + width.toNat ≤ 64)
  | .sel _ _ _ _ _ _ => true
  | .cmpeq _ _ _ => true
  | .cmpne _ _ _ => true
  | .cmplt _ _ _ => true
  | .cmple _ _ _ => true
  | .mov _ _ => true
  | .cvti _ _ dt st => dt.isInt && st.isInt
  | .lea d a _ => evenReg d && evenReg a
  | .addi _ _ => true
  | .muli _ _ => true
  | .andi _ _ => true
  | .ori _ _ => true
  | .xori _ _ => true
  | .shli _ _ => true
  | .shri _ _ => true
  | .sari _ _ => true
  | .movi _ _ => true
  | .movh _ _ => true
  | .sadd _ _ _ => true
  | .ssub _ _ _ => true
  | .smul _ _ _ => true
  | .smulhi _ _ _ => true
  | .smad _ _ _ _ => true
  | .smadhi _ _ _ _ => true
  | .sneg _ _ => true
  | .sabs _ _ => true
  | .smin _ _ _ => true
  | .smax _ _ _ => true
  | .sand _ _ _ => true
  | .sor _ _ _ => true
  | .sxor _ _ _ => true
  | .snot _ _ => true
  | .sandn _ _ _ => true
  | .sshl _ _ _ => true
  | .sshr _ _ _ => true
  | .ssar _ _ _ => true
  | .srot _ _ _ => true
  | .spopc _ _ => true
  | .sclz _ _ => true
  | .sctz _ _ => true
  | .sbrev _ _ => true
  | .sbfx _ _ pos width => decide (1 ≤ width.toNat) && decide (pos.toNat + width.toNat ≤ 64)
  | .sbfi _ _ _ pos width => decide (1 ≤ width.toNat) && decide (pos.toNat + width.toNat ≤ 64)
  | .ssel _ _ _ _ => true
  | .scmpeq _ _ _ => true
  | .scmpne _ _ _ => true
  | .scmplt _ _ _ => true
  | .scmple _ _ _ => true
  | .smov _ _ => true
  | .scvti _ _ dt st => dt.isInt && st.isInt
  | .slea d a _ => evenReg d && evenReg a
  | .saddi _ _ => true
  | .smuli _ _ => true
  | .sandi _ _ => true
  | .sori _ _ => true
  | .sxori _ _ => true
  | .sshli _ _ => true
  | .sshri _ _ => true
  | .ssari _ _ => true
  | .smovi _ _ => true
  | .smovh _ _ => true
  | .fadd _ _ _ => true
  | .fsub _ _ _ => true
  | .fmul _ _ _ => true
  | .ffma _ _ _ _ _ _ => true
  | .fmin _ _ _ => true
  | .fmax _ _ _ => true
  | .fneg _ _ => true
  | .fabs _ _ => true
  | .fcmpeq _ _ _ => true
  | .fcmpne _ _ _ => true
  | .fcmplt _ _ _ => true
  | .fcmple _ _ _ => true
  | .fcmpun _ _ _ => true
  | .fclass _ _ => true
  | .frnd _ _ => true
  | .cvt _ _ dt st => cvtOk dt st
  | .rcp _ _ => true
  | .rsq _ _ => true
  | .sqrt _ _ => true
  | .exp2 _ _ => true
  | .log2 _ _ => true
  | .sin _ _ => true
  | .cos _ _ => true
  | .tanh _ _ => true
  | .cvtn _ _ _ fmt op => cvtnOk fmt op
  | .cvtw _ _ fmt op => cvtwOk fmt op
  | .dp4 _ _ _ _ _ _ => true
  | .dp8 _ _ _ _ _ _ => true
  | .dpf4 _ _ _ _ _ _ => true
  | .dpf8 _ _ _ _ _ _ => true
  | .sacc _ _ _ _ _ _ => true
  | .lget _ _ _ _ => true
  | .lgetRot _ _ _ _ => true
  | .lput _ _ _ => true
  | .lbcast _ _ _ _ => true
  | .lxor _ _ _ _ => true
  | .vany _ _ => true
  | .vall _ _ => true
  | .vballot _ _ => true
  | .vred _ _ _ => true
  | .vscan _ _ _ _ _ => true
  | .tred _ _ _ => true
  | .tany _ _ => true
  | .tall _ _ => true
  | .tcount _ _ => true
  | .mma n _ b fa fb spad => tileNumber n && mmaPair fa fb && (spad || evenReg b)
  | .mmas n _ b f _ spad => tileNumber n && mmasFmt f && (spad || evenReg b)
  | .accz n => tileNumber n
  | .acrd _ n => tileNumber n
  | .acwr n _ => tileNumber n
  | .acld n a => tileNumber n && evenReg a
  | .acst n a => tileNumber n && evenReg a
  | .ldmeta k _ => decide (k.toNat ≤ 7)
  | .ppdeg n _ => ppNumber n
  | .ppclr n => ppNumber n
  | .ppfac n a b => ppNumber n && evenReg a && evenReg b
  | .ppdiv n a b => ppNumber n && evenReg a && evenReg b
  | .ppmul n m => ppNumber n && ppNumber m
  | .ppld n a => ppNumber n && evenReg a
  | .ppst n a => ppNumber n && evenReg a
  | .pprd d n k => ppNumber n && evenReg d && decide (k.toNat ≤ 63)
  | .ppscl n _ => ppNumber n
  | .ppinfo _ n => ppNumber n
  | .ld8 _ a _ _ => evenReg a
  | .ld16 _ a _ _ => evenReg a
  | .ld32 _ a _ _ => evenReg a
  | .ld64 _ a _ _ => evenReg a
  | .ldq _ a _ _ => evenReg a
  | .lda _ a _ _ _ => evenReg a
  | .lds _ _ _ _ => true
  | .sld _ _ _ => true
  | .ldmx _ a _ _ => evenReg a
  | .pref a _ _ => evenReg a
  | .st8 _ a _ _ => evenReg a
  | .st16 _ a _ _ => evenReg a
  | .st32 _ a _ _ => evenReg a
  | .st64 _ a _ _ => evenReg a
  | .stl _ a _ _ _ => evenReg a
  | .sts _ _ _ _ => true
  | .stmx _ a _ _ => evenReg a
  | .aadd _ a _ _ _ _ _ => evenReg a
  | .amin _ a _ _ _ _ _ => evenReg a
  | .amax _ a _ _ _ _ _ => evenReg a
  | .aand _ a _ _ _ _ _ => evenReg a
  | .aor _ a _ _ _ _ _ => evenReg a
  | .axor _ a _ _ _ _ _ => evenReg a
  | .axchg _ a _ _ _ _ _ => evenReg a
  | .acas _ a _ _ _ _ _ => evenReg a
  | .ainc _ a _ _ _ _ _ => evenReg a
  | .afadd _ a _ _ _ _ _ => evenReg a
  | .apmul n a _ _ => ppNumber n && evenReg a
  | .fenceAcq _ => true
  | .fenceRel _ => true
  | .fenceAr _ => true
  | .bar _ _ => true
  | .barr _ _ => true
  | .barw _ _ => true
  | .podBarrierArrival _ => false
  | .await _ _ => true
  | .awaitCycle _ => false
  | .crewWake _ => false
  | .stp k a => decide (k.toNat ≤ 4) && evenReg a
  | .engineOperationStart _ => false
  | .bclose _ => true
  | .bwait _ => true
  | .bcnt d _ => evenReg d
  | .engineSector _ _ => false
  | .tsub _ a => evenReg a
  | .nrec _ a _ => evenReg a
  | .binTimerExpiry _ => false
  | .tcommit => true
  | .glaunch _ a => evenReg a
  | .eret => true
  | .sysrd _ i => privNumber i
  | .syswr _ i => privNumber i
  | .svcnextRead _ => false
  | .svcdoneWrite _ => false
  | .tlbinv a k => decide (k.toNat ≤ 2) && evenReg a
  | .ctxsv a => evenReg a
  | .crewSave _ => false
  | .ctxld a => evenReg a
  | .escape bop _ _ b ua ub => escapeOk bop.toNat b ua ub
  | .clauseFetch _ => false
  | .longLatencyCompletion _ _ => false
  | .trapEntry _ => false
  | .crewRetire _ => false
  | .tailWrite _ _ => false
  | .resumeCommand _ => false
  | .destroyCommand _ => false
  | .launchRecordRead _ => false
  | .nodeSetup _ => false
  | .crewPlacement _ => false
  | .keyRequest _ => false
  | .keyGrant _ => false
  | .keyAcquisitionRestart _ => false
  | .taskDiscard _ => false
  | .thermalMigration _ _ _ => false
  | .pageListBlockRead _ _ _ => false
  | .pageReservation _ => false
  | .pageSense _ _ _ => false
  | .pageLanding _ _ => false
  | .eviction _ => false
  | .reLanding _ => false
  | .faultRecordPost _ => false
  | .faultReplyRetry _ _ => false
  | .faultReplyEnd _ _ => false
  | .pageRequestSend _ => false
  | .prgResponse _ _ _ => false
  | .atsCompletion _ _ => false
  | .atsInvalidation _ _ => false
  | .accessCounterThreshold _ _ _ => false
  | .sendArrival _ => false
  | .receiveRingDelivery _ => false
  | .sendAcknowledge _ _ _ => false
  | .heartbeatInterval => false
  | .heartbeatReceive _ => false
  | .fenceFlit => false
  | .dataLinkDown => false
  | .ideFailure => false
  | .configAccessOutsideMessage => false
  | .spdmSession _ => false
  | .sessionDoorbell _ => false
  | .lock _ => false
  | .start _ => false
  | .stop _ => false
  | .stopComplete => false
  | .queueCreate _ _ _ _ => false
  | .queueDestroy _ _ => false
  | .worldAssign _ _ _ _ _ _ => false
  | .worldRelease _ _ => false
  | .modeSet _ _ _ => false
  | .flashWrite _ _ _ _ => false
  | .qread _ _ _ => false
  | .qfree _ _ _ => false
  | .status _ => false
  | .scrubStep _ _ => false
  | .scrubProgress _ _ => false
  | .huskUpdate _ _ _ _ _ => false
  | .deviceStart _ => false
  | .huskReady _ _ => false
  | .huskReadyTimeout => false
  | .weightContextEnable _ => false
  | .routeEntry _ => false
  | .retireEntry _ => false
  | .slotLoad _ _ _ => false
  | .registerWrite _ _ => false
  | .dataLinkActive => false
  | .eraseOrProgramEnd _ _ => false
  | .trainingFailure _ => false
  | .powerFailure => false
  | .cxlMemRequest _ _ => false
  | .hostSnoop _ _ => false
  | .podWindowAccess _ => false
  | .linkLevelRetry _ => false

end Sys2Proof
end

