-- ==== Sys2Proof/Decode.lean ====
section
/-! DEFINITION. From instruction words to instructions (R143 to R158), and back.  Decoding is total: what is no
instruction is rejected by name, and each rejection is an `ILLEGAL_OP` of R158. -/

namespace Sys2Proof

/-- Why words are not an instruction (R158). -/
inductive Reject where
  /-- fewer bytes than the instruction has words -/
  | truncated
  /-- opcode 0xFF at an instruction position -/
  | header
  /-- an opcode that R152 reserves -/
  | reservedOpcode
  /-- a reserved field of the first word is not zero -/
  | reservedField
  /-- a reserved field of the extension word is not zero -/
  | reservedExtension
  /-- scope code 6 or 7 (R154) -/
  | badScope
  /-- an order or a scope that R156 does not allow -/
  | badOrder
  /-- format code 15 (R87) -/
  | badFormat
  /-- an E-S op value that R206 does not define -/
  | badOp
  deriving DecidableEq, Repr

/-! The codes of the fields. -/

/-- Scope codes (R154). -/
def Scope.code : Scope → BitVec 3
  | .core => 0 | .quad => 1 | .die => 2 | .pkg => 3 | .pod => 4 | .sys => 5

def Scope.ofCode (x : BitVec 3) : Option Scope :=
  match x.toNat with
  | 0 => some .core | 1 => some .quad | 2 => some .die | 3 => some .pkg | 4 => some .pod | 5 => some .sys
  | _ => none

/-- Order codes (R154). -/
def Order.code : Order → BitVec 2
  | .relaxed => 0 | .acq => 1 | .rel => 2 | .ar => 3

def Order.ofCode (x : BitVec 2) : Order :=
  match x.toNat with
  | 0 => .relaxed | 1 => .acq | 2 => .rel | _ => .ar

/-- Element type codes (R76). -/
def EType.code : EType → BitVec 3
  | .i32 => 0 | .n32 => 1 | .i64 => 2 | .n64 => 3 | .f32 => 4 | .f64 => 5 | .f16x2 => 6 | .bf16x2 => 7

def EType.ofCode (x : BitVec 3) : EType :=
  match x.toNat with
  | 0 => .i32 | 1 => .n32 | 2 => .i64 | 3 => .n64 | 4 => .f32 | 5 => .f64 | 6 => .f16x2 | _ => .bf16x2

/-- Format codes (R87). -/
def Fmt.code : Fmt → BitVec 4
  | .f64 => 0 | .f32 => 1 | .fp19 => 2 | .bf16 => 3 | .f16 => 4 | .e4m3 => 5 | .e5m2 => 6 | .e3m2 => 7
  | .e2m3 => 8 | .e2m1 => 9 | .int8 => 10 | .nat8 => 11 | .int4 => 12 | .nat4 => 13 | .e8m0 => 14

def Fmt.ofCode (x : BitVec 4) : Option Fmt :=
  match x.toNat with
  | 0 => some .f64 | 1 => some .f32 | 2 => some .fp19 | 3 => some .bf16 | 4 => some .f16 | 5 => some .e4m3
  | 6 => some .e5m2 | 7 => some .e3m2 | 8 => some .e2m3 | 9 => some .e2m1 | 10 => some .int8
  | 11 => some .nat8 | 12 => some .int4 | 13 => some .nat4 | 14 => some .e8m0
  | _ => none

/-- Reduction codes (R206). -/
def RedOp.code : RedOp → BitVec 4
  | .add => 0 | .min => 1 | .max => 2 | .and => 3 | .or => 4 | .xor => 5

def RedOp.ofCode (x : BitVec 4) : Option RedOp :=
  match x.toNat with
  | 0 => some .add | 1 => some .min | 2 => some .max | 3 => some .and | 4 => some .or | 5 => some .xor
  | _ => none

/-! The fields of a word (R144, R154). -/

/-- `w.field lo n` is bits [lo + n − 1 : lo]. -/
abbrev opOf (w : Word) : BitVec 8 := w.extractLsb' 24 8
abbrev dOf (w : Word) : BitVec 8 := w.extractLsb' 16 8
abbrev aOf (w : Word) : BitVec 8 := w.extractLsb' 8 8
abbrev bOf (w : Word) : BitVec 8 := w.extractLsb' 0 8
abbrev immOf (w : Word) : BitVec 16 := w.extractLsb' 0 16
abbrev offOf (w : Word) : BitVec 24 := w.extractLsb' 0 24

/-- Formats R, I and J (R144). -/
def word4 (op d a b : BitVec 8) : Word := op ++ d ++ a ++ b
def wordI (op d : BitVec 8) (imm : BitVec 16) : Word := op ++ d ++ imm
def wordJ (op : BitVec 8) (off : BitVec 24) : Word := op ++ off

/-- The b field of V2T (R153). -/
def typeByte (dt st : EType) : BitVec 8 := 0#1 ++ dt.code ++ 0#1 ++ st.code

/-- Extension words (R154). -/
def extA (c : BitVec 8) (ub uc : Bool) : Word := c ++ BitVec.ofBool ub ++ BitVec.ofBool uc ++ 0#22
def extX (bop : BitVec 8) (ua ub : Bool) : Word := bop ++ BitVec.ofBool ub ++ BitVec.ofBool ua ++ 0#22
def extB (width : BitVec 7) (pos : BitVec 6) : Word := 0#18 ++ width ++ 0#1 ++ pos
def extS (c : BitVec 8) (fmt op : BitVec 4) (imm : BitVec 8) : Word := c ++ fmt ++ op ++ 0#8 ++ imm
def extM (c : BitVec 8) (s : Scope) (o : Order) (off : BitVec 16) : Word := c ++ s.code ++ o.code ++ 0#3 ++ off
def extMx (fa fb : BitVec 4) (spad : Bool) (slot : BitVec 3) : Word :=
  fa ++ fb ++ BitVec.ofBool spad ++ 0#4 ++ slot ++ 0#16

/-- The fields of an instruction's words, by operand class (R153), with the instruction they give. -/
inductive Shape where
  | n (i : Instr)
  | j (f : BitVec 24 → Instr)
  | cb (f : Reg → BitVec 16 → Instr)
  | a (f : Reg → Instr)
  | d (f : Reg → Instr)
  | da (f : Reg → Reg → Instr)
  | dab (f : Reg → Reg → Reg → Instr)
  | db (f : Reg → BitVec 8 → Instr)
  | ab (f : Reg → BitVec 8 → Instr)
  | i16 (f : BitVec 16 → Instr)
  | part (f : BitVec 3 → Instr)
  | vi (f : Reg → BitVec 16 → Instr)
  | sh (f : Reg → BitVec 6 → Instr)
  | t2 (f : Reg → Reg → EType → EType → Instr)
  | fe (f : Scope → Instr)
  | bar (f : Scope → BitVec 13 → Instr)
  | ea (f : Reg → Reg → Reg → Reg → Bool → Bool → Instr)
  | u4 (f : Reg → Reg → Reg → Reg → Instr)
  | bfx (f : Reg → Reg → BitVec 6 → BitVec 7 → Instr)
  | bfi (f : Reg → Reg → Reg → BitVec 6 → BitVec 7 → Instr)
  | cvtn | cvtw | lget
  | lb (f : Reg → Reg → Reg → BitVec 8 → Instr)
  | red (f : Reg → Reg → RedOp → Instr)
  | scan | mma | mmas
  | m (f : Reg → Reg → Reg → BitVec 16 → Instr)
  | ms (o : Order) (f : Reg → Reg → Reg → Scope → BitVec 16 → Instr)
  | sld | pref
  | at (f : Reg → Reg → Reg → Reg → Scope → Order → BitVec 16 → Instr)
  | apmul | esc

/-- Whether the opcode takes an extension word (R145). -/
def Shape.extended : Shape → Bool
  | .n _ | .j _ | .cb _ | .a _ | .d _ | .da _ | .dab _ | .db _ | .ab _ | .i16 _ | .part _ | .vi _ | .sh _
  | .t2 _ | .fe _ | .bar _ => false
  | _ => true

/-- Opcodes 0x00 to 0x0F (R152). -/
def opcodeRow0 : Nat → Option Shape
  | 0 => some (.n .nop)
  | 1 => some (.j .bra)
  | 2 => some (.a .brx)
  | 3 => some (.j .call)
  | 4 => some (.n .ret)
  | 5 => some (.n .exit)
  | 6 => some (.n .yield)
  | 7 => some (.cb .mif)
  | 8 => some (.j .melse)
  | 9 => some (.n .mend)
  | 10 => some (.j .mloop)
  | 11 => some (.a .mbrk)
  | 12 => some (.a .mcont)
  | 13 => some (.j .mnext)
  | 14 => some (.cb .many)
  | 15 => some (.cb .mall)
  | _ => none

/-- Opcodes 0x10 to 0x1F (R152). -/
def opcodeRow1 : Nat → Option Shape
  | 0 => some (.a .setm)
  | 1 => some (.db .getm)
  | 2 => some (.part .part)
  | 3 => some (.da .rdsp)
  | 4 => some (.dab .give)
  | 5 => some (.dab .claim)
  | 6 => some (.dab .svc)
  | 7 => some (.i16 .trap)
  | 8 => some (.dab .vtos)
  | 9 => some (.da .stov)
  | _ => none

/-- Opcodes 0x20 to 0x2F (R152). -/
def opcodeRow2 : Nat → Option Shape
  | 0 => some (.dab .add)
  | 1 => some (.dab .sub)
  | 2 => some (.dab .mul)
  | 3 => some (.dab .mulhi)
  | 4 => some (.ea .mad)
  | 5 => some (.ea .madhi)
  | 6 => some (.da .neg)
  | 7 => some (.da .abs)
  | 8 => some (.dab .min)
  | 9 => some (.dab .max)
  | 10 => some (.dab .and)
  | 11 => some (.dab .or)
  | 12 => some (.dab .xor)
  | 13 => some (.da .not)
  | 14 => some (.dab .andn)
  | 15 => some (.dab .shl)
  | _ => none

/-- Opcodes 0x30 to 0x3F (R152). -/
def opcodeRow3 : Nat → Option Shape
  | 0 => some (.dab .shr)
  | 1 => some (.dab .sar)
  | 2 => some (.dab .rot)
  | 3 => some (.da .popc)
  | 4 => some (.da .clz)
  | 5 => some (.da .ctz)
  | 6 => some (.da .brev)
  | 7 => some (.bfx .bfx)
  | 8 => some (.bfi .bfi)
  | 9 => some (.ea .sel)
  | 10 => some (.dab .cmpeq)
  | 11 => some (.dab .cmpne)
  | 12 => some (.dab .cmplt)
  | 13 => some (.dab .cmple)
  | 14 => some (.da .mov)
  | 15 => some (.t2 .cvti)
  | _ => none

/-- Opcodes 0x40 to 0x4F (R152). -/
def opcodeRow4 : Nat → Option Shape
  | 0 => some (.dab .lea)
  | 1 => some (.vi .addi)
  | 2 => some (.vi .muli)
  | 3 => some (.vi .andi)
  | 4 => some (.vi .ori)
  | 5 => some (.vi .xori)
  | 6 => some (.sh .shli)
  | 7 => some (.sh .shri)
  | 8 => some (.sh .sari)
  | 9 => some (.vi .movi)
  | 10 => some (.vi .movh)
  | _ => none

/-- Opcodes 0x50 to 0x5F (R152). -/
def opcodeRow5 : Nat → Option Shape
  | 0 => some (.dab .sadd)
  | 1 => some (.dab .ssub)
  | 2 => some (.dab .smul)
  | 3 => some (.dab .smulhi)
  | 4 => some (.u4 .smad)
  | 5 => some (.u4 .smadhi)
  | 6 => some (.da .sneg)
  | 7 => some (.da .sabs)
  | 8 => some (.dab .smin)
  | 9 => some (.dab .smax)
  | 10 => some (.dab .sand)
  | 11 => some (.dab .sor)
  | 12 => some (.dab .sxor)
  | 13 => some (.da .snot)
  | 14 => some (.dab .sandn)
  | 15 => some (.dab .sshl)
  | _ => none

/-- Opcodes 0x60 to 0x6F (R152). -/
def opcodeRow6 : Nat → Option Shape
  | 0 => some (.dab .sshr)
  | 1 => some (.dab .ssar)
  | 2 => some (.dab .srot)
  | 3 => some (.da .spopc)
  | 4 => some (.da .sclz)
  | 5 => some (.da .sctz)
  | 6 => some (.da .sbrev)
  | 7 => some (.bfx .sbfx)
  | 8 => some (.bfi .sbfi)
  | 9 => some (.u4 .ssel)
  | 10 => some (.dab .scmpeq)
  | 11 => some (.dab .scmpne)
  | 12 => some (.dab .scmplt)
  | 13 => some (.dab .scmple)
  | 14 => some (.da .smov)
  | 15 => some (.t2 .scvti)
  | _ => none

/-- Opcodes 0x70 to 0x7F (R152). -/
def opcodeRow7 : Nat → Option Shape
  | 0 => some (.dab .slea)
  | 1 => some (.vi .saddi)
  | 2 => some (.vi .smuli)
  | 3 => some (.vi .sandi)
  | 4 => some (.vi .sori)
  | 5 => some (.vi .sxori)
  | 6 => some (.sh .sshli)
  | 7 => some (.sh .sshri)
  | 8 => some (.sh .ssari)
  | 9 => some (.vi .smovi)
  | 10 => some (.vi .smovh)
  | _ => none

/-- Opcodes 0x80 to 0x8F (R152). -/
def opcodeRow8 : Nat → Option Shape
  | 0 => some (.dab .fadd)
  | 1 => some (.dab .fsub)
  | 2 => some (.dab .fmul)
  | 3 => some (.ea .ffma)
  | 4 => some (.dab .fmin)
  | 5 => some (.dab .fmax)
  | 6 => some (.da .fneg)
  | 7 => some (.da .fabs)
  | 8 => some (.dab .fcmpeq)
  | 9 => some (.dab .fcmpne)
  | 10 => some (.dab .fcmplt)
  | 11 => some (.dab .fcmple)
  | 12 => some (.dab .fcmpun)
  | 13 => some (.da .fclass)
  | 14 => some (.da .frnd)
  | 15 => some (.t2 .cvt)
  | _ => none

/-- Opcodes 0x90 to 0x9F (R152). -/
def opcodeRow9 : Nat → Option Shape
  | 0 => some (.da .rcp)
  | 1 => some (.da .rsq)
  | 2 => some (.da .sqrt)
  | 3 => some (.da .exp2)
  | 4 => some (.da .log2)
  | 5 => some (.da .sin)
  | 6 => some (.da .cos)
  | 7 => some (.da .tanh)
  | 8 => some (.cvtn)
  | 9 => some (.cvtw)
  | 10 => some (.ea .dp4)
  | 11 => some (.ea .dp8)
  | 12 => some (.ea .dpf4)
  | 13 => some (.ea .dpf8)
  | 14 => some (.ea .sacc)
  | _ => none

/-- Opcodes 0xA0 to 0xAF (R152). -/
def opcodeRowA : Nat → Option Shape
  | 0 => some (.lget)
  | 1 => some (.dab .lput)
  | 2 => some (.lb .lbcast)
  | 3 => some (.lb .lxor)
  | 4 => some (.da .vany)
  | 5 => some (.da .vall)
  | 6 => some (.da .vballot)
  | 7 => some (.red .vred)
  | 8 => some (.scan)
  | 9 => some (.red .tred)
  | 10 => some (.da .tany)
  | 11 => some (.da .tall)
  | 12 => some (.da .tcount)
  | _ => none

/-- Opcodes 0xB0 to 0xBF (R152). -/
def opcodeRowB : Nat → Option Shape
  | 0 => some (.mma)
  | 1 => some (.mmas)
  | 2 => some (.d .accz)
  | 3 => some (.da .acrd)
  | 4 => some (.da .acwr)
  | 5 => some (.da .acld)
  | 6 => some (.da .acst)
  | 7 => some (.da .ldmeta)
  | 8 => some (.da .ppdeg)
  | 9 => some (.d .ppclr)
  | 10 => some (.dab .ppfac)
  | 11 => some (.dab .ppdiv)
  | 12 => some (.da .ppmul)
  | 13 => some (.da .ppld)
  | 14 => some (.da .ppst)
  | 15 => some (.dab .pprd)
  | _ => none

/-- Opcodes 0xC0 to 0xCF (R152). -/
def opcodeRowC : Nat → Option Shape
  | 0 => some (.da .ppscl)
  | 1 => some (.da .ppinfo)
  | 4 => some (.m .ld8)
  | 5 => some (.m .ld16)
  | 6 => some (.m .ld32)
  | 7 => some (.m .ld64)
  | 8 => some (.m .ldq)
  | 9 => some (.ms .acq .lda)
  | 10 => some (.m .lds)
  | 11 => some (.sld)
  | 12 => some (.m .ldmx)
  | 13 => some (.pref)
  | _ => none

/-- Opcodes 0xD0 to 0xDF (R152). -/
def opcodeRowD : Nat → Option Shape
  | 0 => some (.m .st8)
  | 1 => some (.m .st16)
  | 2 => some (.m .st32)
  | 3 => some (.m .st64)
  | 4 => some (.ms .rel .stl)
  | 5 => some (.m .sts)
  | 6 => some (.m .stmx)
  | 8 => some (.at .aadd)
  | 9 => some (.at .amin)
  | 10 => some (.at .amax)
  | 11 => some (.at .aand)
  | 12 => some (.at .aor)
  | 13 => some (.at .axor)
  | 14 => some (.at .axchg)
  | 15 => some (.at .acas)
  | _ => none

/-- Opcodes 0xE0 to 0xEF (R152). -/
def opcodeRowE : Nat → Option Shape
  | 0 => some (.at .ainc)
  | 1 => some (.at .afadd)
  | 2 => some (.apmul)
  | 3 => some (.fe .fenceAcq)
  | 4 => some (.fe .fenceRel)
  | 5 => some (.fe .fenceAr)
  | 6 => some (.bar .bar)
  | 7 => some (.bar .barr)
  | 8 => some (.bar .barw)
  | 9 => some (.da .await)
  | 10 => some (.da .stp)
  | 11 => some (.d .bclose)
  | 12 => some (.a .bwait)
  | 13 => some (.da .bcnt)
  | 14 => some (.da .tsub)
  | 15 => some (.dab .nrec)
  | _ => none

/-- Opcodes 0xF0 to 0xFF (R152). -/
def opcodeRowF : Nat → Option Shape
  | 0 => some (.n .tcommit)
  | 1 => some (.da .glaunch)
  | 8 => some (.n .eret)
  | 9 => some (.vi .sysrd)
  | 10 => some (.vi .syswr)
  | 11 => some (.ab .tlbinv)
  | 12 => some (.a .ctxsv)
  | 13 => some (.a .ctxld)
  | 14 => some (.esc)
  | _ => none

/-- The opcode map (R152); none for a reserved opcode and for 0xFF. -/
def opcodeMap (op : BitVec 8) : Option Shape :=
  match op.toNat / 16 with
  | 0 => opcodeRow0 (op.toNat % 16)
  | 1 => opcodeRow1 (op.toNat % 16)
  | 2 => opcodeRow2 (op.toNat % 16)
  | 3 => opcodeRow3 (op.toNat % 16)
  | 4 => opcodeRow4 (op.toNat % 16)
  | 5 => opcodeRow5 (op.toNat % 16)
  | 6 => opcodeRow6 (op.toNat % 16)
  | 7 => opcodeRow7 (op.toNat % 16)
  | 8 => opcodeRow8 (op.toNat % 16)
  | 9 => opcodeRow9 (op.toNat % 16)
  | 10 => opcodeRowA (op.toNat % 16)
  | 11 => opcodeRowB (op.toNat % 16)
  | 12 => opcodeRowC (op.toNat % 16)
  | 13 => opcodeRowD (op.toNat % 16)
  | 14 => opcodeRowE (op.toNat % 16)
  | _ => opcodeRowF (op.toNat % 16)

/-- `x` if every reserved field is zero, else the rejection `r`. -/
def guardOk (c : Bool) (r : Reject) (x : Instr) : Except Reject Instr := if c then .ok x else .error r

/-- An instruction with a scope field (R154). -/
def withScope (code : BitVec 3) (f : Scope → Instr) : Except Reject Instr :=
  match Scope.ofCode code with
  | some s => .ok (f s)
  | none => .error .badScope

/-- An instruction with a format field (R87). -/
def withFmt (code : BitVec 4) (f : Fmt → Instr) : Except Reject Instr :=
  match Fmt.ofCode code with
  | some x => .ok (f x)
  | none => .error .badFormat

/-- An instruction with a reduction field (R206). -/
def withRed (code : BitVec 4) (f : RedOp → Instr) : Except Reject Instr :=
  match RedOp.ofCode code with
  | some x => .ok (f x)
  | none => .error .badOp

/-- The instruction of a first word `w` and, for an opcode that takes one, its extension word `e` (R153 to R156). -/
def Shape.decode (s : Shape) (w e : Word) : Except Reject Instr :=
  match s with
  | .n i => guardOk (offOf w == 0) .reservedField i
  | .j f => .ok (f (offOf w))
  | .cb f => .ok (f (dOf w) (immOf w))
  | .a f => guardOk (dOf w == 0 && bOf w == 0) .reservedField (f (aOf w))
  | .d f => guardOk (immOf w == 0) .reservedField (f (dOf w))
  | .da f => guardOk (bOf w == 0) .reservedField (f (dOf w) (aOf w))
  | .dab f => .ok (f (dOf w) (aOf w) (bOf w))
  | .db f => guardOk (aOf w == 0) .reservedField (f (dOf w) (bOf w))
  | .ab f => guardOk (dOf w == 0) .reservedField (f (aOf w) (bOf w))
  | .i16 f => guardOk (dOf w == 0) .reservedField (f (immOf w))
  | .part f => guardOk (w.extractLsb' 3 21 == 0) .reservedField (f (w.extractLsb' 0 3))
  | .vi f => .ok (f (dOf w) (immOf w))
  | .sh f => guardOk (w.extractLsb' 6 10 == 0) .reservedField (f (dOf w) (w.extractLsb' 0 6))
  | .t2 f => guardOk (w.extractLsb' 7 1 == 0 && w.extractLsb' 3 1 == 0) .reservedField
      (f (dOf w) (aOf w) (EType.ofCode (w.extractLsb' 4 3)) (EType.ofCode (w.extractLsb' 0 3)))
  | .fe f => if w.extractLsb' 3 21 == 0 then withScope (w.extractLsb' 0 3) f else .error .reservedField
  | .bar f => if dOf w == 0 then withScope (w.extractLsb' 0 3) (fun s => f s (w.extractLsb' 3 13)) else .error .reservedField
  | .ea f => guardOk (e.extractLsb' 0 22 == 0) .reservedExtension
      (f (dOf w) (aOf w) (bOf w) (opOf e) (e.getLsbD 23) (e.getLsbD 22))
  | .u4 f => guardOk (offOf e == 0) .reservedExtension (f (dOf w) (aOf w) (bOf w) (opOf e))
  | .bfx f => if bOf w == 0 then guardOk (e.extractLsb' 14 18 == 0 && e.extractLsb' 6 1 == 0) .reservedExtension
        (f (dOf w) (aOf w) (e.extractLsb' 0 6) (e.extractLsb' 7 7))
      else .error .reservedField
  | .bfi f => guardOk (e.extractLsb' 14 18 == 0 && e.extractLsb' 6 1 == 0) .reservedExtension
      (f (dOf w) (aOf w) (bOf w) (e.extractLsb' 0 6) (e.extractLsb' 7 7))
  | .cvtn => if opOf e == 0 && immOf e == 0
      then withFmt (e.extractLsb' 20 4) (fun x => .cvtn (dOf w) (aOf w) (bOf w) x (e.extractLsb' 16 4))
      else .error .reservedExtension
  | .cvtw => if bOf w == 0 then
        (if opOf e == 0 && immOf e == 0
         then withFmt (e.extractLsb' 20 4) (fun x => .cvtw (dOf w) (aOf w) x (e.extractLsb' 16 4))
         else .error .reservedExtension)
      else .error .reservedField
  | .lget => if e.extractLsb' 20 4 == 0 && immOf e == 0 then
        (if e.extractLsb' 16 4 == 0 then .ok (.lget (dOf w) (aOf w) (bOf w) (opOf e))
         else guardOk (e.extractLsb' 16 4 == 1) .badOp (.lgetRot (dOf w) (aOf w) (bOf w) (opOf e)))
      else .error .reservedExtension
  | .lb f => if bOf w == 0 then guardOk (e.extractLsb' 8 16 == 0) .reservedExtension (f (dOf w) (aOf w) (opOf e) (bOf e))
      else .error .reservedField
  | .red f => if bOf w == 0 then
        (if opOf e == 0 && e.extractLsb' 20 4 == 0 && immOf e == 0
         then withRed (e.extractLsb' 16 4) (fun x => f (dOf w) (aOf w) x)
         else .error .reservedExtension)
      else .error .reservedField
  | .scan => if bOf w == 0 then
        (if e.extractLsb' 20 4 == 0 && e.extractLsb' 1 15 == 0
         then withRed (e.extractLsb' 16 4) (fun x => .vscan (dOf w) (aOf w) (opOf e) x (e.getLsbD 0))
         else .error .reservedExtension)
      else .error .reservedField
  | .mma => if e.extractLsb' 0 23 == 0 then
        (match Fmt.ofCode (e.extractLsb' 28 4) with
         | some fa => withFmt (e.extractLsb' 24 4) (fun fb => .mma (dOf w) (aOf w) (bOf w) fa fb (e.getLsbD 23))
         | none => .error .badFormat)
      else .error .reservedExtension
  | .mmas => if e.extractLsb' 0 16 == 0 && e.extractLsb' 19 4 == 0 && e.extractLsb' 24 4 == 0 then
        withFmt (e.extractLsb' 28 4) (fun x => .mmas (dOf w) (aOf w) (bOf w) x (e.extractLsb' 16 3) (e.getLsbD 23))
      else .error .reservedExtension
  | .m f => guardOk (e.extractLsb' 16 16 == 0) .badOrder (f (dOf w) (aOf w) (bOf w) (immOf e))
  | .ms o f => if opOf e == 0 && e.extractLsb' 16 3 == 0 then
        (if e.extractLsb' 19 2 == o.code
         then withScope (e.extractLsb' 21 3) (fun s => f (dOf w) (aOf w) (bOf w) s (immOf e))
         else .error .badOrder)
      else .error .reservedExtension
  | .sld => if bOf w == 0 then guardOk (e.extractLsb' 16 16 == 0) .badOrder (.sld (dOf w) (aOf w) (immOf e))
      else .error .reservedField
  | .pref => if dOf w == 0 then guardOk (e.extractLsb' 16 16 == 0) .badOrder (.pref (aOf w) (bOf w) (immOf e))
      else .error .reservedField
  | .at f => if e.extractLsb' 16 3 == 0 then
        withScope (e.extractLsb' 21 3)
          (fun s => f (dOf w) (aOf w) (bOf w) (opOf e) s (Order.ofCode (e.extractLsb' 19 2)) (immOf e))
      else .error .reservedExtension
  | .apmul => if bOf w == 0 then
        (if opOf e == 0 && e.extractLsb' 16 3 == 0 && immOf e == 0 then
          withScope (e.extractLsb' 21 3) (fun s => .apmul (dOf w) (aOf w) s (Order.ofCode (e.extractLsb' 19 2)))
         else .error .reservedExtension)
      else .error .reservedField
  | .esc => guardOk (e.extractLsb' 0 22 == 0) .reservedExtension
      (.escape (opOf e) (dOf w) (aOf w) (bOf w) (e.getLsbD 22) (e.getLsbD 23))

/-- The instruction at the head of a list of words, with the number of words it takes. -/
def decodeWords : List Word → Except Reject (Instr × Nat)
  | [] => .error .truncated
  | w :: rest =>
    match opcodeMap (opOf w) with
    | none => .error (if opOf w == 0xFF then .header else .reservedOpcode)
    | some s =>
      if s.extended then
        match rest with
        | [] => .error .truncated
        | e :: _ => (s.decode w e).map (fun i => (i, 2))
      else (s.decode w 0).map (fun i => (i, 1))

/-- The words in a list of bytes, little-endian (R143); bytes beyond the last whole word are left over. -/
def wordsOfBytes : List Byte → List Word
  | b0 :: b1 :: b2 :: b3 :: rest => (b3 ++ b2 ++ b1 ++ b0 : Word) :: wordsOfBytes rest
  | _ => []

/-- The bytes of a word, little-endian (R143). -/
def bytesOfWord (w : Word) : List Byte := [bOf w, aOf w, dOf w, opOf w]

/-- The bytes of several words. -/
def bytesOfWords : List Word → List Byte
  | [] => []
  | w :: ws => bytesOfWord w ++ bytesOfWords ws

/-- The decoder: total on any bytes. -/
def decode (bytes : List Byte) : Except Reject (Instr × Nat) := decodeWords (wordsOfBytes bytes)

/-- The instruction whose bits are `w`, bit 0 the least significant bit of its first word.  The bits
above `nbits` are zero. -/
def decodeTableWord (nbits w : Nat) : Option Instr :=
  let x := w % 2 ^ nbits
  match decode (bytesOfWords [BitVec.ofNat 32 x, BitVec.ofNat 32 (x / 2 ^ 32)]) with
  | .ok (i, _) => some i
  | .error _ => none

/-- The words of an instruction, from the encoding tables of R144 and R152 to R155; a machine event has none. -/
def encode : Instr → List Word
  | .nop => [word4 0x00 0 0 0]
  | .bra off => [wordJ 0x01 off]
  | .brx a => [word4 0x02 0 a 0]
  | .call off => [wordJ 0x03 off]
  | .ret => [word4 0x04 0 0 0]
  | .exit => [word4 0x05 0 0 0]
  | .yield => [word4 0x06 0 0 0]
  | .mif c off => [wordI 0x07 c off]
  | .melse off => [wordJ 0x08 off]
  | .mend => [word4 0x09 0 0 0]
  | .mloop off => [wordJ 0x0A off]
  | .mbrk c => [word4 0x0B 0 c 0]
  | .mcont c => [word4 0x0C 0 c 0]
  | .mnext off => [wordJ 0x0D off]
  | .many c off => [wordI 0x0E c off]
  | .mall c off => [wordI 0x0F c off]
  | .setm a => [word4 0x10 0 a 0]
  | .getm d k => [word4 0x11 d 0 k]
  | .part t => [wordI 0x12 0 (0#13 ++ t)]
  | .rdsp d n => [word4 0x13 d n 0]
  | .xstatRead _ => []
  | .give t a n => [word4 0x14 t a n]
  | .claim t a n => [word4 0x15 t a n]
  | .svc d a k => [word4 0x16 d a k]
  | .trap i => [wordI 0x17 0 i]
  | .vtos d a b => [word4 0x18 d a b]
  | .stov d a => [word4 0x19 d a 0]
  | .add d a b => [word4 0x20 d a b]
  | .sub d a b => [word4 0x21 d a b]
  | .mul d a b => [word4 0x22 d a b]
  | .mulhi d a b => [word4 0x23 d a b]
  | .mad d a b c ub uc => [word4 0x24 d a b, extA c ub uc]
  | .madhi d a b c ub uc => [word4 0x25 d a b, extA c ub uc]
  | .neg d a => [word4 0x26 d a 0]
  | .abs d a => [word4 0x27 d a 0]
  | .min d a b => [word4 0x28 d a b]
  | .max d a b => [word4 0x29 d a b]
  | .and d a b => [word4 0x2A d a b]
  | .or d a b => [word4 0x2B d a b]
  | .xor d a b => [word4 0x2C d a b]
  | .not d a => [word4 0x2D d a 0]
  | .andn d a b => [word4 0x2E d a b]
  | .shl d a b => [word4 0x2F d a b]
  | .shr d a b => [word4 0x30 d a b]
  | .sar d a b => [word4 0x31 d a b]
  | .rot d a b => [word4 0x32 d a b]
  | .popc d a => [word4 0x33 d a 0]
  | .clz d a => [word4 0x34 d a 0]
  | .ctz d a => [word4 0x35 d a 0]
  | .brev d a => [word4 0x36 d a 0]
  | .bfx d a pos width => [word4 0x37 d a 0, extB width pos]
  | .bfi d a b pos width => [word4 0x38 d a b, extB width pos]
  | .sel d a b c ub uc => [word4 0x39 d a b, extA c ub uc]
  | .cmpeq d a b => [word4 0x3A d a b]
  | .cmpne d a b => [word4 0x3B d a b]
  | .cmplt d a b => [word4 0x3C d a b]
  | .cmple d a b => [word4 0x3D d a b]
  | .mov d a => [word4 0x3E d a 0]
  | .cvti d a dt st => [word4 0x3F d a (typeByte dt st)]
  | .lea d a b => [word4 0x40 d a b]
  | .addi d i => [wordI 0x41 d i]
  | .muli d i => [wordI 0x42 d i]
  | .andi d i => [wordI 0x43 d i]
  | .ori d i => [wordI 0x44 d i]
  | .xori d i => [wordI 0x45 d i]
  | .shli d s => [wordI 0x46 d (0#10 ++ s)]
  | .shri d s => [wordI 0x47 d (0#10 ++ s)]
  | .sari d s => [wordI 0x48 d (0#10 ++ s)]
  | .movi d i => [wordI 0x49 d i]
  | .movh d i => [wordI 0x4A d i]
  | .sadd d a b => [word4 0x50 d a b]
  | .ssub d a b => [word4 0x51 d a b]
  | .smul d a b => [word4 0x52 d a b]
  | .smulhi d a b => [word4 0x53 d a b]
  | .smad d a b c => [word4 0x54 d a b, extA c false false]
  | .smadhi d a b c => [word4 0x55 d a b, extA c false false]
  | .sneg d a => [word4 0x56 d a 0]
  | .sabs d a => [word4 0x57 d a 0]
  | .smin d a b => [word4 0x58 d a b]
  | .smax d a b => [word4 0x59 d a b]
  | .sand d a b => [word4 0x5A d a b]
  | .sor d a b => [word4 0x5B d a b]
  | .sxor d a b => [word4 0x5C d a b]
  | .snot d a => [word4 0x5D d a 0]
  | .sandn d a b => [word4 0x5E d a b]
  | .sshl d a b => [word4 0x5F d a b]
  | .sshr d a b => [word4 0x60 d a b]
  | .ssar d a b => [word4 0x61 d a b]
  | .srot d a b => [word4 0x62 d a b]
  | .spopc d a => [word4 0x63 d a 0]
  | .sclz d a => [word4 0x64 d a 0]
  | .sctz d a => [word4 0x65 d a 0]
  | .sbrev d a => [word4 0x66 d a 0]
  | .sbfx d a pos width => [word4 0x67 d a 0, extB width pos]
  | .sbfi d a b pos width => [word4 0x68 d a b, extB width pos]
  | .ssel d a b c => [word4 0x69 d a b, extA c false false]
  | .scmpeq d a b => [word4 0x6A d a b]
  | .scmpne d a b => [word4 0x6B d a b]
  | .scmplt d a b => [word4 0x6C d a b]
  | .scmple d a b => [word4 0x6D d a b]
  | .smov d a => [word4 0x6E d a 0]
  | .scvti d a dt st => [word4 0x6F d a (typeByte dt st)]
  | .slea d a b => [word4 0x70 d a b]
  | .saddi d i => [wordI 0x71 d i]
  | .smuli d i => [wordI 0x72 d i]
  | .sandi d i => [wordI 0x73 d i]
  | .sori d i => [wordI 0x74 d i]
  | .sxori d i => [wordI 0x75 d i]
  | .sshli d s => [wordI 0x76 d (0#10 ++ s)]
  | .sshri d s => [wordI 0x77 d (0#10 ++ s)]
  | .ssari d s => [wordI 0x78 d (0#10 ++ s)]
  | .smovi d i => [wordI 0x79 d i]
  | .smovh d i => [wordI 0x7A d i]
  | .fadd d a b => [word4 0x80 d a b]
  | .fsub d a b => [word4 0x81 d a b]
  | .fmul d a b => [word4 0x82 d a b]
  | .ffma d a b c ub uc => [word4 0x83 d a b, extA c ub uc]
  | .fmin d a b => [word4 0x84 d a b]
  | .fmax d a b => [word4 0x85 d a b]
  | .fneg d a => [word4 0x86 d a 0]
  | .fabs d a => [word4 0x87 d a 0]
  | .fcmpeq d a b => [word4 0x88 d a b]
  | .fcmpne d a b => [word4 0x89 d a b]
  | .fcmplt d a b => [word4 0x8A d a b]
  | .fcmple d a b => [word4 0x8B d a b]
  | .fcmpun d a b => [word4 0x8C d a b]
  | .fclass d a => [word4 0x8D d a 0]
  | .frnd d a => [word4 0x8E d a 0]
  | .cvt d a dt st => [word4 0x8F d a (typeByte dt st)]
  | .rcp d a => [word4 0x90 d a 0]
  | .rsq d a => [word4 0x91 d a 0]
  | .sqrt d a => [word4 0x92 d a 0]
  | .exp2 d a => [word4 0x93 d a 0]
  | .log2 d a => [word4 0x94 d a 0]
  | .sin d a => [word4 0x95 d a 0]
  | .cos d a => [word4 0x96 d a 0]
  | .tanh d a => [word4 0x97 d a 0]
  | .cvtn d a b fmt op => [word4 0x98 d a b, extS 0 fmt.code op 0]
  | .cvtw d a fmt op => [word4 0x99 d a 0, extS 0 fmt.code op 0]
  | .dp4 d a b c ub uc => [word4 0x9A d a b, extA c ub uc]
  | .dp8 d a b c ub uc => [word4 0x9B d a b, extA c ub uc]
  | .dpf4 d a b c ub uc => [word4 0x9C d a b, extA c ub uc]
  | .dpf8 d a b c ub uc => [word4 0x9D d a b, extA c ub uc]
  | .sacc d a b c ub uc => [word4 0x9E d a b, extA c ub uc]
  | .lget d a b c => [word4 0xA0 d a b, extS c 0 0 0]
  | .lgetRot d a b c => [word4 0xA0 d a b, extS c 0 1 0]
  | .lput d a b => [word4 0xA1 d a b]
  | .lbcast d a c k => [word4 0xA2 d a 0, extS c 0 0 k]
  | .lxor d a c k => [word4 0xA3 d a 0, extS c 0 0 k]
  | .vany d a => [word4 0xA4 d a 0]
  | .vall d a => [word4 0xA5 d a 0]
  | .vballot d a => [word4 0xA6 d a 0]
  | .vred d a op => [word4 0xA7 d a 0, extS 0 0 op.code 0]
  | .vscan d a c op ex => [word4 0xA8 d a 0, extS c 0 op.code (0#7 ++ BitVec.ofBool ex)]
  | .tred d a op => [word4 0xA9 d a 0, extS 0 0 op.code 0]
  | .tany d a => [word4 0xAA d a 0]
  | .tall d a => [word4 0xAB d a 0]
  | .tcount d a => [word4 0xAC d a 0]
  | .mma n a b fa fb spad => [word4 0xB0 n a b, extMx fa.code fb.code spad 0]
  | .mmas n a b f slot spad => [word4 0xB1 n a b, extMx f.code 0 spad slot]
  | .accz n => [word4 0xB2 n 0 0]
  | .acrd d n => [word4 0xB3 d n 0]
  | .acwr n a => [word4 0xB4 n a 0]
  | .acld n a => [word4 0xB5 n a 0]
  | .acst n a => [word4 0xB6 n a 0]
  | .ldmeta k a => [word4 0xB7 k a 0]
  | .ppdeg n a => [word4 0xB8 n a 0]
  | .ppclr n => [word4 0xB9 n 0 0]
  | .ppfac n a b => [word4 0xBA n a b]
  | .ppdiv n a b => [word4 0xBB n a b]
  | .ppmul n m => [word4 0xBC n m 0]
  | .ppld n a => [word4 0xBD n a 0]
  | .ppst n a => [word4 0xBE n a 0]
  | .pprd d n k => [word4 0xBF d n k]
  | .ppscl n a => [word4 0xC0 n a 0]
  | .ppinfo d n => [word4 0xC1 d n 0]
  | .ld8 d a b off => [word4 0xC4 d a b, extM 0 .core .relaxed off]
  | .ld16 d a b off => [word4 0xC5 d a b, extM 0 .core .relaxed off]
  | .ld32 d a b off => [word4 0xC6 d a b, extM 0 .core .relaxed off]
  | .ld64 d a b off => [word4 0xC7 d a b, extM 0 .core .relaxed off]
  | .ldq d a b off => [word4 0xC8 d a b, extM 0 .core .relaxed off]
  | .lda d a b scope off => [word4 0xC9 d a b, extM 0 scope .acq off]
  | .lds d a b off => [word4 0xCA d a b, extM 0 .core .relaxed off]
  | .sld d a off => [word4 0xCB d a 0, extM 0 .core .relaxed off]
  | .ldmx d a b off => [word4 0xCC d a b, extM 0 .core .relaxed off]
  | .pref a b off => [word4 0xCD 0 a b, extM 0 .core .relaxed off]
  | .st8 d a b off => [word4 0xD0 d a b, extM 0 .core .relaxed off]
  | .st16 d a b off => [word4 0xD1 d a b, extM 0 .core .relaxed off]
  | .st32 d a b off => [word4 0xD2 d a b, extM 0 .core .relaxed off]
  | .st64 d a b off => [word4 0xD3 d a b, extM 0 .core .relaxed off]
  | .stl d a b scope off => [word4 0xD4 d a b, extM 0 scope .rel off]
  | .sts d a b off => [word4 0xD5 d a b, extM 0 .core .relaxed off]
  | .stmx d a b off => [word4 0xD6 d a b, extM 0 .core .relaxed off]
  | .aadd d a b c scope order off => [word4 0xD8 d a b, extM c scope order off]
  | .amin d a b c scope order off => [word4 0xD9 d a b, extM c scope order off]
  | .amax d a b c scope order off => [word4 0xDA d a b, extM c scope order off]
  | .aand d a b c scope order off => [word4 0xDB d a b, extM c scope order off]
  | .aor d a b c scope order off => [word4 0xDC d a b, extM c scope order off]
  | .axor d a b c scope order off => [word4 0xDD d a b, extM c scope order off]
  | .axchg d a b c scope order off => [word4 0xDE d a b, extM c scope order off]
  | .acas d a b c scope order off => [word4 0xDF d a b, extM c scope order off]
  | .ainc d a b c scope order off => [word4 0xE0 d a b, extM c scope order off]
  | .afadd d a b c scope order off => [word4 0xE1 d a b, extM c scope order off]
  | .apmul n a scope order => [word4 0xE2 n a 0, extM 0 scope order 0]
  | .fenceAcq scope => [wordI 0xE3 0 (0#13 ++ scope.code)]
  | .fenceRel scope => [wordI 0xE4 0 (0#13 ++ scope.code)]
  | .fenceAr scope => [wordI 0xE5 0 (0#13 ++ scope.code)]
  | .bar scope n => [wordI 0xE6 0 (n ++ scope.code)]
  | .barr scope n => [wordI 0xE7 0 (n ++ scope.code)]
  | .barw scope n => [wordI 0xE8 0 (n ++ scope.code)]
  | .podBarrierArrival _ => []
  | .await d a => [word4 0xE9 d a 0]
  | .awaitCycle _ => []
  | .crewWake _ => []
  | .stp k a => [word4 0xEA k a 0]
  | .engineOperationStart _ => []
  | .bclose d => [word4 0xEB d 0 0]
  | .bwait a => [word4 0xEC 0 a 0]
  | .bcnt d a => [word4 0xED d a 0]
  | .engineSector _ _ => []
  | .tsub d a => [word4 0xEE d a 0]
  | .nrec d a b => [word4 0xEF d a b]
  | .binTimerExpiry _ => []
  | .tcommit => [word4 0xF0 0 0 0]
  | .glaunch d a => [word4 0xF1 d a 0]
  | .eret => [word4 0xF8 0 0 0]
  | .sysrd d i => [wordI 0xF9 d i]
  | .syswr d i => [wordI 0xFA d i]
  | .svcnextRead _ => []
  | .svcdoneWrite _ => []
  | .tlbinv a k => [word4 0xFB 0 a k]
  | .ctxsv a => [word4 0xFC 0 a 0]
  | .crewSave _ => []
  | .ctxld a => [word4 0xFD 0 a 0]
  | .escape bop d a b ua ub => [word4 0xFE d a b, extX bop ua ub]
  | .clauseFetch _ => []
  | .longLatencyCompletion _ _ => []
  | .trapEntry _ => []
  | .crewRetire _ => []
  | .tailWrite _ _ => []
  | .resumeCommand _ => []
  | .destroyCommand _ => []
  | .launchRecordRead _ => []
  | .nodeSetup _ => []
  | .crewPlacement _ => []
  | .keyRequest _ => []
  | .keyGrant _ => []
  | .keyAcquisitionRestart _ => []
  | .taskDiscard _ => []
  | .thermalMigration _ _ _ => []
  | .pageListBlockRead _ _ _ => []
  | .pageReservation _ => []
  | .pageSense _ _ _ => []
  | .pageLanding _ _ => []
  | .eviction _ => []
  | .reLanding _ => []
  | .faultRecordPost _ => []
  | .faultReplyRetry _ _ => []
  | .faultReplyEnd _ _ => []
  | .pageRequestSend _ => []
  | .prgResponse _ _ _ => []
  | .atsCompletion _ _ => []
  | .atsInvalidation _ _ => []
  | .accessCounterThreshold _ _ _ => []
  | .sendArrival _ => []
  | .receiveRingDelivery _ => []
  | .sendAcknowledge _ _ _ => []
  | .heartbeatInterval => []
  | .heartbeatReceive _ => []
  | .fenceFlit => []
  | .dataLinkDown => []
  | .ideFailure => []
  | .configAccessOutsideMessage => []
  | .spdmSession _ => []
  | .sessionDoorbell _ => []
  | .lock _ => []
  | .start _ => []
  | .stop _ => []
  | .stopComplete => []
  | .queueCreate _ _ _ _ => []
  | .queueDestroy _ _ => []
  | .worldAssign _ _ _ _ _ _ => []
  | .worldRelease _ _ => []
  | .modeSet _ _ _ => []
  | .flashWrite _ _ _ _ => []
  | .qread _ _ _ => []
  | .qfree _ _ _ => []
  | .status _ => []
  | .scrubStep _ _ => []
  | .scrubProgress _ _ => []
  | .huskUpdate _ _ _ _ _ => []
  | .deviceStart _ => []
  | .huskReady _ _ => []
  | .huskReadyTimeout => []
  | .weightContextEnable _ => []
  | .routeEntry _ => []
  | .retireEntry _ => []
  | .slotLoad _ _ _ => []
  | .registerWrite _ _ => []
  | .dataLinkActive => []
  | .eraseOrProgramEnd _ _ => []
  | .trainingFailure _ => []
  | .powerFailure => []
  | .cxlMemRequest _ _ => []
  | .hostSnoop _ _ => []
  | .podWindowAccess _ => []
  | .linkLevelRetry _ => []

end Sys2Proof
end

