-- ==== Sys2Proof/Machine/Bits.lean ====
section
/-! DEFINITION. Bit fields, byte order and signed readings (R5). -/

namespace Sys2Proof.Machine

/-- Bits [lo + n − 1 : lo] of a natural number. -/
def bitsOf (x lo n : Nat) : Nat := x / 2 ^ lo % 2 ^ n

/-- The natural number whose little-endian bytes are given (R5). -/
def leNat : List Byte → Nat
  | [] => 0
  | b :: bs => b.toNat + 256 * leNat bs

/-- The `n` little-endian bytes of a natural number (R5). -/
def leBytes (x : Nat) : Nat → List Byte
  | 0 => []
  | n + 1 => BitVec.ofNat 8 x :: leBytes (x / 256) n

/-- The two's complement reading of the low `w` bits of `x` (R88). -/
def toSigned (w x : Nat) : Int :=
  if x % 2 ^ w < 2 ^ (w - 1) then (x % 2 ^ w : Nat) else (x % 2 ^ w : Nat) - (2 ^ w : Nat)

/-- `trunc_bits(x, w)`: x modulo 2^w as the w bits of a result (R95). -/
def truncBits (x : Int) (w : Nat) : Nat := (x % (2 ^ w : Nat)).toNat

/-- Round up to a multiple of `n`. -/
def roundUp (x n : Nat) : Nat := (x + n - 1) / n * n

/-- The lanes of a set in ascending team-wide index, among the first `n` lanes. -/
def lanesBelow (m : LaneSet) (n : Nat) : List Nat := (List.range n).filter (fun l => m.getLsbD l)

/-- The set of the first `n` lanes. -/
def firstLanes (n : Nat) : LaneSet := BitVec.ofNat 1024 (2 ^ n - 1)

/-- The set with one lane. -/
def laneSet (l : Nat) : LaneSet := BitVec.ofNat 1024 (2 ^ l)

/-- The set of the lanes listed. -/
def laneSetOf : List Nat → LaneSet
  | [] => 0
  | l :: ls => laneSet l ||| laneSetOf ls

/-- The 32-bit mask of word `w` (R24). -/
def wordMask (m : LaneSet) (w : Nat) : Word := BitVec.ofNat 32 (m.toNat / 2 ^ (32 * w))

/-- The summary word_live: bit w is 1 exactly when word w of the mask is non-zero (R24). -/
def wordLive (m : LaneSet) : Word :=
  BitVec.ofNat 32 ((List.range 32).foldl (fun acc w => if wordMask m w = 0 then acc else acc + 2 ^ w) 0)

end Sys2Proof.Machine
end

