-- ==== Sys2Proof/Machine/Num.lean ====
section
/-! DEFINITION. Number formats, exact values and rounding (R87 to R98). -/

namespace Sys2Proof.Machine

/-- Which encodings of a format are special (R90). -/
inductive SpecialKind where
  /-- exponent all ones: infinity when the mantissa is 0, else NaN -/
  | ieee
  /-- only 0x7F and 0xFF are NaN, and there is no infinity (`e4m3`) -/
  | topNaN
  /-- no infinity and no NaN -/
  | finite
  deriving DecidableEq, Repr

/-- A floating-point format (R90). -/
structure FloatFmt where
  ebits : Nat
  mbits : Nat
  special : SpecialKind
  deriving DecidableEq, Repr

/-- The bias b of a format (R90). -/
def FloatFmt.bias (f : FloatFmt) : Nat := 2 ^ (f.ebits - 1) - 1

/-- Width of an encoding in bits. -/
def FloatFmt.width (f : FloatFmt) : Nat := 1 + f.ebits + f.mbits

/-- Encoding of the maximum finite value, without its sign (R90). -/
def FloatFmt.maxBits (f : FloatFmt) : Nat :=
  match f.special with
  | .ieee => (2 ^ f.ebits - 1) * 2 ^ f.mbits - 1
  | .topNaN => 2 ^ (f.ebits + f.mbits) - 2
  | .finite => 2 ^ (f.ebits + f.mbits) - 1

/-- Encoding of +infinity, for a format that has one (R90). -/
def FloatFmt.infBits (f : FloatFmt) : Nat := (2 ^ f.ebits - 1) * 2 ^ f.mbits

/-- The canonical NaN (R93); +0 for a format without NaN (R97). -/
def FloatFmt.nanBits (f : FloatFmt) : Nat :=
  match f.special with
  | .ieee => (2 ^ f.ebits - 1) * 2 ^ f.mbits + 2 ^ (f.mbits - 1)
  | .topNaN => 2 ^ (f.ebits + f.mbits) - 1
  | .finite => 0

/-- The exponent of the spacing of the subnormals: 1 − b − M (R90). -/
def FloatFmt.minExp (f : FloatFmt) : Int := 1 - (f.bias : Int) - (f.mbits : Int)

def ff64 : FloatFmt := ⟨11, 52, .ieee⟩
def ff32 : FloatFmt := ⟨8, 23, .ieee⟩
def ff19 : FloatFmt := ⟨8, 10, .ieee⟩
def ffbf16 : FloatFmt := ⟨8, 7, .ieee⟩
def ff16 : FloatFmt := ⟨5, 10, .ieee⟩

/-- The floating-point format of a format code; none for the integer formats and `e8m0` (R87, R90). -/
def floatFmt? : Fmt → Option FloatFmt
  | .f64 => some ff64
  | .f32 => some ff32
  | .fp19 => some ff19
  | .bf16 => some ffbf16
  | .f16 => some ff16
  | .e4m3 => some ⟨4, 3, .topNaN⟩
  | .e5m2 => some ⟨5, 2, .ieee⟩
  | .e3m2 => some ⟨3, 2, .finite⟩
  | .e2m3 => some ⟨2, 3, .finite⟩
  | .e2m1 => some ⟨2, 1, .finite⟩
  | _ => none

/-- An exact value: NaN, an infinity, or (−1)^neg · m · 2^e, a zero keeping its sign. -/
inductive Val where
  | nan
  | inf (neg : Bool)
  | fin (neg : Bool) (m : Nat) (e : Int)
  deriving DecidableEq, Repr

/-- The value of an encoding (R90). -/
def decodeVal (f : FloatFmt) (bits : Nat) : Val :=
  let neg := decide (bitsOf bits (f.ebits + f.mbits) 1 = 1)
  let e := bitsOf bits f.mbits f.ebits
  let m := bitsOf bits 0 f.mbits
  let top := decide (e = 2 ^ f.ebits - 1)
  if f.special = .ieee ∧ top = true then (if m = 0 then .inf neg else .nan)
  else if f.special = .topNaN ∧ top = true ∧ m = 2 ^ f.mbits - 1 then .nan
  else if e = 0 then .fin neg m f.minExp
  else .fin neg (2 ^ f.mbits + m) (f.minExp + (e : Int) - 1)

/-- Rounding modes of `mode`.rmode (R76, R95). -/
inductive RMode where
  | rne | rtz | rup | rdn | rna
  deriving DecidableEq, Repr

/-- Whether the magnitude n + r/d is rounded up to n + 1, for a value of sign `neg` (R95). -/
def roundsUp (mode : RMode) (neg : Bool) (n r d : Nat) : Bool :=
  match mode with
  | .rne => decide (d < 2 * r) || (decide (2 * r = d) && decide (n % 2 = 1))
  | .rna => decide (d ≤ 2 * r)
  | .rtz => false
  | .rup => !neg && decide (r ≠ 0)
  | .rdn => neg && decide (r ≠ 0)

/-- num · 2^a as a fraction (numerator, denominator). -/
def scaleFrac (num den : Nat) (a : Int) : Nat × Nat :=
  match a with
  | .ofNat k => (num * 2 ^ k, den)
  | .negSucc k => (num, den * 2 ^ (k + 1))

/-- floor(log2(num / den)) for positive num and den. -/
def floorLog2 (num den : Nat) : Int :=
  let g : Int := (num.log2 : Int) - (den.log2 : Int)
  let (x, y) := scaleFrac num den (-g)
  if x < y then g - 1 else g

/-- The sign bit of a format. -/
def FloatFmt.signBits (f : FloatFmt) (neg : Bool) : Nat := if neg then 2 ^ (f.ebits + f.mbits) else 0

/-- What a rounded magnitude above the maximum gives (R95). -/
def overflowBits (f : FloatFmt) (mode : RMode) (neg : Bool) : Nat :=
  let toInf : Bool := match mode with
    | .rne | .rna => true
    | .rtz => false
    | .rup => !neg
    | .rdn => neg
  if f.special = .ieee ∧ toInf = true then f.signBits neg + f.infBits else f.signBits neg + f.maxBits

/-- Round the non-zero value (−1)^neg · num/den into a format (R95). -/
def roundFrac (f : FloatFmt) (mode : RMode) (neg : Bool) (num den : Nat) : Nat :=
  let q := max (floorLog2 num den - (f.mbits : Int)) f.minExp
  let (x, y) := scaleFrac num den (-q)
  let n := x / y
  let n' := if roundsUp mode neg n (x % y) y then n + 1 else n
  let bits := (q - f.minExp).toNat * 2 ^ f.mbits + n'
  if f.maxBits < bits then overflowBits f mode neg else f.signBits neg + bits

/-- Round an exact value into a format; a zero keeps its sign (R93, R95). -/
def roundVal (f : FloatFmt) (mode : RMode) : Val → Nat
  | .nan => f.nanBits
  | .inf neg => if f.special = .ieee then f.signBits neg + f.infBits else f.signBits neg + f.maxBits
  | .fin neg m e =>
    if m = 0 then f.signBits neg
    else let (x, y) := scaleFrac m 1 e; roundFrac f mode neg x y

/-- Exact product; the sign by the exclusive-or rule, 0 · infinity is NaN (R93, R103). -/
def Val.mul : Val → Val → Val
  | .nan, _ => .nan
  | _, .nan => .nan
  | .inf s, .inf t => .inf (s != t)
  | .inf s, .fin t m _ => if m = 0 then .nan else .inf (s != t)
  | .fin s m _, .inf t => if m = 0 then .nan else .inf (s != t)
  | .fin s m e, .fin t n g => .fin (s != t) (m * n) (e + g)

/-- The negated value. -/
def Val.negate : Val → Val
  | .nan => .nan
  | .inf s => .inf (!s)
  | .fin s m e => .fin (!s) m e

/-- The value times 2^k. -/
def Val.scale (k : Int) : Val → Val
  | .nan => .nan
  | .inf s => .inf s
  | .fin s m e => .fin s m (e + k)

/-- A finite value as m · 2^e with signed m. -/
def Val.signedM : Val → Int
  | .fin neg m _ => if neg then -(m : Int) else (m : Int)
  | _ => 0

/-- The exponent of a finite value. -/
def Val.exponent : Val → Int
  | .fin _ _ e => e
  | _ => 0

def Val.isNaN : Val → Bool
  | .nan => true
  | _ => false

def Val.isInf (neg : Bool) : Val → Bool
  | .inf s => s == neg
  | _ => false

/-- A zero of the given sign. -/
def Val.isZero (neg : Bool) : Val → Bool
  | .fin s m _ => (s == neg) && decide (m = 0)
  | _ => false

/-- Least exponent among the values. -/
def minExponent : List Val → Int → Int
  | [], e => e
  | v :: vs, e => minExponent vs (min e v.exponent)

/-- The exact sum of finite values in units of 2^g, with g no greater than any exponent. -/
def sumUnits (g : Int) : List Val → Int
  | [] => 0
  | v :: vs => v.signedM * (2 ^ (v.exponent - g).toNat : Nat) + sumUnits g vs

/-- The exact sum of the addends, with the special cases of R103 and the zero signs of R93. -/
def exactSum (mode : RMode) (vs : List Val) : Val :=
  if vs.any Val.isNaN then .nan
  else if vs.any (Val.isInf false) && vs.any (Val.isInf true) then .nan
  else if vs.any (Val.isInf false) then .inf false
  else if vs.any (Val.isInf true) then .inf true
  else
    let g := minExponent vs 0
    let s := sumUnits g vs
    if s = 0 then
      (if vs.all (Val.isZero false) then .fin false 0 0
       else if vs.all (Val.isZero true) then .fin true 0 0
       else .fin (decide (mode = .rdn)) 0 0)
    else .fin (decide (s < 0)) s.natAbs g

/-- The sum of the addends rounded once (R102, R103). -/
def sumRound (f : FloatFmt) (mode : RMode) (vs : List Val) : Nat := roundVal f mode (exactSum mode vs)

/-- The order of two values that are not NaN: negative, zero or positive as a − b is. -/
def Val.cmp : Val → Val → Int
  | .inf true, .inf true => 0
  | .inf false, .inf false => 0
  | .inf true, _ => -1
  | _, .inf true => 1
  | .inf false, _ => 1
  | _, .inf false => -1
  | a, b => let g := min a.exponent b.exponent
            (sumUnits g [a] - sumUnits g [b])

/-- Round the value (−1)^neg · num/den to an integer (R95, `round_int_m`). -/
def roundIntFrac (mode : RMode) (neg : Bool) (num den : Nat) : Int :=
  let n := num / den
  let n' := if roundsUp mode neg n (num % den) den then n + 1 else n
  if neg then -(n' : Int) else (n' : Int)

/-- `round_int_m` of a finite value. -/
def Val.roundInt (mode : RMode) : Val → Int
  | .fin neg m e => let (x, y) := scaleFrac m 1 e; roundIntFrac mode neg x y
  | _ => 0

/-- An integer as an exact value; the sign of an exact zero is that of R93. -/
def Val.ofInt (mode : RMode) (x : Int) : Val :=
  if x = 0 then .fin (decide (mode = .rdn)) 0 0 else .fin (decide (x < 0)) x.natAbs 0

/-- The value of an `e8m0` encoding (R92). -/
def decodeE8m0 (k : Nat) : Val := if k % 256 = 255 then .nan else .fin false 1 ((k % 256 : Nat) - 127)

/-- Does the value have magnitude above that of `b` (both finite or infinite)? -/
def Val.absVal : Val → Val
  | .nan => .nan
  | .inf _ => .inf false
  | .fin _ m e => .fin false m e

/-- Conversion to a format narrower than its source (R97): the bits and whether the clamp or the NaN rule counts.  A value that is clamped to a
bound of zero keeps its sign (log 17: R97 names no sign there). -/
def narrowVal (f : FloatFmt) (mode : RMode) (bound : Val) (v : Val) : Nat × Bool :=
  let maxV := decodeVal f f.maxBits
  let b := match bound with
    | .fin _ 0 _ => maxV
    | .fin _ m e => if 0 < (Val.fin false m e).cmp maxV then maxV
                    else decodeVal f (roundVal f .rtz (.fin false m e))
    | _ => maxV
  match v with
  | .nan => (f.nanBits, decide (f.special = .finite))
  | v =>
    if 0 < v.absVal.cmp b then
      (let neg := match v with | .inf s => s | .fin s _ _ => s | .nan => false
       (f.signBits neg + roundVal f .rtz b, true))
    else (roundVal f mode v, false)

/-- Integer formats: width and signedness (R88). -/
def intFmt? : Fmt → Option (Nat × Bool)
  | .int8 => some (8, true)
  | .nat8 => some (8, false)
  | .int4 => some (4, true)
  | .nat4 => some (4, false)
  | _ => none

/-- Range of an integer type of width w (R88). -/
def intMin (w : Nat) (sgn : Bool) : Int := if sgn then -(2 ^ (w - 1) : Nat) else 0
def intMax (w : Nat) (sgn : Bool) : Int := if sgn then (2 ^ (w - 1) : Nat) - 1 else (2 ^ w : Nat) - 1

/-- `sat(x, T)` (R95). -/
def satInt (w : Nat) (sgn : Bool) (x : Int) : Int := max (intMin w sgn) (min (intMax w sgn) x)

/-- Floating-point to integer (R98): the result and whether the clamp or the NaN rule took place. -/
def valToInt (mode : RMode) (w : Nat) (sgn : Bool) (v : Val) : Int × Bool :=
  match v with
  | .nan => (0, true)
  | .inf neg => (if neg then intMin w sgn else intMax w sgn, true)
  | v => let x := v.roundInt mode; (satInt w sgn x, decide (satInt w sgn x ≠ x))

end Sys2Proof.Machine
end

