-- ==== Sys2Proof/Machine/Mode.lean ====
section
/-! DEFINITION. Views of the `mode` register (R76, R162, R189). -/

namespace Sys2Proof.Machine

/-- `mode`.etype (R76). -/
def etypeOf (mode : Word) : EType :=
  match bitsOf mode.toNat 13 3 with
  | 0 => .i32 | 1 => .n32 | 2 => .i64 | 3 => .n64 | 4 => .f32 | 5 => .f64 | 6 => .f16x2 | _ => .bf16x2

/-- `mode`.sat (R76). -/
def satOf (mode : Word) : Bool := mode.getLsbD 19

/-- `mode`.gen: a guard register is named (R76). -/
def guardOn (mode : Word) : Bool := mode.getLsbD 8

/-- `mode`.gpol: the guard is on when the register is zero (R76). -/
def guardPol (mode : Word) : Bool := mode.getLsbD 9

/-- `mode`.greg (R76). -/
def guardReg (mode : Word) : Nat := bitsOf mode.toNat 0 8

/-- `mode`.rmode (R76). -/
def rmodeOf (mode : Word) : RMode :=
  match bitsOf mode.toNat 16 3 with
  | 0 => .rne | 1 => .rtz | 2 => .rup | 3 => .rdn | _ => .rna

/-- The bits of `mode` that exist (R76). -/
def modeMask : Word := 0x000FE3FF#32

end Sys2Proof.Machine

namespace Sys2Proof

open Sys2Proof.Machine

/-- Width of the integer view in bits (R162). -/
def EType.width : EType → Nat
  | .i64 | .n64 | .f64 => 64
  | _ => 32

/-- Whether the integer view is signed (R162). -/
def EType.signed : EType → Bool
  | .n32 | .n64 => false
  | _ => true

/-- Whether the view is of 64 bits, so that wide operands are pairs (R162, R238). -/
def EType.wide (t : EType) : Bool := EType.width t == 64

/-- The format of the float view (R189). -/
def EType.fmt : EType → FloatFmt
  | .f64 | .i64 | .n64 => ff64
  | .f16x2 => ff16
  | .bf16x2 => ffbf16
  | _ => ff32

/-- Elements of a register under the float view (R189). -/
def EType.packed : EType → Bool
  | .f16x2 | .bf16x2 => true
  | _ => false

end Sys2Proof
end

