-- ==== Sys2Proof/Machine/Sparse.lean ====
section
/-! DEFINITION. Sparse tables: lists of (key, value) with rising keys that list no default value.  Memory, scratchpad,
register files, tiles and maps of the machine are kept in this one form, so that equal contents are equal data. -/

namespace Sys2Proof.Machine.Sparse

/-- The value at key `i`; `d` where the table lists nothing. -/
def get {α : Type} (d : α) : List (Nat × α) → Nat → α
  | [], _ => d
  | (k, v) :: m, i => if i < k then d else if i = k then v else get d m i

/-- Write `v` at key `i`; writing the default removes the entry. -/
def set {α : Type} [DecidableEq α] (d : α) : List (Nat × α) → Nat → α → List (Nat × α)
  | [], i, v => if v = d then [] else [(i, v)]
  | (k, w) :: m, i, v =>
    if i < k then (if v = d then (k, w) :: m else (i, v) :: (k, w) :: m)
    else if i = k then (if v = d then m.dropWhile (fun p => decide (p.1 ≤ i)) else (k, v) :: m.dropWhile (fun p => decide (p.1 ≤ i)))
    else (k, w) :: set d m i v

/-- Keys rise strictly from `lo` on and no entry is the default. -/
def wfFrom {α : Type} [DecidableEq α] (d : α) : Nat → List (Nat × α) → Bool
  | _, [] => true
  | lo, (k, v) :: m => decide (lo ≤ k) && decide (v ≠ d) && wfFrom d (k + 1) m

/-- The canonical form of a table. -/
def wf {α : Type} [DecidableEq α] (d : α) (m : List (Nat × α)) : Bool := wfFrom d 0 m

/-- Write several entries, the first of the list first. -/
def setAll {α : Type} [DecidableEq α] (d : α) (m : List (Nat × α)) : List (Nat × α) → List (Nat × α)
  | [] => m
  | (k, v) :: ws => setAll d (set d m k v) ws

/-- The `n` values at keys `i`, `i + 1`, … -/
def run {α : Type} (d : α) (m : List (Nat × α)) (i : Nat) : Nat → List α
  | 0 => []
  | n + 1 => get d m i :: run d m (i + 1) n

/-- Write consecutive entries from key `i` on. -/
def setRun {α : Type} [DecidableEq α] (d : α) (m : List (Nat × α)) (i : Nat) : List α → List (Nat × α)
  | [] => m
  | v :: vs => setRun d (set d m i v) (i + 1) vs

/-- The entries that a read from key `b` on sees, without those with a key in `[lo, lo + n)`. -/
def clearFrom {α : Type} (lo n : Nat) : Nat → List (Nat × α) → List (Nat × α)
  | _, [] => []
  | b, (k, v) :: m =>
    if k < b then clearFrom lo n b m
    else if lo ≤ k ∧ k < lo + n then clearFrom lo n (k + 1) m
    else (k, v) :: clearFrom lo n (k + 1) m

/-- Remove every entry with a key in `[lo, lo + n)`. -/
def clearRun {α : Type} (m : List (Nat × α)) (lo n : Nat) : List (Nat × α) := clearFrom lo n 0 m

end Sys2Proof.Machine.Sparse
end

