-- ==== Sys2Proof/Machine/State.lean ====
section
/-! DEFINITION. The state of the machine as plain data, the outcomes of a step, and the state after reset. -/

namespace Sys2Proof.Machine

/-- A table of records by number; a number that is not listed has none.  Canonical in the sense of `Sparse`. -/
abbrev Table (α : Type) := List (Nat × Option α)

/-- Trap causes (R285). -/
inductive Trap where
  | illegalOp | misaligned | xlateFault | rangeConflict | portSequence | aliasAttr | worldViolation | svcFault | software
  deriving DecidableEq, Repr

/-- An entry of the return stack (R166). -/
structure RetEntry where
  depth : Nat
  addr : VAddr
  deriving DecidableEq, Repr

/-- Kinds of divergence entries (R169). -/
inductive DivKind where
  | ifPath | elsePath | loop
  deriving DecidableEq, Repr

/-- An entry of the divergence stack (R169). -/
structure DivEntry where
  kind : DivKind
  outer : LaneSet
  pend : LaneSet
  target : VAddr
  deriving DecidableEq, Repr

/-- The clause a team runs: its address, header, words, and the position of the next instruction (R146, R147).
`words` is empty where a resumed clause is still to be fetched (R287); `seen` are then its words as they were fetched before, which tell the
length of the instruction at `pos`. -/
structure Clause where
  addr : VAddr
  h0 : Word
  h1 : Word
  words : List Word
  pos : Nat
  seen : List Word
  deriving DecidableEq, Repr

/-- An entry of the hold latch: the register, how many further instructions it serves, and its value in each lane (R82).  An entry
with `left = 0` serves none: it notes a register that the instruction which issues has written, until that instruction ends (R84). -/
structure HoldEntry where
  reg : Reg
  left : Nat
  vals : List Word
  deriving DecidableEq, Repr

/-- What a reuse-A latch holds: the first A register, the word of the team whose A it is, and the eight rows of A (R83, R223). -/
structure ReuseA where
  reg : Reg
  word : Nat
  rows : List Nat
  deriving DecidableEq, Repr

/-- A register write of a long-latency instruction that has not completed; `contested` once a later
instruction has written the register (R150), and `ready` once the access that gives the value has been performed. -/
structure PendWrite where
  val : Word
  contested : Bool
  ready : Bool
  deriving DecidableEq, Repr

/-- The operations of the atomics (R247). -/
inductive AtomOp where
  | add | min | max | and | or | xor | xchg | cas | inc | fadd
  deriving DecidableEq, Repr

/-- An active row of an octet unit in a K-step: the row of A, and for `mmas` its metadata (R216, R225). -/
structure KRow where
  row : Nat
  a : Nat
  idx : Option Nat
  deriving DecidableEq, Repr

/-- One K-step of a matrix instruction on an octet unit: the formats, the tile width, the tile, the unit and the active rows (R216, R224). -/
structure KStep where
  fa : Fmt
  fb : Fmt
  width : Nat
  tile : Nat
  unit : Nat
  rows : List KRow
  deriving DecidableEq, Repr

/-- A polynomial accumulator (R105): coefficients as `f64` encodings. -/
structure PolyAcc where
  coef : List (Nat × Dword)
  deg : Nat
  e : Int
  n : Nat
  trunc : Bool
  poison : Bool
  deriving DecidableEq, Repr

/-- What an instruction makes of the bytes that its parts have read, once it has them all (R129, R150): `acld` a row of a tile of a lane,
`ldmeta` a granule, `ppld` an accumulator, and a matrix instruction a K-step with its B. -/
inductive Taker where
  | row (width tile lane : Nat)
  | granule (k : Nat)
  | poly (n : Nat)
  | step (k : KStep)
  deriving DecidableEq, Repr

/-- What an access that a team has been accepted for still has to do when it is performed (R129, R149): a load places its bytes in
the registers of `keys`, extended where `ext` says how; an atomic works under `mode`; `merge` is `apmul`; a `part` reads bytes that a taker of
the same instruction and lane takes from `off` on, and `take` is that taker, with the bytes that it has so far. -/
inductive LateKind where
  | load (keys : List Nat) (ext : Option Bool) (home : Bool)
  | store (bytes : List Byte)
  | atomic (keys : List Nat) (op : AtomOp) (mode : Word) (x cmp : Nat)
  | merge (p : PolyAcc)
  | part (lane off : Nat)
  | take (lane : Nat) (data : List (Nat × Byte)) (x : Taker)
  deriving DecidableEq, Repr

/-- Bytes that an access is performed on at once: in scratchpad, or at a physical address whose line is memory-side or not. -/
structure Target where
  scratch : Bool
  msd : Bool
  addr : Nat
  len : Nat
  deriving DecidableEq, Repr

/-- An access of a team that has been accepted and is still to be performed at its target (R129 to R132): the instruction in flight that
made it, and whether it is a release. -/
structure LateAcc where
  id : Nat
  places : List Target
  rel : Bool
  kind : LateKind
  deriving DecidableEq, Repr

/-- What the interlocks of R150 guard: the tiles, the metadata, and a polynomial accumulator. -/
inductive Guarded where
  | tiles
  | granules
  | poly (n : Nat)
  deriving DecidableEq, Repr

/-- A long-latency instruction in flight: the flag it set and the register writes it has yet to make,
by key (R149, R150). -/
structure InFlight where
  id : Nat
  flag : Option Nat
  writes : Table PendWrite
  deriving DecidableEq, Repr

/-- The core's copy of the active trap frame (R284); `phys` is the physical address of the 512 bytes, where
action and done stand, `msd` says that its lines are memory-side, and `lanes` the lanes active at the trap (R239). -/
structure Frame where
  phys : Nat
  msd : Bool
  pc : VAddr
  cause : Nat
  arg : Word
  tva : VAddr
  level : Nat
  h0 : Word
  h1 : Word
  slot : Nat
  /-- words of the trapping clause, as they were fetched (R287) -/
  seen : List Word
  inClause : Bool
  retDepth : Nat
  divDepth : Nat
  mode : Word
  part : BitVec 3
  mask : LaneSet
  lanes : LaneSet
  saved : List Word
  deriving DecidableEq, Repr

/-- Who met a translation failure: the code of its fault record (R331). -/
structure FaultPost where
  code : Nat
  cause : Nat
  write : Bool
  fetch : Bool
  space : Nat
  world : Nat
  die : Nat
  core : Nat
  slot : Nat
  lane : Nat
  addr : Nat
  aux : Nat
  /-- the mode in which the event arose was host-assisted (R365); no field of the record -/
  assisted : Bool
  deriving DecidableEq, Repr

/-- A trap that a team will take once it has drained (R283); `head` is the header of a clause that failed its checks (R284). -/
structure PendTrap where
  trap : Trap
  arg : Nat
  tva : Nat
  done : LaneSet
  post : Option FaultPost
  head : Word × Word
  deriving DecidableEq, Repr

/-- What a team that is not runnable waits for (R46). -/
inductive Wait where
  /-- a completion flag that an instruction is to set (R80) -/
  | flag (f : Nat)
  /-- room in the channel to a team of the crew (R34) -/
  | give (taker : Nat)
  /-- a give from a team of the crew (R34) -/
  | claim (giver : Nat)
  /-- entries of the range-lock table (R126, R127) -/
  | rangeLock (need : Nat)
  /-- a batch number to complete (R258) -/
  | batch (n : Nat)
  /-- fewer than 64 closed batches that have not completed (R257) -/
  | bclose
  /-- the instance of a barrier to be complete (R252) -/
  | barrier (n : Nat)
  /-- the awaited page; the crew is Parked (R65) -/
  | await
  /-- a service batch to come back (R265) -/
  | svc
  /-- free slots in the service area (R294) -/
  | svcRoom (need : Nat)
  /-- a service batch to be pending (R294) -/
  | svcnext
  /-- the end of a save (R293) -/
  | ctxsv
  /-- a grid identifier to become free (R78) -/
  | gridId
  /-- a slot of the fault queue (R330) -/
  | faultSlot
  /-- the host's answer for a page (R333) -/
  | ats (space page : Nat)
  /-- the team's earlier accesses to be performed (R132, R149) -/
  | accesses
  /-- the team's earlier reads to be performed (R133) -/
  | reads
  /-- the team's earlier accesses to some of these bytes to be performed (R116, R130) -/
  | bytes (ps : List Target)
  /-- earlier instructions of the team that write what an interlock guards to complete (R150) -/
  | interlock (g : Guarded)
  /-- engine operations that have used a translation that `tlbinv` removed (R289) -/
  | tlbinv (ops : List Nat)
  deriving DecidableEq, Repr

/-- A staged command (R120). -/
structure Port where
  w0 : Dword
  w1 : Dword
  w2 : Dword
  w3 : Dword
  written : BitVec 4
  deriving DecidableEq, Repr

/-- A closed batch: its number, the done bytes of its ended operations, and the code of its widest scope (R124, R259). -/
structure BatchCount where
  number : Nat
  bytes : Nat
  scope : Nat
  deriving DecidableEq, Repr

/-- The number of the last closed batch and the counts of the 64 most recent ones (R124, R259); done bytes and widest scope of
the operations of the open batch that had ended when the crew was last drained (R367); the batches whose scope is wider than that of every
earlier one, with that scope (R139). -/
structure BatchLog where
  last : Nat
  counts : List BatchCount
  openDone : Nat
  openScope : Nat
  widest : List (Nat × Nat)
  deriving DecidableEq, Repr

/-- Whose barrier (R251): the crew, or a grid with its quad, its die or the module, or a group of the pod. -/
inductive BarOwner where
  | crew (id : Nat)
  | quad (gid : Word) (quad : Nat)
  | die (gid : Word) (die : Nat)
  | pkg (gid : Word)
  | pod (group : Word)
  deriving DecidableEq, Repr

/-- A barrier of a grid of its own. -/
def BarOwner.isOf (o : BarOwner) (g : Word) : Bool :=
  match o with
  | .quad gid _ => gid == g
  | .die gid _ => gid == g
  | .pkg gid => gid == g
  | .crew _ => false
  | .pod _ => false

/-- How wide a set of members is. -/
def BarOwner.width : BarOwner → Nat
  | .crew _ => 0
  | .quad _ _ => 1
  | .die _ _ => 2
  | .pkg _ => 3
  | .pod _ => 4

/-- A team's arrival at a barrier from which it has not departed (R252); `inst` is the identity of the instance, wherever the crew moves
(R315), and `bar` is true while a `bar` that recorded it has not ended. -/
structure Arrival where
  scope : Scope
  barrier : Nat
  inst : Nat
  bar : Bool
  deriving DecidableEq, Repr

/-- A call handed to the service teams (R265, R294): the batches that are out, the lanes that called, and the lanes whose
calls have succeeded. -/
structure SvcCall where
  out : Nat
  lanes : LaneSet
  success : LaneSet
  deriving DecidableEq, Repr

/-- A team (R21, R33). -/
structure Team where
  crew : Nat
  index : Nat
  role : Nat
  lanes : Nat
  /-- vector registers by key `lane · 256 + register` (R74) -/
  vregs : List (Nat × Word)
  /-- uniform registers (R74) -/
  sregs : List (Nat × Word)
  /-- completion flags f0 to f11 (R80) -/
  flags : BitVec 12
  mode : Word
  part : BitVec 3
  /-- the sticky bits of `x.stat` (R79) -/
  stat : BitVec 3
  mask : LaneSet
  present : LaneSet
  pc : VAddr
  clause : Option Clause
  ret : List RetEntry
  div : List DivEntry
  hold : List HoldEntry
  /-- what the reuse-A latches of the core's octet units hold for the team, by unit (R83); at most one team of a core holds a unit's -/
  reuse : Table ReuseA
  level : Nat
  frame : Option Frame
  ctxcrew : Word
  ctxstat : Word
  tlbspace : Word
  port : Port
  batches : BatchLog
  arrivals : List Arrival
  svc : Option SvcCall
  /-- lanes that a replayed access is still to perform, and the lanes done (R240) -/
  replay : Option (LaneSet × LaneSet)
  inflight : List InFlight
  /-- accepted accesses that are still to be performed, oldest first (R129, R131) -/
  late : List LateAcc
  pending : Option PendTrap
  wait : Option Wait
  /-- gives up the next issue slot (R46) -/
  yielded : Bool
  lastIssue : Nat
  deriving DecidableEq, Repr

/-- A pending give: first register, count, and the values by key `lane · 256 + register` (R34). -/
structure Give where
  first : Nat
  count : Nat
  lanes : Nat
  vals : List (Nat × Word)
  deriving DecidableEq, Repr

/-- Phases of a crew that exists (R39): Queued, Validated and Awaiting keys are phases of its launch record.
`leaving` is a crew that retires or is removed (R41, R283). -/
inductive Phase where
  | resident | parked | evicted | saved | leaving
  deriving DecidableEq, Repr

/-- Why a crew stops at its next instruction boundaries (R67, R71, R293, R312, R315). -/
inductive Stop where
  | awaitCycle
  /-- `written` once the image has been handed to the device agent that writes it; `by_` is the team whose `ctxsv` asked for it -/
  | evict (written : Bool) (by_ : Option TeamRef)
  | save (by_ : TeamRef) (addr : Nat)
  | discard (by_ : Option TeamRef)
  | migrate (core : Nat)
  deriving DecidableEq, Repr

/-- The page-bound values of a crew (R57). -/
structure PageInfo where
  index : Nat
  paddr : Nat
  arrival : Nat
  retry : Nat
  pstat : Nat
  pwin : Nat
  deriving DecidableEq, Repr

/-- What a crew declares (R85). -/
structure Alloc where
  regs : Nat
  accs : Nat
  granules : Nat
  pp : Nat
  scratch : Nat
  words : Nat
  deriving DecidableEq, Repr

/-- A crew that is Resident, Parked, Evicted or Saved. -/
structure Crew where
  gid : Word
  index : Word
  phase : Phase
  die : Nat
  core : Nat
  /-- residency slots of its teams in ascending `x.team` (R366) -/
  slots : List Nat
  world : Nat
  cls : Nat
  group : Word
  coop : Bool
  fuse : Bool
  task : Option Nat
  committed : Bool
  page : Option PageInfo
  alloc : Alloc
  /-- scratchpad bytes by crew-relative offset (R112) -/
  scratch : List (Nat × Byte)
  /-- tile elements by key `(unit · 32 + tile) · 64 + element` (R218) -/
  tiles : List (Nat × Word)
  /-- metadata bytes by key `(unit · 8 + granule) · 256 + byte` (R225) -/
  metadata : List (Nat × Byte)
  pps : List (Nat × PolyAcc)
  /-- handover channels by key `giver · 4 + taker` (R34) -/
  channels : Table Give
  /-- teams while the crew is not on a core -/
  teams : List Team
  /-- page awaited, with the issuing team and its destination (R65) -/
  await : Option (Nat × Nat × Reg)
  /-- the status that the `await` of an evicted crew is to return, with the team and its destination (R65, R71) -/
  woken : Option (Nat × Reg × Nat)
  /-- the read of its park slot has failed, and its record awaits a reply (R332) -/
  landWait : Bool
  /-- entered its fault entry (R61) -/
  faulted : Bool
  doubleTrap : Bool
  stop : Option Stop
  placedAt : Nat
  parkedAt : Nat
  deriving DecidableEq, Repr

/-- Registers of a core (R282). -/
structure CoreRegs where
  tvec : VAddr
  tframe : VAddr
  deriving DecidableEq, Repr

def CoreRegs.initial : CoreRegs := ⟨0, 0⟩

/-- A line in an L1 (R113, R117, R295); `cache` is the core that holds it. -/
structure L1Line where
  cache : Nat
  line : Nat
  world : Nat
  data : List Byte
  deriving DecidableEq, Repr

/-- An entry of a TLB: of a core of the die, or of the die's last-level TLB (R327).  It maps `span` 4 KiB pages of a space from `page`
on; `leaf` is the leaf of the first, and `level` the level of its leaves. -/
structure TlbEntry where
  die : Nat
  core : Option Nat
  space : Nat
  page : Nat
  span : Nat
  leaf : Dword
  level : Nat
  deriving DecidableEq, Repr

/-- A non-leaf entry that the walker of a die keeps (R327): the table of a level for the addresses whose bits above that level's
index are `index`. -/
structure WalkEntry where
  die : Nat
  space : Nat
  level : Nat
  index : Nat
  table : Nat
  deriving DecidableEq, Repr

/-- An entry of a range-lock table (R126); `batch` is 0 for the open batch. -/
structure RangeLock where
  die : Nat
  core : Nat
  slot : Nat
  op : Nat
  scratch : Bool
  write : Bool
  base : Nat
  len : Nat
  deriving DecidableEq, Repr

/-- Why a fault record was posted, so that its reply can be acted on (R332). -/
inductive FaultOwner where
  | none
  | engine (op : Nat) (page : Nat) (write : Bool)
  | listBlock (gid : Word) (block : Nat)
  | agent (id : Nat)
  | landing (crew : Nat)
  | keys (task : Nat)
  | slot (ctx slot : Nat)
  | reader (key : Nat)
  deriving DecidableEq, Repr

/-- A record of a fault queue as the device remembers it (R330, R332): `answer` is `true` for a reply with retry. -/
structure FaultRec where
  index : Word
  post : FaultPost
  owner : FaultOwner
  answer : Option Bool
  deriving DecidableEq, Repr

/-- An access counter (R334). -/
structure Counter where
  die : Nat
  space : Nat
  region : Nat
  count : Nat
  world : Nat
  deriving DecidableEq, Repr

/-- A dirty host line that a home slice holds (R17, R354). -/
structure DirtyLine where
  line : Nat
  world : Nat
  seq : Nat
  data : List Byte
  deriving DecidableEq, Repr

/-- An ATS Translation Request: not yet answered, or answered without a grant (R333). -/
structure AtsReq where
  die : Nat
  space : Nat
  page : Nat
  write : Bool
  denied : Bool
  deriving DecidableEq, Repr

/-- An expert window that a weight context has mapped (R347). -/
structure Window where
  world : Nat
  base : Nat
  bytes : Nat
  pa : Nat
  attr : Nat
  deriving DecidableEq, Repr

/-- The memory system: memory, caches, translations, locks and fault queues. -/
structure MemSys where
  /-- memory by physical address (R319); a byte nothing has written reads `Memory.unwritten` -/
  mem : List (Nat × Byte)
  /-- poisoned lines by line number (R326) -/
  poison : List (Nat × Bool)
  /-- replay counters of the integrity-protected lines by line number (R326) -/
  replays : List (Nat × Nat)
  /-- the frame ownership map by frame number (R324) -/
  frames : List (Nat × BitVec 16)
  /-- held lines by line number (R51, R253) -/
  held : List (Nat × Bool)
  l1 : List L1Line
  /-- fused quads by die · 16 + quad (R117) -/
  fused : List (Nat × Bool)
  /-- entries of the TLBs, the one filled last first (R327) -/
  tlb : List TlbEntry
  /-- non-leaf entries that the walkers keep (R327) -/
  walks : List WalkEntry
  ats : List AtsReq
  /-- dirty host lines, oldest first (R354) -/
  dirty : List DirtyLine
  /-- the data link is active (R354) -/
  linkUp : Bool
  /-- the interface lets the device access host memory (R361) -/
  hostOk : Bool
  /-- fenced modules (R357) -/
  fenced : List Nat
  /-- this module has received a fence flit and stopped its pod traffic (R357) -/
  podDown : Bool
  /-- sequence numbers of the home slices (R118) -/
  seq : List (Nat × Nat)
  locks : List RangeLock
  counters : List Counter
  /-- the records, still to be posted, of counters that have reached the threshold or have left the cache (R334) -/
  reached : List FaultPost
  /-- next record index of each die (R330) -/
  faultNext : List (Nat × Word)
  /-- records by die (R330) -/
  faults : List (Nat × FaultRec)
  /-- posts that wait for a slot, oldest first (R330) -/
  posts : List (Nat × FaultPost × FaultOwner)
  /-- expert windows (R347) -/
  windows : List Window
  /-- physical addresses of the doorbell pages of the launch queues (R296) -/
  bells : List Nat
  /-- doorbell writes by teams that are still to act: physical address and bytes (R296, R332) -/
  rung : List (Nat × List Byte)
  /-- read-only fields of records in memory that are in use: first byte and length (R7, R296, R341, R356) -/
  fixed : List (Nat × Nat)
  /-- completion entries that have been written, by the channel of their queue and physical address: read-only while the queue lives
  (R7, R299) -/
  completions : List (Nat × Nat)
  /-- the modes of fault servicing, of migration and of routing: host-assisted (R365) -/
  assistFaults : Bool
  assistMigration : Bool
  assistRouting : Bool
  bring : BringUp
  deriving DecidableEq, Repr

/-- What a byte of memory that nothing has written reads as.  DESIGN CHOICE (log 1): the spec gives no contents. -/
def Memory.unwritten : Byte := 0

/-- The canonical form of memory. -/
def Memory.wf (m : List (Nat × Byte)) : Bool := Sparse.wf Memory.unwritten m

def MemSys.initial : MemSys where
  mem := []
  poison := []
  replays := []
  frames := []
  held := []
  l1 := []
  fused := []
  tlb := []
  walks := []
  ats := []
  dirty := []
  linkUp := false
  hostOk := false
  fenced := []
  podDown := false
  seq := []
  locks := []
  counters := []
  reached := []
  faultNext := []
  faults := []
  posts := []
  windows := []
  bells := []
  rung := []
  fixed := []
  completions := []
  assistFaults := false
  assistMigration := false
  assistRouting := false
  bring := BringUp.initial

/-! Grids, tasks and nodes. -/

/-- A team of a grid record (R300). -/
structure TeamDecl where
  lanes : Nat
  role : Nat
  deriving DecidableEq, Repr

/-- A grid record that has passed its checks (R300, R301).  `alloc.scratch` is the whole scratchpad allocation of a
crew, page window included; `count` is gx·gy·gz, or N. -/
structure GridRec where
  paged : Bool
  entry : VAddr
  faultEntry : VAddr
  arg : Nat
  coop : Bool
  fuse : Bool
  cls : Nat
  threshold : Nat
  teams : List TeamDecl
  alloc : Alloc
  group : Word
  logBase : Nat
  gx : Nat
  gy : Nat
  gz : Nat
  tileBase : Nat
  strideX : Nat
  strideY : Nat
  strideZ : Nat
  count : Nat
  listAddr : Nat
  parkBase : Nat
  parkSlots : Nat
  stateAddr : Nat
  pwin : Nat
  deriving DecidableEq, Repr

/-- Who submitted a grid (R299, R305). -/
inductive Origin where
  | queue (q : Nat) (index : Word)
  | device
  deriving DecidableEq, Repr

/-- A page of a page-bound grid (R49, R52, R57).  `sensed` is the outcome of the sense sequence, `x.pstat`, once it has ended; `data` the
16 KiB that the sense corrected, by offset (R55), and `shift` the read-level shift of the last sense (R55, R314). -/
structure PageSt where
  entry : Dword
  valid : Bool
  state : Nat
  rank : Nat
  die : Nat
  core : Nat
  retry : Nat
  awaited : Option Nat
  fault : Bool
  sensed : Option Nat
  data : List (Nat × Byte)
  shift : Nat
  deriving DecidableEq, Repr

/-- An entry of a straggler log (R253). -/
structure LogEntry where
  rank : Nat
  late : Nat
  inst : Nat
  straggler : Bool
  deriving DecidableEq, Repr

/-- A grid that has been accepted and has not ended. -/
structure Grid where
  gid : Word
  record : GridRec
  world : Nat
  level : Nat
  origin : Origin
  /-- place in the order of submissions (R53, R313) -/
  order : Nat
  task : Option Nat
  /-- crews of a counted grid that have been placed -/
  placed : List (Nat × Bool)
  launched : Nat
  retired : Nat
  corrected : Nat
  uncorrectable : Nat
  /-- page that caused an abort (R59) -/
  abort : Option Nat
  /-- sequence number of the last update that wrote the state area (R51) -/
  seq : Nat
  /-- home slice of the state area, and its lines (R51) -/
  home : Nat
  stateLines : List Nat
  /-- lines of the barrier log (R253) -/
  logLines : List Nat
  /-- page-list blocks that have been read, or whose read waits for a reply (R50) -/
  blocks : List (Nat × Nat)
  pages : Table PageSt
  /-- park slots in use: slot and crew (R70) -/
  park : Table Nat
  /-- sequence numbers of the barrier log sections (R253) -/
  logSeq : List (Nat × Nat)
  /-- log entries by barrier · 2^32 + crew (R253) -/
  log : Table LogEntry
  /-- quads, as die · 16 + quad, in which crews of the grid have retired (R251, R254) -/
  gone : List Nat
  deriving DecidableEq, Repr

/-- A launch queue (R296). -/
structure Queue where
  desc : Nat
  bell : Nat
  ringBase : Nat
  doneBase : Nat
  log2 : Nat
  level : Nat
  world : Nat
  status : Nat
  head : Word
  tail : Word
  errorOffset : Word
  deriving DecidableEq, Repr

/-- Where a task stands before its crew is placed (R39, R307, R308). -/
inductive TaskPhase where
  /-- the task is to request the key at a place of its order -/
  | want (i : Nat)
  /-- the request has arrived at the key's home -/
  | wait (i : Nat)
  /-- the key table of a die was full: the task holds nothing and restarts after the release count given -/
  | restart (die releases : Nat)
  /-- the overflow record awaits system software's answer -/
  | overflow (i : Nat)
  /-- every key is held -/
  | ready
  | running
  deriving DecidableEq, Repr

/-- A task: a crew launched by `tsub` or formed from a node's bin (R261, R277). -/
structure Task where
  record : GridRec
  gid : Option Word
  world : Nat
  die : Nat
  arg : Nat
  keys : List Nat
  /-- sequence number that the die assigned at submission (R306) -/
  seq : Nat
  order : Nat
  /-- the node records of a group, in order (R277) -/
  records : List (List Byte)
  phase : TaskPhase
  /-- the grid record as it was read, for the validation of a discarded task (R39) -/
  raw : List Byte
  deriving DecidableEq, Repr

/-- A node and its bin (R302, R303). -/
structure Node where
  record : GridRec
  world : Nat
  count : Nat
  timer : Nat
  bin : List (List Byte)
  /-- the grid record as it was read (R39, R302) -/
  raw : List Byte
  deriving DecidableEq, Repr

/-- An entry of a key table: the holder and the tasks that wait, in arrival order (R306, R307). -/
structure KeyEntry where
  die : Nat
  key : Nat
  holder : Option Nat
  waiters : List Nat
  deriving DecidableEq, Repr

/-! Barriers. -/

/-- An instance of a barrier number at which some member has arrived and that is not complete (R252): its identity, the names by which
its arrivals call its one set of members, the barrier number, the instance's own number, the arrivals of teams (crew and team), the crews of
this module that have arrived, and the crews of other modules that have (module and crew). -/
structure BarState where
  id : Nat
  names : List BarOwner
  number : Nat
  inst : Nat
  arrived : List (Nat × Nat)
  ranked : List Nat
  remote : List (Nat × Nat)
  deriving DecidableEq, Repr

/-! Device agents. -/

/-- A write of a device agent (R329): writes of one channel are made in order. -/
structure AgentWrite where
  id : Nat
  chan : Nat
  die : Nat
  world : Nat
  va : Nat
  data : List Byte
  msd : Bool
  /-- a fault record has been posted and awaits its reply -/
  waiting : Bool
  deriving DecidableEq, Repr

/-! Engines. -/

/-- Phases of an engine operation (R120, R125). -/
inductive OpPhase where
  | running | stopped | sent | ended
  deriving DecidableEq, Repr

/-- A page that an engine operation failed on, with its record (R336). -/
structure FailPage where
  page : Nat
  write : Bool
  index : Word
  /-- `true` for a reply with retry (R332) -/
  answer : Option Bool
  deriving DecidableEq, Repr

/-- A page that an engine operation has translated in this start or resume (R336). -/
structure WalkedPage where
  page : Nat
  write : Bool
  leaf : Dword
  level : Nat
  deriving DecidableEq, Repr

/-- A run of bytes that an engine operation reads or writes: a physical address with the virtual one and the leaf, an offset in scratchpad, or a
byte of flash; `heal` where it ends a line that the operation writes whole (R326). -/
structure EngLoc where
  space : Nat
  addr : Nat
  va : Nat
  len : Nat
  leaf : Dword
  heal : Bool
  deriving DecidableEq, Repr

/-- A sector or element that an engine operation is moving (R125): the units that it has yet to read and to write, each of which it reads or
writes at once (R129), the bytes read and not yet written, and the bytes that it counts when it is done. -/
structure Xfer where
  reads : List (List EngLoc)
  got : List Byte
  writes : List (List EngLoc)
  count : Nat
  deriving DecidableEq, Repr

/-- Why a unit is not performed. -/
inductive EngFail where
  /-- a translation failure that is to be posted -/
  | miss (write : Bool) (cause va : Nat)
  /-- a page that has failed in this start already (R336) -/
  | known
  /-- the host's answer is awaited (R333) -/
  | ats (write : Bool) (va : Nat)
  /-- the operation ends (R125) -/
  | stop (code cause : Nat) (write : Bool) (addr : Nat)
  /-- a flash page is being erased or programmed (R350) -/
  | busy
  deriving DecidableEq, Repr

/-- An engine operation of a batch (R120 to R125). -/
structure EngineOp where
  id : Nat
  crew : Nat
  team : Nat
  die : Nat
  core : Nat
  slot : Nat
  world : Nat
  level : Nat
  /-- the closed batch; none while the batch is open -/
  batch : Option Nat
  /-- the number that the batch has or will take -/
  number : Nat
  /-- operation that must end first (chain_prev) -/
  prev : Option Nat
  w0 : Dword
  w1 : Dword
  w2 : Dword
  w3 : Dword
  phase : OpPhase
  /-- record of a chain that runs, and its command words once read; of a send, 0 until it arrives at this module, 1 while it
  waits there, 2 once it is delivered and 3 once it is refused (R356) -/
  record : Nat
  sub : Option (Dword × Dword × Dword × Dword)
  /-- next unit in order -/
  next : Nat
  /-- units to be performed again after a resume -/
  redo : List Nat
  /-- runs of missing units: first unit and count -/
  missing : List (Nat × Nat)
  /-- the first unit that joined the last run without a walk of its own (R125) -/
  tail : Option Nat
  fails : List FailPage
  /-- pages translated in this start or resume (R336) -/
  walked : List WalkedPage
  /-- the unit at the head as it is moved -/
  xfer : Option Xfer
  /-- a failure whose record waits for a free slot of the fault queue, and whether it arose in host-assisted mode (R330, R336, R365) -/
  failing : Option (EngFail × Bool)
  done : Nat
  failed : Bool
  /-- source bytes of a send, by unit -/
  payload : List (Nat × List Byte)
  deriving DecidableEq, Repr

/-! Services. -/

/-- A service batch (R294). -/
structure SvcBatch where
  caller : TeamRef
  crew : Nat
  team : Nat
  mask : Word
  word : Nat
  taken : Bool
  deriving DecidableEq, Repr

/-! Fabric, links and firmware. -/

/-- A send that waits for room in a receive ring (R356); `written` once its bytes have been handed to the device agent. -/
structure WaitSend where
  ring : Nat
  msg : SendMsg
  written : Bool
  deriving DecidableEq, Repr

/-- An entry of a quarantine region (R354). -/
structure QEntry where
  data : List Byte
  pa : Nat
  seq : Nat
  world : Nat
  status : Nat
  deriving DecidableEq, Repr

/-- A page request group outstanding, with its one Page Request (R337). -/
structure PriGroup where
  die : Nat
  index : Word
  pasid : Nat
  page : Nat
  read : Bool
  write : Bool
  last : Bool
  deriving DecidableEq, Repr

/-- Interface states (R361). -/
inductive Iface where
  | unlocked | locked | run | error
  deriving DecidableEq, Repr

/-- Where the module stands in a start (R358, R364). -/
inductive StartPhase where
  | off | starting | ready | bare | failed
  deriving DecidableEq, Repr

/-- An entry of the scrub journal (R362); `assisted` is the mode in which its scrub arose, host-assisted (R365), and no field of the journal. -/
structure JEntry where
  world : Nat
  state : Nat
  first : Nat
  count : Nat
  low : Nat
  assisted : Bool
  deriving DecidableEq, Repr

/-- A response on the session's response ring (R359): the words of an answer, or an error, or busy. -/
inductive Response where
  | ok (data : List Nat)
  | error
  | busy
  /-- the quarantine report: entries held by slice (R354) -/
  | quarantine (counts : List Nat)
  deriving DecidableEq, Repr

/-- Germ, Husk and the session (R358 to R365). -/
structure Firm where
  phase : StartPhase
  iface : Iface
  /-- STOP has been accepted and the queues drain -/
  stopping : Bool
  session : Option Nat
  lastSeq : Option Nat
  discarded : Nat
  ringTail : Nat
  responses : List Response
  faults : Bool
  migration : Bool
  keys : Bool
  routing : Bool
  scrub : Bool
  status : Word
  /-- the measurement log: the digests of the images measured, the last one first (R358) -/
  measured : List (BitVec 256)
  /-- the attestation report given out last: the measurement log and Germ's signature of it (R358) -/
  report : Option (List (BitVec 256) × List Byte)
  journal : Table JEntry
  worldKeys : List Nat
  image : List Byte
  parts : List Byte
  partTotal : Nat
  deriving DecidableEq, Repr

/-! Weights (R341 to R349). -/

/-- A live batch of a weight context (R346). -/
structure WBatch where
  tag : Nat
  gen : Nat
  touched : List Nat
  deriving DecidableEq, Repr

/-- A slot of a weight context (R347). -/
structure WSlot where
  gen : Nat
  layer : Nat
  expert : Nat
  users : Nat
  loading : Bool
  /-- the copy has failed, and its record awaits a reply (R332) -/
  waiting : Bool
  deriving DecidableEq, Repr

/-- A route entry in work: experts still to be served with their scores, the entry, and the slot the next one uses once it is
known; `ring` where the entry stands in the ring. -/
structure RouteWork where
  tag : Nat
  entry : List Byte
  experts : List (Nat × Nat)
  slot : Option (Option Nat)
  ring : Bool
  /-- its next record has found its bin full: the Acorn is held until the bin has room (R346) -/
  full : Bool
  deriving DecidableEq, Repr

/-- An enabled weight context: its descriptor's bytes, and the Acorn's state (R341, R346). -/
structure WCtx where
  desc : List Byte
  batches : List WBatch
  slots : Table WSlot
  side : List (List Byte)
  work : Option RouteWork
  layer : Nat
  head : Nat
  rejected : Nat
  /-- the current generation as last read (R346) -/
  current : Nat
  deriving DecidableEq, Repr

/-! What happens of itself, and from outside. -/

/-- An internal event that can be due (log 2). -/
inductive Due where
  | trapEntry (r : TeamRef)
  | lateAccess (r : TeamRef)
  | longLatencyCompletion (r : TeamRef) (id : Nat)
  | engineOperationStart (r : TeamRef)
  | crewRetire (crew : Nat)
  | awaitCycle (crew : Nat)
  | eviction (crew : Nat)
  | crewSave (r : TeamRef)
  | taskDiscard (crew : Nat)
  | thermalMigration (crew core : Nat)
  | crewWake (crew : Nat)
  | reLanding (crew : Nat)
  | pageReservation (die : Nat)
  | crewPlacement (die : Nat)
  | faultRecordPost (die : Nat)
  | pageRequestSend (die : Nat)
  | pageListBlockRead (die : Nat) (gid : Word) (block : Nat)
  | pageSense (gid : Word) (page : Nat) (corrected : Bool)
  | pageLanding (gid : Word) (page : Nat)
  | launchRecordRead (q : Nat)
  | nodeSetup (q : Nat)
  | keyRequest (task : Nat)
  | keyAcquisitionRestart (task : Nat)
  | keyGrant (key : Dword)
  | engineSector (r : TeamRef) (op : Nat)
  | sendAcknowledge (r : TeamRef) (op : Nat) (accepted : Bool)
  | sendArrival (m : SendMsg)
  | receiveRingDelivery (ring : Nat)
  | accessCounterThreshold (die space region : Nat)
  | groupForm (node : Nat)
  | acornFault (ctx : Nat)
  | weightContextEnable (ctx : Nat)
  | routeEntry (ctx : Nat)
  | retireEntry (ctx : Nat)
  | slotLoad (ctx slot : Nat)
  | stopComplete
  | scrubProgress (entry : Nat)
  | doorbell
  | atsDone (pasid page : Nat)
  deriving DecidableEq, Repr

/-- An outside input or a timing choice: a machine event with the parameters that the outside world gives it; a line whose MAC check fails
or whose ECC cannot correct a soft error (R326); a late access of a team that is performed now (R131); or the move of a page to a frame that
Husk makes on a code 9 record (R365). -/
inductive Input where
  | event (i : Instr)
  | integrity (line : Nat)
  | access (r : TeamRef) (k : Nat)
  | migrate (die : Nat) (index : Word) (page frame : Nat)
  deriving DecidableEq, Repr

/-! The state. -/

/-- The state of the machine. -/
structure State where
  /-- resident teams by `(die · 64 + core) · 16 + slot` (R366) -/
  teams : Table Team
  crews : Table Crew
  cores : List (Nat × CoreRegs)
  msys : MemSys
  grids : List Grid
  queues : Table Queue
  tasks : Table Task
  nodes : Table Node
  keys : List KeyEntry
  /-- entries of each die's key table that have been freed (R308) -/
  keyReleases : List (Nat × Nat)
  /-- submission sequence counters of the dies (R306) -/
  taskSeq : List (Nat × Nat)
  /-- submissions so far (R313) -/
  orders : Nat
  /-- the grid identifier given last (R78) -/
  lastGid : Word
  /-- crews and tasks so far: their ids -/
  ids : Nat
  barriers : List BarState
  /-- instances that are complete, by the name of their members and the barrier number (R252, R253) -/
  barCounts : List (BarOwner × Nat × Nat)
  /-- retired crews of grids that have ended, by group, while another grid of the group stands (R251, R254) -/
  goneGroups : List (Nat × Nat)
  agents : List AgentWrite
  ops : List EngineOp
  /-- service batches by die · 256 + slot (R294) -/
  svc : Table SvcBatch
  /-- seal counters of the dies (R293) -/
  sealNext : List (Nat × Nat)
  /-- seal tables: die, seal and the crew saved under it (R293) -/
  seals : List (Nat × Nat × Nat)
  /-- flash bytes by (stack · 2^27 + page) · 16384 + byte (R112) -/
  flash : List (Nat × Byte)
  /-- erase blocks being erased or programmed: stack and block (R350) -/
  flashBusy : List (Nat × Nat)
  contexts : Table WCtx
  sends : List WaitSend
  /-- intervals without a flit, by neighbour (R357) -/
  silence : List (Nat × Nat)
  /-- tails of the receive rings (R356) -/
  ringTails : List (Nat × Nat)
  /-- agents whose read has failed and awaits the reply to its record: a weight context, or 64 and a receive ring (R329) -/
  readers : List Nat
  /-- modules whose network addresses this module has taken over (R357) -/
  takenOver : List Nat
  /-- quarantine entries by slice · 2^20 + entry (R354) -/
  quarantine : Table QEntry
  pri : List PriGroup
  /-- the host's invalidations that have not completed: PASID and page (R333) -/
  invalidations : List (Nat × Nat)
  firm : Firm
  /-- the team that issues (log 6) -/
  cur : Option TeamRef
  /-- outside inputs and timing choices, the next one first (log 2) -/
  agenda : List Input
  /-- timing choices of accesses, the next one first: whether an access is performed later than it is accepted, or the rest of a sector
after the part performed; at once where none is left (R129, R131, log 4) -/
  late : List Bool
  /-- the interleaving of cores: 0 an internal event, k + 1 core k of the module (log 2) -/
  sched : List Nat
  /-- whether the next step of an empty `sched` is an internal event (log 2) -/
  turn : Bool
  /-- events that have been due, the one that is to happen next first (log 2) -/
  queued : List Due
  clock : Nat
  fresh : Nat
  deriving DecidableEq, Repr

/-- Germ and Husk at reset (R359, R361, R365); the persistent status word, the journal and the stored image are
DESIGN CHOICE (log 10): the spec gives them no value on a new part. -/
def Firm.initial : Firm where
  phase := .off
  iface := .unlocked
  stopping := false
  session := none
  lastSeq := none
  discarded := 0
  ringTail := 0
  responses := []
  faults := false
  migration := false
  keys := false
  routing := false
  scrub := false
  status := 0
  measured := []
  report := none
  journal := []
  worldKeys := []
  image := []
  parts := []
  partTotal := 0

/-- How the machine can stop. -/
inductive Fault where
  /-- raised by every meaning of an instruction of a team when no team issues; `step` never executes one
  then.  Safe: the model stops where the hardware does nothing. -/
  | noIssuer
  deriving DecidableEq, Repr

/-- Why an instruction has no meaning. -/
inductive Refusal where
  /-- raised by an arm of `exec` for an instruction without a meaning; safe -/
  | notModelled (mnemonic : String)
  deriving DecidableEq, Repr

/-- The machine after reset. -/
def State.reset : State where
  teams := []
  crews := []
  cores := []
  msys := MemSys.initial
  grids := []
  queues := []
  tasks := []
  nodes := []
  keys := []
  keyReleases := []
  taskSeq := []
  orders := 0
  lastGid := 0
  ids := 0
  barriers := []
  barCounts := []
  goneGroups := []
  agents := []
  ops := []
  svc := []
  sealNext := []
  seals := []
  flash := []
  flashBusy := []
  contexts := []
  sends := []
  silence := []
  ringTails := []
  readers := []
  takenOver := []
  quarantine := []
  pri := []
  invalidations := []
  firm := Firm.initial
  cur := none
  agenda := []
  late := []
  sched := []
  turn := false
  queued := []
  clock := 0
  fresh := 0

end Sys2Proof.Machine
end

