-- ==== Sys2Proof/Machine/Memory.lean ====
section
/-! DEFINITION. Physical memory: the map, home slices, lines, poison, L1 copies (R13, R17, R113, R117, R319, R326). -/

namespace Sys2Proof.Machine

/-! The physical map (R319). -/

/-- Bytes of HBM of one module. -/
def hbmBytes : Nat := 2 ^ 39

def inHbm (pa : Nat) : Bool := decide (pa < hbmBytes)
def inPodWindow (pa : Nat) : Bool := decide (2 ^ 47 ≤ pa) && decide (pa < 2 ^ 48)
def inHost (pa : Nat) : Bool := decide (2 ^ 48 ≤ pa) && decide (pa < 2 ^ 52)

/-- Module whose HBM a pod-window address names. -/
def podModule (pa : Nat) : Nat := (pa - 2 ^ 47) / hbmBytes

/-- The number of this module in its pod, 0 outside one (R12). -/
def MemSys.pkg (m : MemSys) : Nat := if m.bring.inPod then m.bring.pkg % 256 else 0

/-- The module's own pod window names its own HBM (R319). -/
def MemSys.norm (m : MemSys) (pa : Nat) : Nat :=
  if inPodWindow pa && podModule pa == m.pkg then (pa - 2 ^ 47) % hbmBytes else pa

/-- In a carve-out that bring-up reserved (R319). -/
def MemSys.carved (m : MemSys) (pa : Nat) : Bool :=
  m.bring.carveOuts.any (fun r => decide (r.1 ≤ pa) && decide (pa < r.1 + r.2))

/-- A physical address that a leaf may name (R319). -/
def MemSys.mapped (m : MemSys) (pa : Nat) : Bool :=
  (inHbm (m.norm pa) || inPodWindow pa || inHost pa) && !m.carved (m.norm pa)

/-- Home stack or memory-side slice of an address (R13, R17, R319). -/
def homeOf (pa : Nat) : Nat :=
  if inHost pa then (bitsOf pa 7 3 ^^^ bitsOf pa 10 3) ^^^ bitsOf pa 13 3 else bitsOf pa 36 3

/-- Line number of an address (R113). -/
def lineOf (pa : Nat) : Nat := pa / 128

/-! Bytes. -/

def MemSys.dirtyFind (m : MemSys) (line : Nat) : Option DirtyLine := m.dirty.find? (fun d => d.line == line)

/-- A byte of physical memory as the home slice sees it. -/
def MemSys.readB (m : MemSys) (pa : Nat) : Byte :=
  let q := m.norm pa
  match (if inHost q then m.dirtyFind (lineOf q) else none) with
  | some d => d.data.getD (q % 128) 0
  | none => Sparse.get Memory.unwritten m.mem q

/-- `n` bytes from `pa` on. -/
def MemSys.readN (m : MemSys) (pa : Nat) : Nat → List Byte
  | 0 => []
  | n + 1 => m.readB pa :: m.readN (pa + 1) n

/-- The little-endian value of `n` bytes. -/
def MemSys.readNat (m : MemSys) (pa n : Nat) : Nat := leNat (m.readN pa n)

/-- Write a byte of memory proper. -/
def MemSys.pokeB (m : MemSys) (pa : Nat) (b : Byte) : MemSys := { m with mem := Sparse.set Memory.unwritten m.mem pa b }

/-- Write consecutive bytes of memory proper. -/
def MemSys.pokeN (m : MemSys) (pa : Nat) (bs : List Byte) : MemSys := { m with mem := Sparse.setRun Memory.unwritten m.mem pa bs }

/-- Write a dirty line back to host memory and drop it (R354). -/
def MemSys.writeBack (m : MemSys) (d : DirtyLine) : MemSys :=
  { m.pokeN (d.line * 128) d.data with dirty := m.dirty.filter (fun x => x.line != d.line) }

/-- Dirty lines of a slice, oldest first. -/
def MemSys.dirtyOf (m : MemSys) (slice : Nat) : List DirtyLine := m.dirty.filter (fun d => homeOf (d.line * 128) == slice)

/-- Write the oldest dirty lines of a slice back until one more fits in its quarantine region (R354). -/
def MemSys.makeRoom (m : MemSys) (slice : Nat) : MemSys :=
  match m.dirtyOf slice with
  | d :: rest => if m.bring.quarantine ≤ rest.length + 1 then m.writeBack d else m
  | [] => m

/-- The bytes `bs` over the bytes of `data` from position `i` on. -/
def overlay (data : List Byte) (i : Nat) (bs : List Byte) : List Byte :=
  data.take i ++ bs ++ data.drop (i + bs.length)

/-- The next sequence number of a slice, 1 first (R118). -/
def MemSys.nextSeq (m : MemSys) (slice : Nat) : Nat × MemSys :=
  let n := Sparse.get 0 m.seq slice + 1
  (n, { m with seq := Sparse.set 0 m.seq slice n })

/-- The number that an operation on a memory-side line takes (R118). -/
def MemSys.number (m : MemSys) (msd : Bool) (pa : Nat) : MemSys := if msd then (m.nextSeq (homeOf pa)).2 else m

/-- A line leaves the dirty lines, or room is made for it in its slice. -/
def MemSys.takeDirty (m : MemSys) (line slice : Nat) : MemSys :=
  match m.dirtyFind line with
  | some _ => { m with dirty := m.dirty.filter (fun d => d.line != line) }
  | none => m.makeRoom slice

/-- Write bytes of one host line: the line becomes dirty in its slice (R17, R354).  The number kept with it is the last one that the
slice has given: the write's own, where the line is memory-side; no other write takes one (R119; DESIGN CHOICE, log 68). -/
def MemSys.writeHostLine (m : MemSys) (world pa : Nat) (bs : List Byte) : MemSys :=
  let line := lineOf pa
  let old := m.readN (line * 128) 128
  let m := m.takeDirty line (homeOf pa)
  { m with dirty := m.dirty ++ [⟨line, world, Sparse.get 0 m.seq (homeOf pa), overlay old (pa % 128) bs⟩] }

/-- The frame of an address of HBM is mapped `encint` (R324, R326). -/
def MemSys.integrity (m : MemSys) (pa : Nat) : Bool := bitsOf (Sparse.get 0 m.frames (pa / 4096)).toNat 8 2 == 2

/-- The replay counter of an integrity-protected line advances with each write of the line (R326). -/
def MemSys.advanceReplay (m : MemSys) (pa : Nat) : MemSys :=
  if m.integrity pa then { m with replays := Sparse.set 0 m.replays (lineOf pa) (Sparse.get 0 m.replays (lineOf pa) + 1) } else m

/-- Write bytes that lie in one line, at the home slice. -/
def MemSys.writeLine (m : MemSys) (world pa : Nat) (bs : List Byte) : MemSys :=
  let q := m.norm pa
  if inHost q then m.writeHostLine world q bs else (m.advanceReplay q).pokeN q bs

/-- Cut bytes into the parts that lie in one 128-byte line each; `fuel` is at least the number of bytes. -/
def lineParts : Nat → Nat → List Byte → List (Nat × List Byte)
  | 0, _, _ => []
  | fuel + 1, pa, bs =>
    match bs with
    | [] => []
    | _ => let n := 128 - pa % 128
           (pa, bs.take n) :: lineParts fuel (pa + n) (bs.drop n)

/-- Write bytes at the home slices. -/
def MemSys.writeN (m : MemSys) (world pa : Nat) (bs : List Byte) : MemSys :=
  (lineParts bs.length pa bs).foldl (fun m p => m.writeLine world p.1 p.2) m

/-- Write the `n` little-endian bytes of a value. -/
def MemSys.writeNat (m : MemSys) (world pa n x : Nat) : MemSys := m.writeN world pa (leBytes x n)

/-! Poison and held lines. -/

def MemSys.poisoned (m : MemSys) (pa : Nat) : Bool := Sparse.get false m.poison (lineOf (m.norm pa))

def MemSys.setPoison (m : MemSys) (line : Nat) (b : Bool) : MemSys := { m with poison := Sparse.set false m.poison line b }

def MemSys.isHeld (m : MemSys) (pa : Nat) : Bool := Sparse.get false m.held (lineOf (m.norm pa))

/-- A write of an agent that is neither a Sprout engine nor a dispatcher: what it writes to a held line is dropped (R51). -/
def MemSys.writeFree (m : MemSys) (world pa : Nat) (bs : List Byte) : MemSys :=
  (lineParts bs.length pa bs).foldl (fun m p => if m.isHeld p.1 then m else m.writeLine world p.1 p.2) m

/-! L1 copies (R113, R117, R295). -/

def MemSys.quadFused (m : MemSys) (die core : Nat) : Bool := Sparse.get false m.fused (die * 16 + core / 4)

/-- The L1 that holds a line for a core, as a core number of the module (R117). -/
def MemSys.l1Of (m : MemSys) (die core pa : Nat) : Nat :=
  if m.quadFused die core then die * 64 + core / 4 * 4 + (bitsOf pa 7 2 ^^^ bitsOf pa 15 2) else die * 64 + core

def MemSys.l1Find (m : MemSys) (cache line world : Nat) : Option L1Line :=
  m.l1.find? (fun l => l.cache == cache && l.line == line && l.world == world)

/-- Drop a line of an L1. -/
def MemSys.l1Drop (m : MemSys) (cache line : Nat) : MemSys :=
  { m with l1 := m.l1.filter (fun l => !(l.cache == cache && l.line == line)) }

/-- Lines of the L1 of one core, 128 KiB (R15). -/
def l1Lines : Nat := 1024

/-- The first `n` lines of one L1, with every line of the others. -/
def keepLines (cache : Nat) : Nat → List L1Line → List L1Line
  | _, [] => []
  | n, l :: ls =>
    if l.cache == cache then (match n with
      | 0 => keepLines cache 0 ls
      | k + 1 => l :: keepLines cache k ls)
    else l :: keepLines cache n ls

/-- Fill a line of an L1 from its home slice.  Of more lines than the L1 has room for, the one filled first gives way (DESIGN CHOICE,
log 67: the spec names none). -/
def MemSys.l1Fill (m : MemSys) (cache line world : Nat) : MemSys :=
  { m with l1 := ⟨cache, line, world, m.readN (line * 128) 128⟩ :: keepLines cache (l1Lines - 1) (m.l1Drop cache line).l1 }

/-- A store updates a copy that is present (R113). -/
def MemSys.l1Store (m : MemSys) (cache pa : Nat) (bs : List Byte) : MemSys :=
  { m with l1 := m.l1.map (fun l => if l.cache == cache && l.line == lineOf pa
                                    then { l with data := overlay l.data (pa % 128) bs } else l) }

/-- Discard the lines of a core's own L1, or of its fused quad (R133). -/
def MemSys.l1Discard (m : MemSys) (die core : Nat) : MemSys :=
  { m with l1 := m.l1.filter (fun l =>
      if m.quadFused die core then !(l.cache / 4 == (die * 64 + core) / 4) else !(l.cache == die * 64 + core)) }

/-- Discard every L1 line of a quad (R117). -/
def MemSys.l1DiscardQuad (m : MemSys) (die quad : Nat) : MemSys :=
  { m with l1 := m.l1.filter (fun l => !(l.cache / 4 == die * 16 + quad)) }

/-- What an acquire at a scope discards (R133). -/
def MemSys.acquire (m : MemSys) (die core : Nat) (s : Scope) : MemSys :=
  match s with
  | .core => m
  | .quad => if m.quadFused die core then m else m.l1Discard die core
  | _ => m.l1Discard die core

/-! Accesses of a team to bytes that lie in one line. -/

/-- A relaxed load: the L1 serves it, or the line is fetched (R113, R131); memory-side lines are read at
home (R118). -/
def MemSys.loadRelaxed (m : MemSys) (free die core world : Nat) (msd : Bool) (pa n : Nat) : List Byte × MemSys :=
  let pa := m.norm pa
  if msd then (m.readN pa n, m.number true pa)
  else
    let cache := m.l1Of die core pa
    match m.l1Find cache (lineOf pa) world with
    | some l => if Config.l1Serves free then ((l.data.drop (pa % 128)).take n, m)
                else (m.readN pa n, m.l1Fill cache (lineOf pa) world)
    | none => (m.readN pa n, m.l1Fill cache (lineOf pa) world)

/-- A load at the home slice; a copy in the L1 is brought up to date (R130, R242). -/
def MemSys.loadHome (m : MemSys) (die core world : Nat) (msd : Bool) (pa n : Nat) : List Byte × MemSys :=
  let pa := m.norm pa
  let cache := m.l1Of die core pa
  let m := m.number msd pa
  (m.readN pa n, match m.l1Find cache (lineOf pa) world with
    | some _ => m.l1Fill cache (lineOf pa) world
    | none => m)

/-- A reply doorbell of a fault queue (R332). -/
def MemSys.isReply (m : MemSys) (pa : Nat) : Bool := m.bring.replyDoorbell.any (fun b => decide (b ≤ pa) && decide (pa < b + 8))

/-- A doorbell of a launch queue or of a fault queue (R296, R332). -/
def MemSys.isBell (m : MemSys) (pa : Nat) : Bool := m.bells.any (fun b => decide (b ≤ pa) && decide (pa < b + 4096)) || m.isReply pa

/-- A record's read-only fields come into use, or go out of it. -/
def MemSys.fix (m : MemSys) (pa len : Nat) : MemSys := if m.fixed.contains (pa, len) then m else { m with fixed := m.fixed ++ [(pa, len)] }
def MemSys.unfix (m : MemSys) (pa : Nat) : MemSys := { m with fixed := m.fixed.filter (fun r => r.1 != pa) }

end Sys2Proof.Machine
end

