-- ==== Sys2Proof/Machine/Translate.lean ====
section
/-! DEFINITION. Translation (R319 to R335) and the fault queue (R330). -/

namespace Sys2Proof.Machine

/-- Who accesses, and how (R325); `core` is the core whose TLB the access looks in first, for a team's accesses (R327). -/
structure Access where
  die : Nat
  world : Nat
  level : Nat
  write : Bool
  fetch : Bool
  needMsd : Bool
  core : Option Nat
  deriving DecidableEq, Repr

/-- The outcome of a translation: a physical address with the leaf, a failure with its cause, a frame of another
world, or a host page whose ATS answer is awaited (R325, R329, R333). -/
inductive Xlate where
  | ok (pa : Nat) (leaf : Dword) (level : Nat)
  | fail (cause : Nat)
  | world
  | ats
  deriving DecidableEq, Repr

/-! Fields of a table entry (R322). -/

def leafPa (e : Dword) : Nat := bitsOf e.toNat 12 40 * 4096
def leafCnt (e : Dword) : Bool := e.getLsbD 11
def leafPin (e : Dword) : Bool := e.getLsbD 10
def leafHost (e : Dword) : Bool := e.getLsbD 9
def leafMsd (e : Dword) : Bool := e.getLsbD 8
def leafAttr (e : Dword) : Nat := bitsOf e.toNat 6 2
def leafUser (e : Dword) : Bool := e.getLsbD 5
def leafExec (e : Dword) : Bool := e.getLsbD 4
def leafWrite (e : Dword) : Bool := e.getLsbD 3
def leafS64 (e : Dword) : Bool := e.getLsbD 2
def leafLeaf (e : Dword) : Bool := e.getLsbD 1
def leafValid (e : Dword) : Bool := e.getLsbD 0

/-- In a TLB's copy of a host leaf: the host grants no read (R333).  A table entry has 0 there (R322). -/
def leafNoRead (e : Dword) : Bool := e.getLsbD 63

/-- The space table entry of a space (R320). -/
def MemSys.spaceEntry (m : MemSys) (space : Nat) : Nat := m.readNat (m.bring.spaceBase + 16 * space) 16

def spaceValid (e : Nat) : Bool :=
  bitsOf e 0 1 == 1 && bitsOf e 2 10 == 0 && bitsOf e 52 12 == 0 && bitsOf e 84 44 == 0
def spaceRoot (e : Nat) : Nat := bitsOf e 12 40 * 4096
def spaceAts (e : Nat) : Bool := bitsOf e 1 1 == 1
def spacePasid (e : Nat) : Nat := bitsOf e 64 20

/-- A non-leaf entry has every other field zero (R322). -/
def pointerOk (e : Dword) : Bool := bitsOf e.toNat 52 12 == 0 && bitsOf e.toNat 2 10 == 0

/-- The 16 members of a 64 KiB page agree (R323); `table` is the level-0 table and `i` the index of one member. -/
def MemSys.group64 (m : MemSys) (table i : Nat) : Bool :=
  let first := i / 16 * 16
  let e0 := m.readNat (table + 8 * first) 8
  bitsOf e0 12 4 == 0 &&
  (List.range 16).all (fun k => m.readNat (table + 8 * (first + k)) 8 == e0 + k * 4096) && bitsOf e0 2 1 == 1

/-- Whether a leaf keeps the rules of R323. -/
def MemSys.leafOk (m : MemSys) (ats : Bool) (lvl table i : Nat) (e : Dword) : Bool :=
  decide (lvl ≤ 2) && bitsOf e.toNat 52 12 == 0 && leafAttr e != 3
  && (lvl != 1 || bitsOf e.toNat 12 9 == 0) && (lvl != 2 || bitsOf e.toNat 12 18 == 0)
  && (!leafS64 e || lvl == 0)
  && (!leafHost e || (ats && lvl == 0 && leafPa e == 0 && !leafMsd e && !leafS64 e && leafAttr e == 0))
  && !(leafMsd e && inHost (leafPa e))
  && (leafAttr e == 0 || inHbm (m.norm (leafPa e)))
  && (!leafS64 e || m.group64 table i)

/-- The walk of R321 from a table on, over the levels given; the leaf with its level, or the cause of the failure. -/
def MemSys.walkFrom (m : MemSys) (ats : Bool) (va : Nat) : List Nat → Nat → Except Nat (Dword × Nat)
  | [], _ => .error 5
  | lvl :: lvls, table =>
    let i := bitsOf va (12 + 9 * lvl) 9
    let at_ := table + 8 * i
    if !m.mapped at_ then .error 12
    else if m.poisoned at_ then .error 11
    else
      let e := BitVec.ofNat 64 (m.readNat at_ 8)
      if !leafValid e then .error 1
      else if leafLeaf e then (if m.leafOk ats lvl table i e then .ok (e, lvl) else .error 5)
      else if pointerOk e && lvl != 0 then m.walkFrom ats va lvls (leafPa e) else .error 5

/-- The walk of R321; one that reads a poisoned entry fails with cause 11 (R326). -/
def MemSys.walk (m : MemSys) (space va : Nat) : Except Nat (Dword × Nat) :=
  let se := m.spaceEntry space
  if decide (space < 255) && m.poisoned (m.bring.spaceBase + 16 * space) then .error 11
  else if spaceValid se && decide (space < 255) then m.walkFrom (spaceAts se) va [4, 3, 2, 1, 0] (spaceRoot se) else .error 5

/-! Writes of software: read-only fields keep their values (R7). -/

/-- A byte of a field of a weight context's descriptor that only the Acorn writes, bytes 0x20 to 0x37 of each of the 64 (R7, R341); system
software writes them where it routes (R340). -/
def MemSys.descOnly (m : MemSys) (pa : Nat) : Bool :=
  let base := m.bring.ctxTable
  let off := (pa % 128 + 128 - base % 128) % 128
  decide (0x20 ≤ off) && decide (off < 0x38) && !m.assistRouting && (List.range 3).any (fun i =>
    let page := (base / 4096 + i) * 4096
    match m.walk 0 page with
    | .ok (leaf, lvl) => decide (base ≤ page + pa % 4096) && decide (page + pa % 4096 < base + 8192) && leafPa leaf + page % 2 ^ (12 + 9 * lvl) == pa / 4096 * 4096
    | .error _ => false)

/-- A byte of a read-only field of a record in use (R7): one that the device keeps in memory, a completion entry (R299), a byte of a slot of
a fault queue other than its status (R330), or one of a descriptor of a weight context (R341). -/
def MemSys.readOnly (m : MemSys) (pa : Nat) : Bool :=
  m.fixed.any (fun r => decide (r.1 ≤ pa) && decide (pa < r.1 + r.2))
    || m.completions.any (fun e => decide (e.2 ≤ pa) && decide (pa < e.2 + 16))
    || m.bring.faultBase.any (fun b => decide (b ≤ pa) && decide (pa < b + 262144) && (pa - b) % 64 / 4 != 7)
    || m.descOnly pa

/-- A run of bytes holds one of a read-only field. -/
def MemSys.fixedIn (m : MemSys) (pa n : Nat) : Bool := (List.range n).any (fun i => m.readOnly (pa + i))

/-- A write that is not the device's own: bytes of read-only fields keep their values (R7). -/
def MemSys.softWrite (m : MemSys) (world pa : Nat) (bs : List Byte) : MemSys :=
  if m.fixedIn pa bs.length then
    (List.range bs.length).foldl (fun m' i => if m.readOnly (pa + i) then m' else m'.writeN world (pa + i) ((bs.drop i).take 1)) m
  else m.writeN world pa bs

/-- A store: the copy in the issuing core's L1 is updated, and the home slice is written (R113, R118); a doorbell takes the
write as a command instead. -/
def MemSys.store (m : MemSys) (die core world : Nat) (msd : Bool) (pa : Nat) (bs : List Byte) : MemSys :=
  let pa := m.norm pa
  if m.isBell pa then { m with rung := m.rung ++ [(pa, bs)] }
  else
    let m := if msd then m.number true pa
      else if m.fixedIn pa bs.length then m.l1Drop (m.l1Of die core pa) (lineOf pa) else m.l1Store (m.l1Of die core pa) pa bs
    m.softWrite world pa bs

/-- An atomic at the home: any copy in the issuing core's L1 is discarded first (R118, R119); `f` gives the new
value.  Answers the value read. -/
def MemSys.atomic (m : MemSys) (die core world : Nat) (msd : Bool) (pa n : Nat) (f : Nat → Nat) : Nat × MemSys :=
  let pa := m.norm pa
  let m := if msd then m.number true pa else m.l1Drop (m.l1Of die core pa) (lineOf pa)
  let old := m.readNat pa n
  (old, m.softWrite world pa (leBytes (f old) n))

/-! TLBs (R327). -/

/-- The entry maps a page of a space. -/
def TlbEntry.covers (e : TlbEntry) (space page : Nat) : Bool :=
  e.space == space && decide (e.page ≤ page) && decide (page < e.page + e.span)

/-- The leaf that an entry gives a page: of several leaves in a row, each lies one page of its level further on. -/
def TlbEntry.leafAt (e : TlbEntry) (page : Nat) : Dword :=
  e.leaf + BitVec.ofNat 64 ((page - e.page) * 4096 / 2 ^ (12 + 9 * e.level) * 2 ^ (12 + 9 * e.level))

/-- The entry of a core's TLB, or of the die's last-level TLB, for a page. -/
def MemSys.tlbFind (m : MemSys) (die : Nat) (core : Option Nat) (space page : Nat) : Option TlbEntry :=
  m.tlb.find? (fun e => e.die == die && e.core == core && e.covers space page)

/-- The table that a die's walker keeps for a level of an address. -/
def MemSys.walkFind (m : MemSys) (die space va level : Nat) : Option Nat :=
  (m.walks.find? (fun e => e.die == die && e.space == space && e.level == level && e.index == va / 2 ^ (21 + 9 * level))).map WalkEntry.table

/-- A walk that begins at the lowest table that the die's walker keeps and that serves it (R327); `levels` are those at which it may. -/
def MemSys.walkVia (m : MemSys) (free die space va : Nat) : List Nat → Except Nat (Dword × Nat)
  | [] => m.walk space va
  | lvl :: lvls =>
    match m.walkFind die space va lvl with
    | some table =>
      if Config.tlbServes (free + 4096 * (lvl + 1)) then m.walkFrom (spaceAts (m.spaceEntry space)) va ((List.range (lvl + 1)).reverse) table
      else m.walkVia free die space va lvls
    | none => m.walkVia free die space va lvls

/-- The window that maps an address, if one does (R347). -/
def MemSys.windowFor (m : MemSys) (space va : Nat) : Option Window :=
  m.windows.find? (fun w => w.world == space && decide (w.base ≤ va) && decide (va < w.base + w.bytes))

/-- The leaf of a page of a window (R347): valid, pinned, readable at every level, not memory-side.  Windows are mapped in pages of 2 MiB, the
size that every slot is a multiple of (DESIGN CHOICE, log 82: the spec names none). -/
def Window.leaf (w : Window) (va : Nat) : Dword :=
  BitVec.ofNat 64 ((w.pa + (va - w.base)) / 2 ^ 21 * 2 ^ 21 + 1024 + 64 * w.attr + 32 + 2 + 1)

/-- The leaf of a page from the last-level TLB of the die where one of its entries serves (a pinned one and a host translation do), else
from a walk (R327, R333, R335). -/
def MemSys.lastLeaf (m : MemSys) (free die space va : Nat) : Except Nat (Dword × Nat) :=
  match m.tlbFind die none space (va / 4096) with
  | some e =>
    if leafPin e.leaf || leafHost e.leaf || Config.tlbServes free then .ok (e.leafAt (va / 4096), e.level)
    else m.walkVia free die space va [0, 1, 2, 3]
  | none => m.walkVia free die space va [0, 1, 2, 3]

/-- The leaf of a page: of an expert window, from the core's TLB where its entry serves, else from the die's (R327, R347). -/
def MemSys.leafFor (m : MemSys) (free die : Nat) (core : Option Nat) (space va : Nat) : Except Nat (Dword × Nat) :=
  match m.windowFor space va with
  | some w => .ok (w.leaf va, 1)
  | none =>
    match core with
    | none => m.lastLeaf free die space va
    | some _ =>
      match m.tlbFind die core space (va / 4096) with
      | some e => if Config.tlbServes (free + 32768) then .ok (e.leafAt (va / 4096), e.level) else m.lastLeaf free die space va
      | none => m.lastLeaf free die space va

/-- Bytes a leaf of a level maps (R321). -/
def pageBytes (lvl : Nat) : Nat := 2 ^ (12 + 9 * lvl)

/-- The frame map entry of a physical address (R324, R325). -/
def MemSys.frameOf (m : MemSys) (free pa : Nat) : BitVec 16 :=
  if inHbm (m.norm pa) then Sparse.get 0 m.frames (m.norm pa / 4096) else Config.podFrame free pa

/-- Checks 4 of R325 on a frame. -/
def frameCheck (f : BitVec 16) (world : Nat) (leaf : Dword) : Option Xlate :=
  let owner := bitsOf f.toNat 0 8
  if bitsOf f.toNat 14 2 != 1 then some (.fail 9)
  else if owner != world && owner != 255 then some .world
  else if bitsOf f.toNat 8 2 != leafAttr leaf || bitsOf f.toNat 10 1 != (if leafMsd leaf then 1 else 0) then some (.fail 6)
  else if owner == 255 && leafAttr leaf != 0 then some (.fail 6)
  else none

/-- An address in the window of a fenced module, or in any other module's once this module's pod traffic has stopped (R357). -/
def MemSys.fencedAt (m : MemSys) (pa : Nat) : Bool := inPodWindow (m.norm pa) && (m.podDown || m.fenced.contains (podModule pa))

/-- A line that cannot be accessed: of host memory with the link down, or poisoned (R326, R354). -/
def MemSys.broken (m : MemSys) (pa : Nat) : Bool := (inHost pa && !(m.linkUp && m.hostOk)) || m.poisoned pa

/-- The checks of R325 on a leaf, and those of poison and of the links (R326, R354, R357), for the byte at
physical address `pa`. -/
def MemSys.check (m : MemSys) (free : Nat) (a : Access) (pa : Nat) (leaf : Dword) : Option Xlate :=
  if a.level = 0 ∧ leafUser leaf = false then some (.fail 4)
  else if a.write && !leafWrite leaf then some (.fail 2)
  else if a.fetch && !leafExec leaf then some (.fail 3)
  else if !a.write && !a.fetch && leafNoRead leaf then some (.fail 10)
  else if !m.mapped pa then some (.fail 12)
  else if m.fencedAt pa then some (.fail 9)
  else
    match (if inHost pa then none else frameCheck (m.frameOf free pa) a.world leaf) with
    | some x => some x
    | none =>
      if a.needMsd && !leafMsd leaf then some (.fail 8)
      else if m.broken pa then some (.fail 11)
      else none

/-- An ATS request of a die for a page, if one stands (R333). -/
def MemSys.atsFind (m : MemSys) (die space page : Nat) : Option AtsReq :=
  m.ats.find? (fun r => r.die == die && r.space == space && r.page == page)

/-- A leaf whose page the host is still to translate (R333): the pa of such a leaf is 0. -/
def hostUnanswered (leaf : Dword) : Bool := leafHost leaf && leafPa leaf == 0

/-- Translate a virtual address in the space of a world (R320 to R325). -/
def MemSys.translate (m : MemSys) (free : Nat) (a : Access) (va : Nat) : Xlate :=
  match m.leafFor free a.die a.core a.world va with
  | .error c => .fail c
  | .ok (leaf, lvl) =>
    if hostUnanswered leaf then
      (if a.level = 0 ∧ leafUser leaf = false then .fail 4
       else if a.write && !leafWrite leaf then .fail 2
       else if a.fetch && !leafExec leaf then .fail 3
       else match m.atsFind a.die a.world (va / 4096) with
        | some r => if r.denied then .fail 10 else .ats
        | none => .ats)
    else
      let pa := leafPa leaf + va % pageBytes lvl
      match m.check free a pa leaf with
      | some x => x
      | none => .ok pa leaf lvl

/-- The first `n` entries that satisfy `f`, and every entry that does not. -/
def keepEntries (f : TlbEntry → Bool) : Nat → List TlbEntry → List TlbEntry
  | _, [] => []
  | n, e :: es =>
    if f e then (match n with
      | 0 => keepEntries f 0 es
      | k + 1 => e :: keepEntries f k es)
    else e :: keepEntries f n es

/-- Pinned entries of a die's last-level TLB (R335). -/
def pinnedIn (es : List TlbEntry) (die : Nat) : Nat := (es.filter (fun e => e.die == die && e.core.isNone && leafPin e.leaf)).length

/-- The entries of a TLB once one is added: a core's has 128, the last-level one 8192, of which those pinned are never replaced
(R327, R335).  Of the others the one filled first gives way (DESIGN CHOICE, log 69). -/
def addEntry (es : List TlbEntry) (e : TlbEntry) : List TlbEntry :=
  match e.core with
  | some _ => keepEntries (fun x => x.die == e.die && x.core == e.core) 128 (e :: es)
  | none => keepEntries (fun x => x.die == e.die && x.core.isNone && !leafPin x.leaf) (8192 - pinnedIn (e :: es) e.die) (e :: es)

/-- The leaf of `j` pages of its level further on. -/
def leafPlus (leaf : Dword) (level j : Nat) : Dword := leaf + BitVec.ofNat 64 (j * 2 ^ (12 + 9 * level))

/-- The 64 leaves of a 128 MiB-aligned range that the walker coalesces into one entry (R327). -/
def MemSys.coalesces (m : MemSys) (space base : Nat) (leaf : Dword) : Bool :=
  leafPa leaf % 2 ^ 27 == 0 && (List.range 64).all (fun j => match m.walk space (base + j * 2 ^ 21) with
    | .ok (e, l) => l == 1 && e == leafPlus leaf 1 j
    | .error _ => false)

/-- The entry for a page whose leaf has been read: a page of its size, or of the last-level TLB 64 leaves of 2 MiB (R323, R327). -/
def MemSys.entryFor (m : MemSys) (die : Nat) (core : Option Nat) (space va : Nat) (leaf : Dword) (level : Nat) : TlbEntry :=
  let page := va / 4096
  match level with
  | 0 =>
    if leafS64 leaf then ⟨die, core, space, page / 16 * 16, 16, leaf - BitVec.ofNat 64 (page % 16 * 4096), 0⟩
    else ⟨die, core, space, page, 1, leaf, 0⟩
  | 1 =>
    let first := leaf - BitVec.ofNat 64 (page / 512 % 64 * 2 ^ 21)
    if core.isNone && m.coalesces space (page / 32768 * 2 ^ 27) first then ⟨die, core, space, page / 32768 * 32768, 32768, first, 1⟩
    else ⟨die, core, space, page / 512 * 512, 512, leaf, 1⟩
  | _ => ⟨die, core, space, page / 262144 * 262144, 262144, leaf, 2⟩

/-- Keep a translation in one TLB, in the place of what it holds for the page; a pinned leaf beyond 1024 is kept as though unpinned (R335). -/
def MemSys.tlbKeep (m : MemSys) (die : Nat) (core : Option Nat) (space va : Nat) (leaf : Dword) (level : Nat) : MemSys :=
  match m.tlbFind die core space (va / 4096) with
  | some e => if e.leafAt (va / 4096) = leaf then m else go
  | none => go
where
  /-- The entry takes its place. -/
  go : MemSys :=
    let rest := m.tlb.filter (fun e => !(e.die == die && e.core == core && e.covers space (va / 4096)))
    let e := m.entryFor die core space va leaf level
    let e := if leafPin leaf && decide (1024 ≤ pinnedIn rest die) then { e with leaf := e.leaf &&& ~~~(0x400#64) } else e
    { m with tlb := addEntry rest e }

/-- The tables that a walk passes below the root: level, index and table (R321). -/
def MemSys.walkPath (m : MemSys) (va : Nat) : List Nat → Nat → List (Nat × Nat)
  | [], _ => []
  | lvl :: lvls, table =>
    let e := BitVec.ofNat 64 (m.readNat (table + 8 * bitsOf va (12 + 9 * lvl) 9) 8)
    if !leafValid e || leafLeaf e || lvl == 0 then [] else (lvl - 1, leafPa e) :: m.walkPath va lvls (leafPa e)

/-- The walker of a die keeps the tables that a walk has passed; what it keeps already stays (R327). -/
def MemSys.walksFill (m : MemSys) (die space va : Nat) : MemSys :=
  let path := (m.walkPath va [4, 3, 2, 1, 0] (spaceRoot (m.spaceEntry space))).filter (fun p => (m.walkFind die space va p.1).isNone)
  { m with walks := path.map (fun p => ⟨die, space, p.1, va / 2 ^ (21 + 9 * p.1), p.2⟩) ++ m.walks }

/-- What the TLBs and the walker keep of a translation that an access has used (R327). -/
def MemSys.tlbFill (m : MemSys) (a : Access) (va : Nat) (leaf : Dword) (level : Nat) : MemSys :=
  let m := (m.walksFill a.die a.world va).tlbKeep a.die none a.world va leaf level
  match a.core with
  | some _ => m.tlbKeep a.die a.core a.world va leaf level
  | none => m

/-- Ask the host for a page, once (R333). -/
def MemSys.atsAsk (m : MemSys) (die space va : Nat) (write : Bool) : MemSys :=
  match m.atsFind die space (va / 4096) with
  | some _ => m
  | none => { m with ats := ⟨die, space, va / 4096, write, false⟩ :: m.ats }

/-- A refused page is asked for again by the next access, also where only a read was refused (R333, R337). -/
def MemSys.atsForget (m : MemSys) (die space va : Nat) : MemSys :=
  { m with ats := m.ats.filter (fun r => !(r.die == die && r.space == space && r.page == va / 4096))
           tlb := m.tlb.filter (fun e => !(e.die == die && e.covers space (va / 4096) && leafNoRead e.leaf)) }

/-! The fault queue (R330). -/

/-- The 64 bytes of a record (R330). -/
def recordBytes (p : FaultPost) (index : Word) : List Byte :=
  leBytes index.toNat 4 ++ leBytes 0 12
  ++ leBytes (p.code % 256 + 256 * (p.cause % 256) + (if p.write then 65536 else 0) + (if p.fetch then 131072 else 0)) 4
  ++ leBytes (p.space % 65536 + 65536 * (p.world % 256)) 4
  ++ leBytes (p.die % 8 + 8 * (p.core % 64) + 512 * (p.slot % 16) + 8192 * (p.lane % 1024)) 4
  ++ leBytes 0 4 ++ leBytes p.addr 8 ++ leBytes p.aux 8 ++ leBytes 0 16

/-- Physical address of the slot of a record. -/
def MemSys.faultSlotAddr (m : MemSys) (die : Nat) (index : Word) : Nat :=
  m.bring.faultBase.getD die 0 + 64 * (index.toNat % 4096)

/-- Status of a record in memory (R330). -/
def MemSys.faultStatus (m : MemSys) (die : Nat) (index : Word) : Nat := m.readNat (m.faultSlotAddr die index + 0x1C) 4

/-- The record that stands in the slot of an index. -/
def MemSys.faultAt (m : MemSys) (die slot : Nat) : Option FaultRec :=
  (m.faults.find? (fun r => r.1 == die && r.2.index.toNat % 4096 == slot)).map Prod.snd

/-- Whether the slot of the next record is free (R330). -/
def MemSys.faultRoom (m : MemSys) (die : Nat) : Bool :=
  let index := Sparse.get 0 m.faultNext die
  match m.faultAt die (index.toNat % 4096) with
  | some r => m.faultStatus die r.index == 3
  | none => true

/-- Write a record into the next slot, which is free (R330). -/
def MemSys.faultWrite (m : MemSys) (p : FaultPost) (o : FaultOwner) : MemSys :=
  let index := Sparse.get 0 m.faultNext p.die
  let m := m.writeFree 0 (m.faultSlotAddr p.die index) (recordBytes p index)
  { m with faultNext := Sparse.set 0 m.faultNext p.die (index + 1)
           faults := (p.die, ⟨index, p, o, none⟩) ::
             m.faults.filter (fun r => !(r.1 == p.die && r.2.index.toNat % 4096 == index.toNat % 4096)) }

/-- Whether an agent can post a record now: one that cannot waits, and makes its access later (R330). -/
def MemSys.canPost (m : MemSys) (die : Nat) : Bool := m.faultRoom die && !m.posts.any (fun q => q.1 == die)

/-- Post a record, or let it wait for a slot behind the posts that wait already (R330). -/
def MemSys.faultPost (m : MemSys) (p : FaultPost) (o : FaultOwner) : MemSys :=
  if m.canPost p.die then m.faultWrite p o
  else { m with posts := m.posts ++ [(p.die, p, o)] }

/-! Access counters (R334). -/

/-- The record of a counter that leaves the cache or reaches the threshold (R334), in the mode of that moment (R365). -/
def MemSys.counterPost (m : MemSys) (c : Counter) : FaultPost :=
  ⟨9, 0, false, false, c.space, c.world, c.die, 0, 0, 0, c.region * 65536, c.count, m.assistMigration⟩

/-- The counters of a die beyond the 2048 of its cache leave it, the least recently counted first; one that is not zero
is to post its count. -/
def MemSys.evictCounter (m : MemSys) (die : Nat) : MemSys :=
  match (m.counters.filter (fun c => c.die == die)).drop 2048 with
  | [] => m
  | cs => { m with counters := m.counters.filter (fun c => !cs.contains c), reached := m.reached ++ cs.map m.counterPost }

/-- Count an access to a page whose leaf has cnt = 1; a counter that reaches the threshold is reset, and is to post. -/
def MemSys.count (m : MemSys) (die space world va : Nat) (leaf : Dword) : MemSys :=
  if !leafCnt leaf then m
  else
    let region := va / 65536
    let here := fun (c : Counter) => c.die == die && c.space == space && c.region == region
    let n := match m.counters.find? here with
      | some c => c.count + 1
      | none => 1
    let rest := m.counters.filter (fun c => !here c)
    let c : Counter := ⟨die, space, region, n, world⟩
    if 2 ^ m.bring.counterLog2 ≤ n then { m with counters := rest, reached := m.reached ++ [m.counterPost c] }
    else ({ m with counters := c :: rest } : MemSys).evictCounter die

end Sys2Proof.Machine
end

