-- ==== Sys2Proof/Machine/Ops.lean ====
section
/-! DEFINITION. The operations that meanings share: the issuing team, its registers, the end of an instruction, stalls,
taking a trap and returning from one. -/

namespace Sys2Proof.Machine

/-- Key of a residency slot of the module (R366). -/
def slotKey (r : TeamRef) : Nat := (r.die * 64 + r.core) * 16 + r.slot

/-- The place of a residency slot, from its key. -/
def refOf (key : Nat) : TeamRef := ⟨key / 1024, key / 16 % 64, key % 16⟩

def State.teamAt (s : State) (r : TeamRef) : Option Team := Sparse.get none s.teams (slotKey r)
def State.setTeam (s : State) (r : TeamRef) (t : Team) : State := { s with teams := Sparse.set none s.teams (slotKey r) (some t) }
def State.clearTeam (s : State) (r : TeamRef) : State := { s with teams := Sparse.set none s.teams (slotKey r) none }
def State.crewAt (s : State) (id : Nat) : Option Crew := Sparse.get none s.crews id
def State.setCrew (s : State) (id : Nat) (c : Crew) : State := { s with crews := Sparse.set none s.crews id (some c) }
def State.clearCrew (s : State) (id : Nat) : State := { s with crews := Sparse.set none s.crews id none }
def State.setMsys (s : State) (m : MemSys) : State := { s with msys := m }
def State.coreAt (s : State) (die core : Nat) : CoreRegs := Sparse.get CoreRegs.initial s.cores (die * 64 + core)

/-- The team that issues, with its crew.  An instruction that waited is issued afresh, so the team stands without its wait. -/
structure Issuer where
  ref : TeamRef
  team : Team
  cid : Nat
  crew : Crew

def State.issuerAt (s : State) (r : TeamRef) : Option Issuer :=
  match s.teamAt r with
  | some t =>
    match s.crewAt t.crew with
    | some c => some ⟨r, { t with wait := none }, t.crew, c⟩
    | none => none
  | none => none

def State.issuer (s : State) : Option Issuer :=
  match s.cur with
  | some r => s.issuerAt r
  | none => none

/-- Every instruction of a team acts through the team that issues. -/
def State.issue (s : State) (f : Issuer → State) : Host.Outcome State Fault Refusal :=
  match s.issuer with
  | some c => .next (f c)
  | none => .fault .noIssuer

/-! Registers. -/

/-- Key of register `r` of lane `lane`; lane 1024 stands for the uniform file. -/
def regKey (lane r : Nat) : Nat := lane * 256 + r

/-- The values that the instructions in flight have yet to write to a register, in the order of issue (R150); an access that is still
to be performed gives none. -/
def Team.pendAt (t : Team) (key : Nat) : List Word :=
  t.inflight.filterMap (fun o => match Sparse.get none o.writes key with
    | some w => if w.ready then some w.val else none
    | none => none)

/-- What a read of a register returns: `old`, or any value that is still to be written to it (R150). -/
def unsettled (old : Word) (news : List Word) (k : Nat) : Word :=
  match news with
  | [] => old
  | _ => (old :: news).getD (k % (news.length + 1)) old

/-- A register that the hold latch serves (R82). -/
def heldVal (h : List HoldEntry) (lane r : Nat) : Option Word :=
  match h.find? (fun e => e.reg.toNat == r && e.left != 0) with
  | some e => e.vals[lane]?
  | none => none

/-- A vector register as an instruction reads it: from the hold latch, else from its bank (R74, R82).  One that an instruction in flight has
yet to write reads old or new, whether it is held or not (R84, R150). -/
def Team.v (t : Team) (free lane r : Nat) : Word :=
  match t.pendAt (regKey lane r) with
  | [] => (heldVal t.hold lane r).getD (Sparse.get 0 t.vregs (regKey lane r))
  | news => unsettled (Sparse.get 0 t.vregs (regKey lane r)) news (Config.unsettledRead free lane r)

/-- A uniform register as an instruction reads it in a lane, of which each makes its own choice (R150); lane 1024 stands for a read
that the team makes once. -/
def Team.sIn (t : Team) (free lane r : Nat) : Word :=
  unsettled (Sparse.get 0 t.sregs r) (t.pendAt (regKey 1024 r)) (Config.unsettledRead free lane (256 + r))

/-- A uniform register that the team reads once. -/
def Team.s (t : Team) (free r : Nat) : Word := t.sIn free 1024 r

/-- A uniform even-odd pair as a lane reads it (R88). -/
def Team.sIn64 (t : Team) (free lane r : Nat) : Nat := (t.sIn free lane r).toNat + 2 ^ 32 * (t.sIn free lane (r + 1)).toNat

/-- A uniform even-odd pair (R88). -/
def Team.s64 (t : Team) (free r : Nat) : Nat := t.sIn64 free 1024 r

/-- A vector even-odd pair (R88). -/
def Team.v64 (t : Team) (free lane r : Nat) : Nat := (t.v free lane r).toNat + 2 ^ 32 * (t.v free lane (r + 1)).toNat

/-- Mark the pending writes of registers that a later instruction writes (R150). -/
def contest (keys : List Nat) (ops : List InFlight) : List InFlight :=
  ops.map (fun o => { o with writes := o.writes.map (fun p =>
    match p.2 with
    | some w => if keys.contains p.1 then (p.1, some { w with contested := true }) else p
    | none => p) })

/-- A written register leaves the latches (R84). -/
def Team.releaseLatches (t : Team) (regs : List Nat) : Team :=
  { t with hold := t.hold.filter (fun h => !regs.contains h.reg.toNat)
           reuse := t.reuse.filter (fun p => match p.2 with
             | some x => !regs.any (fun r => decide (x.reg.toNat ≤ r) && decide (r < x.reg.toNat + 8))
             | none => false) }

/-- The registers that the instruction which issues has written, noted until it ends (R84). -/
def writtenNotes (regs : List Nat) : List HoldEntry := regs.map (fun r => ⟨BitVec.ofNat 8 r, 0, []⟩)

/-- Write vector registers, given by key; the registers named leave the latches. -/
def Team.writeV (t : Team) (regs : List Nat) (ws : List (Nat × Word)) : Team :=
  { t.releaseLatches regs with
      hold := (t.releaseLatches regs).hold ++ writtenNotes regs
      vregs := Sparse.setAll 0 t.vregs ws, inflight := contest (ws.map Prod.fst) t.inflight }

/-- Write a uniform register. -/
def Team.writeS (t : Team) (r : Nat) (x : Word) : Team :=
  { t with sregs := Sparse.set 0 t.sregs r x, inflight := contest [regKey 1024 r] t.inflight }

/-- Write a uniform pair. -/
def Team.writeS64 (t : Team) (r : Nat) (x : Nat) : Team :=
  (t.writeS r (BitVec.ofNat 32 x)).writeS (r + 1) (BitVec.ofNat 32 (x / 2 ^ 32))

/-- Words the team occupies (R23). -/
def Team.words (t : Team) : Nat := (t.lanes + 31) / 32

/-- Whether the guard of `mode` lets a lane take part (R25). -/
def Team.guarded (t : Team) (free lane : Nat) : Bool :=
  !guardOn t.mode || ((t.v free lane (guardReg t.mode) != 0) != guardPol t.mode)

/-- The active lanes in ascending team-wide index (R25). -/
def Team.active (t : Team) (free : Nat) : List Nat := (lanesBelow t.mask t.lanes).filter (fun l => t.guarded free l)

/-- Whether a lane is active. -/
def Team.isActive (t : Team) (free lane : Nat) : Bool := decide (lane < t.lanes) && t.mask.getLsbD lane && t.guarded free lane

/-- The sweep (R27): for each active lane the registers it writes, computed from the team as it stands. -/
def Team.sweep (t : Team) (free : Nat) (regs : List Nat) (f : Nat → List (Nat × Word)) : Team :=
  t.writeV regs ((t.active free).flatMap (fun l => (f l).map (fun p => (regKey l p.1, p.2))))

/-- Set sticky bits of `x.stat` (R79). -/
def Team.setStat (t : Team) (bit : Nat) (on : Bool) : Team := if on then { t with stat := t.stat ||| BitVec.ofNat 3 (2 ^ bit) } else t

/-! Clauses and the end of an instruction (R146 to R151). -/

def headerCount (h0 : Word) : Nat := bitsOf h0.toNat 0 3 + 1
def headerYield (h0 : Word) : Bool := h0.getLsbD 3
def headerSet (h0 : Word) (i : Nat) : Nat := if i == 0 then bitsOf h0.toNat 8 4 else bitsOf h0.toNat 4 4
def headerWait (h0 : Word) : BitVec 12 := h0.extractLsb' 12 12

/-- The hint of the instruction at a word position (R147). -/
def hintAt (h1 : Word) (pos : Nat) : Nat := bitsOf h1.toNat (2 * pos) 2

/-- The address of the header after a clause. -/
def Clause.next (c : Clause) : VAddr := c.addr + BitVec.ofNat 57 (8 + 4 * headerCount c.h0)

/-- One instruction further in the clause: entries of the hold latch grow older (R82). -/
def ageHold (h : List HoldEntry) : List HoldEntry :=
  (h.map (fun e => { e with left := e.left - 1 })).filter (fun e => e.left != 0)

/-- Place a register with its values in the hold latch; of three entries the one that expires soonest gives way (R82). -/
def placeHold (h : List HoldEntry) (r : Reg) (vals : List Word) : List HoldEntry :=
  let h := h.filter (fun e => e.reg != r)
  if h.length < 3 then h ++ [⟨r, 2, vals⟩] else h.drop 1 ++ [⟨r, 2, vals⟩]

/-- A vector source in field [15:8] with its value in each of the team's lanes, as the instruction reads it (R82). -/
def Team.source (t : Team) (free : Nat) (r : Reg) : Reg × List Word := (r, (List.range t.lanes).map (fun l => t.v free l r.toNat))

/-- The hold latch after an instruction with the hint bit `hint` that names `src`: a source that the instruction has itself written
is not placed, since that write releases it (R82, R84). -/
def Team.holdAfter (t : Team) (hint : Bool) (src : Option (Reg × List Word)) : List HoldEntry :=
  match src with
  | some (r, vals) =>
    if hint && !t.hold.any (fun e => e.reg == r && e.left == 0) then placeHold (ageHold t.hold) r vals else ageHold t.hold
  | none => ageHold t.hold

/-- The team after an instruction of `n` words that names the vector source `src` in field [15:8]. -/
def Team.advance (t : Team) (n : Nat) (src : Option (Reg × List Word)) : Team :=
  match t.clause with
  | none => { t with pc := t.pc + BitVec.ofNat 57 (4 * n), replay := none }
  | some c =>
    if c.pos + n < headerCount c.h0 then
      { t with pc := t.pc + BitVec.ofNat 57 (4 * n), clause := some { c with pos := c.pos + n }, replay := none
               hold := t.holdAfter (hintAt c.h1 c.pos % 2 == 1) src }
    else { t with pc := c.next, clause := none, replay := none, hold := [], yielded := headerYield c.h0 }

/-- The team after a branch to `target` (R151). -/
def Team.jump (t : Team) (target : VAddr) : Team :=
  { t with pc := target, clause := none, replay := none, hold := []
           yielded := match t.clause with
             | some c => headerYield c.h0
             | none => t.yielded }

/-- Target of a branch whose offset counts words (R151). -/
def Team.target (t : Team) {n : Nat} (off : BitVec n) : VAddr := t.pc + 4 * off.signExtend 57

/-! Stalls. -/

/-- The team waits; the instruction is issued again when the condition ends (R46). -/
def State.stall (s : State) (c : Issuer) (w : Wait) : State := s.setTeam c.ref { c.team with wait := some w }

/-! Traps (R283, R285). -/

def Trap.code : Trap → Nat
  | .illegalOp => 1 | .misaligned => 2 | .xlateFault => 3 | .rangeConflict => 4 | .portSequence => 5
  | .aliasAttr => 6 | .worldViolation => 7 | .svcFault => 8 | .software => 9

/-- Every long-latency instruction of the team has completed, so its flags are clear, and every access is performed (R283). -/
def Team.drained (t : Team) : Bool := t.inflight.isEmpty && t.flags == 0 && t.late.isEmpty

/-- The 512 bytes of a trap frame (R284). -/
def frameBytes (f : Frame) (done : LaneSet) : List Byte :=
  leBytes f.pc.toNat 8 ++ leBytes f.cause 4 ++ leBytes f.arg.toNat 4 ++ leBytes f.tva.toNat 8 ++ leBytes 0 4
  ++ leBytes f.level 4 ++ leBytes f.h0.toNat 4 ++ leBytes f.h1.toNat 4 ++ leBytes f.slot 4 ++ leBytes 0 20
  ++ leBytes (f.retDepth * 256 + f.divDepth) 4 ++ leBytes f.mode.toNat 4 ++ leBytes f.part.toNat 4
  ++ leBytes (wordLive f.mask).toNat 4 ++ leBytes 0 48
  ++ leBytes done.toNat 128 ++ leBytes f.mask.toNat 128
  ++ (f.saved.flatMap (fun w => leBytes w.toNat 4)) ++ leBytes 0 96

/-- Virtual address of the frame of a residency slot (R283). -/
def frameAddr (r : CoreRegs) (slot : Nat) : Nat := (r.tframe.toNat + 512 * slot) % 2 ^ 57

/-- Translate the lines of `n` consecutive line starts: the first failure, or success (R283). -/
def MemSys.linesOk (m : MemSys) (free : Nat) (a : Access) (va : Nat) : Nat → Option Xlate
  | 0 => none
  | n + 1 =>
    match m.translate free a va with
    | .ok pa _ _ => if a.write && m.isHeld pa then some .world else m.linesOk (free + 1) a (va + 128) n
    | x => some x

/-- The crew is removed: its teams stop, a record of code 0xFF with the pc is posted (R283). -/
def State.doubleTrap (s : State) (c : Issuer) (pc : VAddr) : State :=
  let p : FaultPost := ⟨0xFF, 0, false, false, c.crew.world, c.crew.world, c.ref.die, c.ref.core, c.ref.slot, 0, 0, pc.toNat, s.msys.assistFaults⟩
  let s := s.setTeam c.ref { c.team with pending := none, wait := none }
  (s.setCrew c.cid { c.crew with phase := .leaving, doubleTrap := true, stop := none }).setMsys (s.msys.faultPost p .none)

/-- The free value of part `k` of a step. -/
def freeAt (s : State) (k : Nat) : Nat := s.fresh * 65536 + k

/-- The words of a clause as they were last fetched. -/
def Clause.known (k : Clause) : List Word := if k.words.isEmpty then k.seen else k.words

/-- Words of the instruction at a position of a clause whose words are given (R145). -/
def wordsAt (ws : List Word) (pos : Nat) : Nat :=
  match ws.drop pos with
  | w :: _ => match opcodeMap (opOf w) with
    | some sh => if sh.extended then 2 else 1
    | none => 1
  | [] => 1

/-- Words of the instruction at which a frame stands (R287). -/
def Frame.len (f : Frame) : Nat := wordsAt f.seen f.slot

/-- The core's copy of the frame of a trap of the team (R284). -/
def frameOf (c : Issuer) (p : PendTrap) (free phys : Nat) (msd : Bool) : Frame :=
  let t := c.team
  { phys := phys, msd := msd, pc := t.pc, cause := p.trap.code, arg := BitVec.ofNat 32 p.arg, tva := BitVec.ofNat 57 p.tva, level := t.level
    h0 := match t.clause with
      | some k => k.h0
      | none => p.head.1
    h1 := match t.clause with
      | some k => k.h1
      | none => p.head.2
    slot := match t.clause with
      | some k => k.pos
      | none => 0
    seen := match t.clause with
      | some k => k.known
      | none => []
    inClause := t.clause.isSome
    retDepth := t.ret.length, divDepth := t.div.length, mode := t.mode, part := t.part, mask := t.mask
    lanes := match t.replay with
      | some (todo, done) => todo ||| done
      | none => laneSetOf (t.active free)
    saved := (List.range 8).map (fun i => Sparse.get 0 t.sregs (248 + i)) }

/-- Set s248 to s251 as trap entry does (R283). -/
def trapRegs (sregs : List (Nat × Word)) (frame cause arg : Nat) : List (Nat × Word) :=
  Sparse.setAll 0 sregs [(248, BitVec.ofNat 32 frame), (249, BitVec.ofNat 32 (frame / 2 ^ 32)),
    (250, BitVec.ofNat 32 cause), (251, BitVec.ofNat 32 arg)]

/-- The team inside the handler (R283). -/
def Team.inHandler (t : Team) (f : Frame) (frame : Nat) (tvec : VAddr) : Team :=
  { t with frame := some f, level := 2, mode := 0, part := 5, mask := t.present
           sregs := trapRegs t.sregs frame f.cause f.arg.toNat
           pc := tvec, clause := none, hold := [], reuse := [], replay := none, pending := none, wait := none
           yielded := false }

/-- Trap entry of a drained team (R283): the frame is written through a translation at level 2 in the space of the
crew's world; a frame that cannot be written, or one that is active already, makes a double trap. -/
def State.enterTrap (s : State) (c : Issuer) (p : PendTrap) : State :=
  match c.team.frame with
  | some _ => s.doubleTrap c c.team.pc
  | none =>
    let regs := s.coreAt c.ref.die c.ref.core
    let va := frameAddr regs c.ref.slot
    let a : Access := ⟨c.ref.die, c.crew.world, 2, true, false, false, some c.ref.core⟩
    match s.msys.linesOk (freeAt s 60000) a va 4 with
    | some .ats => (s.setTeam c.ref { c.team with pending := some p }).setMsys (s.msys.atsAsk c.ref.die c.crew.world va true)
    | some x =>
      let s := if x = .fail 10 then s.setMsys (s.msys.atsForget c.ref.die c.crew.world va) else s
      s.doubleTrap c c.team.pc
    | none =>
      match s.msys.translate (freeAt s 60000) a va with
      | .ok pa leaf lvl =>
        let f := frameOf c p (freeAt s 0) pa (leafMsd leaf)
        let m := (lineParts 512 pa (frameBytes f p.done)).foldl
          (fun m q => m.store c.ref.die c.ref.core c.crew.world (leafMsd leaf) q.1 q.2) s.msys
        let m := (m.tlbFill a va leaf lvl).count c.ref.die c.crew.world c.crew.world va leaf
        (s.setTeam c.ref (c.team.inHandler f va regs.tvec)).setMsys m
      | _ => s.doubleTrap c c.team.pc

/-- A trap that stands is taken as soon as its record is written and the team has drained (R283, R330).  The record is a release: it is
written once the team's earlier accesses have been performed. -/
def State.tryEnter (s : State) (c : Issuer) (p : PendTrap) : State :=
  match p.post with
  | some q =>
    if c.team.late.isEmpty && s.msys.faultRoom q.die then
      let index := Sparse.get 0 s.msys.faultNext q.die
      let s := s.setMsys (s.msys.faultWrite q .none)
      let p := { p with post := none, arg := index.toNat }
      if c.team.drained then s.enterTrap c p else s.setTeam c.ref { c.team with pending := some p }
    else s.setTeam c.ref { c.team with pending := some p }
  | none => if c.team.drained then s.enterTrap c p else s.setTeam c.ref { c.team with pending := some p }

/-- The team raises a trap (R283). -/
def State.raise (s : State) (c : Issuer) (trap : Trap) (arg tva : Nat) (done : LaneSet) : State :=
  s.tryEnter c ⟨trap, arg, tva, done, none, (0, 0)⟩

/-- A clause that failed its checks (R148): the frame keeps the header that was read (R284). -/
def State.badClause (s : State) (c : Issuer) (h0 h1 : Word) : State := s.tryEnter c ⟨.illegalOp, 0, 0, 0, none, (h0, h1)⟩

/-- The team raises `ILLEGAL_OP` (R285). -/
def State.illegal (s : State) (c : Issuer) : State := s.raise c .illegalOp 0 0 0

/-- A translation failure of the team: `XLATE_FAULT`, or `ALIAS_ATTR` for cause 6, with its record (R329, R330); `head` is the header of
a clause whose fetch failed after it was read (R284). -/
def State.xlateTrap (s : State) (c : Issuer) (code cause : Nat) (write fetch : Bool) (lane va : Nat) (done : LaneSet) (head : Word × Word) : State :=
  let q : FaultPost :=
    ⟨code, cause, write, fetch, c.crew.world, c.crew.world, c.ref.die, c.ref.core, c.ref.slot, lane, va, 0, s.msys.assistFaults⟩
  s.tryEnter c ⟨if cause == 6 then .aliasAttr else .xlateFault, 0, va, done, some q, head⟩

/-! Instructions that touch only the team. -/

/-- Two runs of bytes have one in common. -/
def Target.overlaps (p q : Target) : Bool := p.scratch == q.scratch && decide (p.addr < q.addr + q.len) && decide (q.addr < p.addr + p.len)

/-- Some bytes of the places are among those of the access. -/
def LateAcc.touches (a : LateAcc) (ps : List Target) : Bool := ps.any (fun p => a.places.any p.overlaps)

/-- What an instruction of the team's own registers does. -/
inductive TeamRes where
  /-- the team with its results, before the pc moves on -/
  | done (t : Team)
  /-- the team with its results and a pc of its own -/
  | jump (t : Team) (target : VAddr)
  /-- `ILLEGAL_OP` -/
  | illegal
  /-- another trap, with `c.tva` -/
  | trap (k : Trap) (tva : Nat)
  /-- it cannot issue yet -/
  | stall (w : Wait)

/-- An instruction of `n` words that touches only the team's own registers. -/
def State.teamOp (s : State) (n : Nat) (src : Option Reg) (f : Issuer → TeamRes) : Host.Outcome State Fault Refusal :=
  s.issue fun c =>
    match f c with
    | .done t => s.setTeam c.ref (t.advance n (src.map (c.team.source (freeAt s 0))))
    | .jump t target => s.setTeam c.ref (t.jump target)
    | .illegal => s.illegal c
    | .trap k tva => s.raise c k 0 tva 0
    | .stall w => s.stall c w

/-! The return from a trap (R286, R287). -/

/-- Whether a team may run an instruction of level `n`. -/
def Team.may (t : Team) (n : Nat) : Bool := decide (n ≤ t.level)

/-- The team as the frame saved it: s248 to s255, `mode`, `part`, the lane masks and the level (R287); lanes that have
exited meanwhile stay absent. -/
def Team.restore (t : Team) (f : Frame) : Team :=
  { t with sregs := Sparse.setRun 0 t.sregs 248 f.saved, mode := f.mode, part := f.part, mask := f.mask &&& t.present, level := f.level
           frame := none }

/-- The clause that the frame saved; its words are fetched again, unchecked (R287). -/
def Frame.clauseAt (f : Frame) : Option Clause :=
  if f.inClause then some ⟨f.pc - BitVec.ofNat 57 (8 + 4 * f.slot), f.h0, f.h1, [], f.slot, f.seen⟩ else none

/-- Issue the instruction at the frame's pc again (R240, R287). -/
def Team.replayAt (t : Team) (f : Frame) (done : LaneSet) : Team :=
  { t.restore f with pc := f.pc, clause := f.clauseAt, hold := [], replay := if f.inClause then some (f.lanes &&& ~~~done, done) else none }

end Sys2Proof.Machine
end

