-- ==== Sys2Proof/Machine/Operands.lean ====
section
/-! DEFINITION. Operand forms: vector and uniform sources, single registers and pairs, destinations (R75, R153, R155, R162). -/

namespace Sys2Proof.Machine

/-- A source operand: a vector register, or a uniform register that every lane reads (R155). -/
inductive Src where
  | v (r : Reg)
  | s (r : Reg)
  deriving DecidableEq, Repr

/-- A V4 source: ub or uc names a uniform register (R154). -/
def srcOf (u : Bool) (r : Reg) : Src := if u then .s r else .v r

/-- The vector source of field [15:8], for the hold hint (R82). -/
def Src.vec : Src → Option Reg
  | .v r => some r
  | .s _ => none

/-- `n` vector registers from `r` on are below 256 and the declared count (R75). -/
def Issuer.vRun (c : Issuer) (r : Reg) (n : Nat) : Bool := decide (r.toNat + n ≤ c.crew.alloc.regs) && decide (r.toNat + n ≤ 256)

/-- A vector operand: one register, or an even pair where it is wide (R75). -/
def Issuer.vOk (c : Issuer) (wide : Bool) (r : Reg) : Bool :=
  if wide then evenReg r && c.vRun r 2 else c.vRun r 1

/-- A uniform operand: one register, or an even pair where it is wide (R75). -/
def sOk (wide : Bool) (r : Reg) : Bool := !wide || evenReg r

def Issuer.srcOk (c : Issuer) (wide : Bool) : Src → Bool
  | .v r => c.vOk wide r
  | .s r => sOk wide r

/-- The bits of a source in a lane: one register, or a pair where it is wide (R88, R162). -/
def Team.read (t : Team) (free lane : Nat) (wide : Bool) : Src → Nat
  | .v r => if wide then t.v64 free lane r.toNat else (t.v free lane r.toNat).toNat
  | .s r => if wide then t.sIn64 free lane r.toNat else (t.sIn free lane r.toNat).toNat

/-- The register writes of a result: one register, or a pair where it is wide. -/
def destWrites (wide : Bool) (d : Reg) (x : Nat) : List (Nat × Word) :=
  if wide then [(d.toNat, BitVec.ofNat 32 x), (d.toNat + 1, BitVec.ofNat 32 (x / 2 ^ 32))] else [(d.toNat, BitVec.ofNat 32 x)]

def destRegs (wide : Bool) (d : Reg) : List Nat := if wide then [d.toNat, d.toNat + 1] else [d.toNat]

/-- Registers `r` to `r + n − 1`. -/
def regRun (r : Reg) (n : Nat) : List Nat := (List.range n).map (fun i => r.toNat + i)

/-- The result of an operation: the bits to be written, and whether a clamp took place (R79, R163). -/
abbrev Result := Nat × Bool

/-- A sweep that writes one result in each active lane (R27, R163). -/
def Team.sweepResult (t : Team) (free : Nat) (wide : Bool) (d : Reg) (f : Nat → Result) : Team :=
  (t.sweep free (destRegs wide d) (fun l => destWrites wide d (f l).1)).setStat 2 ((t.active free).any (fun l => (f l).2))

/-- A sweep that writes a run of registers in each active lane. -/
def Team.sweepRun (t : Team) (free : Nat) (d : Reg) (n : Nat) (f : Nat → Nat → Result) : Team :=
  (t.sweep free (regRun d n) (fun l => (List.range n).map (fun i => (d.toNat + i, BitVec.ofNat 32 (f l i).1)))).setStat 2
    ((t.active free).any (fun l => (List.range n).any (fun i => (f l i).2)))

/-- One result for the uniform file (R186). -/
def Team.uniformResult (t : Team) (wide : Bool) (d : Reg) (x : Result) : Team :=
  (if wide then t.writeS64 d.toNat x.1 else t.writeS d.toNat (BitVec.ofNat 32 x.1)).setStat 2 x.2

/-- The free value of the registers of an instruction. -/
abbrev State.rf (s : State) : Nat := freeAt s 0

end Sys2Proof.Machine
end

