-- ==== Sys2Proof/Machine/Flags.lean ====
section
/-! DEFINITION. Narrowing, saturation and sat_hit, and the integer operations (R89, R95, R162, R163, R179 to R185). -/

namespace Sys2Proof.Machine

/-- `narrow(x, T)` of R163: clamped when the instruction is saturable and `mode`.sat = 1, else wrapped. -/
def narrowInt (sat : Bool) (w : Nat) (sgn : Bool) (x : Int) : Result :=
  if sat then (truncBits (satInt w sgn x) w, decide (satInt w sgn x ≠ x)) else (truncBits x w, false)

/-- A result of width `w` that is not narrowed (R163). -/
def plain (w : Nat) (x : Int) : Result := (truncBits x w, false)

/-- The value of `w` bits in a signed or natural view (R88, R162). -/
def viewInt (w : Nat) (sgn : Bool) (x : Nat) : Int := if sgn then toSigned w x else (x % 2 ^ w : Nat)

/-- Three-operand integer operations (R179). -/
inductive IntV3 where
  | add | sub | mul | mulhi | min | max | and | or | xor | andn | shl | shr | sar | rot | cmpeq | cmpne | cmplt | cmple
  deriving DecidableEq, Repr

/-- The shift amount is one register (R179). -/
def IntV3.isShift : IntV3 → Bool
  | .shl | .shr | .sar | .rot => true
  | _ => false

/-- The compares write one register (R179). -/
def IntV3.isCompare : IntV3 → Bool
  | .cmpeq | .cmpne | .cmplt | .cmple => true
  | _ => false

def boolNat (b : Bool) : Nat := if b then 1 else 0

/-- Shifts of a `w`-bit value (R179). -/
def shlBits (w a sh : Nat) : Nat := if w ≤ sh then 0 else a * 2 ^ sh % 2 ^ w
def shrBits (w a sh : Nat) : Nat := if w ≤ sh then 0 else a % 2 ^ w / 2 ^ sh
def sarBits (w a sh : Nat) : Nat := truncBits (toSigned w a / (2 ^ (Nat.min sh w) : Nat)) w
def rotBits (w a sh : Nat) : Nat := a * 2 ^ (sh % w) % 2 ^ w + a % 2 ^ w / 2 ^ (w - sh % w)

/-- The result of a three-operand operation on `w`-bit operands (R179). -/
def IntV3.eval (op : IntV3) (w : Nat) (sgn sat : Bool) (a b : Nat) : Result :=
  let x := viewInt w sgn a
  let y := viewInt w sgn b
  match op with
  | .add => narrowInt sat w sgn (x + y)
  | .sub => narrowInt sat w sgn (x - y)
  | .mul => narrowInt sat w sgn (x * y)
  | .mulhi => plain w (x * y / (2 ^ w : Nat))
  | .min => plain w (if x ≤ y then x else y)
  | .max => plain w (if x ≤ y then y else x)
  | .and => (a &&& b, false)
  | .or => (a ||| b, false)
  | .xor => (a ^^^ b, false)
  | .andn => (a &&& (2 ^ w - 1 - b % 2 ^ w), false)
  | .shl => (shlBits w a (b % 256), false)
  | .shr => (shrBits w a (b % 256), false)
  | .sar => (sarBits w a (b % 256), false)
  | .rot => (rotBits w a (b % 256), false)
  | .cmpeq => (boolNat (decide (x = y)), false)
  | .cmpne => (boolNat (decide (x ≠ y)), false)
  | .cmplt => (boolNat (decide (x < y)), false)
  | .cmple => (boolNat (decide (x ≤ y)), false)

/-- Four-operand integer operations (R180). -/
inductive IntV4 where
  | mad | madhi | sel
  deriving DecidableEq, Repr

def IntV4.eval (op : IntV4) (w : Nat) (sgn sat : Bool) (a b c : Nat) : Result :=
  let x := viewInt w sgn a
  let y := viewInt w sgn b
  match op with
  | .mad => narrowInt sat w sgn (x * y + viewInt w sgn c)
  | .madhi => plain w (x * y / (2 ^ w : Nat) + viewInt w sgn c)
  | .sel => (if c ≠ 0 then a else b, false)

/-- Two-operand integer operations (R181). -/
inductive IntV2 where
  | neg | abs | not | popc | clz | ctz | brev | mov
  deriving DecidableEq, Repr

/-- The counts write one register (R181). -/
def IntV2.isCount : IntV2 → Bool
  | .popc | .clz | .ctz => true
  | _ => false

/-- The bits of a number, the least significant first. -/
def bitList (w x : Nat) : List Bool := (List.range w).map (fun i => x.testBit i)

/-- The number whose bits are given, the least significant first. -/
def ofBitList : List Bool → Nat
  | [] => 0
  | b :: bs => boolNat b + 2 * ofBitList bs

/-- Zero bits before the first 1 bit. -/
def leadingFalse : List Bool → Nat
  | [] => 0
  | b :: bs => if b then 0 else 1 + leadingFalse bs

def IntV2.eval (op : IntV2) (w : Nat) (sgn sat : Bool) (a : Nat) : Result :=
  let x := viewInt w sgn a
  match op with
  | .neg => narrowInt sat w sgn (-x)
  | .abs => narrowInt sat w sgn (if x < 0 then -x else x)
  | .not => (2 ^ w - 1 - a % 2 ^ w, false)
  | .popc => ((bitList w a).filter id |>.length, false)
  | .clz => (leadingFalse (bitList w a).reverse, false)
  | .ctz => (leadingFalse (bitList w a), false)
  | .brev => (ofBitList (bitList w a).reverse, false)
  | .mov => (a, false)

/-- `bfx` (R182). -/
def bfxBits (w : Nat) (sgn : Bool) (a pos width : Nat) : Nat :=
  let f := bitsOf a pos width
  if sgn then truncBits (toSigned width f) w else f

/-- `bfi` (R182). -/
def bfiBits (a b pos width : Nat) : Nat := bitsOf a 0 pos + 2 ^ pos * bitsOf b 0 width + 2 ^ (pos + width) * (a / 2 ^ (pos + width))

/-- Immediate operations with a sign-extended immediate, a zero-extended one, or a shift amount (R183). -/
inductive IntImm where
  | addi | muli | andi | ori | xori | shli | shri | sari
  deriving DecidableEq, Repr

/-- The immediate is a signed 16-bit value for `addi` and `muli` (DEDUCED, log 13), zero-extended for the others. -/
def IntImm.eval (op : IntImm) (w : Nat) (sgn sat : Bool) (a : Nat) (imm : Nat) : Result :=
  let x := viewInt w sgn a
  match op with
  | .addi => narrowInt sat w sgn (x + toSigned 16 imm)
  | .muli => narrowInt sat w sgn (x * toSigned 16 imm)
  | .andi => (a &&& imm, false)
  | .ori => (a ||| imm, false)
  | .xori => (a ^^^ imm, false)
  | .shli => (shlBits w a imm, false)
  | .shri => (shrBits w a imm, false)
  | .sari => (sarBits w a imm, false)

/-- The value of `movi` (R183). -/
def moviBits (w imm : Nat) : Nat := truncBits (toSigned 16 imm) w

/-- The value of `movh` (R183). -/
def movhBits (old : Word) (imm : BitVec 16) : Word := imm ++ old.extractLsb' 0 16

/-- `cvti` (R184). -/
def cvtiBits (dt st : EType) (sat : Bool) (a : Nat) : Result := narrowInt sat dt.width dt.signed (viewInt st.width st.signed a)

/-- `lea` (R185). -/
def leaBits (sgn : Bool) (base b : Nat) : Nat := truncBits ((base : Int) + viewInt 32 sgn b) 64

end Sys2Proof.Machine
end

