-- ==== Sys2Proof/Machine/IntVec.lean ====
section
/-! DEFINITION. Integer instructions on vector registers (R179 to R185), the moves between the files (R187), and the
shared forms that the escape and the uniform file use (R155, R186). -/

namespace Sys2Proof.Machine

/-- Widths of the operands under the view of `mode` (R162). -/
def Team.et (t : Team) : EType := etypeOf t.mode
def Team.sat (t : Team) : Bool := satOf t.mode

/-- A three-operand integer operation of `n` words (R163, R179). -/
def intV3 (op : IntV3) (n : Nat) (d : Reg) (a b : Src) (s : State) : Host.Outcome State Fault Refusal :=
  s.teamOp n a.vec fun c =>
    let t := c.team
    let wide := t.et.wide
    let bw := wide && !op.isShift
    let dw := wide && !op.isCompare
    if c.vOk dw d && c.srcOk wide a && c.srcOk bw b then
      .done (t.sweepResult s.rf dw d fun l =>
        op.eval t.et.width t.et.signed t.sat (t.read s.rf l wide a) (t.read s.rf l bw b))
    else .illegal

/-- A two-operand integer operation of `n` words (R163, R181). -/
def intV2 (op : IntV2) (n : Nat) (d : Reg) (a : Src) (s : State) : Host.Outcome State Fault Refusal :=
  s.teamOp n a.vec fun c =>
    let t := c.team
    let wide := t.et.wide
    let dw := wide && !op.isCount
    if c.vOk dw d && c.srcOk wide a then
      .done (t.sweepResult s.rf dw d fun l => op.eval t.et.width t.et.signed t.sat (t.read s.rf l wide a))
    else .illegal

/-- A four-operand integer operation (R180). -/
def intV4 (op : IntV4) (d a : Reg) (b c' : Src) (s : State) : Host.Outcome State Fault Refusal :=
  s.teamOp 2 (some a) fun c =>
    let t := c.team
    let wide := t.et.wide
    let cw := wide && op != .sel
    if c.vOk wide d && c.vOk wide a && c.srcOk wide b && c.srcOk cw c' then
      .done (t.sweepResult s.rf wide d fun l =>
        op.eval t.et.width t.et.signed t.sat (t.read s.rf l wide (.v a)) (t.read s.rf l wide b) (t.read s.rf l cw c'))
    else .illegal

/-- An immediate operation, its register both source and destination (R183). -/
def intImm (op : IntImm) (d : Reg) (imm : Nat) (s : State) : Host.Outcome State Fault Refusal :=
  s.teamOp 1 none fun c =>
    let t := c.team
    let wide := t.et.wide
    if c.vOk wide d then
      .done (t.sweepResult s.rf wide d fun l => op.eval t.et.width t.et.signed t.sat (t.read s.rf l wide (.v d)) imm)
    else .illegal

def execAdd (d a b : Reg) (s : State) := intV3 .add 1 d (.v a) (.v b) s
def execSub (d a b : Reg) (s : State) := intV3 .sub 1 d (.v a) (.v b) s
def execMul (d a b : Reg) (s : State) := intV3 .mul 1 d (.v a) (.v b) s
def execMulhi (d a b : Reg) (s : State) := intV3 .mulhi 1 d (.v a) (.v b) s
def execMin (d a b : Reg) (s : State) := intV3 .min 1 d (.v a) (.v b) s
def execMax (d a b : Reg) (s : State) := intV3 .max 1 d (.v a) (.v b) s
def execAnd (d a b : Reg) (s : State) := intV3 .and 1 d (.v a) (.v b) s
def execOr (d a b : Reg) (s : State) := intV3 .or 1 d (.v a) (.v b) s
def execXor (d a b : Reg) (s : State) := intV3 .xor 1 d (.v a) (.v b) s
def execAndn (d a b : Reg) (s : State) := intV3 .andn 1 d (.v a) (.v b) s
def execShl (d a b : Reg) (s : State) := intV3 .shl 1 d (.v a) (.v b) s
def execShr (d a b : Reg) (s : State) := intV3 .shr 1 d (.v a) (.v b) s
def execSar (d a b : Reg) (s : State) := intV3 .sar 1 d (.v a) (.v b) s
def execRot (d a b : Reg) (s : State) := intV3 .rot 1 d (.v a) (.v b) s
def execCmpeq (d a b : Reg) (s : State) := intV3 .cmpeq 1 d (.v a) (.v b) s
def execCmpne (d a b : Reg) (s : State) := intV3 .cmpne 1 d (.v a) (.v b) s
def execCmplt (d a b : Reg) (s : State) := intV3 .cmplt 1 d (.v a) (.v b) s
def execCmple (d a b : Reg) (s : State) := intV3 .cmple 1 d (.v a) (.v b) s

def execNeg (d a : Reg) (s : State) := intV2 .neg 1 d (.v a) s
def execAbs (d a : Reg) (s : State) := intV2 .abs 1 d (.v a) s
def execNot (d a : Reg) (s : State) := intV2 .not 1 d (.v a) s
def execPopc (d a : Reg) (s : State) := intV2 .popc 1 d (.v a) s
def execClz (d a : Reg) (s : State) := intV2 .clz 1 d (.v a) s
def execCtz (d a : Reg) (s : State) := intV2 .ctz 1 d (.v a) s
def execBrev (d a : Reg) (s : State) := intV2 .brev 1 d (.v a) s
def execMov (d a : Reg) (s : State) := intV2 .mov 1 d (.v a) s

def execMad (d a b c : Reg) (ub uc : Bool) (s : State) := intV4 .mad d a (srcOf ub b) (srcOf uc c) s
def execMadhi (d a b c : Reg) (ub uc : Bool) (s : State) := intV4 .madhi d a (srcOf ub b) (srcOf uc c) s
def execSel (d a b c : Reg) (ub uc : Bool) (s : State) := intV4 .sel d a (srcOf ub b) (srcOf uc c) s

def execAddi (d : Reg) (i : BitVec 16) (s : State) := intImm .addi d i.toNat s
def execMuli (d : Reg) (i : BitVec 16) (s : State) := intImm .muli d i.toNat s
def execAndi (d : Reg) (i : BitVec 16) (s : State) := intImm .andi d i.toNat s
def execOri (d : Reg) (i : BitVec 16) (s : State) := intImm .ori d i.toNat s
def execXori (d : Reg) (i : BitVec 16) (s : State) := intImm .xori d i.toNat s
def execShli (d : Reg) (i : BitVec 6) (s : State) := intImm .shli d i.toNat s
def execShri (d : Reg) (i : BitVec 6) (s : State) := intImm .shri d i.toNat s
def execSari (d : Reg) (i : BitVec 6) (s : State) := intImm .sari d i.toNat s

/-- `bfx` (R182). -/
def execBfx (d a : Reg) (pos : BitVec 6) (width : BitVec 7) (s : State) : Host.Outcome State Fault Refusal :=
  s.teamOp 2 (some a) fun c =>
    let t := c.team
    let wide := t.et.wide
    if c.vOk wide d && c.vOk wide a && width != 0 && decide (pos.toNat + width.toNat ≤ t.et.width) then
      .done (t.sweepResult s.rf wide d fun l =>
        (bfxBits t.et.width t.et.signed (t.read s.rf l wide (.v a)) pos.toNat width.toNat, false))
    else .illegal

/-- `bfi` (R182). -/
def execBfi (d a b : Reg) (pos : BitVec 6) (width : BitVec 7) (s : State) : Host.Outcome State Fault Refusal :=
  s.teamOp 2 (some a) fun c =>
    let t := c.team
    let wide := t.et.wide
    if c.vOk wide d && c.vOk wide a && c.vOk wide b && width != 0 && decide (pos.toNat + width.toNat ≤ t.et.width) then
      .done (t.sweepResult s.rf wide d fun l =>
        (bfiBits (t.read s.rf l wide (.v a)) (t.read s.rf l wide (.v b)) pos.toNat width.toNat, false))
    else .illegal

/-- `movi` (R183).  Under a 64-bit view an odd destination is one register (DEDUCED, log 14). -/
def execMovi (d : Reg) (i : BitVec 16) (s : State) : Host.Outcome State Fault Refusal :=
  s.teamOp 1 none fun c =>
    let t := c.team
    let wide := t.et.wide && evenReg d
    if c.vOk wide d then .done (t.sweepResult s.rf wide d fun _ => (moviBits 64 i.toNat, false))
    else .illegal

/-- `movh` (R183). -/
def execMovh (d : Reg) (i : BitVec 16) (s : State) : Host.Outcome State Fault Refusal :=
  s.teamOp 1 none fun c =>
    if c.vOk false d then
      .done (c.team.sweepResult s.rf false d fun l => ((movhBits (c.team.v s.rf l d.toNat) i).toNat, false))
    else .illegal

/-- `cvti` (R184). -/
def execCvti (d a : Reg) (dt st : EType) (s : State) : Host.Outcome State Fault Refusal :=
  s.teamOp 1 (some a) fun c =>
    let t := c.team
    if dt.isInt && st.isInt && c.vOk dt.wide d && c.vOk st.wide a then
      .done (t.sweepResult s.rf dt.wide d fun l => cvtiBits dt st t.sat (t.read s.rf l st.wide (.v a)))
    else .illegal

/-- `lea` (R185). -/
def execLea (d a b : Reg) (s : State) : Host.Outcome State Fault Refusal :=
  s.teamOp 1 none fun c =>
    let t := c.team
    if c.vOk true d && sOk true a && c.vOk false b then
      .done (t.sweepResult s.rf true d fun l => (leaBits t.et.signed (t.sIn64 s.rf l a.toNat) (t.read s.rf l false (.v b)), false))
    else .illegal

/-- `vtos` (R187). -/
def execVtos (d a b : Reg) (s : State) : Host.Outcome State Fault Refusal :=
  s.teamOp 1 (some a) fun c =>
    let t := c.team
    if c.vOk false a then
      let lane := (t.s s.rf b.toNat).toNat
      .done (t.writeS d.toNat (if decide (lane < 1024) && t.isActive s.rf lane then t.v s.rf lane a.toNat else 0))
    else .illegal

/-- `stov` (R187). -/
def execStov (d a : Reg) (s : State) : Host.Outcome State Fault Refusal :=
  s.teamOp 1 none fun c =>
    if c.vOk false d then .done (c.team.sweepResult s.rf false d fun l => ((c.team.sIn s.rf l a.toNat).toNat, false))
    else .illegal

end Sys2Proof.Machine
end

