-- ==== Sys2Proof/Machine/Special.lean ====
section
/-! DEFINITION. The special functions, correctly rounded (R102, R197).

`rcp`, `rsq` and `sqrt` are rounded from exact integers.  The others are enclosed between two bounds of rising precision
until both bounds round alike.  Arguments so small or so large that the result lies strictly between
neighbouring rounding boundaries are rounded from a value between the same boundaries. -/

namespace Sys2Proof.Machine

/-- The special functions (R197). -/
inductive SpecialFn where
  | rcp | rsq | sqrt | exp2 | log2 | sin | cos | tanh
  deriving DecidableEq, Repr

/-- floor(√n): the bits of the root from `k − 1` down, above the root `r` found so far. -/
def isqrtFrom (n : Nat) : Nat → Nat → Nat
  | 0, r => r
  | k + 1, r => if (r + 2 ^ k) * (r + 2 ^ k) ≤ n then isqrtFrom n k (r + 2 ^ k) else isqrtFrom n k r

def isqrt (n : Nat) : Nat := isqrtFrom n (n.log2 / 2 + 1) 0

/-- Round √(num/den), num and den positive: the root to more bits than the format has, with a half added
where it is not exact. -/
def roundSqrt (f : FloatFmt) (mode : RMode) (num den : Nat) : Nat :=
  -- num/den · 2^(2k) has at least 2(M + 4) bits
  let k : Int := (f.mbits : Int) + 4 - floorLog2 num den / 2
  let (x, y) := scaleFrac num den (2 * k)
  let s := isqrt (x / y)
  let exact := s * s * y == x
  let (p, q) := scaleFrac (2 * s + (if exact then 0 else 1)) 2 (-k)
  roundFrac f mode false p q

/-! Series in fixed point: an integer stands for itself over 2^p. -/

/-- Σ term/k! · r^k from index `k` on; the argument bounds the number of terms. -/
def expSeries (p r : Nat) : Nat → Nat → Nat → Nat
  | 0, _, _ => 0
  | fuel + 1, k, term => if term = 0 then 0 else term + expSeries p r fuel (k + 1) (term * r / 2 ^ p / (k + 1))

/-- e^r for 0 ≤ r < 1. -/
def expFix (p r : Nat) : Nat := expSeries p r p 0 (2 ^ p)

/-- Σ u · s^k/(2k+1), the powers `u` falling by the factor `s`. -/
def atanhSeries (p s : Nat) : Nat → Nat → Nat → Nat
  | 0, _, _ => 0
  | fuel + 1, k, u => if u = 0 then 0 else u / (2 * k + 1) + atanhSeries p s fuel (k + 1) (u * s / 2 ^ p)

/-- ln y = 2 · artanh((y − 1)/(y + 1)) for y = num/den in [1, 2). -/
def lnFix (p num den : Nat) : Nat :=
  let t := (num - den) * 2 ^ p / (num + den)
  2 * atanhSeries p (t * t / 2 ^ p) p 0 t

def ln2Fix (p : Nat) : Nat := 2 * atanhSeries p (2 ^ p / 9) p 0 (2 ^ p / 3)

/-- Σ (−1)^k u/(2k+1), the powers `u` falling by the factor n². -/
def atanSeries (n : Nat) : Nat → Nat → Int → Nat → Int
  | 0, _, _, _ => 0
  | fuel + 1, k, sign, u => if u = 0 then 0 else sign * (u / (2 * k + 1) : Nat) + atanSeries n fuel (k + 1) (-sign) (u / (n * n))

/-- π = 16 arctan(1/5) − 4 arctan(1/239). -/
def piFix (p : Nat) : Int := 16 * atanSeries 5 p 0 1 (2 ^ p / 5) - 4 * atanSeries 239 p 0 1 (2 ^ p / 239)

/-- Σ (−1)^i term · r^(2i)/(k+1)(k+2)…: the series of sine (k = 1) and cosine (k = 0). -/
def trigSeries (p rr : Nat) : Nat → Nat → Int → Nat → Int
  | 0, _, _, _ => 0
  | fuel + 1, k, sign, term =>
    if term = 0 then 0
    else sign * (term : Nat) + trigSeries p rr fuel (k + 2) (-sign) (term * rr / 2 ^ p / ((k + 1) * (k + 2)))

/-- Bounds lo/2^p and hi/2^p times 2^e, both of one sign; none when they differ in sign. -/
structure Bounds where
  lo : Int
  hi : Int
  e : Int
  den : Nat

/-- The rounded value, when both bounds round alike. -/
def Bounds.round (f : FloatFmt) (mode : RMode) (b : Bounds) : Option Nat :=
  if 0 < b.lo then
    let (x, y) := scaleFrac b.lo.toNat b.den b.e
    let (x', y') := scaleFrac b.hi.toNat b.den b.e
    let r := roundFrac f mode false x y
    if r = roundFrac f mode false x' y' then some r else none
  else if b.hi < 0 then
    let (x, y) := scaleFrac b.lo.natAbs b.den b.e
    let (x', y') := scaleFrac b.hi.natAbs b.den b.e
    let r := roundFrac f mode true x y
    if r = roundFrac f mode true x' y' then some r else none
  else none

/-- Error allowed for a series of precision p, in units of 2^−p; generous. -/
def seriesError (p : Nat) : Nat := 4096 * (p + 64)

/-- m · 2^a as an integer, rounded down. -/
def shiftInt (m : Int) (a : Int) : Int :=
  match a with
  | .ofNat k => m * (2 ^ k : Nat)
  | .negSucc k => m / (2 ^ (k + 1) : Nat)

/-- 2^x for x = ±m·2^e. -/
def exp2Bounds (p : Nat) (neg : Bool) (m : Nat) (e : Int) : Bounds :=
  let x := shiftInt (if neg then -(m : Int) else m) (e + p)
  let n := x / (2 ^ p : Nat)
  let v := expFix p ((x % (2 ^ p : Nat)).toNat * ln2Fix p / 2 ^ p)
  ⟨v - seriesError p, v + seriesError p, n - p, 1⟩

/-- log2(m·2^e). -/
def log2Bounds (p : Nat) (m : Nat) (e : Int) : Bounds :=
  let v : Int := (lnFix p m (2 ^ m.log2) * 2 ^ p / ln2Fix p : Nat) + (e + m.log2) * (2 ^ p : Nat)
  ⟨v - seriesError p, v + seriesError p, -p, 1⟩

/-- Sine, or cosine where `cosine` is true, of ±m·2^e. -/
def trigBounds (p : Nat) (cosine neg : Bool) (m : Nat) (e : Int) : Bounds :=
  let g := (max 0 (e + m.log2 + 1)).toNat + 8
  let half := piFix (p + g) / 2
  let x := shiftInt (if neg then -(m : Int) else m) (e + (p + g : Nat))
  let q := (2 * x + half) / (2 * half)
  let r := (x - q * half) / (2 ^ g : Nat)
  let rr := r.natAbs * r.natAbs / 2 ^ p
  let sinR : Int := (if r < 0 then -1 else 1) * trigSeries p rr p 1 1 r.natAbs
  let cosR : Int := trigSeries p rr p 0 1 (2 ^ p)
  let quadrant := ((q + (if cosine then 1 else 0)) % 4).toNat
  let v := match quadrant with
    | 0 => sinR
    | 1 => cosR
    | 2 => -sinR
    | _ => -cosR
  ⟨v - seriesError p, v + seriesError p, -p, 1⟩

/-- tanh x = (e^2x − 1)/(e^2x + 1) for x = m·2^e > 0, as a pair of fractions. -/
def tanhRound (f : FloatFmt) (mode : RMode) (p : Nat) (neg : Bool) (m : Nat) (e : Int) : Option Nat :=
  let x := (shiftInt m (e + 1 + p)).toNat
  let n := x / ln2Fix p
  let v := expFix p (x - n * ln2Fix p)
  let lo := (v - seriesError p) * 2 ^ n
  let hi := (v + seriesError p) * 2 ^ n
  let r := roundFrac f mode neg (lo - 2 ^ p) (lo + 2 ^ p)
  if 2 ^ p < lo ∧ r = roundFrac f mode neg (hi - 2 ^ p) (hi + 2 ^ p) then some r else none

/-- The function of ±m·2^e with precision p, when that decides the rounding. -/
def specialTry (fn : SpecialFn) (f : FloatFmt) (mode : RMode) (p : Nat) (neg : Bool) (m : Nat) (e : Int) : Option Nat :=
  match fn with
  | .exp2 => (exp2Bounds p neg m e).round f mode
  | .log2 => (log2Bounds p m e).round f mode
  | .sin => (trigBounds p false neg m e).round f mode
  | .cos => (trigBounds p true neg m e).round f mode
  | .tanh => tanhRound f mode p neg m e
  | _ => none

/-- The first precision, doubled from try to try, that decides. -/
def specialLoop (fn : SpecialFn) (f : FloatFmt) (mode : RMode) (neg : Bool) (m : Nat) (e : Int) : Nat → Nat → Option Nat
  | 0, _ => none
  | fuel + 1, p =>
    match specialTry fn f mode p neg m e with
    | some r => some r
    | none => specialLoop fn f mode neg m e fuel (2 * p)

/-- (1 − 2^−80) or (1 + 2^−80) times a positive value num/den, rounded. -/
def roundBeside (f : FloatFmt) (mode : RMode) (neg below : Bool) (num den : Nat) : Nat :=
  roundFrac f mode neg (num * (if below then 2 ^ 80 - 1 else 2 ^ 80 + 1)) (den * 2 ^ 80)

/-- floor(log2 |x|) of m·2^e. -/
def magnitude (m : Nat) (e : Int) : Int := e + m.log2

/-- m is a power of two. -/
def isPow2 (m : Nat) : Bool := m == 2 ^ m.log2

/-- The value of a special function on a finite non-zero argument in its domain (R197). -/
def specialFinite (fn : SpecialFn) (f : FloatFmt) (mode : RMode) (neg : Bool) (m : Nat) (e : Int) : Option Nat :=
  let (num, den) := scaleFrac m 1 e
  match fn with
  | .rcp => some (roundFrac f mode neg den num)
  | .sqrt => some (roundSqrt f mode num den)
  | .rsq => some (roundSqrt f mode den num)
  | .exp2 =>
    if 12 < magnitude m e then some (if neg then roundFrac f mode false 1 (2 ^ 2000) else roundFrac f mode false (2 ^ 2000) 1)
    else if magnitude m e < -70 then some (roundBeside f mode false neg 1 1)
    else if num % den = 0 then
      (let n := num / den
       some (if neg then roundFrac f mode false 1 (2 ^ n) else roundFrac f mode false (2 ^ n) 1))
    else specialLoop .exp2 f mode neg m e 20 256
  | .log2 =>
    if isPow2 m then
      (let n := e + m.log2
       some (roundVal f mode (if n = 0 then .fin false 0 0 else .fin (decide (n < 0)) n.natAbs 0)))
    else specialLoop .log2 f mode false m e 20 256
  | .sin => if magnitude m e < -30 then some (roundFrac f mode neg (num * (2 ^ 62 - 1)) (den * 2 ^ 62))
            else specialLoop .sin f mode neg m e 20 256
  | .cos => if magnitude m e < -40 then some (roundBeside f mode false true 1 1)
            else specialLoop .cos f mode neg m e 20 256
  | .tanh => if magnitude m e < -30 then some (roundFrac f mode neg (num * (2 ^ 62 - 1)) (den * 2 ^ 62))
             else if 6 ≤ magnitude m e then some (roundBeside f mode neg true 1 1)
             else specialLoop .tanh f mode neg m e 20 256

/-- Opcodes of the special functions (R152). -/
def SpecialFn.code : SpecialFn → Nat
  | .rcp => 0x90 | .rsq => 0x91 | .sqrt => 0x92 | .exp2 => 0x93 | .log2 => 0x94 | .sin => 0x95 | .cos => 0x96 | .tanh => 0x97

def RMode.code : RMode → Nat
  | .rne => 0 | .rtz => 1 | .rup => 2 | .rdn => 3 | .rna => 4

/-- A special function on the bits of an element (R197). -/
def SpecialFn.eval (fn : SpecialFn) (f : FloatFmt) (mode : RMode) (a : Nat) : Nat :=
  match decodeVal f a with
  | .nan => f.nanBits
  | .inf neg =>
    match fn with
    | .rcp => f.signBits neg
    | .rsq | .sqrt | .log2 =>
      if neg then f.nanBits else (if fn = .rsq then f.signBits false else f.infBits)
    | .exp2 => if neg then f.signBits false else f.infBits
    | .sin | .cos => f.nanBits
    | .tanh => roundVal f mode (.fin neg 1 0)
  | .fin neg m e =>
    if m = 0 then
      match fn with
      | .rcp => f.signBits neg + f.infBits
      | .rsq => f.signBits neg + f.infBits
      | .sqrt | .sin | .tanh => f.signBits neg
      | .exp2 | .cos => roundVal f mode (.fin false 1 0)
      | .log2 => f.signBits true + f.infBits
    else if neg ∧ (fn = .rsq ∨ fn = .sqrt ∨ fn = .log2) then f.nanBits
    else match specialFinite fn f mode neg m e with
      | some r => r
      | none => (Config.specialResult fn.code f.width a mode.code).toNat % 2 ^ f.width

end Sys2Proof.Machine
end

