-- ==== Sys2Proof/Machine/Float.lean ====
section
/-! DEFINITION. Floating-point instructions on vector registers (R188 to R198), dot products and scale-and-accumulate
(R203 to R205). -/

namespace Sys2Proof.Machine

def Team.rmode (t : Team) : RMode := rmodeOf t.mode

/-- The elements of an operand under a float view (R189). -/
def elems (et : EType) (x : Nat) : List Nat := if et.packed then [bitsOf x 0 16, bitsOf x 16 16] else [x]

/-- A result from its elements. -/
def joinElems : List Nat → Nat
  | [] => 0
  | e :: es => e + 65536 * joinElems es

/-- Three-operand floating-point operations (R191, R192, R194). -/
inductive FltV3 where
  | add | sub | mul | min | max | cmpeq | cmpne | cmplt | cmple | cmpun
  deriving DecidableEq, Repr

/-- The compares write one register (R194). -/
def FltV3.isCompare : FltV3 → Bool
  | .cmpeq | .cmpne | .cmplt | .cmple | .cmpun => true
  | _ => false

/-- The lesser, or the greater where `greater` is true, of two elements (R192). -/
def minmaxBits (f : FloatFmt) (greater : Bool) (a b : Nat) : Nat :=
  let x := decodeVal f a
  let y := decodeVal f b
  if x.isNaN then (if y.isNaN then f.nanBits else b)
  else if y.isNaN then a
  else
    let k := x.cmp y
    if k = 0 then (if decide (2 ^ (f.width - 1) ≤ a) != greater then a else b)
    else if decide (k < 0) != greater then a else b

/-- The compares of R194. -/
def FltV3.holds (op : FltV3) (f : FloatFmt) (a b : Nat) : Bool :=
  let x := decodeVal f a
  let y := decodeVal f b
  let un := x.isNaN || y.isNaN
  match op with
  | .cmpeq => !un && decide (x.cmp y = 0)
  | .cmpne => un || decide (x.cmp y ≠ 0)
  | .cmplt => !un && decide (x.cmp y < 0)
  | .cmple => !un && decide (x.cmp y ≤ 0)
  | _ => un

/-- One element of a three-operand operation. -/
def FltV3.elem (op : FltV3) (f : FloatFmt) (mode : RMode) (a b : Nat) : Nat :=
  match op with
  | .add => sumRound f mode [decodeVal f a, decodeVal f b]
  | .sub => sumRound f mode [decodeVal f a, (decodeVal f b).negate]
  | .mul => roundVal f mode ((decodeVal f a).mul (decodeVal f b))
  | .min => minmaxBits f false a b
  | .max => minmaxBits f true a b
  | op => boolNat (op.holds f a b)

/-- Whether reductions and atomics use the float view (R210, R247). -/
def isFloatView (et : EType) : Bool := !et.isInt

/-- Apply an operation to each element of a view (R94, R189). -/
def mapElems (et : EType) (f : Nat → Nat) (a : Nat) : Nat := joinElems ((elems et a).map f)
def mapElems2 (et : EType) (f : Nat → Nat → Nat) (a b : Nat) : Nat := joinElems (List.zipWith f (elems et a) (elems et b))

def FltV3.eval (op : FltV3) (et : EType) (mode : RMode) (a b : Nat) : Nat := mapElems2 et (op.elem et.fmt mode) a b

/-- Two-operand floating-point operations (R193, R195, R196, R197). -/
inductive FltV2 where
  | neg | abs | cls | rnd | special (fn : SpecialFn)
  deriving DecidableEq, Repr

def FltV2.isClass : FltV2 → Bool
  | .cls => true
  | _ => false

/-- The class bit of an element (R195). -/
def classBits (f : FloatFmt) (a : Nat) : Nat :=
  match decodeVal f a with
  | .nan => 2 ^ 8
  | .inf neg => if neg then 2 ^ 0 else 2 ^ 7
  | .fin neg m _ =>
    if m = 0 then (if neg then 2 ^ 3 else 2 ^ 4)
    else if m < 2 ^ f.mbits then (if neg then 2 ^ 2 else 2 ^ 5)
    else (if neg then 2 ^ 1 else 2 ^ 6)

/-- `frnd` of an element (R196). -/
def frndBits (f : FloatFmt) (mode : RMode) (a : Nat) : Nat :=
  match decodeVal f a with
  | .nan => f.nanBits
  | .inf _ => a
  | .fin neg m e =>
    if m = 0 then a
    else
      let x := (Val.fin neg m e).roundInt mode
      if x = 0 then f.signBits neg else roundVal f mode (.fin neg x.natAbs 0)

/-- One element of a two-operand operation. -/
def FltV2.elem (op : FltV2) (f : FloatFmt) (mode : RMode) (a : Nat) : Nat :=
  match op with
  | .neg => if (decodeVal f a).isNaN then f.nanBits else (a + 2 ^ (f.width - 1)) % 2 ^ f.width
  | .abs => if (decodeVal f a).isNaN then f.nanBits else a % 2 ^ (f.width - 1)
  | .cls => classBits f a
  | .rnd => frndBits f mode a
  | .special fn => fn.eval f mode a

def FltV2.eval (op : FltV2) (et : EType) (mode : RMode) (a : Nat) : Nat := mapElems et (op.elem et.fmt mode) a

/-- A three-operand floating-point instruction of `n` words (R190). -/
def fltV3 (op : FltV3) (n : Nat) (d : Reg) (a b : Src) (s : State) : Host.Outcome State Fault Refusal :=
  s.teamOp n a.vec fun c =>
    let t := c.team
    let wide := t.et.wide
    let dw := wide && !op.isCompare
    if c.vOk dw d && c.srcOk wide a && c.srcOk wide b then
      .done (t.sweepResult s.rf dw d fun l => (op.eval t.et t.rmode (t.read s.rf l wide a) (t.read s.rf l wide b), false))
    else .illegal

/-- A two-operand floating-point instruction of `n` words (R190). -/
def fltV2 (op : FltV2) (n : Nat) (d : Reg) (a : Src) (s : State) : Host.Outcome State Fault Refusal :=
  s.teamOp n a.vec fun c =>
    let t := c.team
    let wide := t.et.wide
    let dw := wide && !op.isClass
    if c.vOk dw d && c.srcOk wide a then
      .done (t.sweepResult s.rf dw d fun l => (op.eval t.et t.rmode (t.read s.rf l wide a), false))
    else .illegal

def execFadd (d a b : Reg) (s : State) := fltV3 .add 1 d (.v a) (.v b) s
def execFsub (d a b : Reg) (s : State) := fltV3 .sub 1 d (.v a) (.v b) s
def execFmul (d a b : Reg) (s : State) := fltV3 .mul 1 d (.v a) (.v b) s
def execFmin (d a b : Reg) (s : State) := fltV3 .min 1 d (.v a) (.v b) s
def execFmax (d a b : Reg) (s : State) := fltV3 .max 1 d (.v a) (.v b) s
def execFcmpeq (d a b : Reg) (s : State) := fltV3 .cmpeq 1 d (.v a) (.v b) s
def execFcmpne (d a b : Reg) (s : State) := fltV3 .cmpne 1 d (.v a) (.v b) s
def execFcmplt (d a b : Reg) (s : State) := fltV3 .cmplt 1 d (.v a) (.v b) s
def execFcmple (d a b : Reg) (s : State) := fltV3 .cmple 1 d (.v a) (.v b) s
def execFcmpun (d a b : Reg) (s : State) := fltV3 .cmpun 1 d (.v a) (.v b) s

def execFneg (d a : Reg) (s : State) := fltV2 .neg 1 d (.v a) s
def execFabs (d a : Reg) (s : State) := fltV2 .abs 1 d (.v a) s
def execFclass (d a : Reg) (s : State) := fltV2 .cls 1 d (.v a) s
def execFrnd (d a : Reg) (s : State) := fltV2 .rnd 1 d (.v a) s
def execRcp (d a : Reg) (s : State) := fltV2 (.special .rcp) 1 d (.v a) s
def execRsq (d a : Reg) (s : State) := fltV2 (.special .rsq) 1 d (.v a) s
def execSqrt (d a : Reg) (s : State) := fltV2 (.special .sqrt) 1 d (.v a) s
def execExp2 (d a : Reg) (s : State) := fltV2 (.special .exp2) 1 d (.v a) s
def execLog2 (d a : Reg) (s : State) := fltV2 (.special .log2) 1 d (.v a) s
def execSin (d a : Reg) (s : State) := fltV2 (.special .sin) 1 d (.v a) s
def execCos (d a : Reg) (s : State) := fltV2 (.special .cos) 1 d (.v a) s
def execTanh (d a : Reg) (s : State) := fltV2 (.special .tanh) 1 d (.v a) s

/-- Fused multiply-add of an element (R191). -/
def fmaBits (f : FloatFmt) (mode : RMode) (a b c : Nat) : Nat :=
  sumRound f mode [(decodeVal f a).mul (decodeVal f b), decodeVal f c]

/-- `ffma` (R191). -/
def execFfma (d a b c' : Reg) (ub uc : Bool) (s : State) : Host.Outcome State Fault Refusal :=
  s.teamOp 2 (some a) fun c =>
    let t := c.team
    let wide := t.et.wide
    if c.vOk wide d && c.vOk wide a && c.srcOk wide (srcOf ub b) && c.srcOk wide (srcOf uc c') then
      .done (t.sweepResult s.rf wide d fun l =>
        (joinElems (List.zipWith (fun ab z => fmaBits t.et.fmt t.rmode ab.1 ab.2 z)
          (List.zip (elems t.et (t.read s.rf l wide (.v a))) (elems t.et (t.read s.rf l wide (srcOf ub b))))
          (elems t.et (t.read s.rf l wide (srcOf uc c')))), false))
    else .illegal

/-! Conversions between the vector element types (R97, R98, R198). -/

/-- Registers of an operand of a type: a pair for 64-bit types (R198). -/
def cvtPairSrc (dt st : EType) : Bool := st.wide || (dt.packed && st == .f32)
def cvtPairDst (dt st : EType) : Bool := dt.wide || (st.packed && dt == .f32)

/-- One narrowing of an element with the bound zero, so that the bound is the maximum finite value (R97, R198). -/
def narrowElem (dst src : FloatFmt) (mode : RMode) (sat : Bool) (a : Nat) : Result :=
  let r := narrowVal dst mode (.fin false 0 0) (decodeVal src a)
  (r.1, r.2 && sat)

/-- `cvt` of the bits of an operand (R198); the pair of types is one that `cvtOk` allows. -/
def cvtBits (dt st : EType) (mode : RMode) (sat : Bool) (a : Nat) : Result :=
  if dt.isInt then
    (let r := valToInt mode dt.width dt.signed (decodeVal st.fmt a)
     (truncBits r.1 dt.width, r.2 && sat))
  else if st.isInt then (roundVal dt.fmt mode (Val.ofInt mode (viewInt st.width st.signed a)), false)
  else if dt.packed then
    (let x := narrowElem dt.fmt ff32 mode sat (bitsOf a 0 32)
     let y := narrowElem dt.fmt ff32 mode sat (bitsOf a 32 32)
     (x.1 + 65536 * y.1, x.2 || y.2))
  else if st.packed then
    (roundVal ff32 mode (decodeVal st.fmt (bitsOf a 0 16)) + 2 ^ 32 * roundVal ff32 mode (decodeVal st.fmt (bitsOf a 16 16)), false)
  else if dt == .f64 then (roundVal ff64 mode (decodeVal ff32 a), false)
  else narrowElem ff32 ff64 mode sat a

/-- `cvt` (R198). -/
def execCvt (d a : Reg) (dt st : EType) (s : State) : Host.Outcome State Fault Refusal :=
  s.teamOp 1 (some a) fun c =>
    let t := c.team
    if cvtOk dt st && c.vOk (cvtPairDst dt st) d && c.vOk (cvtPairSrc dt st) a then
      .done (t.sweepResult s.rf (cvtPairDst dt st) d fun l =>
        cvtBits dt st t.rmode t.sat (t.read s.rf l (cvtPairSrc dt st) (.v a)))
    else .illegal

/-! Dot products and `sacc` (R203 to R205). -/

/-- Element k of `w` bits. -/
def elemAt (x w k : Nat) : Nat := bitsOf x (w * k) w

/-- The exact sum of the products of two packed operands (R203). -/
def dotInt (w n : Nat) (sgn : Bool) (a b : Nat) : Int :=
  ((List.range n).map (fun k => viewInt w sgn (elemAt a w k) * viewInt w sgn (elemAt b w k))).foldl (· + ·) 0

/-- `dp4` and `dp8` (R203). -/
def dotIntOp (w n : Nat) (d a : Reg) (b c' : Src) (s : State) : Host.Outcome State Fault Refusal :=
  s.teamOp 2 (some a) fun c =>
    let t := c.team
    if (t.et == .i32 || t.et == .n32) && c.vOk false d && c.vOk false a && c.srcOk false b && c.srcOk false c' then
      .done (t.sweepResult s.rf false d fun l =>
        narrowInt t.sat 32 t.et.signed (viewInt 32 t.et.signed (t.read s.rf l false c')
          + dotInt w n t.et.signed (t.read s.rf l false (.v a)) (t.read s.rf l false b)))
    else .illegal

def execDp4 (d a b c : Reg) (ub uc : Bool) (s : State) := dotIntOp 8 4 d a (srcOf ub b) (srcOf uc c) s
def execDp8 (d a b c : Reg) (ub uc : Bool) (s : State) := dotIntOp 4 8 d a (srcOf ub b) (srcOf uc c) s

/-- The products of two packed operands of a format (R204). -/
def dotVals (f : FloatFmt) (w n a b : Nat) : List Val :=
  (List.range n).map (fun k => (decodeVal f (elemAt a w k)).mul (decodeVal f (elemAt b w k)))

/-- `dpf4` and `dpf8` (R204). -/
def dotFltOp (f : FloatFmt) (w n : Nat) (d a : Reg) (b c' : Src) (s : State) : Host.Outcome State Fault Refusal :=
  s.teamOp 2 (some a) fun c =>
    let t := c.team
    if c.vOk false d && c.vOk false a && c.srcOk false b && c.srcOk false c' then
      .done (t.sweepResult s.rf false d fun l =>
        (sumRound ff32 t.rmode (decodeVal ff32 (t.read s.rf l false c')
          :: dotVals f w n (t.read s.rf l false (.v a)) (t.read s.rf l false b)), false))
    else .illegal

def execDpf4 (d a b c : Reg) (ub uc : Bool) (s : State) := dotFltOp ⟨4, 3, .topNaN⟩ 8 4 d a (srcOf ub b) (srcOf uc c) s
def execDpf8 (d a b c : Reg) (ub uc : Bool) (s : State) := dotFltOp ⟨2, 1, .finite⟩ 4 8 d a (srcOf ub b) (srcOf uc c) s

/-- `sacc` of one lane (R100, R205). -/
def saccBits (p b d : Nat) : Nat :=
  let ka := bitsOf b 0 8
  let kb := bitsOf b 8 8
  if ka = 255 ∨ kb = 255 then ff32.nanBits
  else sumRound ff32 .rne [decodeVal ff32 d, (decodeVal ff32 p).scale ((ka : Int) + kb - 254)]

/-- `sacc` (R205). -/
def execSacc (d a b c' : Reg) (ub uc : Bool) (s : State) : Host.Outcome State Fault Refusal :=
  s.teamOp 2 (some a) fun c =>
    let t := c.team
    if c.vOk false d && c.vOk false a && c.srcOk false (srcOf ub b) && c.srcOk false (srcOf uc c') then
      .done (t.sweepResult s.rf false d fun l =>
        (saccBits (t.read s.rf l false (.v a)) (t.read s.rf l false (srcOf ub b)) (t.read s.rf l false (srcOf uc c')), false))
    else .illegal

end Sys2Proof.Machine
end

