-- ==== Sys2Proof/Machine/Convert.lean ====
section
/-! DEFINITION. `cvtn` and `cvtw` (R91, R96 to R98, R199 to R202), scratchpad bytes and range-lock conflicts
(R112, R128). -/

namespace Sys2Proof.Machine

/-- A thread access overlaps a range in the table of its core in a way that conflicts (R128); scratchpad offsets are those
of the crew. -/
def MemSys.conflict (m : MemSys) (die core : Nat) (slots : List Nat) (scratch write : Bool) (base len : Nat) : Bool :=
  m.locks.any (fun l => l.die == die && l.core == core && l.scratch == scratch && (!scratch || slots.contains l.slot)
    && decide (base < l.base + l.len) && decide (l.base < base + len) && (write || l.write))

/-- A scratchpad access of the issuing team conflicts (R128). -/
def Issuer.scratchConflict (c : Issuer) (m : MemSys) (write : Bool) (off len : Nat) : Bool :=
  m.conflict c.ref.die c.ref.core c.crew.slots true write off len

/-- The little-endian value of `n` scratchpad bytes. -/
def Crew.scratchNat (c : Crew) (off n : Nat) : Nat := leNat (Sparse.run 0 c.scratch off n)

/-- Bits of an element as it stands in a packed register, elements of a group, and the place of element 0 (R199). -/
def packShape : Fmt → Nat × Nat × Nat
  | .f32 => (32, 1, 0)
  | .fp19 => (19, 1, 13)
  | .bf16 | .f16 => (16, 2, 0)
  | .e4m3 | .e5m2 | .int8 | .nat8 | .e8m0 => (8, 4, 0)
  | .e3m2 | .e2m3 => (6, 4, 0)
  | .e2m1 | .int4 | .nat4 => (4, 8, 0)
  | .f64 => (64, 1, 0)

/-- Elements of a group (R199). -/
def groupSize (f : Fmt) : Nat := (packShape f).2.1

/-- Place of element `i` of a group: 6-bit elements stand in bytes (R91, R199). -/
def packPlace (f : Fmt) (i : Nat) : Nat := (packShape f).2.2 + 32 / groupSize f * i

/-- Pack the elements of a group (R199). -/
def packGroup (f : Fmt) (xs : List Nat) : Nat :=
  ((List.range xs.length).zip xs).foldl (fun acc p => acc + p.2 * 2 ^ packPlace f p.1) 0

/-- Element `i` of a packed register (R91, R202). -/
def unpackElem (f : Fmt) (x i : Nat) : Nat := bitsOf x (packPlace f i) (packShape f).1

/-- One element of `cvtn` from an exact value (R97, R98, R200). -/
def cvtnElem (f : Fmt) (mode : RMode) (bound : Val) (v : Val) : Result :=
  match floatFmt? f, intFmt? f with
  | some ff, _ => narrowVal ff mode bound v
  | none, some (w, sgn) => let r := valToInt mode w sgn v; (truncBits r.1 w, r.2)
  | none, none => (0, false)

/-- `cvtn` of a group (R200). -/
def cvtnGroup (f : Fmt) (mode : RMode) (sat : Bool) (bound : Val) (vs : List Val) : Result :=
  let rs := vs.map (cvtnElem f mode bound)
  (packGroup f (rs.map Prod.fst), sat && rs.any Prod.snd)

/-- Source element `i` of a lane: an `f32` register or an `f64` pair (R199). -/
def Team.cvtnSource (t : Team) (free lane : Nat) (a : Reg) (pair : Bool) (i : Nat) : Val :=
  if pair then decodeVal ff64 (t.v64 free lane (a.toNat + 2 * i)) else decodeVal ff32 (t.v free lane (a.toNat + i)).toNat

/-- `cvtn` (R199 to R201).  The record is read at issue, after the team's earlier accesses to its bytes (R116, R215). -/
def execCvtn (d a b : Reg) (fmt : Fmt) (op : BitVec 4) (s : State) : Host.Outcome State Fault Refusal :=
  s.teamOp 2 (some a) fun c =>
    let t := c.team
    let pair := op == 1
    let g := groupSize fmt
    let off := (t.s s.rf b.toNat).toNat
    if !cvtnOk fmt op || !c.vOk false d || !c.vRun a (if pair then 2 * g else g) || (pair && !evenReg a) then .illegal
    else if off % 16 ≠ 0 then .trap .misaligned off
    else if c.crew.alloc.scratch < off + 16 then .trap .worldViolation off
    else if c.scratchConflict s.msys false off 16 then .trap .rangeConflict off
    else if t.late.any (fun a => a.touches [⟨true, false, off, 16⟩]) then .stall (.bytes [⟨true, false, off, 16⟩])
    else
      let rec_ := c.crew.scratchNat off 16
      if bitsOf rec_ 32 96 ≠ 0 then .illegal
      else
        let bound := decodeVal ff32 (bitsOf rec_ 0 32)
        .done (t.sweepResult s.rf false d fun l =>
          cvtnGroup fmt t.rmode t.sat bound ((List.range g).map (t.cvtnSource s.rf l a pair)))

/-- The exact value of an element of a narrow format (R92, R202); the integer 0 takes its sign from the mode (R93, log 16). -/
def elemVal (f : Fmt) (mode : RMode) (x : Nat) : Val :=
  match floatFmt? f, intFmt? f with
  | some ff, _ => decodeVal ff x
  | none, some (w, sgn) => Val.ofInt mode (viewInt w sgn x)
  | none, none => decodeE8m0 x

/-- The bits that `cvtw` writes for an element: an `f32`, an `f64` or an `i32` (R202). -/
def cvtwElem (f : Fmt) (mode : RMode) (op : Nat) (x : Nat) : Nat :=
  match op with
  | 0 => roundVal ff32 .rne (elemVal f mode x)
  | 1 => roundVal ff64 .rne (elemVal f mode x)
  | _ => match intFmt? f with
    | some (w, sgn) => truncBits (viewInt w sgn x) 32
    | none => 0

/-- Register `j` of the destinations of `cvtw`. -/
def cvtwReg (f : Fmt) (mode : RMode) (op : Nat) (x j : Nat) : Nat :=
  if op = 1 then bitsOf (cvtwElem f mode op (unpackElem f x (j / 2))) (32 * (j % 2)) 32 else cvtwElem f mode op (unpackElem f x j)

/-- `cvtw` (R202). -/
def execCvtw (d a : Reg) (fmt : Fmt) (op : BitVec 4) (s : State) : Host.Outcome State Fault Refusal :=
  s.teamOp 2 (some a) fun c =>
    let t := c.team
    let n := groupSize fmt * (if op == 1 then 2 else 1)
    if !cvtwOk fmt op || !c.vRun d n || !c.vOk false a || (op == 1 && !evenReg d) then .illegal
    else .done (t.sweepRun s.rf d n fun l j => (cvtwReg fmt t.rmode op.toNat (t.v s.rf l a.toNat).toNat j, false))

end Sys2Proof.Machine
end

