-- ==== Sys2Proof/Machine/PolyAcc.lean ====
section
/-! DEFINITION. Polynomial accumulators: arithmetic on their coefficients, factors, merges and the image (R105 to R111). -/

namespace Sys2Proof.Machine

/-! Arithmetic on coefficients, which are `f64` encodings rounded with rne. -/

/-- Round an exact sum; a zero sum is +0 (R93). -/
def polySum (vs : List Val) : Nat :=
  match exactSum .rne vs with
  | .fin _ 0 _ => 0
  | v => roundVal ff64 .rne v

/-- A product rounded once. -/
def polyMul (a b : Nat) : Nat := roundVal ff64 .rne ((decodeVal ff64 a).mul (decodeVal ff64 b))

/-- A quotient rounded once; the canonical NaN where an operand is not finite or the divisor is zero. -/
def polyDiv (a b : Nat) : Nat :=
  match decodeVal ff64 a, decodeVal ff64 b with
  | .fin s m e, .fin t n g =>
    if n = 0 then ff64.nanBits
    else if m = 0 then ff64.signBits (s != t)
    else
      let (x, y) := scaleFrac m n (e - g)
      roundFrac ff64 .rne (s != t) x y
  | _, _ => ff64.nanBits

/-- Not a NaN or an infinity. -/
def polyFinite (x : Nat) : Bool :=
  match decodeVal ff64 x with
  | .fin _ _ _ => true
  | _ => false

/-- Not a zero; a NaN is not. -/
def polyNonzero (x : Nat) : Bool := decide (x % 2 ^ 63 ≠ 0)

/-- The largest factor count (R108). -/
def nMax : Nat := 2 ^ 32 - 1

/-- The 32-bit signed range of E (R108). -/
def expOk (e : Int) : Bool := decide (-(2 ^ 31 : Int) ≤ e) && decide (e < (2 ^ 31 : Int))

/-- The launch value (R74, R105). -/
def PolyAcc.initial : PolyAcc := ⟨[(0, 0x3FF0000000000000#64)], 63, 0, 0, false, false⟩

/-- Coefficient `k`. -/
def PolyAcc.at (p : PolyAcc) (k : Nat) : Nat := (Sparse.get 0 p.coef k).toNat

/-- The coefficients up to D, lowest first. -/
def PolyAcc.coefs (p : PolyAcc) : List Nat := (List.range (p.deg + 1)).map p.at

/-- The accumulator with the coefficients given. -/
def PolyAcc.withCoefs (p : PolyAcc) (cs : List Nat) : PolyAcc := { p with coef := Sparse.setRun 0 [] 0 (cs.map (BitVec.ofNat 64)) }

/-- Poison (R108). -/
def PolyAcc.poisoned (p : PolyAcc) : PolyAcc :=
  { p.withCoefs (List.replicate (p.deg + 1) ff64.nanBits) with e := 0, poison := true }

/-- The exact magnitude that is larger. -/
def maxVal (a b : Val) : Val := if 0 < b.cmp a then b else a

/-- `rescale()` (R107); a rescale that carries E out of range poisons (R108). -/
def PolyAcc.rescale (p : PolyAcc) : PolyAcc :=
  if p.poison then p
  else
    match (p.coefs.map (fun x => (decodeVal ff64 x).absVal)).foldl maxVal (.fin false 0 0) with
    | .fin _ m e =>
      let v : Val := .fin false m e
      if m = 0 ∨ (v.cmp (.fin false 1 512) ≤ 0 ∧ 0 ≤ v.cmp (.fin false 1 (-512))) then p
      else
        let s := (m.log2 : Int) + e
        if expOk (p.e + s) then
          { p.withCoefs (p.coefs.map (fun x => roundVal ff64 .rne ((decodeVal ff64 x).scale (-s)))) with e := p.e + s }
        else p.poisoned
    | _ => p

/-- The accumulator with new coefficients: poisoned if one is not finite, else rescaled (R107, R108). -/
def PolyAcc.settle (p : PolyAcc) (cs : List Nat) : PolyAcc :=
  if cs.all polyFinite then (p.withCoefs cs).rescale else p.poisoned

/-- Multiply by the factor α + βx (R106, R108). -/
def PolyAcc.mulFactor (p : PolyAcc) (f : Nat × Nat) : PolyAcc :=
  let a := decodeVal ff64 f.1
  let b := decodeVal ff64 f.2
  let trunc := p.trunc || (!p.poison && polyNonzero f.2 && polyNonzero (p.at p.deg)) || decide (p.n = nMax)
  let q := { p with trunc := trunc, n := if p.n = nMax then p.n else p.n + 1 }
  if p.poison || !polyFinite f.1 || !polyFinite f.2 then q.poisoned
  else q.settle ((List.range (p.deg + 1)).map (fun k =>
    if k = 0 then polyMul f.1 (p.at 0)
    else polySum [a.mul (decodeVal ff64 (p.at k)), b.mul (decodeVal ff64 (p.at (k - 1)))]))

/-- A factor that is not compared (R109): a NaN, an infinity, or both zero. -/
def factorOdd (f : Nat × Nat) : Bool := !polyFinite f.1 || !polyFinite f.2 || (!polyNonzero f.1 && !polyNonzero f.2)

/-- |α| ≥ |β| (R109). -/
def factorForward (f : Nat × Nat) : Bool := decide (0 ≤ (decodeVal ff64 f.1).absVal.cmp (decodeVal ff64 f.2).absVal)

/-- Whether every removal is legal, from the count `n` on (R109). -/
def PolyAcc.removable (p : PolyAcc) : Nat → List (Nat × Nat) → Bool
  | _, [] => true
  | n, f :: fs =>
    decide (n ≠ 0) && (factorOdd f || factorForward f || (!p.trunc && decide (n ≤ p.deg)))
      && p.removable (if n = nMax then n else n - 1) fs

/-- One step of a recurrence: (c − β·q) / α (R109). -/
def quotStep (c b q a : Nat) : Nat :=
  polyDiv (polySum [decodeVal ff64 c, ((decodeVal ff64 b).mul (decodeVal ff64 q)).negate]) a

/-- The forward recurrence over the coefficients, lowest first (R109). -/
def forwardQuot (a b : Nat) : Nat → List Nat → List Nat
  | _, [] => []
  | q, c :: cs => let q' := quotStep c b q a; q' :: forwardQuot a b q' cs

/-- Remove a factor whose removal is legal (R109). -/
def PolyAcc.remove (p : PolyAcc) (f : Nat × Nat) : PolyAcc :=
  let q := { p with n := if p.n = nMax then p.n else p.n - 1 }
  if p.poison || factorOdd f then q.poisoned
  else if factorForward f then q.settle (forwardQuot f.1 f.2 0 p.coefs)
  else
    let back := (forwardQuot f.2 f.1 0 ((p.coefs.drop 1).take p.n).reverse).reverse
    q.settle (back ++ List.replicate (p.deg + 1 - p.n) 0)

/-- Whether coefficients from degree `lo` on hold a value that is not zero. -/
def PolyAcc.above (p : PolyAcc) (lo : Nat) : Bool := (p.coefs.drop lo).any polyNonzero

/-- One more than the highest degree whose coefficient satisfies `f`; 0 where none does. -/
def PolyAcc.topOf (p : PolyAcc) (f : Nat → Bool) : Nat := (p.coefs.reverse.dropWhile (fun x => !f x)).length

/-- Some product of degree above `d` is not zero (R110): one of two coefficients that are not zero, or any with a coefficient that is a NaN or
an infinity, which is a NaN or not zero (R93); a poisoned accumulator holds NaN in every coefficient (R108). -/
def PolyAcc.cuts (a b : PolyAcc) (d : Nat) : Bool :=
  let odd := fun x => !polyFinite x
  let i := a.topOf polyNonzero
  let j := b.topOf polyNonzero
  (decide (i ≠ 0) && decide (j ≠ 0) && decide (d + 2 < i + j))
    || (decide (a.topOf odd ≠ 0) && decide (d + 1 < a.topOf odd + b.deg)) || (decide (b.topOf odd ≠ 0) && decide (d + 1 < b.topOf odd + a.deg))

/-- Merge `b` into `a` (R108, R110).  c[0] is the sum of one product, so that a zero takes the product's sign (DEDUCED, log 18). -/
def PolyAcc.merge (a b : PolyAcc) : PolyAcc :=
  let d := Nat.min a.deg b.deg
  let full := decide (nMax < a.n + b.n)
  let trunc := if a.poison then a.trunc || full
    else a.trunc || b.trunc || full || a.cuts b d || a.above (d + 1) || b.above (d + 1)
  let p : PolyAcc := ⟨[], d, 0, Nat.min (a.n + b.n) nMax, trunc, false⟩
  if a.poison || b.poison || !expOk (a.e + b.e) then p.poisoned
  else { p with e := a.e + b.e }.settle ((List.range (d + 1)).map (fun k =>
    if k = 0 then polyMul (a.at 0) (b.at 0)
    else polySum ((List.range (k + 1)).map (fun i => (decodeVal ff64 (a.at i)).mul (decodeVal ff64 (b.at (k - i)))))))

/-! The 528-byte image (R105). -/

/-- The header and the coefficient slots. -/
def PolyAcc.bytes (p : PolyAcc) : List Byte :=
  leBytes (p.deg + (if p.poison then 256 else 0) + (if p.trunc then 512 else 0)) 8 ++ leBytes (truncBits p.e 32) 4
    ++ leBytes p.n 4 ++ (List.range 64).flatMap (fun k => leBytes (if k ≤ p.deg then p.at k else 0) 8)

/-- A reserved bit of an image's header is not zero. -/
def imageReserved (bs : List Byte) : Bool :=
  let h := leNat (bs.take 8)
  decide (bitsOf h 10 54 ≠ 0) || decide (bitsOf h 6 2 ≠ 0)

/-- The accumulator of a record as it stands: header and coefficients up to D; poisoned where poison = 1 or a reserved bit is set (R105, R248). -/
def PolyAcc.ofRecord (bs : List Byte) : PolyAcc :=
  let h := leNat (bs.take 8)
  let deg := bitsOf h 0 6
  let cs := (List.range (deg + 1)).map (fun k => leNat ((bs.drop (16 + 8 * k)).take 8))
  let p : PolyAcc := ⟨[], deg, toSigned 32 (leNat ((bs.drop 8).take 4)), leNat ((bs.drop 12).take 4), h.testBit 9, false⟩
  if h.testBit 8 || imageReserved bs then p.poisoned else p.withCoefs cs

/-- The accumulator that `ppld` takes from an image with no reserved bit set: poisoned also where a coefficient up to D is not finite (R234).
A poisoned one keeps the image's D, n and trunc (DESIGN CHOICE, log 18: R234 says of it only that it is poisoned). -/
def PolyAcc.ofBytes (bs : List Byte) : PolyAcc :=
  let p := PolyAcc.ofRecord bs
  if p.coefs.all polyFinite then p else p.poisoned

def Crew.poly (c : Crew) (n : Nat) : PolyAcc := Sparse.get PolyAcc.initial c.pps n
def Crew.setPoly (c : Crew) (n : Nat) (p : PolyAcc) : Crew := { c with pps := Sparse.set PolyAcc.initial c.pps n p }

end Sys2Proof.Machine
end

