-- ==== Sys2Proof/Machine/Tiles.lean ====
section
/-! DEFINITION. Accumulator tiles and the K-steps of the octet units (R102, R103, R216 to R220, R224), and what long-latency instructions make of
the bytes they have read (R220, R226, R228, R234). -/

namespace Sys2Proof.Machine

/-! Elements. -/

/-- Slot of an element in a row: bits from one element to the next, first bit and width (R216). -/
def fmtSlot : Fmt → Nat × Nat × Nat
  | .f64 => (64, 0, 64)
  | .f32 => (32, 0, 32)
  | .fp19 => (32, 13, 19)
  | .bf16 | .f16 => (16, 0, 16)
  | .e3m2 | .e2m3 => (8, 0, 6)
  | .e2m1 | .int4 | .nat4 => (4, 0, 4)
  | _ => (8, 0, 8)

/-- K of one K-step (R216). -/
def fmtK (f : Fmt) : Nat := 256 / (fmtSlot f).1

/-- Element `k` of a row or a column whose bits are `x` (R216, R217). -/
def rowElem (f : Fmt) (x k : Nat) : Nat := bitsOf x ((fmtSlot f).1 * k + (fmtSlot f).2.1) (fmtSlot f).2.2

/-- The signed value of an integer element (R88). -/
def intElem (f : Fmt) (x : Nat) : Int :=
  match intFmt? f with
  | some (w, sgn) => viewInt w sgn x
  | none => 0

/-- The floating-point value of an element. -/
def fltElem (f : Fmt) (x : Nat) : Val :=
  match floatFmt? f with
  | some ff => decodeVal ff x
  | none => .nan

/-- One K-step on one tile element with bits `c`, over the pairs of elements given (R102, R103, R220). -/
def kStep (fa fb : Fmt) (c : Nat) (abs : List (Nat × Nat)) : Nat :=
  match fa with
  | .f64 => abs.foldl (fun c p => fmaBits ff64 .rne p.1 p.2 c) c
  | .f32 => abs.foldl (fun c p => fmaBits ff32 .rne p.1 p.2 c) c
  | .int8 | .nat8 | .int4 | .nat4 =>
    truncBits (abs.foldl (fun c p => c + intElem fa p.1 * intElem fb p.2) (c : Int)) 32
  | _ => sumRound ff32 .rne (decodeVal ff32 c :: abs.map (fun p => (fltElem fa p.1).mul (fltElem fb p.2)))

/-! Tiles. -/

/-- Key of a tile element (R218). -/
def tileKey (unit tile elem : Nat) : Nat := (unit * 32 + tile) * 64 + elem

/-- Where element (i, j) of the tile or tile pair `n` begins (R218). -/
def tileElem (t unit n i j : Nat) : Nat :=
  if t = 2 then tileKey unit (n + j / 4) (2 * (4 * i + j % 4)) else tileKey unit n (8 * i + j)

/-- Bits of a tile element of width `t`. -/
def tileGet (tiles : List (Nat × Word)) (t unit n i j : Nat) : Nat :=
  let k := tileElem t unit n i j
  (Sparse.get 0 tiles k).toNat + (if t = 2 then 2 ^ 32 * (Sparse.get 0 tiles (k + 1)).toNat else 0)

/-- Write a tile element of width `t`. -/
def tileSet (tiles : List (Nat × Word)) (t unit n i j x : Nat) : List (Nat × Word) :=
  let k := tileElem t unit n i j
  let tiles := Sparse.set 0 tiles k (BitVec.ofNat 32 x)
  if t = 2 then Sparse.set 0 tiles (k + 1) (BitVec.ofNat 32 (x / 2 ^ 32)) else tiles

/-- Unit and row of a lane (R218). -/
def laneUnit (l : Nat) : Nat := l % 32 / 8
def laneRow (l : Nat) : Nat := l % 8
def laneWord (l : Nat) : Nat := l / 32

/-- Write the eight elements of a lane's row. -/
def setRow (t n : Nat) (l : Nat) (row : Nat → Nat) (tiles : List (Nat × Word)) : List (Nat × Word) :=
  (List.range 8).foldl (fun tiles j => tileSet tiles t (laneUnit l) (n + t * laneWord l) (laneRow l) j (row j)) tiles

/-! K-steps as an octet unit serves them (R224). -/

/-- Column `j` of B, of `n` bytes (R217). -/
def columnB (b : List Byte) (n j : Nat) : Nat := leNat ((b.drop (n * j)).take n)

/-- The elements that meet in a row and column `j`, with B as it was read: for `mmas` those that the metadata of the row names (R216, R217, R225,
R227). -/
def KStep.pairs (k : KStep) (b : List Byte) (x : KRow) (j : Nat) : List (Nat × Nat) :=
  match x.idx with
  | none => (List.range (fmtK k.fa)).map (fun i => (rowElem k.fa x.a i, rowElem k.fb (columnB b 32 j) i))
  | some idx => (List.range (fmtK k.fa)).map (fun i =>
      (rowElem k.fa x.a i, rowElem k.fb (columnB b 64 j) (4 * (i / 2) + bitsOf idx (2 * i) 2)))

/-- Bytes of B (R217). -/
def KStep.bytesB (k : KStep) : Nat := if k.rows.any (fun x => x.idx.isSome) then 512 else 256

/-- The tiles after a K-step with the B given (R220). -/
def KStep.run (k : KStep) (b : List Byte) (tiles : List (Nat × Word)) : List (Nat × Word) :=
  k.rows.foldl (fun tiles x => (List.range 8).foldl (fun tiles j =>
    tileSet tiles k.width k.unit k.tile x.row j (kStep k.fa k.fb (tileGet tiles k.width k.unit k.tile x.row j) (k.pairs b x j))) tiles) tiles

/-- The K-step of word `w` on unit `q`; `row` gives A, and for `mmas` the metadata, of a lane. -/
def kStepOf (fa fb : Fmt) (t n : Nat) (row : Nat → Nat × Option Nat) (lanes : List Nat) (w q : Nat) : KStep :=
  ⟨fa, fb, t, n + t * w, q, (lanes.filter (fun l => laneWord l == w && laneUnit l == q)).map (fun l => ⟨laneRow l, (row l).1, (row l).2⟩)⟩

/-- The K-steps of a matrix instruction, word by word; a unit with no active lane has none. -/
def kSteps (fa fb : Fmt) (t n : Nat) (row : Nat → Nat × Option Nat) (lanes : List Nat) : List KStep :=
  ((List.range 32).flatMap (fun w => (List.range 4).map (fun q => kStepOf fa fb t n row lanes w q))).filter (fun k => !k.rows.isEmpty)

/-- What the instruction makes of the bytes `bs` that its parts have read (R220, R226, R228, R234). -/
def Taker.take (x : Taker) (bs : List (Nat × Byte)) (c : Crew) : Crew :=
  match x with
  | .row t n l => { c with tiles := setRow t n l (fun j => leNat (Sparse.run 0 bs (4 * t * j) (4 * t))) c.tiles }
  | .granule k => { c with metadata := (List.range 4).foldl (fun m q =>
      Sparse.setRun 0 m ((q * 8 + k) * 256) (Sparse.run 0 bs (256 * q) 256)) c.metadata }
  | .poly n => c.setPoly n (PolyAcc.ofBytes (Sparse.run 0 bs 0 528)).rescale
  | .step k => { c with tiles := k.run (Sparse.run 0 bs 0 k.bytesB) c.tiles }

end Sys2Proof.Machine
end

