-- ==== Sys2Proof/Machine/Access.lean ====
section
/-! DEFINITION. How long-latency instructions issue and complete (R149, R150), and the lane sequence of loads, stores and
atomics, with its traps and its replay (R237 to R240). -/

namespace Sys2Proof.Machine

/-! Long-latency instructions and their flags. -/

/-- The opcodes of the long-latency instructions (R149). -/
def isLong (op : Nat) : Bool :=
  (decide (0xC4 ≤ op) && decide (op ≤ 0xCC)) || (decide (0xD0 ≤ op) && decide (op ≤ 0xD6))
    || (decide (0xD8 ≤ op) && decide (op ≤ 0xE2)) || op ∈ [0xB0, 0xB1, 0xB5, 0xB6, 0xB7, 0xBD, 0xBE]

/-- The word takes an extension word (R145). -/
def isExtended (w : Word) : Bool :=
  match opcodeMap (opOf w) with
  | some s => s.extended
  | none => false

/-- Long-latency instructions among the first `n` words of a clause; `skip` where an extension word stands
first (R149). -/
def longsIn (skip : Bool) : Nat → List Word → Nat
  | 0, _ => 0
  | _, [] => 0
  | n + 1, w :: ws =>
    if skip then longsIn false n ws
    else (if isLong (opOf w).toNat then 1 else 0) + longsIn (isExtended w) n ws

/-- The flag that a long-latency instruction at the position of the clause sets (R149). -/
def Team.flagSlot (t : Team) : Option Nat :=
  match t.clause with
  | some k =>
    let i := longsIn false k.pos k.words
    let f := headerSet k.h0 i
    if decide (i < 2) && decide (f < 12) then some f else none
  | none => none

/-- Issue a long-latency instruction once its flag is free (R80). -/
def State.longIssue (s : State) (c : Issuer) (k : Option Nat → State) : State :=
  match c.team.flagSlot with
  | some f => if c.team.flags.getLsbD f then s.stall c (.flag f) else k (some f)
  | none => k none

/-- Pending register writes, by key; those of `unready` have no value yet. -/
def pendWrites (unready : List Nat) (ws : List (Nat × Word)) : Table PendWrite :=
  Sparse.setAll none [] (ws.map (fun p => (p.1, some ⟨p.2, false, !unready.contains p.1⟩)))

/-- The instruction is in flight, with its flag set and its register writes pending (R149). -/
def Team.launch (t : Team) (id : Nat) (flag : Option Nat) (unready : List Nat) (ws : List (Nat × Word)) : Team :=
  match flag, ws with
  | none, [] => t
  | _, _ =>
    { t with inflight := t.inflight ++ [⟨id, flag, pendWrites unready ws⟩]
             flags := match flag with
               | some f => t.flags ||| BitVec.ofNat 12 (2 ^ f)
               | none => t.flags }

/-- The writes that a completing instruction makes: of a contested register one of the two values stays (R150). -/
def settleWrites (free : Nat) (ws : Table PendWrite) : List (Nat × Word) :=
  ws.filterMap (fun p =>
    match p.2 with
    | some w => if w.contested && Config.unsettledWriteIsOld free (p.1 / 256) (p.1 % 256) then none else some (p.1, w.val)
    | none => none)

/-- The registers of a list of keys. -/
def keyRegs (ws : List (Nat × Word)) : List Nat := ws.map (fun p => p.1 % 256)

/-- An instruction in flight completes: its registers are written and its flag clears (R84, R149). -/
def Team.complete (t : Team) (free id : Nat) : Team :=
  match t.inflight.find? (fun o => o.id == id) with
  | none => t
  | some o =>
    let rest := t.inflight.filter (fun x => x.id != id)
    let ws := settleWrites free o.writes
    let vs := ws.filter (fun p => decide (p.1 < 262144))
    let ss := (ws.filter (fun p => decide (262144 ≤ p.1))).map (fun p => (p.1 - 262144, p.2))
    { t.releaseLatches (keyRegs vs) with
        vregs := Sparse.setAll 0 t.vregs vs
        sregs := Sparse.setAll 0 t.sregs ss
        inflight := contest (o.writes.map Prod.fst) rest
        flags := match o.flag with
          | some f => t.flags &&& ~~~(BitVec.ofNat 12 (2 ^ f))
          | none => t.flags }

/-! Accesses as they are performed (R129 to R132, log 4). -/

/-- The new value of a location that holds `m`; `x` is the operand and `cmp` the compare value of `acas`. -/
def AtomOp.eval (op : AtomOp) (et : EType) (x cmp m : Nat) : Nat :=
  let w := et.width
  let v := viewInt w et.signed
  match op with
  | .add => (m + x) % 2 ^ w
  | .min => if isFloatView et then mapElems2 et (minmaxBits et.fmt false) m x else if v x < v m then x else m
  | .max => if isFloatView et then mapElems2 et (minmaxBits et.fmt true) m x else if v m < v x then x else m
  | .and => m &&& x
  | .or => m ||| x
  | .xor => m ^^^ x
  | .xchg => x
  | .cas => if m = cmp then x else m
  | .inc => if x ≤ m then 0 else m + 1
  | .fadd => mapElems2 et (FltV3.elem .add et.fmt .rne) m x

/-- A read of memory or scratchpad. -/
def LateAcc.reads (a : LateAcc) : Bool :=
  match a.kind with
  | .store _ | .take _ _ _ => false
  | _ => true

/-- The registers that a load or an atomic is to write, by key. -/
def LateAcc.keys (a : LateAcc) : List Nat :=
  match a.kind with
  | .load keys _ _ | .atomic keys _ _ _ _ => keys
  | _ => []

/-- The octet unit that a K-step waits for. -/
def LateAcc.unit (a : LateAcc) : Option Nat :=
  match a.kind with
  | .take _ _ (.step k) => some k.unit
  | _ => none

/-- The octet unit whose tiles are to be written: by a K-step, or by a row of `acld`. -/
def LateAcc.tile (a : LateAcc) : Option Nat :=
  match a.kind with
  | .take _ _ (.step k) => some k.unit
  | .take _ _ (.row _ _ l) => some (laneUnit l)
  | _ => none

/-- It takes what `b` reads. -/
def LateAcc.takes (a b : LateAcc) : Bool :=
  match a.kind, b.kind with
  | .take l _ _, .part l' _ => a.id == b.id && l == l'
  | _, _ => false

/-- What a taker writes, as the interlocks guard it (R150). -/
def Taker.guards (x : Taker) : Guarded :=
  match x with
  | .row _ _ _ | .step _ => .tiles
  | .granule _ => .granules
  | .poly n => .poly n

/-- An instruction of the team that writes what an interlock guards has yet to do so (R150). -/
def Team.locked (t : Team) (g : Guarded) : Bool :=
  t.late.any (fun a => match a.kind with
    | .take _ _ x => x.guards == g
    | _ => false)

/-- The team's access `b`, accepted before `a`, is performed before it: they share bytes (R130), `a` is a release and `b` an access of an earlier
instruction (R132), both write tiles of one octet unit (R150, R224), or `a` takes what `b` reads. -/
def LateAcc.behind (a b : LateAcc) : Bool :=
  (a.rel && a.id != b.id && !b.places.isEmpty) || b.touches a.places || (a.tile.isSome && a.tile == b.tile) || a.takes b

/-- Extension of loaded bytes to a register: `some true` sign-extends and `some false` zero-extends (R238). -/
def extBytes (ext : Option Bool) (bs : List Byte) : List Byte :=
  match ext with
  | some signed => leBytes (truncBits (viewInt (8 * bs.length) signed (leNat bs)) 32) 4
  | none => bs

/-- Little-endian bytes as the values of registers. -/
def regsOf (keys : List Nat) (bs : List Byte) : List (Nat × Word) :=
  (List.range keys.length).map (fun i => (keys.getD i 0, BitVec.ofNat 32 (leNat ((bs.drop (4 * i)).take 4))))

/-- The bytes of a place as a load reads them: at home, or relaxed (R131). -/
def Target.read (p : Target) (free : Nat) (r : TeamRef) (world : Nat) (home : Bool) (m : MemSys) (crew : Crew) : List Byte × MemSys :=
  if p.scratch then (Sparse.run 0 crew.scratch p.addr p.len, m)
  else if home then m.loadHome r.die r.core world p.msd p.addr p.len
  else m.loadRelaxed free r.die r.core world p.msd p.addr p.len

/-- The whole merge that the home slice of a record's first line performs as one operation (R248). -/
def MemSys.apmul (m : MemSys) (world pa : Nat) (p : PolyAcc) : MemSys :=
  (m.number true pa).softWrite world pa ((PolyAcc.ofRecord (m.readN pa 528)).merge p).bytes

/-- What an access has to do with one place: the bytes read, and the memory system and the crew after it; `bs` are the bytes that a store puts
there. -/
def LateKind.act (k : LateKind) (free : Nat) (r : TeamRef) (world : Nat) (p : Target) (bs : List Byte) (m : MemSys) (crew : Crew) :
    List Byte × MemSys × Crew :=
  match k with
  | .load _ _ home => let (got, m) := p.read free r world home m crew; (got, m, crew)
  | .part _ _ => let (got, m) := p.read free r world false m crew; (got, m, crew)
  | .store _ =>
    if p.scratch then ([], m, { crew with scratch := Sparse.setRun 0 crew.scratch p.addr bs }) else ([], m.store r.die r.core world p.msd p.addr bs, crew)
  | .atomic _ op mode x cmp =>
    let (old, m) := m.atomic r.die r.core world p.msd p.addr p.len (op.eval (etypeOf mode) x cmp)
    (leBytes old p.len, m, crew)
  | .merge a => ([], m.apmul world p.addr a, crew)
  | .take _ _ _ => ([], m, crew)

/-- The crew once a taker has taken what it has. -/
def LateKind.taken (k : LateKind) (crew : Crew) : Crew :=
  match k with
  | .take _ data x => x.take data crew
  | _ => crew

/-- Perform an access on its places, one after another; a taker takes. -/
def LateKind.perform (k : LateKind) (free : Nat) (r : TeamRef) (world : Nat) :
    List Target → List Byte → MemSys → Crew → List Byte × MemSys × Crew
  | [], _, m, crew => ([], m, k.taken crew)
  | p :: ps, bs, m, crew =>
    let (got, m, crew) := k.act free r world p (bs.take p.len) m crew
    let (more, m, crew) := k.perform free r world ps (bs.drop p.len) m crew
    (got ++ more, m, crew)

def LateKind.bytes (k : LateKind) : List Byte :=
  match k with
  | .store bs => bs
  | _ => []

/-- The bytes that the parts of a lane have read, once one more has read `bs`. -/
def LateKind.gives (k : LateKind) (bs : List Byte) (got : List (Nat × Byte)) : List (Nat × Byte) :=
  match k with
  | .part _ off => Sparse.setRun 0 got off bs
  | _ => got

/-- `b` once `a`, performed, has read `bs`. -/
def LateAcc.fed (a : LateAcc) (bs : List Byte) (b : LateAcc) : LateAcc :=
  match b.kind with
  | .take l data x => if b.takes a then { b with kind := .take l (a.kind.gives bs data) x } else b
  | _ => b

/-- The registers that an access writes, from the bytes that it has read. -/
def LateAcc.results (a : LateAcc) (bs : List Byte) : List (Nat × Word) :=
  match a.kind with
  | .load keys ext _ => regsOf keys (extBytes ext bs)
  | .atomic keys _ _ _ _ => regsOf keys bs
  | _ => []

/-- The values that an access gives registers still to be written. -/
def Team.ready (t : Team) (id : Nat) (ws : List (Nat × Word)) : Team :=
  { t with inflight := t.inflight.map (fun o => if o.id = id then
      { o with writes := o.writes.map (fun p => match p.2, ws.find? (fun w => w.1 == p.1) with
          | some x, some w => (p.1, some { x with val := w.2, ready := true })
          | _, _ => p) } else o) }

/-- The first K-step of a unit in a list of late accesses, if it has reached the unit: nothing accepted before it comes first (R224). -/
def stepAt (u : Nat) : List LateAcc → List LateAcc → Option LateAcc
  | _, [] => none
  | before, a :: as => if a.unit = some u then (if before.any a.behind then none else some a) else stepAt u (a :: before) as

/-- A K-step of another team of the core waits at a unit, of a crew for whose class, and with whose instruction, `p` holds. -/
def State.stepWaits (s : State) (r : TeamRef) (u : Nat) (p : Nat → Nat → Bool) : Bool :=
  s.teams.any (fun x => decide (x.1 / 16 = slotKey r / 16) && decide (x.1 ≠ slotKey r) && x.2.any (fun t =>
    match stepAt u [] t.late, s.crewAt t.crew with
    | some b, some c => p c.cls b.id
    | _, _ => false))

/-- The unit serves another team's K-step before one of class `cls` and instruction `id`: a higher class goes first, and within a class the
K-steps go in the order in which they reached the unit, that of their instructions (R224; DESIGN CHOICE, log 4). -/
def State.stepFirst (s : State) (r : TeamRef) (cls id u : Nat) : Bool :=
  s.stepWaits r u (fun cls' id' => decide (cls < cls') || (cls' == cls && decide (id' < id)))

/-- A late access of a team is performed, unless one accepted before it comes first, or another team's K-step at its unit. -/
def State.performAt (s : State) (free : Nat) (r : TeamRef) (k : Nat) : State :=
  match s.teamAt r with
  | none => s
  | some t =>
    match t.late[k]?, s.crewAt t.crew with
    | some a, some c =>
      if (t.late.take k).any a.behind || a.unit.any (s.stepFirst r c.cls a.id) then s
      else
        let (bs, m, crew) := a.kind.perform free r c.world a.places a.kind.bytes s.msys c
        ((s.setMsys m).setCrew t.crew crew).setTeam r ({ t with late := (t.late.eraseIdx k).map (a.fed bs) }.ready a.id (a.results bs))
    | _, _ => s

/-- The first `n` late accesses of a team are performed, in order. -/
def State.performFirst (s : State) (r : TeamRef) : Nat → State
  | 0 => s
  | n + 1 => (s.performAt (freeAt s (61000 + n)) r 0).performFirst r n

/-- Late accesses of a team up to the last one of an instruction. -/
def lateUpTo (id : Nat) : List LateAcc → Nat
  | [] => 0
  | a :: as => if a.id = id ∨ 0 < lateUpTo id as then lateUpTo id as + 1 else 0

/-! Whole accesses and lane accesses. -/

/-- Why a lane is not accepted (R239). -/
inductive LaneFail where
  | trap (k : Trap) (tva : Nat)
  | xlate (cause va : Nat)
  | ats (va : Nat)
  deriving DecidableEq, Repr

/-- The accesses of the issuing team (R325). -/
def Issuer.access (c : Issuer) (write needMsd : Bool) : Access := ⟨c.ref.die, c.crew.world, c.team.level, write, false, needMsd, some c.ref.core⟩

/-- The translation checks of a piece that has met no range lock (R239, R325). -/
def Issuer.xlatePiece (c : Issuer) (m : MemSys) (free : Nat) (write needMsd : Bool) (va : Nat) : Except LaneFail (Nat × Dword × Nat) :=
  match m.translate free (c.access write needMsd) va with
  | .ok pa leaf lvl => .ok (pa, leaf, lvl)
  | .fail cause => .error (.xlate cause va)
  | .world => .error (.trap .worldViolation va)
  | .ats => .error (.ats va)

/-- A piece that is accepted leaves its translation in the TLBs and is counted (R327, R334). -/
def Issuer.usePiece (c : Issuer) (m : MemSys) (write needMsd : Bool) (va : Nat) (leaf : Dword) (lvl : Nat) : MemSys :=
  (m.tlbFill (c.access write needMsd) va leaf lvl).count c.ref.die c.crew.world c.crew.world va leaf

/-- A global piece of an access, `len` bytes at `va` that lie in one line: the range locks, the translation and, for a
write, the held lines (R128, R239, R51). -/
def Issuer.piece (c : Issuer) (m : MemSys) (free : Nat) (write needMsd : Bool) (va len : Nat) :
    Except LaneFail (MemSys × Nat × Dword) :=
  if m.conflict c.ref.die c.ref.core [] false write va len then .error (.trap .rangeConflict va)
  else
    match c.xlatePiece m free write needMsd va with
    | .ok (pa, leaf, lvl) =>
      if write && m.isHeld pa then .error (.trap .worldViolation va) else .ok (c.usePiece m write needMsd va leaf lvl, pa, leaf)
    | .error e => .error e

/-- The pieces of 128-byte lines that a run of bytes covers; `fuel` is at least the number of lines. -/
def linePieces : Nat → Nat → Nat → List (Nat × Nat)
  | 0, _, _ => []
  | fuel + 1, va, len =>
    if len = 0 then []
    else
      let n := Nat.min len (128 - va % 128)
      (va, n) :: linePieces fuel ((va + n) % 2 ^ 57) (len - n)

/-- Translate every piece of a whole access before any is performed (R329). -/
def Issuer.pieces (c : Issuer) (m : MemSys) (free : Nat) (write needMsd : Bool) :
    List (Nat × Nat) → Except LaneFail (MemSys × List (Nat × Nat × Dword))
  | [] => .ok (m, [])
  | (va, n) :: ps =>
    match c.piece m free write needMsd va n with
    | .error f => .error f
    | .ok (m, pa, leaf) =>
      match c.pieces m (free + 1) write needMsd ps with
      | .error f => .error f
      | .ok (m, rest) => .ok (m, (pa, n, leaf) :: rest)

/-- Relaxed reads of translated pieces, in order (R131). -/
def Issuer.readPieces (c : Issuer) (m : MemSys) (free : Nat) : List (Nat × Nat × Dword) → List Byte × MemSys
  | [] => ([], m)
  | (pa, n, leaf) :: ps =>
    let (bs, m) := m.loadRelaxed free c.ref.die c.ref.core c.crew.world (leafMsd leaf) pa n
    let (rest, m) := c.readPieces m (free + 1) ps
    (bs ++ rest, m)

/-- A run of bytes at a physical address that a leaf has given. -/
def MemSys.place (m : MemSys) (leaf : Dword) (pa len : Nat) : Target := ⟨false, leafMsd leaf, m.norm pa, len⟩

/-- The 8-byte units of translated pieces (R129). -/
def MemSys.units (m : MemSys) (ps : List (Nat × Nat × Dword)) : List Target :=
  ps.flatMap (fun p => (List.range (p.2.1 / 8)).map (fun i => m.place p.2.2 (p.1 + 8 * i) 8))

/-- The 8-byte units of a run of scratchpad. -/
def scratchUnits (off len : Nat) : List Target := (List.range (len / 8)).map (fun i => ⟨true, false, off + 8 * i, 8⟩)

/-- What an access that is not accepted leads to: its trap, the record of its translation failure, of code `code` (2 is a fetch), and the trap
with its index, or the wait for the host's answer (R239, R285, R329, R333); `head` is the header of a clause whose fetch failed (R284). -/
def State.accessFails (s : State) (c : Issuer) (code : Nat) (write : Bool) (l : Nat) (done : LaneSet) (head : Word × Word) (f : LaneFail) : State :=
  match f with
  | .trap k tva => s.tryEnter c ⟨k, 0, tva, done, none, head⟩
  | .xlate cause va =>
    (if cause = 10 then s.setMsys (s.msys.atsForget c.ref.die c.crew.world va) else s).xlateTrap c code cause write (code == 2) l va done head
  | .ats va => (s.stall c (.ats c.crew.world (va / 4096))).setMsys (s.msys.atsAsk c.ref.die c.crew.world va write)

/-- A whole access of `len` bytes at `va` (R128, R329): every piece is translated before any is performed, and `k` goes on
with the pieces.  `waits` where it waits for the team's late accesses: it stands in no order with them otherwise (R131). -/
def State.whole (s : State) (c : Issuer) (code : Nat) (write needMsd waits : Bool) (va len : Nat)
    (k : MemSys → List (Nat × Nat × Dword) → State) : State :=
  if s.msys.conflict c.ref.die c.ref.core [] false write va len then s.raise c .rangeConflict 0 va 0
  else if waits && !c.team.late.isEmpty then s.stall c .accesses
  else match c.pieces s.msys (freeAt s 1) write needMsd (linePieces (len + 1) va len) with
    | .error f => s.accessFails c code write 0 0 (0, 0) f
    | .ok (m, ps) => k m ps

/-- Read `len` bytes whole at the team's level, once its accesses are performed: the launches that read records so are releases (R139, R260, R329). -/
def State.readWhole (s : State) (c : Issuer) (code va len : Nat) (k : State → List Byte → State) : State :=
  s.whole c code false false true va len fun m ps =>
    let (bs, m) := c.readPieces m (freeAt s 30000) ps
    k (s.setMsys m) bs

/-! The lane sequence. -/

/-- What the accesses accepted so far have done: `got` are the bytes that the parts of the lane at hand have read, `late` the team's accesses still
to be performed, `choices` the timing choices left (log 4), `blocked` what an access that may not be late waits for, and `busy` the octet units that
serve another team's K-step first. -/
structure LaneSeq where
  m : MemSys
  crew : Crew
  got : List (Nat × Byte)
  writes : List (Nat × Word)
  done : LaneSet
  late : List LateAcc
  choices : List Bool
  blocked : Option Wait
  busy : List Nat

/-- What the accesses of the issuing team start from. -/
def Issuer.seq (c : Issuer) (s : State) (m : MemSys) (done : LaneSet) : LaneSeq :=
  ⟨m, c.crew, [], [], done, c.team.late, s.late, none, (List.range 4).filter (s.stepFirst c.ref c.crew.cls s.fresh)⟩

/-- What an access waits for that may not be late. -/
def LateAcc.waitFor (a : LateAcc) : Wait := if a.rel then .accesses else .bytes a.places

/-- An access has been accepted: it is performed at once, or it is late where an earlier access comes before it or a timing choice
says so.  One that is to be performed `now`, such as an acquire (R133), is never late. -/
def LaneSeq.put (q : LaneSeq) (free : Nat) (r : TeamRef) (world : Nat) (now : Bool) (a : LateAcc) : LaneSeq :=
  let waits := q.late.any a.behind || a.unit.any q.busy.contains
  if now && waits then { q with blocked := some a.waitFor }
  else if !now && (waits || q.choices.headD false) then
    { q with late := q.late ++ [a], choices := q.choices.drop 1, writes := q.writes ++ a.keys.map (fun k => (k, 0)) }
  else
    let (bs, m, crew) := a.kind.perform free r world a.places a.kind.bytes q.m q.crew
    { q with m := m, crew := crew, got := a.kind.gives bs q.got, choices := if now then q.choices else q.choices.drop 1, writes := q.writes ++ a.results bs }

/-- The keys of the registers to which an access of the instruction `id` that is still to be performed will give values. -/
def LaneSeq.unready (q : LaneSeq) (id : Nat) : List Nat := (q.late.filter (fun a => a.id == id)).flatMap LateAcc.keys

/-- The state that the accesses `q` have made; only a team at level 2 rings a doorbell (R296, R332). -/
def State.afterLanes (s : State) (c : Issuer) (fin : MemSys → MemSys) (q : LaneSeq) : State :=
  { (s.setMsys (fin (if c.team.level = 2 then q.m else { q.m with rung := s.msys.rung }))).setCrew c.cid q.crew with late := q.choices }

/-- The issuing team with the instruction in flight, its flag set and its register writes pending (R149). -/
def Issuer.launched (c : Issuer) (s : State) (flag : Option Nat) (q : LaneSeq) : Team :=
  { c.team.launch s.fresh flag (q.unready s.fresh) q.writes with late := q.late }

/-- The end of an instruction of `n` words that accesses memory once for the whole team. -/
def State.endAccess (s : State) (c : Issuer) (n : Nat) (flag : Option Nat) (fin : MemSys → MemSys) (q : LaneSeq) : State :=
  match q.blocked with
  | some w => s.stall c w
  | none => (s.afterLanes c fin q).setTeam c.ref ((c.launched s flag q).advance n none)

/-- The lane sequence of R239: lanes in ascending index, up to the first that is not accepted. -/
def runLanes (step : LaneSeq → Nat → Except LaneFail LaneSeq) : List Nat → LaneSeq → LaneSeq × Option (Nat × LaneFail)
  | [], q => (q, none)
  | l :: ls, q =>
    match step q l with
    | .ok q' => runLanes step ls { q' with done := q'.done ||| laneSet l }
    | .error f => (q, some (l, f))

/-- The lanes that the instruction is to perform, and those done before a replay (R239, R240). -/
def Team.todo (t : Team) (free : Nat) : List Nat × LaneSet :=
  match t.replay with
  | some (todo, done) => (lanesBelow todo t.lanes, done)
  | none => (t.active free, 0)

/-- An access instruction of `n` words that runs lane by lane (R239).  `fin` is what its order form does once its lanes are
accepted (R133). -/
def State.laneInstr (s : State) (c : Issuer) (n : Nat) (write : Bool) (fin : MemSys → MemSys)
    (step : LaneSeq → Nat → Except LaneFail LaneSeq) : State :=
  s.longIssue c fun flag =>
    let (lanes, done) := c.team.todo s.rf
    let (q, fail) := runLanes step lanes (c.seq s s.msys done)
    match q.blocked, fail with
    | some w, _ => s.stall c w
    | none, none => s.endAccess c n flag fin q
    | none, some (lane, f) =>
      let t := { c.launched s flag q with replay := some (laneSetOf lanes &&& ~~~q.done, q.done) }
      (s.afterLanes c fin q).accessFails { c with team := t, crew := q.crew } 1 write lane q.done (0, 0) f

/-- The free value of piece `k` of a lane. -/
def laneFree (s : State) (lane k : Nat) : Nat := freeAt s (lane * 8 + k + 1)

/-- A global address (R237). -/
def Team.globalAddr (t : Team) (free lane : Nat) (a b : Reg) (off : BitVec 16) : Nat :=
  truncBits ((t.sIn64 free lane a.toNat : Nat) + toSigned 32 (t.v free lane b.toNat).toNat + toSigned 16 off.toNat) 57

/-- A scratchpad offset (R237). -/
def Team.scratchAddr (t : Team) (free lane : Nat) (a b : Reg) (off : BitVec 16) : Nat :=
  truncBits ((t.sIn free lane a.toNat).toNat + toSigned 32 (t.v free lane b.toNat).toNat + toSigned 16 off.toNat) 32

/-- Keys of `n` registers of a lane from `d` on. -/
def laneKeys (lane d n : Nat) : List Nat := (List.range n).map (fun i => regKey lane (d + i))

/-- The bytes of `n` registers from `d` on. -/
def Team.regBytes (t : Team) (free lane d n : Nat) : List Byte :=
  (List.range n).flatMap (fun i => leBytes (t.v free lane (d + i)).toNat 4)

/-- The checks of a scratchpad access of one lane (R112, R128, R238, R239). -/
def Issuer.scratchCheck (c : Issuer) (m : MemSys) (write : Bool) (off len : Nat) : Except LaneFail Unit :=
  if off % len ≠ 0 then .error (.trap .misaligned off)
  else if c.crew.alloc.scratch < off + len then .error (.trap .worldViolation off)
  else if c.scratchConflict m write off len then .error (.trap .rangeConflict off)
  else .ok ()

/-- Accept an access of a lane of the issuing team (R239, log 4). -/
def Issuer.put (c : Issuer) (s : State) (l : Nat) (now : Bool) (places : List Target) (rel : Bool) (k : LateKind) (q : LaneSeq) : LaneSeq :=
  q.put (laneFree s l 1) c.ref c.crew.world now ⟨s.fresh, places, rel, k⟩

/-- Accept a store: one to a doorbell is performed at once, and a reply orders the team's earlier stores before the walks of what it resumes
(R296, R328). -/
def Issuer.putStore (c : Issuer) (s : State) (l : Nat) (places : List Target) (rel : Bool) (bs : List Byte) (q : LaneSeq) : LaneSeq :=
  c.put s l (places.any (fun p => !p.scratch && q.m.isBell p.addr)) places (rel || places.any (fun p => !p.scratch && q.m.isReply p.addr)) (.store bs) q

/-- Accept part `i` of what an instruction of the issuing team reads in a lane: a unit of 8 bytes. -/
def Issuer.putPart (c : Issuer) (s : State) (l i : Nat) (now : Bool) (p : Target) (q : LaneSeq) : LaneSeq :=
  q.put (freeAt s (10000 + l * 8 + i)) c.ref c.crew.world now ⟨s.fresh, [p], false, .part l (8 * i)⟩

/-- Accept the parts of what an instruction reads in a lane, from unit `i` on. -/
def Issuer.putParts (c : Issuer) (s : State) (l : Nat) : Nat → List Target → LaneSeq → LaneSeq
  | _, [], q => q
  | i, p :: ps, q => c.putParts s l (i + 1) ps (c.putPart s l i false p q)

/-- Accept what takes the bytes that the parts of a lane have read. -/
def Issuer.putTaker (c : Issuer) (s : State) (l : Nat) (x : Taker) (q : LaneSeq) : LaneSeq :=
  q.put s.rf c.ref c.crew.world false ⟨s.fresh, [], false, .take l q.got x⟩

/-- Accept the 8-byte units of a run of bytes that a store writes (R129). -/
def Issuer.putUnits (c : Issuer) (s : State) (l : Nat) : List Target → List Byte → LaneSeq → LaneSeq
  | [], _, q => q
  | p :: ps, bs, q => c.putUnits s l ps (bs.drop p.len) (c.putStore s l [p] false (bs.take p.len) q)

/-- The event LONG_LATENCY_COMPLETION (R149): the accesses of the instruction are performed, after those that come before them, and it
completes once they all are. -/
def execLongLatencyCompletion (r : TeamRef) (id : Nat) (s : State) : Host.Outcome State Fault Refusal :=
  match s.teamAt r with
  | some t =>
    let s := s.performFirst r (lateUpTo id t.late)
    match s.teamAt r with
    | some t => .next (if t.late.any (fun a => a.id == id) then s else s.setTeam r (t.complete s.rf id))
    | none => .next s
  | none => .next s

end Sys2Proof.Machine
end

