-- ==== Sys2Proof/Machine/Crews.lean ====
section
/-! DEFINITION. Crews as wholes: their teams, the room they take on a core (R85, R86, R117, R310), draining (R367), leaving and
taking a core (R366), and the grids they belong to. -/

namespace Sys2Proof.Machine

/-! Ids and tables. -/

/-- A new id of a crew, a task, an operation or an agent's write. -/
def State.newId (s : State) : Nat × State := (s.ids, { s with ids := s.ids + 1 })

/-- The next place in the order of submissions. -/
def State.newOrder (s : State) : Nat × State := (s.orders, { s with orders := s.orders + 1 })

def State.gridAt (s : State) (gid : Word) : Option Grid := s.grids.find? (fun g => g.gid == gid)
def State.setGrid (s : State) (g : Grid) : State := { s with grids := s.grids.map (fun x => if x.gid = g.gid then g else x) }
def State.dropGrid (s : State) (gid : Word) : State := { s with grids := s.grids.filter (fun g => g.gid != gid) }
def State.taskAt (s : State) (t : Nat) : Option Task := Sparse.get none s.tasks t
def State.setTask (s : State) (t : Nat) (x : Task) : State := { s with tasks := Sparse.set none s.tasks t (some x) }

/-- Crews of a grid that exist. -/
def State.crewsOfGrid (s : State) (gid : Word) : List (Nat × Crew) :=
  s.crews.filterMap (fun p => match p.2 with
    | some c => if c.gid == gid then some (p.1, c) else none
    | none => none)

/-- An id for a new grid: the first after the one given last, not 0, whose low 16 bits no live grid has, if there is one (R78).  The
order is DESIGN CHOICE (log 70); a discarded task thus never gets its old one at once. -/
def State.freeGid (s : State) : Option Word :=
  let used := s.grids.map (fun g => g.gid.toNat % 65536)
  if used.length < 65536 then
    ((List.range (used.length + 2)).map (fun i => s.lastGid + BitVec.ofNat 32 (i + 1))).find? (fun g => g != 0 && !used.contains (g.toNat % 65536))
  else none

/-! Held lines (R51, R253). -/

/-- grid_status (R51). -/
def Grid.gridStatus (g : Grid) : Nat := if g.abort.isSome then 2 else if g.retired = g.record.count then 1 else 0

/-- The lines that a live grid holds: its state area's until grid_status leaves 0, and its log's until its last crew has retired. -/
def Grid.heldLines (g : Grid) : List Nat := (if g.gridStatus = 0 then g.stateLines else []) ++ g.logLines

/-- The lines held are those that some live grid holds; a line that two of them share is held until both let it go. -/
def State.refreshHeld (s : State) : State :=
  s.setMsys { s.msys with held := Sparse.setAll false [] ((s.grids.flatMap Grid.heldLines).map (fun l => (l, true))) }

/-! Teams of a crew. -/

/-- The crew's teams stand on a core. -/
def Crew.onCore (c : Crew) : Bool :=
  match c.phase with
  | .resident | .parked | .leaving => true
  | _ => false

/-- The place of the team with an index. -/
def Crew.refAt (c : Crew) (i : Nat) : TeamRef := ⟨c.die, c.core, c.slots.getD i 0⟩

/-- The teams of a crew in ascending index. -/
def State.teamsOf (s : State) (c : Crew) : List Team :=
  if c.onCore then (List.range c.slots.length).filterMap (fun i => s.teamAt (c.refAt i)) else c.teams

/-- Change every team of a crew. -/
def State.mapTeams (s : State) (cid : Nat) (f : Team → Team) : State :=
  match s.crewAt cid with
  | none => s
  | some c =>
    if c.onCore then
      (List.range c.slots.length).foldl (fun s i =>
        match s.teamAt (c.refAt i) with
        | some t => s.setTeam (c.refAt i) (f t)
        | none => s) s
    else s.setCrew cid { c with teams := c.teams.map f }

/-- Change the team of a crew with an index. -/
def State.mapTeam (s : State) (cid i : Nat) (f : Team → Team) : State :=
  s.mapTeams cid (fun t => if t.index = i then f t else t)

/-- Every team of the crew has retired (R41). -/
def State.allRetired (s : State) (c : Crew) : Bool := (s.teamsOf c).all (fun t => t.present == 0)

/-! Room on a core. -/

/-- New crews may be launched (R361). -/
def State.mayLaunch (s : State) : Bool := s.firm.iface != .error

/-- What crews use of a core (R85). -/
structure Use where
  teams : Nat
  words : Nat
  regs : Nat
  scratch : Nat
  accs : Nat
  pp : Nat
  granules : Nat
  deriving DecidableEq, Repr

def Use.zero : Use := ⟨0, 0, 0, 0, 0, 0, 0⟩
def Use.add (a b : Use) : Use :=
  ⟨a.teams + b.teams, a.words + b.words, a.regs + b.regs, a.scratch + b.scratch, a.accs + b.accs, a.pp + b.pp, a.granules + b.granules⟩

/-- What one crew uses; vector registers in bytes, scratchpad in whole KiB (R85). -/
def Alloc.use (a : Alloc) (teams : Nat) : Use := ⟨teams, a.words, 128 * a.regs * a.words, roundUp a.scratch 1024, a.accs, a.pp, a.granules⟩

/-- The capacity of a core (R22, R85). -/
def Use.fits (u : Use) : Bool :=
  decide (u.teams ≤ 16) && decide (u.words ≤ 64) && decide (u.regs ≤ 524288) && decide (u.scratch ≤ 524288)
    && decide (u.accs ≤ 32) && decide (u.pp ≤ 8) && decide (u.granules ≤ 8)

/-- What the service teams hold of core 63 (R310). -/
def serviceUse : Use := ⟨4, 4, 32768, 65536, 0, 0, 0⟩

/-- A page that is reserved on a core (R54): its crew's use. -/
def Grid.reserved (g : Grid) (die core : Nat) : List Use :=
  g.pages.filterMap (fun p => match p.2 with
    | some p => if p.state = 1 ∧ p.die = die ∧ p.core = core then some (g.record.alloc.use g.record.teams.length) else none
    | none => none)

/-- The crews that hold room on a core. -/
def State.crewsOn (s : State) (die core : Nat) : List (Nat × Crew) :=
  s.crews.filterMap (fun p => match p.2 with
    | some c => if c.onCore && c.die == die && c.core == core then some (p.1, c) else none
    | none => none)

/-- What is used of a core; core 63 counts the service teams whether or not they run yet. -/
def State.coreUse (s : State) (die core : Nat) : Use :=
  let crews := ((s.crewsOn die core).filter (fun p => p.2.gid != 0)).map (fun p => p.2.alloc.use p.2.slots.length)
  let pages := s.grids.flatMap (fun g => g.reserved die core)
  (crews ++ pages).foldl Use.add (if core = 63 then serviceUse else Use.zero)

/-- No crew and no reservation on a quad (R117). -/
def State.quadEmpty (s : State) (die quad : Nat) : Bool :=
  (List.range 4).all (fun i => (s.crewsOn die (quad * 4 + i)).isEmpty && s.grids.all (fun g => (g.reserved die (quad * 4 + i)).isEmpty))

/-- The quad of a core is in the mode that a crew needs, or empty; quad 15 is always split (R117). -/
def State.quadOk (s : State) (die core : Nat) (fuse : Bool) : Bool :=
  if core / 4 = 15 then !fuse else s.msys.quadFused die core == fuse || s.quadEmpty die (core / 4)

/-- Put the quad of a core in a mode; a change discards its L1 lines (R117). -/
def MemSys.setQuad (m : MemSys) (die core : Nat) (fuse : Bool) : MemSys :=
  if m.quadFused die core == fuse then m
  else { m.l1DiscardQuad die (core / 4) with fused := Sparse.set false m.fused (die * 16 + core / 4) fuse }

/-- Whether a core has room for a crew (R36, R86, R117). -/
def State.hasRoom (s : State) (die core : Nat) (fuse : Bool) (u : Use) : Bool :=
  s.quadOk die core fuse && ((s.coreUse die core).add u).fits

/-- The first core with room among those listed. -/
def State.findRoom (s : State) (die : Nat) (fuse : Bool) (u : Use) (cores : List Nat) : Option Nat :=
  cores.find? (fun core => s.hasRoom die core fuse u)

/-- Free residency slots of a core, lowest first; slots 12 to 15 of core 63 are the service teams' (R366). -/
def State.freeSlots (s : State) (die core : Nat) : List Nat :=
  (List.range (if core = 63 then 12 else 16)).filter (fun i => (s.teamAt ⟨die, core, i⟩).isNone)

/-! Leaving and taking a core. -/

/-- Clear the residency slots of a crew. -/
def State.clearSlots (s : State) (c : Crew) : State := c.slots.foldl (fun s i => s.clearTeam ⟨c.die, c.core, i⟩) s

/-- A team as it leaves its core: its latches are empty and an instruction that waits is found unstarted (R84, R293). -/
def Team.leave (t : Team) : Team := { t with hold := [], reuse := [], wait := none, yielded := false }

/-- The crew leaves its core, in the phase given, with its teams in the crew's record (R366). -/
def State.takeOff (s : State) (cid : Nat) (c : Crew) (phase : Phase) : State :=
  let teams := (s.teamsOf c).map Team.leave
  (s.clearSlots c).setCrew cid { c with phase := phase, slots := [], teams := teams, stop := none }

/-- The crew takes the lowest free residency slots of a core (R366), whose quad takes its mode (R117).  Its teams stand behind those that wait
there already: nothing else keeps R44's promise of 16 slots (log 86). -/
def State.putOn (s : State) (cid : Nat) (c : Crew) (die core : Nat) (phase : Phase) : State :=
  let slots := (s.freeSlots die core).take c.teams.length
  let s := s.setMsys (s.msys.setQuad die core c.fuse)
  let s := (List.zip slots c.teams).foldl (fun s p => s.setTeam ⟨die, core, p.1⟩ { p.2 with lastIssue := s.clock }) s
  s.setCrew cid { c with phase := phase, die := die, core := core, slots := slots, teams := [], stop := none, placedAt := s.clock }

/-! Engine operations of a crew (R124, R367). -/

def State.opsOf (s : State) (cid : Nat) : List EngineOp := s.ops.filter (fun o => o.crew == cid)

/-- Release the range-lock entries of operations (R124, R126). -/
def MemSys.unlock (m : MemSys) (ids : List Nat) : MemSys := { m with locks := m.locks.filter (fun l => !ids.contains l.op) }

/-- Operations that have ended leave the table; their done bytes go to the batch's count (R124, R259). -/
def BatchLog.add (b : BatchLog) (n : Option Nat) (done scope : Nat) : BatchLog :=
  match n with
  | some n => { b with counts := b.counts.map (fun p => if p.number = n then { p with bytes := p.bytes + done } else p) }
  | none => { b with openDone := b.openDone + done, openScope := Nat.max b.openScope scope }

/-- The widest scope code among the batches numbered `n` or less, whatever their age (R139). -/
def BatchLog.scopeCode (b : BatchLog) (n : Nat) : Nat := ((b.widest.filter (fun p => decide (p.1 ≤ n))).map Prod.snd).foldl Nat.max 0

/-- An operation of batch `n` names a scope (R124). -/
def BatchLog.widen (b : BatchLog) (n scope : Nat) : BatchLog :=
  if scope ≤ b.scopeCode n then b else { b with widest := (n, scope) :: b.widest.filter (fun p => decide (p.1 < n) || decide (scope < p.2)) }

/-- Scope code of a control word (R121). -/
def ctlScope (w0 : Dword) : Nat := bitsOf w0.toNat 53 3

/-- Remove ended operations of a team's batch, their locks released and their bytes counted. -/
def State.settleOps (s : State) (os : List EngineOp) : State :=
  let ids := os.map EngineOp.id
  let s := os.foldl (fun s o => s.mapTeam o.crew o.team (fun t => { t with batches := t.batches.add o.batch o.done (ctlScope o.w0) })) s
  { s with ops := s.ops.filter (fun o => !ids.contains o.id), msys := s.msys.unlock ids }

/-- Complete every closed batch of a team whose operations have all ended (R124). -/
def State.settleBatch (s : State) (cid team n : Nat) : State :=
  let os := s.ops.filter (fun o => o.crew == cid && o.team == team && o.batch == some n)
  if os.all (fun o => o.phase == .ended) then s.settleOps os else s

/-- The crew is drained (R367). -/
def State.drained (s : State) (cid : Nat) (c : Crew) : Bool :=
  (s.teamsOf c).all (fun t => t.inflight.isEmpty && t.late.isEmpty) && (s.opsOf cid).all (fun o => o.phase == .ended)

/-- An operation that waits for an earlier one of its batch (R120). -/
def State.opBlocked (s : State) (o : EngineOp) : Bool :=
  match o.prev with
  | some p => s.ops.any (fun x => x.id == p && x.phase != .ended)
  | none => false

/-- The operation issues nothing until a reply comes. -/
def State.opAtRest (s : State) (o : EngineOp) : Bool := o.phase == .stopped || o.phase == .ended || (o.phase == .running && s.opBlocked o)

/-- A batch, closed or open, has stopped with missing sectors: no operation of it goes on (R125, R292). -/
def State.batchStopped (s : State) (cid : Nat) : Bool :=
  let os := s.opsOf cid
  os.any (fun o => o.phase == .stopped && os.all (fun x => x.team != o.team || x.batch != o.batch || s.opAtRest x))

/-- The ended operations of a drained crew leave the table, locks released (R367). -/
def State.foldOps (s : State) (cid : Nat) : State := s.settleOps (s.opsOf cid)

/-! Batches of a team. -/

/-- Numbers of the closed batches of a team that have not completed. -/
def State.openBatches (s : State) (cid team : Nat) : List Nat :=
  ((s.ops.filter (fun o => o.crew == cid && o.team == team)).filterMap EngineOp.batch).foldr (fun n ns => if ns.contains n then ns else n :: ns) []

/-- Close the open batch of a team (R124): the batch takes the next number, and completes at once where every operation in it
has ended; counts of the 64 most recent batches are kept (R259). -/
def State.closeBatch (s : State) (cid team : Nat) (t : Team) : Nat × State :=
  let n := t.batches.last + 1
  let mine := fun (o : EngineOp) => o.crew == cid && o.team == team && o.batch == none
  let scope := (s.ops.filter mine).foldl (fun x o => Nat.max x (ctlScope o.w0)) t.batches.openScope
  let log : BatchLog := ⟨n, (⟨n, t.batches.openDone, scope⟩ :: t.batches.counts).take 64, 0, 0, t.batches.widest⟩
  let s := s.mapTeam cid team (fun t => { t with batches := log })
  let close := fun (o : EngineOp) => if mine o then { o with batch := some n } else o
  let s := { s with ops := s.ops.map close }
  (n, s.settleBatch cid team n)

end Sys2Proof.Machine
end

