-- ==== Sys2Proof/Machine/Agents.lean ====
section
/-! DEFINITION. Device agents: writes that wait for a reply where they fail (R329, R332), the grid state area (R51, R52), the
straggler log (R253) and the entries of launch queues (R296, R299). -/

namespace Sys2Proof.Machine

/-! Device-agent accesses: level 2, in the space given. -/

/-- A failed agent access: the cause, or 0 while the host's answer is awaited, and the address. -/
abbrev AgentFail := Nat × Nat

/-- The access of an agent of a die. -/
def agentAccess (die world : Nat) (write msd : Bool) : Access := ⟨die, world, 2, write, false, msd, none⟩

/-- A translated piece of an access: physical address, bytes and leaf. -/
abbrev Piece := Nat × Nat × Dword

/-- Translate the pieces of an agent's access, which the die's TLB keeps and its counters count (R325, R327, R334); another world's frame
is cause 7. -/
def MemSys.agentPieces (m : MemSys) (free : Nat) (a : Access) : List (Nat × Nat) → Except AgentFail (MemSys × List Piece)
  | [] => .ok (m, [])
  | (va, n) :: ps =>
    match m.translate free a va with
    | .ok pa leaf lvl =>
      match ((m.tlbFill a va leaf lvl).count a.die a.world a.world va leaf).agentPieces (free + 1) a ps with
      | .ok (m, rest) => .ok (m, (pa, n, leaf) :: rest)
      | .error e => .error e
    | .fail cause => .error (cause, va)
    | .world => .error (7, va)
    | .ats => .error (0, va)

/-- The operations that read pieces take their numbers on memory-side lines (R118). -/
def MemSys.numberAll (m : MemSys) (ps : List Piece) : MemSys := ps.foldl (fun m p => m.number (leafMsd p.2.2) (m.norm p.1)) m

/-- The bytes of pieces at the home slices. -/
def MemSys.pieceBytes (m : MemSys) (ps : List Piece) : List Byte := ps.flatMap (fun p => m.readN p.1 p.2.1)

/-- Read bytes at the home slices as an agent of a die does. -/
def MemSys.agentRead (m : MemSys) (free die world va len : Nat) : Except AgentFail (List Byte × MemSys) :=
  match m.agentPieces free (agentAccess die world false false) (linePieces (len + 1) va len) with
  | .ok (m, ps) => .ok (m.pieceBytes ps, m.numberAll ps)
  | .error e => .error e

/-- Write translated pieces at the home slices; `num` where the writes take sequence numbers of their own (R118), and `drop` where a write
to a held line is dropped (R51). -/
def MemSys.agentPut (m : MemSys) (num drop : Bool) (world : Nat) : List Piece → List Byte → MemSys
  | [], _ => m
  | (pa, n, leaf) :: ps, bs =>
    let m := if drop && m.isHeld pa then m else (m.number (num && leafMsd leaf) (m.norm pa)).writeN world pa (bs.take n)
    m.agentPut num drop world ps (bs.drop n)

/-- Post the record of an agent's failed access, or ask the host (R329, R333); a page that the host refused is asked for again by the
next access (R337). -/
def MemSys.agentFail (m : MemSys) (code die world : Nat) (write : Bool) (f : AgentFail) (o : FaultOwner) : MemSys :=
  if f.1 = 0 then m.atsAsk die world f.2 write
  else (if f.1 = 10 then m.atsForget die world f.2 else m).faultPost ⟨code, f.1, write, false, world, world, die, 0, 0, 0, f.2, 0, m.assistFaults⟩ o

/-- Channels of a grid, a launch queue, an eviction and an agent that is neither a Sprout engine nor a dispatcher. -/
def gridChan (gid : Word) : Nat := gid.toNat
def queueChan (q : Nat) : Nat := 2 ^ 32 + q
def crewChan (cid : Nat) : Nat := 2 ^ 33 + 2 * cid
def ringChan (ring : Nat) : Nat := 2 ^ 33 + 2 * ring + 1

/-- A channel whose writes to held lines are dropped (R51). -/
def dropsHeld (chan : Nat) : Bool := decide (2 ^ 33 ≤ chan) && chan % 2 == 1

/-- A write of a queue's agent leaves a completion entry, which is read-only from then on (R7, R299). -/
def MemSys.noteDone (m : MemSys) (chan : Nat) (ps : List Piece) : MemSys :=
  if decide (2 ^ 32 ≤ chan) && decide (chan < 2 ^ 33) then
    { m with completions := ps.foldl (fun es p => if es.contains (chan, m.norm p.1) then es else (chan, m.norm p.1) :: es) m.completions }
  else m

/-- Try a write: whether it is made, and the write as it stands.  An update of an area that must be memory-side has taken its
number already (R51, R253). -/
def State.agentTry (s : State) (w : AgentWrite) : Bool × AgentWrite × State :=
  if w.waiting then (false, w, s)
  else
    match s.msys.agentPieces (freeAt s 40000) (agentAccess w.die w.world true w.msd) (linePieces (w.data.length + 1) w.va w.data.length) with
    | .ok (m, ps) => (true, w, s.setMsys ((m.agentPut (!w.msd) (dropsHeld w.chan) w.world ps w.data).noteDone w.chan ps))
    | .error f =>
      (false, { w with waiting := decide (f.1 ≠ 0) }, s.setMsys (s.msys.agentFail 7 w.die w.world true f (.agent w.id)))

/-- Make the writes that can be made: those of one channel in order. -/
def flushGo : List AgentWrite → List Nat → List AgentWrite → State → State
  | [], _, keep, s => { s with agents := keep.reverse }
  | w :: ws, blocked, keep, s =>
    if blocked.contains w.chan then flushGo ws blocked (w :: keep) s
    else
      match s.agentTry w with
      | (true, _, s) => flushGo ws blocked keep s
      | (false, w, s) => flushGo ws (w.chan :: blocked) (w :: keep) s

def State.agentFlush (s : State) : State := flushGo s.agents [] [] s

/-- Hand a write to a device agent. -/
def State.agentWrite (s : State) (chan die world va : Nat) (data : List Byte) (msd : Bool) : State :=
  let (id, s) := s.newId
  let w : AgentWrite := ⟨id, chan, die, world, va, data, msd, false⟩
  State.agentFlush { s with agents := s.agents ++ [w] }

/-- Whether writes of a channel are still to be made. -/
def State.agentBusy (s : State) (chan : Nat) : Bool := s.agents.any (fun w => w.chan == chan)

/-! Launch queues (R296, R299). -/

def State.queueAt (s : State) (q : Nat) : Option Queue := Sparse.get none s.queues q

/-- The fields of a queue that only the device writes, until the queue is destroyed: bytes 0x13 to 0x3F of its descriptor, and its completion
entries (R7, R296, R299). -/
def MemSys.fixQueue (m : MemSys) (q : Nat) (x : Queue) : MemSys :=
  if x.status = 3 then { m.unfix (m.norm x.desc + 0x13) with completions := m.completions.filter (fun e => e.1 != queueChan q) }
  else m.fix (m.norm x.desc + 0x13) 0x2D

/-- A queue's record, with the fields that the device writes into its descriptor (R296). -/
def State.setQueue (s : State) (q : Nat) (x : Queue) : State :=
  { s with queues := Sparse.set none s.queues q (some x)
           msys := (s.msys.writeN 0 (x.desc + 0x14) (leBytes x.status 4 ++ leBytes x.head.toNat 4 ++ leBytes x.errorOffset.toNat 4)).fixQueue q x }

/-- A completion entry (R299). -/
def completionBytes (status : Nat) (gid : Word) (abort : Nat) : List Byte :=
  leBytes (status + 65536) 8 ++ leBytes gid.toNat 4 ++ leBytes abort 4

/-- A draining queue is destroyed once the last completion of its grids is written (R298). -/
def State.settleQueue (s : State) (q : Nat) : State :=
  match s.queueAt q with
  | some x =>
    let busy := s.agentBusy (queueChan q) || s.grids.any (fun g => match g.origin with
      | .queue q' _ => q' == q
      | .device => false)
    if x.status = 2 ∧ busy = false then s.setQueue q { x with status := 3 } else s
  | none => s

/-- Write the completion entry of the record read as count `index` (R299). -/
def State.queueDone (s : State) (q : Nat) (index : Word) (status : Nat) (gid : Word) (abort : Nat) : State :=
  match s.queueAt q with
  | some x =>
    (s.agentWrite (queueChan q) 0 x.world (x.doneBase + 16 * (index.toNat % 2 ^ x.log2)) (completionBytes status gid abort) false).settleQueue q
  | none => s

/-! The grid state area (R51, R52). -/

/-- The header of the state area (R51). -/
def Grid.header (g : Grid) : List Byte :=
  leBytes g.record.count 4 ++ leBytes g.gridStatus 4 ++ leBytes g.launched 4 ++ leBytes g.retired 4 ++ leBytes g.corrected 4
    ++ leBytes g.uncorrectable 4 ++ leBytes (g.abort.getD 0xFFFFFFFF) 4 ++ leBytes g.seq 4 ++ leBytes 0 32

def PageSt.initial : PageSt := ⟨0, true, 0, 0, 0, 0, 0, none, false, none, [], 0⟩

/-- A page-state entry (R52). -/
def PageSt.bytes (p : PageSt) : List Byte :=
  leBytes (p.awaited.getD 0xFFFFFF + 2 ^ 24 * p.retry + 2 ^ 27 * p.core + 2 ^ 33 * p.die + 2 ^ 36 * p.state + 2 ^ 40 * p.rank) 8

def Grid.pageAt (g : Grid) (i : Nat) : PageSt := (Sparse.get none g.pages i).getD PageSt.initial
def Grid.setPage (g : Grid) (i : Nat) (p : PageSt) : Grid := { g with pages := Sparse.set none g.pages i (some p) }

/-- Take the next sequence number of the grid's home slice (R51). -/
def State.gridSeq (s : State) (g : Grid) : Nat × State :=
  let (n, m) := s.msys.nextSeq g.home
  (n, s.setMsys m)

/-- Write an update of the state area: the header, and the entries of the pages named (R51). -/
def State.areaWrite (s : State) (g : Grid) (pages : List Nat) : State :=
  let (n, s) := s.gridSeq g
  let g := { g with seq := n }
  let s := s.setGrid g
  let s := pages.foldl (fun s i => s.agentWrite (gridChan g.gid) (g.pageAt i).die g.world (g.record.stateAddr + 64 + 8 * i) (g.pageAt i).bytes true) s
  let s := s.agentWrite (gridChan g.gid) 0 g.world g.record.stateAddr g.header true
  s.refreshHeld

/-- The whole area at its reset values (R51). -/
def Grid.resetArea (g : Grid) : List Byte := g.header ++ (List.range g.record.count).flatMap (fun _ => PageSt.initial.bytes)

/-! The straggler log (R253, R254). -/

/-- Bytes of one section (R253). -/
def GridRec.logSection (r : GridRec) : Nat := roundUp (64 + 8 * r.count) 64

/-- Bytes of the whole log area. -/
def GridRec.logBytes (r : GridRec) : Nat := 8 * r.logSection

def LogEntry.initial : LogEntry := ⟨0, 0, 0, false⟩
def LogEntry.bytes (e : LogEntry) : List Byte := leBytes ((if e.straggler then 1 else 0) + 2 ^ 8 * e.inst + 2 ^ 32 * e.late + 2 ^ 40 * e.rank) 8

def Grid.logAt (g : Grid) (b c : Nat) : LogEntry := (Sparse.get none g.log (b * 2 ^ 32 + c)).getD LogEntry.initial

/-- Stragglers of a section. -/
def Grid.stragglers (g : Grid) (b : Nat) : Nat :=
  (g.log.filter (fun p => p.1 / 2 ^ 32 == b && (match p.2 with
    | some e => e.straggler
    | none => false))).length

/-- The header of a section. -/
def Grid.logHeader (g : Grid) (b : Nat) : List Byte :=
  leBytes g.record.threshold 4 ++ leBytes (Sparse.get 0 g.logSeq b) 4 ++ leBytes (g.stragglers b) 4 ++ leBytes 0 52

/-- One section at its reset values. -/
def Grid.resetSection (g : Grid) : List Byte := leBytes g.record.threshold 64 ++ leBytes 0 (g.record.logSection - 64)

/-- The entry of a crew after an arrival of rank `r` among `m` crews (R254). -/
def LogEntry.arrive (e : LogEntry) (r m inst threshold : Nat) : LogEntry :=
  let late := if m ≤ r + (m + 7) / 8 then Nat.min 255 (e.late + 1) else 0
  ⟨r, late, inst % 2 ^ 24, decide (threshold ≤ late) && decide (0 < threshold)⟩

/-- Log a crew's arrival (R253, R254): the home slice of the line that holds the section's first byte serialises it. -/
def State.logArrival (s : State) (g : Grid) (b c r m inst : Nat) : State :=
  let base := g.record.logBase + b * g.record.logSection
  let first := (g.record.logBase % 128 + b * g.record.logSection) / 128
  let (n, ms) := s.msys.nextSeq (homeOf (g.logLines.getD first 0 * 128))
  let e := (g.logAt b c).arrive r m inst g.record.threshold
  let g := { g with log := Sparse.set none g.log (b * 2 ^ 32 + c) (some e), logSeq := Sparse.set 0 g.logSeq b n }
  let s := (s.setMsys ms).setGrid g
  let s := s.agentWrite (gridChan g.gid) 0 g.world (base + 64 + 8 * c) e.bytes true
  s.agentWrite (gridChan g.gid) 0 g.world base (g.logHeader b) true

end Sys2Proof.Machine
end

