-- ==== Sys2Proof/Machine/Barriers.lean ====
section
/-! DEFINITION. The instances of barriers and their members (R251, R252). -/

namespace Sys2Proof.Machine

/-- Whose barrier an instruction of a crew names (R251). -/
def Crew.barOwner (c : Crew) (cid : Nat) : Scope → BarOwner
  | .core => .crew cid
  | .quad => .quad c.gid (c.die * 16 + c.core / 4)
  | .die => .die c.gid c.die
  | .pkg => .pkg c.gid
  | .pod | .sys => if c.group = 0 then .pkg c.gid else .pod c.group

/-- Whether a crew belongs to the members. -/
def BarOwner.has (o : BarOwner) (cid : Nat) (c : Crew) : Bool :=
  match o with
  | .crew id => id == cid
  | .quad gid k => c.gid == gid && c.die * 16 + c.core / 4 == k
  | .die gid k => c.gid == gid && c.die == k
  | .pkg gid => c.gid == gid
  | .pod k => c.group == k

/-- The crews of this module among the members. -/
def State.members (s : State) (o : BarOwner) : List (Nat × Crew) :=
  s.crews.filterMap (fun p => match p.2 with
    | some c => if o.has p.1 c then some (p.1, c) else none
    | none => none)

/-- Accepted grids of this module whose crews are members: all of them, or those in one quad or die. -/
def BarOwner.hasGrid (o : BarOwner) (g : Grid) : Bool :=
  match o with
  | .crew _ => false
  | .quad gid _ | .die gid _ | .pkg gid => g.gid == gid
  | .pod k => g.record.group == k

/-- A member crew of an accepted grid that has retired in a quad. -/
def BarOwner.hasQuad (o : BarOwner) (quad : Nat) : Bool :=
  match o with
  | .quad _ k => k == quad
  | .die _ k => k == quad / 16
  | _ => true

/-- Retired crews among the members: they stay members (R251, R252). -/
def State.goneCrews (s : State) (o : BarOwner) : Nat :=
  ((s.grids.filter o.hasGrid).map (fun g => (g.gone.filter o.hasQuad).length)).foldl (· + ·) 0

/-- Crews of accepted grids among the members that are still to be placed (R251). -/
def State.unplaced (s : State) (o : BarOwner) : Nat :=
  match o with
  | .pkg _ | .pod _ => ((s.grids.filter o.hasGrid).map (fun g => g.record.count - (s.crewsOfGrid g.gid).length - g.gone.length)).foldl (· + ·) 0
  | _ => 0

/-- Modules of the pod other than this one, whose crews may be members (R251). -/
def State.otherModules (s : State) (o : BarOwner) : List Nat :=
  match o with
  | .pod _ => if s.msys.bring.inPod then (List.range 256).filter (fun m => m != s.msys.pkg) else []
  | _ => []

/-- Those of them that are not fenced: the members on a fenced one count as arrived (R357). -/
def State.remoteModules (s : State) (o : BarOwner) : List Nat := (s.otherModules o).filter (fun m => !s.msys.fenced.contains m)

/-- Crews of another module among the members. -/
def BarOwner.crewsOf (o : BarOwner) (m : Nat) : Nat :=
  match o with
  | .pod k => Config.podCrews k.toNat m
  | _ => 0

/-- Retired crews of a group's grids that have ended, which stay members while another grid of the group stands (R251, R252). -/
def State.endedCrews (s : State) (o : BarOwner) : Nat :=
  match o with
  | .pod k => Sparse.get 0 s.goneGroups k.toNat
  | _ => 0

/-- m of R254: the crews among the members, retired ones and those of fenced modules too. -/
def State.memberCount (s : State) (o : BarOwner) : Nat :=
  (s.members o).length + s.goneCrews o + s.endedCrews o + s.unplaced o + ((s.otherModules o).map o.crewsOf).foldl (· + ·) 0

/-- The names that a crew has for sets of members. -/
def Crew.barNames (c : Crew) (cid : Nat) : List BarOwner := [.crew cid, c.barOwner cid .quad, c.barOwner cid .die, .pkg c.gid, c.barOwner cid .pod]

/-- The names of the set of members that an instruction names: each wider set takes in the narrower, so that those with as many crews are
the same (log 20). -/
def State.barSame (s : State) (cid : Nat) (c : Crew) (scope : Scope) : List BarOwner :=
  (c.barNames cid).filter (fun o => s.memberCount o == s.memberCount (c.barOwner cid scope))

/-- The members of an instance are those of the widest name that an arrival has given it: where crews have moved since, a narrower name may
mean fewer (R315). -/
def BarState.owner (b : BarState) : BarOwner :=
  b.names.foldl (fun a o => if a.width < o.width then o else a) (b.names.headD (.crew 0))

/-- The instance of a number whose members have one of these names. -/
def State.barOf (s : State) (names : List BarOwner) (n : Nat) : Option BarState :=
  s.barriers.find? (fun b => b.number == n && names.any b.names.contains)

/-- Instances of a number that are complete, for a name of their members. -/
def State.barCount (s : State) (n : Nat) (o : BarOwner) : Nat :=
  ((s.barCounts.find? (fun p => p.1 == o && p.2.1 == n)).map (fun p => p.2.2)).getD 0

def State.setBarCount (s : State) (n k : Nat) (o : BarOwner) : State :=
  { s with barCounts := (o, n, Nat.max (s.barCount n o) k) :: s.barCounts.filter (fun p => !(p.1 == o && p.2.1 == n)) }

/-- The current instance of a number for the name `o` of its members, `same` being all names of the same set: the one at which some member
has arrived, else the next one (R252). -/
def State.barAt (s : State) (o : BarOwner) (same : List BarOwner) (n : Nat) : BarState :=
  match s.barOf [o] n with
  | some b => b
  | none =>
    match s.barOf same n with
    | some b => { b with names := o :: b.names }
    | none => ⟨s.fresh, [o], n, (same.map (s.barCount n)).foldl Nat.max 0, [], [], []⟩

def State.setBar (s : State) (b : BarState) : State := { s with barriers := b :: s.barriers.filter (fun x => x.id != b.id) }

/-- A team of a crew has arrived, or has retired (R252). -/
def BarState.teamIn (b : BarState) (cid : Nat) (t : Team) : Bool := b.arrived.contains (cid, t.index) || t.present == 0

/-- Every team of a crew has arrived. -/
def State.crewIn (s : State) (b : BarState) (cid : Nat) (c : Crew) : Bool := (s.teamsOf c).all (b.teamIn cid)

/-- Every member has arrived (R252). -/
def State.barComplete (s : State) (b : BarState) : Bool :=
  (s.members b.owner).all (fun p => s.crewIn b p.1 p.2) && s.unplaced b.owner == 0
    && (s.remoteModules b.owner).all (fun m => decide (b.owner.crewsOf m ≤ (b.remote.filter (fun p => p.1 == m)).length))

/-- An instance that is complete ends and is counted: the next arrival opens the next one (R252). -/
def State.barSettle (s : State) (b : BarState) : State :=
  if s.barComplete b then
    b.names.foldl (fun s o => s.setBarCount b.number (b.inst + 1) o) { s with barriers := s.barriers.filter (fun x => x.id != b.id) }
  else s.setBar b

/-- Instances that the retirement of a team, the fencing of a module or the move of a crew completes (R252, R315, R357). -/
def State.barSweep (s : State) : State := s.barriers.foldl State.barSettle s

end Sys2Proof.Machine
end

