-- ==== Sys2Proof/Machine/Control.lean ====
section
/-! DEFINITION. Control instructions (R165 to R174), `mode`, `part` and the special registers (R175 to R177), the
handover of registers (R34, R178), and the software trap (R266). -/

namespace Sys2Proof.Machine

/-- `nop` (R165). -/
def execNop (s : State) : Host.Outcome State Fault Refusal := s.teamOp 1 none fun c => .done c.team

/-- `yield` (R46, R165). -/
def execYield (s : State) : Host.Outcome State Fault Refusal :=
  s.issue fun c => s.setTeam c.ref { c.team.advance 1 none with yielded := true }

/-- `bra` (R165). -/
def execBra (off : BitVec 24) (s : State) : Host.Outcome State Fault Refusal :=
  s.teamOp 1 none fun c => .jump c.team (c.team.target off)

/-- `brx` (R167).  The `c.tva` of its `MISALIGNED` is the target: R285 speaks of a lane's address, which `brx` has not, and this is the model's
choice (log 90). -/
def execBrx (a : Reg) (s : State) : Host.Outcome State Fault Refusal :=
  s.teamOp 1 none fun c =>
    let x := c.team.s64 s.rf a.toNat
    if !evenReg a || decide (2 ^ 57 ≤ x) then .illegal
    else if x % 4 ≠ 0 then .trap .misaligned x
    else .jump c.team (BitVec.ofNat 57 x)

/-- Address of the header after the clause of the issuing team. -/
def Team.after (t : Team) : VAddr :=
  match t.clause with
  | some c => c.next
  | none => t.pc + 4

/-- `call` (R166). -/
def execCall (off : BitVec 24) (s : State) : Host.Outcome State Fault Refusal :=
  s.teamOp 1 none fun c =>
    let t := c.team
    if t.ret.length < 16 then .jump { t with ret := ⟨t.div.length, t.after⟩ :: t.ret } (t.target off) else .illegal

/-- `ret` (R166). -/
def execRet (s : State) : Host.Outcome State Fault Refusal :=
  s.teamOp 1 none fun c =>
    let t := c.team
    match t.ret with
    | e :: rest => if e.depth = t.div.length then .jump { t with ret := rest } e.addr else .illegal
    | [] => .illegal

/-! The divergence stack; the top is the head of the list (R169). -/

/-- Entries of the frame: those above the depth of the innermost return entry (R170). -/
def Team.frameSize (t : Team) : Nat :=
  match t.ret with
  | e :: _ => t.div.length - e.depth
  | [] => t.div.length

/-- The active lanes whose condition register is not zero (R171, R172). -/
def Team.taken (t : Team) (free : Nat) (r : Reg) : LaneSet :=
  laneSetOf ((t.active free).filter (fun l => t.v free l r.toNat != 0))

/-- Go to `target` when `m` is empty, else to the next clause. -/
def Team.jumpIfEmpty (t : Team) (m : LaneSet) (target : VAddr) : TeamRes :=
  .jump t (if m = 0 then target else t.after)

/-- `mif` (R171). -/
def execMif (r : Reg) (off : BitVec 16) (s : State) : Host.Outcome State Fault Refusal :=
  s.teamOp 1 none fun c =>
    let t := c.team
    if !c.vOk false r || decide (32 ≤ t.div.length) then .illegal
    else
      let taken := t.taken s.rf r
      ({ t with div := ⟨.ifPath, t.mask, t.mask &&& ~~~taken, 0⟩ :: t.div, mask := taken } : Team).jumpIfEmpty taken (t.target off)

/-- `melse` (R171). -/
def execMelse (off : BitVec 24) (s : State) : Host.Outcome State Fault Refusal :=
  s.teamOp 1 none fun c =>
    let t := c.team
    match t.div with
    | e :: rest =>
      if t.frameSize = 0 ∨ e.kind ≠ .ifPath then .illegal
      else
        let m := e.pend &&& t.present
        ({ t with div := { e with pend := 0, kind := .elsePath } :: rest, mask := m } : Team).jumpIfEmpty m (t.target off)
    | [] => .illegal

/-- `mend` (R171). -/
def execMend (s : State) : Host.Outcome State Fault Refusal :=
  s.teamOp 1 none fun c =>
    let t := c.team
    match t.div with
    | e :: rest =>
      if t.frameSize = 0 ∨ e.kind = .loop then .illegal
      else .jump { t with div := rest, mask := e.outer &&& t.present } t.after
    | [] => .illegal

/-- `mloop` (R172). -/
def execMloop (off : BitVec 24) (s : State) : Host.Outcome State Fault Refusal :=
  s.teamOp 1 none fun c =>
    let t := c.team
    if 32 ≤ t.div.length then .illegal
    else .jump { t with div := ⟨.loop, t.mask, 0, t.target off⟩ :: t.div } t.after

/-- Entries above the innermost loop entry of the frame, that entry, and the entries below it. -/
def splitLoop : Nat → List DivEntry → Option (List DivEntry × DivEntry × List DivEntry)
  | 0, _ => none
  | _ + 1, [] => none
  | n + 1, e :: rest =>
    if e.kind = .loop then some ([], e, rest)
    else match splitLoop n rest with
      | some (above, l, below) => some (e :: above, l, below)
      | none => none

/-- An entry without the lanes of `b`. -/
def DivEntry.without (e : DivEntry) (b : LaneSet) : DivEntry := { e with outer := e.outer &&& ~~~b, pend := e.pend &&& ~~~b }

/-- Lanes that an entry still holds. -/
def heldLanes : List DivEntry → LaneSet
  | [] => 0
  | e :: es => e.outer ||| e.pend ||| heldLanes es

/-- `mbrk`, and `mcont` where `again` is true (R172). -/
def leaveLoop (again : Bool) (r : Reg) (s : State) : Host.Outcome State Fault Refusal :=
  s.teamOp 1 (some r) fun c =>
    let t := c.team
    if !c.vOk false r then .illegal
    else
      match splitLoop t.frameSize t.div with
      | none => .illegal
      | some (above, e, below) =>
        let b := t.taken s.rf r
        let m := t.mask &&& ~~~b
        let above' := above.map (fun x => x.without b)
        let e' := if again then { e with pend := e.pend ||| b } else e
        if m ||| heldLanes above' = 0 then .jump { t with mask := m, div := e' :: below } e.target
        else .jump { t with mask := m, div := above' ++ e' :: below } t.after

/-- `mbrk` (R172). -/
def execMbrk (r : Reg) (s : State) : Host.Outcome State Fault Refusal := leaveLoop false r s

/-- `mcont` (R172). -/
def execMcont (r : Reg) (s : State) : Host.Outcome State Fault Refusal := leaveLoop true r s

/-- `mnext` (R172). -/
def execMnext (off : BitVec 24) (s : State) : Host.Outcome State Fault Refusal :=
  s.teamOp 1 none fun c =>
    let t := c.team
    match t.div with
    | e :: rest =>
      if t.frameSize = 0 ∨ e.kind ≠ .loop then .illegal
      else
        let m := (t.mask ||| e.pend) &&& t.present
        if m ≠ 0 then .jump { t with mask := m, div := { e with pend := 0 } :: rest } (t.target off)
        else .jump { t with mask := e.outer &&& t.present, div := rest } t.after
    | [] => .illegal

/-- `many` (R173). -/
def execMany (r : Reg) (off : BitVec 16) (s : State) : Host.Outcome State Fault Refusal :=
  s.teamOp 1 none fun c =>
    let t := c.team
    if !c.vOk false r then .illegal
    else .jump t (if (t.active s.rf).any (fun l => t.v s.rf l r.toNat != 0) then t.target off else t.after)

/-- `mall` (R173). -/
def execMall (r : Reg) (off : BitVec 16) (s : State) : Host.Outcome State Fault Refusal :=
  s.teamOp 1 none fun c =>
    let t := c.team
    if !c.vOk false r then .illegal
    else
      let ls := t.active s.rf
      .jump t (if !ls.isEmpty && ls.all (fun l => t.v s.rf l r.toNat != 0) then t.target off else t.after)

/-! `mode`, `part` and the special registers. -/

/-- `setm` (R77, R175). -/
def execSetm (a : Reg) (s : State) : Host.Outcome State Fault Refusal :=
  s.teamOp 1 none fun c =>
    let x := c.team.s s.rf a.toNat &&& modeMask
    if 5 ≤ bitsOf x.toNat 16 3 ∨ (guardOn x = true ∧ c.crew.alloc.regs ≤ guardReg x) then .illegal
    else .done { c.team with mode := x }

/-- `getm` (R175). -/
def execGetm (d : Reg) (k : BitVec 8) (s : State) : Host.Outcome State Fault Refusal :=
  s.teamOp 1 none fun c =>
    match k.toNat with
    | 0 => .done (c.team.writeS d.toNat c.team.mode)
    | 1 => .done (c.team.writeS d.toNat (c.team.part.zeroExtend 32))
    | _ => .illegal

/-- `part` (R30, R176). -/
def execPart (k : BitVec 3) (s : State) : Host.Outcome State Fault Refusal :=
  s.teamOp 1 none fun c => if k.toNat = 0 ∨ 6 ≤ k.toNat then .illegal else .done { c.team with part := k }

/-- A read of `x.stat` into uniform register `d`, which clears the sticky bits (R79). -/
def Team.readStat (t : Team) (d : Reg) : Team := { t.writeS d.toNat (t.stat.zeroExtend 32) with stat := 0 }

/-- The event XSTAT_READ: the read of `x.stat` within an `rdsp` (R79). -/
def execXstatRead (d : Reg) (s : State) : Host.Outcome State Fault Refusal :=
  s.issue fun c => s.setTeam c.ref (c.team.readStat d)

/-- The special registers with one value for the team, but for `x.paddr` and `x.stat` (R78, R57). -/
def Issuer.special (c : Issuer) (pkg n : Nat) : Nat :=
  let page := c.crew.page
  match n with
  | 2 => c.team.index
  | 3 => c.crew.index.toNat
  | 4 => c.team.role
  | 5 => c.ref.core
  | 6 => c.ref.core / 4
  | 7 => c.ref.die
  | 8 => pkg
  | 9 => c.crew.gid.toNat
  | 10 => page.elim 0xFFFFFFFF PageInfo.index
  | 12 => page.elim 0 PageInfo.arrival
  | 13 => page.elim 0 PageInfo.retry
  | 14 => page.elim 0 PageInfo.pstat
  | 15 => page.elim 0 PageInfo.pwin
  | 17 => c.crew.world
  | _ => 0

/-- `rdsp` (R78, R177). -/
def execRdsp (d : Reg) (n : BitVec 8) (s : State) : Host.Outcome State Fault Refusal :=
  s.teamOp 1 none fun c =>
    let t := c.team
    if 18 ≤ n.toNat then .illegal
    else if n.toNat = 0 then
      (if c.vOk false d then .done (t.sweepResult s.rf false d fun l => (l % 32, false)) else .illegal)
    else if n.toNat = 1 then
      (if c.vOk false d then .done (t.sweepResult s.rf false d fun l => (l / 32, false)) else .illegal)
    else if n.toNat = 11 then
      (if evenReg d then .done (t.writeS64 d.toNat (c.crew.page.elim 0 PageInfo.paddr)) else .illegal)
    else if n.toNat = 16 then .done (t.readStat d)
    else .done (t.writeS d.toNat (BitVec.ofNat 32 (c.special s.msys.pkg n.toNat)))

/-! Handing registers between teams (R34, R178). -/

/-- Key of the channel from one team of a crew to another. -/
def channelKey (giver taker : Nat) : Nat := giver * 4 + taker

/-- The team of a crew with an index, if it stands on the core. -/
def State.teamOf (s : State) (c : Crew) (i : Nat) : Option Team :=
  match c.slots[i]? with
  | some slot => s.teamAt ⟨c.die, c.core, slot⟩
  | none => none

/-- A team of the crew has retired (R41). -/
def State.teamRetired (s : State) (c : Crew) (i : Nat) : Bool :=
  match s.teamOf c i with
  | some t => t.present == 0
  | none => false

/-- The checks at issue of `give` and `claim` (R34, R178). -/
def Issuer.handOk (c : Issuer) (other : BitVec 8) (first : Reg) (n : BitVec 8) : Bool :=
  decide (1 ≤ n.toNat) && decide (n.toNat ≤ 64) && c.vRun first n.toNat
    && decide (other.toNat < c.crew.slots.length) && other.toNat != c.team.index

/-- The values that a `give` copies, every present lane whatever the mask (R34). -/
def Team.giveVals (t : Team) (free : Nat) (first n : Nat) : List (Nat × Word) :=
  Sparse.setAll 0 [] ((lanesBelow t.present t.lanes).flatMap (fun l =>
    (List.range n).map (fun i => (regKey l (first + i), t.v free l (first + i)))))

/-- `give` (R34, R178). -/
def execGive (other : BitVec 8) (first : Reg) (n : BitVec 8) (s : State) : Host.Outcome State Fault Refusal :=
  s.issue fun c =>
    if !c.handOk other first n then s.illegal c
    else
      let key := channelKey c.team.index other.toNat
      if s.teamRetired c.crew other.toNat then s.setTeam c.ref (c.team.advance 1 (some (c.team.source s.rf first)))
      else match Sparse.get none c.crew.channels key with
        | some _ => s.stall c (.give other.toNat)
        | none =>
          let g : Give := ⟨first.toNat, n.toNat, c.team.lanes, c.team.giveVals s.rf first.toNat n.toNat⟩
          (s.setCrew c.cid { c.crew with channels := Sparse.set none c.crew.channels key (some g) }).setTeam c.ref
            (c.team.advance 1 (some (c.team.source s.rf first)))

/-- The value that a claim delivers in a lane (R34). -/
def Give.at (g : Give) (lane i : Nat) : Word := Sparse.get 0 g.vals (regKey lane (g.first + i))

/-- `claim` (R34, R178). -/
def execClaim (other : BitVec 8) (first : Reg) (n : BitVec 8) (s : State) : Host.Outcome State Fault Refusal :=
  s.issue fun c =>
    if !c.handOk other first n then s.illegal c
    else
      let key := channelKey other.toNat c.team.index
      let t := c.team
      match Sparse.get none c.crew.channels key with
      | some g =>
        if g.count ≠ n.toNat then s.illegal c
        else
          let t' := t.sweep s.rf (regRun first n.toNat) (fun l => (List.range n.toNat).map (fun i => (first.toNat + i, g.at l i)))
          (s.setCrew c.cid { c.crew with channels := Sparse.set none c.crew.channels key none }).setTeam c.ref (t'.advance 1 none)
      | none =>
        if s.teamRetired c.crew other.toNat then
          let t' := t.sweep s.rf (regRun first n.toNat) (fun _ => (List.range n.toNat).map (fun i => (first.toNat + i, 0)))
          s.setTeam c.ref ((t'.setStat 1 true).advance 1 none)
        else s.stall c (.claim other.toNat)

/-- `trap` (R266). -/
def execTrap (k : BitVec 16) (s : State) : Host.Outcome State Fault Refusal :=
  s.issue fun c => s.raise c .software k.toNat 0 0

end Sys2Proof.Machine
end

