-- ==== Sys2Proof/Machine/Cross.lean ====
section
/-! DEFINITION. Cross-lane instructions (R30, R31, R206 to R214). -/

namespace Sys2Proof.Machine

/-- Lanes of a tile (R30). -/
def Team.tileSize (t : Team) : Nat := 2 ^ t.part.toNat

/-- The first lane of the tile of a lane (R206). -/
def Team.tileBase (t : Team) (l : Nat) : Nat := l / t.tileSize * t.tileSize

/-- Position of a lane in its tile (R206). -/
def Team.tilePos (t : Team) (l : Nat) : Nat := l % t.tileSize

/-- The active lanes of the tile of a lane, in ascending order. -/
def Team.tileActive (t : Team) (free l : Nat) : List Nat :=
  ((List.range t.tileSize).map (fun i => t.tileBase l + i)).filter (fun x => t.isActive free x)

/-- A pull permute of `n` words: each active lane reads the lane at position `pos` of its tile, or the
fill (R207). -/
def pull (d a fill : Reg) (chk : Issuer → Bool) (pos : Team → Nat → Nat) (s : State) : Host.Outcome State Fault Refusal :=
  s.teamOp 2 (some a) fun c =>
    let t := c.team
    if c.vOk false d && c.vOk false a && chk c then
      .done (t.sweepResult s.rf false d fun l =>
        let src := t.tileBase l + pos t l % t.tileSize
        ((if t.isActive s.rf src then t.v s.rf src a.toNat else t.sIn s.rf l fill.toNat).toNat, false))
    else .illegal

/-- `lget` (R207). -/
def execLget (d a b c' : Reg) (s : State) : Host.Outcome State Fault Refusal :=
  pull d a c' (fun c => c.vOk false b) (fun t l => (t.v s.rf l b.toNat).toNat) s

/-- `lget.rot` (R207). -/
def execLgetRot (d a b c' : Reg) (s : State) : Host.Outcome State Fault Refusal :=
  pull d a c' (fun c => c.vOk false b) (fun t l => t.tilePos l + (t.v s.rf l b.toNat).toNat) s

/-- `lbcast` (R207). -/
def execLbcast (d a c' : Reg) (k : BitVec 8) (s : State) : Host.Outcome State Fault Refusal :=
  pull d a c' (fun _ => true) (fun _ _ => k.toNat) s

/-- `lxor` (R207). -/
def execLxor (d a c' : Reg) (k : BitVec 8) (s : State) : Host.Outcome State Fault Refusal :=
  pull d a c' (fun _ => true) (fun t l => t.tilePos l ^^^ (k.toNat % t.tileSize)) s

/-- The active lanes of the tile of `l` that push to position `pos` (R208). -/
def Team.pushers (t : Team) (free : Nat) (b : Src) (l pos : Nat) : List Nat :=
  (t.tileActive free l).filter (fun x => t.read free x false b % t.tileSize == pos)

/-- `lput` of `n` words (R208). -/
def push (n : Nat) (d : Reg) (a b : Src) (s : State) : Host.Outcome State Fault Refusal :=
  s.teamOp n a.vec fun c =>
    let t := c.team
    if c.vOk false d && c.srcOk false a && c.srcOk false b then
      let t' := t.sweep s.rf (destRegs false d) (fun l =>
        match (t.pushers s.rf b l (t.tilePos l)).getLast? with
        | some x => [(d.toNat, BitVec.ofNat 32 (t.read s.rf x false a))]
        | none => [])
      let collide := (t.active s.rf).any (fun l =>
        decide (2 ≤ (t.pushers s.rf b l (t.read s.rf l false b % t.tileSize)).length))
      .done (t'.setStat 0 collide)
    else .illegal

def execLput (d a b : Reg) (s : State) := push 1 d (.v a) (.v b) s

/-- The votes (R209). -/
inductive Vote where
  | any | all | ballot
  deriving DecidableEq, Repr

def Vote.eval (v : Vote) (t : Team) (free : Nat) (a : Src) (l : Nat) : Nat :=
  let ls := t.tileActive free l
  let on := fun x => t.read free x false a != 0
  match v with
  | .any => boolNat (ls.any on)
  | .all => boolNat (ls.all on)
  | .ballot => ((ls.filter on).map (fun x => 2 ^ t.tilePos x)).foldl (· + ·) 0

/-- A vote of `n` words (R209). -/
def vote (v : Vote) (n : Nat) (d : Reg) (a : Src) (s : State) : Host.Outcome State Fault Refusal :=
  s.teamOp n a.vec fun c =>
    if c.vOk false d && c.srcOk false a then
      .done (c.team.sweepResult s.rf false d fun l => (v.eval c.team s.rf a l, false))
    else .illegal

def execVany (d a : Reg) (s : State) := vote .any 1 d (.v a) s
def execVall (d a : Reg) (s : State) := vote .all 1 d (.v a) s
def execVballot (d a : Reg) (s : State) := vote .ballot 1 d (.v a) s

/-! Reductions and scans (R210 to R212). -/

/-- An operation that the view has (R210). -/
def redOk (et : EType) (op : RedOp) : Bool :=
  et.isInt || match op with
    | .add | .min | .max => true
    | _ => false

/-- One step of a float reduction (R211). -/
def redStep (op : RedOp) (f : FloatFmt) (mode : RMode) (r x : Nat) : Nat :=
  match op with
  | .add => FltV3.elem .add f mode r x
  | .min => minmaxBits f false r x
  | _ => minmaxBits f true r x

/-- The canonical NaN for a NaN (R93). -/
def canonical (f : FloatFmt) (x : Nat) : Nat := if (decodeVal f x).isNaN then f.nanBits else x

/-- The reduction of a value and those that follow it (R210, R211). -/
def reduce (et : EType) (mode : RMode) (sat : Bool) (op : RedOp) (x : Nat) (xs : List Nat) : Result :=
  if isFloatView et then (xs.foldl (fun r y => mapElems2 et (redStep op et.fmt mode) r y) x, false)
  else
    let v := viewInt et.width et.signed
    match op with
    | .add => narrowInt sat et.width et.signed (xs.foldl (fun r y => r + v y) (v x))
    | .min => plain et.width (xs.foldl (fun r y => if v y < r then v y else r) (v x))
    | .max => plain et.width (xs.foldl (fun r y => if r < v y then v y else r) (v x))
    | .and => (xs.foldl (· &&& ·) x, false)
    | .or => (xs.foldl (· ||| ·) x, false)
    | .xor => (xs.foldl (· ^^^ ·) x, false)

/-- What `tred` delivers with no active lane (R212). -/
def redIdentity (et : EType) (op : RedOp) : Nat :=
  if isFloatView et then
    let f := et.fmt
    let e := match op with
      | .min => f.infBits
      | .max => f.signBits true + f.infBits
      | _ => 0
    if et.packed then e + 65536 * e else e
  else
    match op with
    | .min => truncBits (intMax et.width et.signed) et.width
    | .max => truncBits (intMin et.width et.signed) et.width
    | .and => 2 ^ et.width - 1
    | _ => 0

/-- A reduction over a list of values, with the identity for none (R210, R212).  A NaN that is its one value is delivered as the canonical NaN, as
every NaN result is (R93; DEDUCED, log 89: R211 shows no step there). -/
def reduceList (et : EType) (mode : RMode) (sat : Bool) (op : RedOp) : List Nat → Result
  | [] => (redIdentity et op, false)
  | [x] => if isFloatView et then (mapElems et (canonical et.fmt) x, false) else reduce et mode sat op x []
  | x :: y :: xs => reduce et mode sat op x (y :: xs)

/-- The values of a register in lanes. -/
def Team.valuesOf (t : Team) (free : Nat) (a : Reg) (ls : List Nat) : List Nat := ls.map (fun l => t.read free l t.et.wide (.v a))

/-- `vred` (R210). -/
def execVred (d a : Reg) (op : RedOp) (s : State) : Host.Outcome State Fault Refusal :=
  s.teamOp 2 (some a) fun c =>
    let t := c.team
    if redOk t.et op && c.vOk t.et.wide d && c.vOk t.et.wide a then
      .done (t.sweepResult s.rf t.et.wide d fun l =>
        reduceList t.et t.rmode t.sat op (t.valuesOf s.rf a (t.tileActive s.rf l)))
    else .illegal

/-- `vscan` (R210, R211). -/
def execVscan (d a c' : Reg) (op : RedOp) (ex : Bool) (s : State) : Host.Outcome State Fault Refusal :=
  s.teamOp 2 (some a) fun c =>
    let t := c.team
    if redOk t.et op && c.vOk t.et.wide d && c.vOk t.et.wide a && sOk t.et.wide c' then
      .done (t.sweepResult s.rf t.et.wide d fun l =>
        reduce t.et t.rmode t.sat op (t.read s.rf l t.et.wide (.s c'))
          (t.valuesOf s.rf a ((t.tileActive s.rf l).filter (fun x => decide (x < l) || (!ex && x == l)))))
    else .illegal

/-- `tred` (R212). -/
def execTred (d a : Reg) (op : RedOp) (s : State) : Host.Outcome State Fault Refusal :=
  s.teamOp 2 (some a) fun c =>
    let t := c.team
    if redOk t.et op && sOk t.et.wide d && c.vOk t.et.wide a then
      .done (t.uniformResult t.et.wide d (reduceList t.et t.rmode t.sat op (t.valuesOf s.rf a (t.active s.rf))))
    else .illegal

/-- A team-wide test or count of one register (R213). -/
def teamTest (d a : Reg) (f : List Bool → Nat) (s : State) : Host.Outcome State Fault Refusal :=
  s.teamOp 1 (some a) fun c =>
    let t := c.team
    if c.vOk false a then .done (t.writeS d.toNat (BitVec.ofNat 32 (f ((t.active s.rf).map (fun l => t.v s.rf l a.toNat != 0)))))
    else .illegal

def execTany (d a : Reg) (s : State) := teamTest d a (fun bs => boolNat (bs.any id)) s
def execTall (d a : Reg) (s : State) := teamTest d a (fun bs => boolNat (!bs.isEmpty && bs.all id)) s
def execTcount (d a : Reg) (s : State) := teamTest d a (fun bs => (bs.filter id).length) s

/-! The escape (R155): a V3 or V2 instruction with uniform sources. -/

/-- The three-operand integer operation of an opcode (R152). -/
def intV3Of (op : Nat) : Option IntV3 :=
  match op with
  | 0x20 => some .add | 0x21 => some .sub | 0x22 => some .mul | 0x23 => some .mulhi | 0x28 => some .min | 0x29 => some .max
  | 0x2A => some .and | 0x2B => some .or | 0x2C => some .xor | 0x2E => some .andn | 0x2F => some .shl | 0x30 => some .shr
  | 0x31 => some .sar | 0x32 => some .rot | 0x3A => some .cmpeq | 0x3B => some .cmpne | 0x3C => some .cmplt | 0x3D => some .cmple
  | _ => none

def intV2Of (op : Nat) : Option IntV2 :=
  match op with
  | 0x26 => some .neg | 0x27 => some .abs | 0x2D => some .not | 0x33 => some .popc | 0x34 => some .clz | 0x35 => some .ctz
  | 0x36 => some .brev | 0x3E => some .mov
  | _ => none

def fltV3Of (op : Nat) : Option FltV3 :=
  match op with
  | 0x80 => some .add | 0x81 => some .sub | 0x82 => some .mul | 0x84 => some .min | 0x85 => some .max | 0x88 => some .cmpeq
  | 0x89 => some .cmpne | 0x8A => some .cmplt | 0x8B => some .cmple | 0x8C => some .cmpun
  | _ => none

def fltV2Of (op : Nat) : Option FltV2 :=
  match op with
  | 0x86 => some .neg | 0x87 => some .abs | 0x8D => some .cls | 0x8E => some .rnd
  | 0x90 => some (.special .rcp) | 0x91 => some (.special .rsq) | 0x92 => some (.special .sqrt) | 0x93 => some (.special .exp2)
  | 0x94 => some (.special .log2) | 0x95 => some (.special .sin) | 0x96 => some (.special .cos) | 0x97 => some (.special .tanh)
  | _ => none

def voteOf (op : Nat) : Option Vote :=
  match op with
  | 0xA4 => some .any | 0xA5 => some .all | 0xA6 => some .ballot
  | _ => none

/-- `escape` (R155). -/
def execEscape (bop : BitVec 8) (d a b : Reg) (ua ub : Bool) (s : State) : Host.Outcome State Fault Refusal :=
  let op := bop.toNat
  if !escapeOk op b ua ub then s.issue fun c => s.illegal c
  else if op = 0xA1 then push 2 d (srcOf ua a) (srcOf ub b) s
  else
    match intV3Of op, intV2Of op, fltV3Of op, fltV2Of op, voteOf op with
    | some f, _, _, _, _ => intV3 f 2 d (srcOf ua a) (srcOf ub b) s
    | _, some f, _, _, _ => intV2 f 2 d (srcOf ua a) s
    | _, _, some f, _, _ => fltV3 f 2 d (srcOf ua a) (srcOf ub b) s
    | _, _, _, some f, _ => fltV2 f 2 d (srcOf ua a) s
    | _, _, _, _, some v => vote v 2 d (srcOf ua a) s
    | _, _, _, _, _ => s.issue fun c => s.illegal c

end Sys2Proof.Machine
end

