-- ==== Sys2Proof/Machine/Loads.lean ====
section
/-! DEFINITION. Loads, stores and atomics (R236 to R247), and the fences (R250). -/

namespace Sys2Proof.Machine

/-- A task crew that has not executed `tcommit` may not store to global memory (R264). -/
def Issuer.uncommitted (c : Issuer) : Bool := c.crew.task.isSome && !c.crew.committed

/-! Loads. -/

/-- Extension of 1 or 2 loaded bytes to a register: sign-extended under a signed view (R238). -/
def Team.narrow (t : Team) (len : Nat) : Option Bool := if len < 4 then some t.et.signed else none

/-- The loads of a lane from `len` bytes at a physical address: one, or for 16 bytes one of each half (R129). -/
def Issuer.loadParts (c : Issuer) (s : State) (l d len regs pa : Nat) (leaf : Dword) (acq home : Bool) (q : LaneSeq) : LaneSeq :=
  if len = 16 then
    c.put s l acq [q.m.place leaf (pa + 8) 8] false (.load (laneKeys l (d + 2) 2) none home)
      (c.put s l acq [q.m.place leaf pa 8] false (.load (laneKeys l d 2) none home) q)
  else c.put s l acq [q.m.place leaf pa len] false (.load (laneKeys l d regs) (c.team.narrow len) home) q

/-- A global load of one lane: `len` bytes to `regs` registers (R238, R239); an acquire is performed at once, and `home` where it reads at
the home slice (R133, R242). -/
def Issuer.loadLane (c : Issuer) (s : State) (d a b : Reg) (off : BitVec 16) (len regs : Nat) (acq home : Bool) (q : LaneSeq) (l : Nat) :
    Except LaneFail LaneSeq :=
  let va := c.team.globalAddr s.rf l a b off
  if va % len ≠ 0 then .error (.trap .misaligned va)
  else match c.piece q.m (laneFree s l 0) false false va len with
    | .error e => .error e
    | .ok (m, pa, leaf) => .ok (c.loadParts s l d.toNat len regs pa leaf acq home { q with m := m })

/-- A global load (R239, R242); `fin` is what an acquire discards. -/
def loadOp (d a b : Reg) (off : BitVec 16) (len regs : Nat) (even acq home : Bool) (fin : Issuer → MemSys → MemSys) (s : State) :
    Host.Outcome State Fault Refusal :=
  s.issue fun c =>
    if !c.vRun d regs || (even && !evenReg d) || !evenReg a || !c.vOk false b then s.illegal c
    else s.laneInstr c 2 false (fin c) (c.loadLane s d a b off len regs acq home)

def execLd8 (d a b : Reg) (off : BitVec 16) (s : State) := loadOp d a b off 1 1 false false false (fun _ m => m) s
def execLd16 (d a b : Reg) (off : BitVec 16) (s : State) := loadOp d a b off 2 1 false false false (fun _ m => m) s
def execLd32 (d a b : Reg) (off : BitVec 16) (s : State) := loadOp d a b off 4 1 false false false (fun _ m => m) s
def execLd64 (d a b : Reg) (off : BitVec 16) (s : State) := loadOp d a b off 8 2 true false false (fun _ m => m) s
def execLdq (d a b : Reg) (off : BitVec 16) (s : State) := loadOp d a b off 16 4 true false false (fun _ m => m) s

/-- What an acquire by the issuing team discards (R133). -/
def Issuer.acquire (c : Issuer) (sc : Scope) (m : MemSys) : MemSys := m.acquire c.ref.die c.ref.core sc

/-- The element type of the issuing team's view, for the widths "by view" (R238). -/
def State.viewWide (s : State) : Bool :=
  match s.issuer with
  | some c => c.team.et.wide
  | none => false

/-- `lda` (R242). -/
def execLda (d a b : Reg) (sc : Scope) (off : BitVec 16) (s : State) : Host.Outcome State Fault Refusal :=
  loadOp d a b off (if s.viewWide then 8 else 4) (if s.viewWide then 2 else 1) s.viewWide true (sc != .core)
    (fun c => c.acquire sc) s

/-- Bytes of an access whose width is "by view" (R238). -/
def Team.viewLen (t : Team) : Nat := if t.et.wide then 8 else 4

/-- `lds` of one lane (R238, R239). -/
def Issuer.ldsLane (c : Issuer) (s : State) (d a b : Reg) (off : BitVec 16) (q : LaneSeq) (l : Nat) : Except LaneFail LaneSeq :=
  let o := c.team.scratchAddr s.rf l a b off
  match c.scratchCheck q.m false o c.team.viewLen with
  | .error e => .error e
  | .ok () => .ok (c.put s l false [⟨true, false, o, c.team.viewLen⟩] false (.load (laneKeys l d.toNat (c.team.viewLen / 4)) none false) q)

/-- `lds` (R238, R239). -/
def execLds (d a b : Reg) (off : BitVec 16) (s : State) : Host.Outcome State Fault Refusal :=
  s.issue fun c =>
    if !c.vOk c.team.et.wide d || !c.vOk false b then s.illegal c
    else s.laneInstr c 2 false (fun m => m) (c.ldsLane s d a b off)

/-- `sld` (R243): one relaxed read for the whole team. -/
def execSld (d a : Reg) (off : BitVec 16) (s : State) : Host.Outcome State Fault Refusal :=
  s.issue fun c =>
    let o := truncBits ((c.team.s s.rf a.toNat).toNat + toSigned 16 off.toNat) 32
    s.longIssue c fun flag =>
      match c.scratchCheck s.msys false o 4 with
      | .error f => s.accessFails c 1 false 0 0 (0, 0) f
      | .ok () => s.endAccess c 2 flag (fun m => m)
          (c.put s 0 false [⟨true, false, o, 4⟩] false (.load [regKey 1024 d.toNat] none false) (c.seq s s.msys 0))

/-! MX blocks (R99, R101, R244). -/

/-- Element bytes of a block. -/
def mxLen (off : BitVec 16) : Nat := if off.getLsbD 15 then 16 else 32

/-- Element base and scale address of a lane (R244). -/
def Team.mxAddrs (t : Team) (free lane : Nat) (a b : Reg) (off : BitVec 16) : Nat × Nat :=
  let base := truncBits ((t.sIn64 free lane a.toNat : Nat) + toSigned 32 (t.v free lane b.toNat).toNat) 57
  (base, truncBits ((base : Int) + toSigned 15 off.toNat) 57)

/-- Both pieces of a block before the lane is accepted: the range locks of both, then their translations, then the held lines
(R239, R244). -/
def Issuer.mxPieces (c : Issuer) (m : MemSys) (free : Nat) (write : Bool) (base sc len : Nat) :
    Except LaneFail (MemSys × (Nat × Dword) × (Nat × Dword)) :=
  let locked := fun va n => m.conflict c.ref.die c.ref.core [] false write va n
  if base % len ≠ 0 ∨ (base ≤ sc ∧ sc < base + len) then .error (.trap .misaligned base)
  else if locked base len then .error (.trap .rangeConflict base)
  else if locked sc 1 then .error (.trap .rangeConflict sc)
  else match c.xlatePiece m free write false base with
    | .error e => .error e
    | .ok (pa, leaf, lvl) =>
      let m' := c.usePiece m write false base leaf lvl
      match c.xlatePiece m' (free + 1) write false sc with
      | .error e => .error e
      | .ok (pa', leaf', lvl') =>
        if write && m.isHeld pa then .error (.trap .worldViolation base)
        else if write && m.isHeld pa' then .error (.trap .worldViolation sc)
        else .ok (c.usePiece m' write false sc leaf' lvl', (pa, leaf), (pa', leaf'))

/-- `ldmx` of one lane (R244): elements and scale are read at once (R101), at the home slices where they lie in two lines, of which an L1 may hold
copies of two moments; within one line a relaxed load may be served by the L1 (R131; DEDUCED, log 31). -/
def Issuer.ldmxLane (c : Issuer) (s : State) (d a b : Reg) (off : BitVec 16) (q : LaneSeq) (l : Nat) : Except LaneFail LaneSeq :=
  let len := mxLen off
  let (base, sc) := c.team.mxAddrs s.rf l a b off
  match c.mxPieces q.m (laneFree s l 0) false base sc len with
  | .error e => .error e
  | .ok (m, (pa, leaf), (pa', leaf')) =>
    .ok (c.put s l false [m.place leaf pa len, m.place leaf' pa' 1] false
      (.load (laneKeys l d.toNat (len / 4 + 1)) none (lineOf (m.norm pa) != lineOf (m.norm pa'))) { q with m := m })

/-- `ldmx` (R244). -/
def execLdmx (d a b : Reg) (off : BitVec 16) (s : State) : Host.Outcome State Fault Refusal :=
  s.issue fun c =>
    if !c.vRun d (mxLen off / 4 + 1) || !evenReg a || !c.vOk false b then s.illegal c
    else s.laneInstr c 2 false (fun m => m) (c.ldmxLane s d a b off)

/-- `stmx` of one lane (R244). -/
def Issuer.stmxLane (c : Issuer) (s : State) (d a b : Reg) (off : BitVec 16) (q : LaneSeq) (l : Nat) : Except LaneFail LaneSeq :=
  let len := mxLen off
  let (base, sc) := c.team.mxAddrs s.rf l a b off
  match c.mxPieces q.m (laneFree s l 0) true base sc len with
  | .error e => .error e
  | .ok (m, (pa, leaf), (pa', leaf')) =>
    let bs := c.team.regBytes s.rf l d.toNat (len / 4 + 1)
    .ok (c.putStore s l [m.place leaf pa len, m.place leaf' pa' 1] false (bs.take (len + 1)) { q with m := m })

/-- `stmx` (R244). -/
def execStmx (d a b : Reg) (off : BitVec 16) (s : State) : Host.Outcome State Fault Refusal :=
  s.issue fun c =>
    if !c.vRun d (mxLen off / 4 + 1) || !evenReg a || !c.vOk false b || c.uncommitted then s.illegal c
    else s.laneInstr c 2 true (fun m => m) (c.stmxLane s d a b off)

/-- `pref` of one lane (R238, R245): the line at its address, which must be aligned to a line; a lane that would not be accepted
requests nothing.  The home slice's cache is no state of its own. -/
def Issuer.prefLane (c : Issuer) (s : State) (a b : Reg) (off : BitVec 16) (m : MemSys) (l : Nat) : MemSys :=
  let va := c.team.globalAddr s.rf l a b off
  if va % 128 ≠ 0 then m
  else match c.piece m (laneFree s l 0) false false va 128 with
    | .ok (m, pa, leaf) => if leafMsd leaf then m
        else m.l1Fill (m.l1Of c.ref.die c.ref.core (m.norm pa)) (lineOf (m.norm pa)) c.crew.world
    | .error _ => m

/-- `pref` (R75, R245). -/
def execPref (a b : Reg) (off : BitVec 16) (s : State) : Host.Outcome State Fault Refusal :=
  s.issue fun c =>
    let t := c.team
    if !evenReg a || !c.vOk false b then s.illegal c
    else (s.setMsys ((t.active s.rf).foldl (c.prefLane s a b off) s.msys)).setTeam c.ref (t.advance 2 none)

/-! Stores. -/

/-- A global store of one lane: the low `len` bytes of `regs` registers (R246); `rel` where it is a release (R132). -/
def Issuer.storeLane (c : Issuer) (s : State) (d a b : Reg) (off : BitVec 16) (len regs : Nat) (rel : Bool) (q : LaneSeq) (l : Nat) :
    Except LaneFail LaneSeq :=
  let va := c.team.globalAddr s.rf l a b off
  if va % len ≠ 0 then .error (.trap .misaligned va)
  else match c.piece q.m (laneFree s l 0) true false va len with
    | .error e => .error e
    | .ok (m, pa, leaf) =>
      let bs := (c.team.regBytes s.rf l d.toNat regs).take len
      .ok (c.putStore s l [m.place leaf pa len] rel bs { q with m := m })

/-- A global store (R246). -/
def storeOp (d a b : Reg) (off : BitVec 16) (len regs : Nat) (rel : Bool) (s : State) : Host.Outcome State Fault Refusal :=
  s.issue fun c =>
    if !c.vRun d regs || (regs == 2 && !evenReg d) || !evenReg a || !c.vOk false b || c.uncommitted then s.illegal c
    else s.laneInstr c 2 true (fun m => m) (c.storeLane s d a b off len regs rel)

def execSt8 (d a b : Reg) (off : BitVec 16) (s : State) := storeOp d a b off 1 1 false s
def execSt16 (d a b : Reg) (off : BitVec 16) (s : State) := storeOp d a b off 2 1 false s
def execSt32 (d a b : Reg) (off : BitVec 16) (s : State) := storeOp d a b off 4 1 false s
def execSt64 (d a b : Reg) (off : BitVec 16) (s : State) := storeOp d a b off 8 2 false s

/-- `stl` (R132, R246): it is performed after every earlier access of the team, at any scope. -/
def execStl (d a b : Reg) (_sc : Scope) (off : BitVec 16) (s : State) : Host.Outcome State Fault Refusal :=
  if s.viewWide then storeOp d a b off 8 2 true s else storeOp d a b off 4 1 true s

/-- `sts` of one lane (R246). -/
def Issuer.stsLane (c : Issuer) (s : State) (d a b : Reg) (off : BitVec 16) (q : LaneSeq) (l : Nat) : Except LaneFail LaneSeq :=
  let len := c.team.viewLen
  let o := c.team.scratchAddr s.rf l a b off
  match c.scratchCheck q.m true o len with
  | .error e => .error e
  | .ok () => .ok (c.put s l false [⟨true, false, o, len⟩] false (.store ((c.team.regBytes s.rf l d.toNat (len / 4)).take len)) q)

/-- `sts` (R246). -/
def execSts (d a b : Reg) (off : BitVec 16) (s : State) : Host.Outcome State Fault Refusal :=
  s.issue fun c =>
    if !c.vOk c.team.et.wide d || !c.vOk false b then s.illegal c
    else s.laneInstr c 2 true (fun m => m) (c.stsLane s d a b off)

/-! Atomics (R247). -/

/-- Whether an order acquires (R133, R247). -/
def orderAcquires : Order → Bool
  | .acq | .ar => true
  | _ => false

/-- Whether an order releases (R132, R247). -/
def orderReleases : Order → Bool
  | .rel | .ar => true
  | _ => false

/-- An atomic of one lane (R247). -/
def Issuer.atomicLane (c : Issuer) (s : State) (op : AtomOp) (d a b x : Reg) (order : Order) (off : BitVec 16) (q : LaneSeq) (l : Nat) :
    Except LaneFail LaneSeq :=
  let t := c.team
  let len := t.viewLen
  let va := t.globalAddr s.rf l a b off
  if va % len ≠ 0 then .error (.trap .misaligned va)
  else match c.piece q.m (laneFree s l 0) true false va len with
    | .error e => .error e
    | .ok (m, pa, leaf) =>
      .ok (c.put s l (orderAcquires order) [m.place leaf pa len] (orderReleases order) (.atomic (laneKeys l d.toNat (len / 4)) op t.mode
        (t.read s.rf l t.et.wide (.v x)) (t.read s.rf l t.et.wide (.v d))) { q with m := m })

/-- An atomic (R239, R247). -/
def atomicOp (op : AtomOp) (d a b x : Reg) (sc : Scope) (order : Order) (off : BitVec 16) (s : State) :
    Host.Outcome State Fault Refusal :=
  s.issue fun c =>
    if !c.vOk c.team.et.wide d || !c.vOk c.team.et.wide x || !evenReg a || !c.vOk false b || c.uncommitted then s.illegal c
    else s.laneInstr c 2 true (fun m => if orderAcquires order then c.acquire sc m else m) (c.atomicLane s op d a b x order off)

def execAadd (d a b c : Reg) (sc : Scope) (o : Order) (off : BitVec 16) (s : State) := atomicOp .add d a b c sc o off s
def execAmin (d a b c : Reg) (sc : Scope) (o : Order) (off : BitVec 16) (s : State) := atomicOp .min d a b c sc o off s
def execAmax (d a b c : Reg) (sc : Scope) (o : Order) (off : BitVec 16) (s : State) := atomicOp .max d a b c sc o off s
def execAand (d a b c : Reg) (sc : Scope) (o : Order) (off : BitVec 16) (s : State) := atomicOp .and d a b c sc o off s
def execAor (d a b c : Reg) (sc : Scope) (o : Order) (off : BitVec 16) (s : State) := atomicOp .or d a b c sc o off s
def execAxor (d a b c : Reg) (sc : Scope) (o : Order) (off : BitVec 16) (s : State) := atomicOp .xor d a b c sc o off s
def execAxchg (d a b c : Reg) (sc : Scope) (o : Order) (off : BitVec 16) (s : State) := atomicOp .xchg d a b c sc o off s
def execAcas (d a b c : Reg) (sc : Scope) (o : Order) (off : BitVec 16) (s : State) := atomicOp .cas d a b c sc o off s
def execAinc (d a b c : Reg) (sc : Scope) (o : Order) (off : BitVec 16) (s : State) := atomicOp .inc d a b c sc o off s
def execAfadd (d a b c : Reg) (sc : Scope) (o : Order) (off : BitVec 16) (s : State) := atomicOp .fadd d a b c sc o off s

/-! Fences (R132, R133, R135, R250). -/

/-- A fence of one word: it stalls the team until the accesses that `waits` names are performed, and then does `f`. -/
def fenceOp (w : Wait) (waits : LateAcc → Bool) (f : Issuer → MemSys → MemSys) (s : State) : Host.Outcome State Fault Refusal :=
  s.issue fun c =>
    if c.team.late.any waits then s.stall c w
    else (s.setMsys (f c s.msys)).setTeam c.ref (c.team.advance 1 none)

/-- `fence.acq` (R133): it acquires over the reads that precede it. -/
def execFenceAcq (sc : Scope) (s : State) : Host.Outcome State Fault Refusal := fenceOp .reads LateAcc.reads (fun c => c.acquire sc) s

/-- `fence.rel` (R132, R250): the team's earlier accesses are performed before anything that follows. -/
def execFenceRel (_sc : Scope) (s : State) : Host.Outcome State Fault Refusal := fenceOp .accesses (fun _ => true) (fun _ m => m) s

/-- `fence.ar` (R135): it orders every earlier access before every later one, and acquires. -/
def execFenceAr (sc : Scope) (s : State) : Host.Outcome State Fault Refusal := fenceOp .accesses (fun _ => true) (fun c => c.acquire sc) s

end Sys2Proof.Machine
end

