-- ==== Sys2Proof/Machine/Sync.lean ====
section
/-! DEFINITION. Barriers (R251 to R254) and `exit` (R41, R168). -/

namespace Sys2Proof.Machine

/-! Arrivals and departures. -/

/-- The rank of the next crew to arrive (R253). -/
def BarState.rank (b : BarState) : Nat := b.ranked.length + b.remote.length

/-- Log the arrival of a crew where its grid names a log (R253). -/
def State.barLog (s : State) (scope : Scope) (b : BarState) (c : Crew) : State :=
  match s.gridAt c.gid with
  | some g =>
    match scope with
    | .core | .quad => s
    | _ => if g.record.logBase ≠ 0 ∧ b.number < 8 then s.logArrival g b.number c.index.toNat b.rank (s.memberCount b.owner) b.inst else s
  | none => s

/-- The crew has arrived, with the arrival or the retirement of its last team: it takes the next rank (R253). -/
def State.crewArrives (s : State) (scope : Scope) (b : BarState) (cid : Nat) (c : Crew) : State :=
  (s.barLog scope b c).barSettle { b with ranked := cid :: b.ranked }

/-- Record a team's arrival; the last arrival of its crew takes a rank (R252, R253). -/
def State.barArrive (s : State) (c : Issuer) (scope : Scope) (n : Nat) (bar : Bool) : State :=
  let b := s.barAt (c.crew.barOwner c.cid scope) (s.barSame c.cid c.crew scope) n
  let s := { s.setTeam c.ref { c.team with arrivals := c.team.arrivals ++ [⟨scope, n, b.id, bar⟩] } with fresh := s.fresh + 1 }
  let b := { b with arrived := (c.cid, c.team.index) :: b.arrived }
  if s.crewIn b c.cid c.crew then s.crewArrives scope b c.cid c.crew else s.barSettle b

/-- The arrival at `n` from which the team has not departed (R252). -/
def Team.arrivalAt (t : Team) (n : Nat) : Option Arrival := t.arrivals.find? (fun a => a.barrier == n)

/-- The instance of an arrival is complete, wherever the crew has moved since (R315). -/
def State.barDone (s : State) (a : Arrival) : Bool := s.barriers.all (fun b => b.id != a.inst)

/-- The departure: an acquire at the scope, which ends the arrival (R138, R252). -/
def State.barDepart (s : State) (c : Issuer) (t : Team) (scope : Scope) (n : Nat) : State :=
  (s.setMsys (c.acquire scope s.msys)).setTeam c.ref
    ({ t with arrivals := t.arrivals.filter (fun a => a.barrier != n) }.advance 1 none)

/-- Wait for the instance of an arrival, or depart from it. -/
def State.barWait (s : State) (c : Issuer) (scope : Scope) (n : Nat) : State :=
  match s.teamAt c.ref with
  | some t =>
    match t.arrivalAt n with
    | some a =>
      if s.barDone a then s.barDepart c { t with wait := none } scope n else s.setTeam c.ref { t with wait := some (.barrier n) }
    | none => s
  | none => s

/-- A crew of a grid that is not cooperative may not use a scope wider than `core` (R251). -/
def Issuer.scopeOk (c : Issuer) (scope : Scope) : Bool := scope == .core || c.crew.coop

/-- Whether the team may record an arrival (R252). -/
def Team.mayArrive (t : Team) (n : Nat) : Bool := (t.arrivalAt n).isNone && decide (t.arrivals.length < 4)

/-- `barr` (R252): the arrival is a release, and waits for the team's late accesses (R138). -/
def execBarr (scope : Scope) (n : BitVec 13) (s : State) : Host.Outcome State Fault Refusal :=
  s.issue fun c =>
    if !c.scopeOk scope || !c.team.mayArrive n.toNat then s.illegal c
    else if !c.team.late.isEmpty then s.stall c .accesses
    else
      let s := s.barArrive c scope n.toNat false
      match s.teamAt c.ref with
      | some t => s.setTeam c.ref (t.advance 1 none)
      | none => s

/-- `barw` (R252). -/
def execBarw (scope : Scope) (n : BitVec 13) (s : State) : Host.Outcome State Fault Refusal :=
  s.issue fun c =>
    if !c.scopeOk scope || (c.team.arrivalAt n.toNat).isNone then s.illegal c else s.barWait c scope n.toNat

/-- `bar` (R252); one whose arrival stands only waits. -/
def execBar (scope : Scope) (n : BitVec 13) (s : State) : Host.Outcome State Fault Refusal :=
  s.issue fun c =>
    let begun := (c.team.arrivalAt n.toNat).any (fun a => a.bar)
    if !c.scopeOk scope || (!begun && !c.team.mayArrive n.toNat) then s.illegal c
    else if begun then s.barWait c scope n.toNat
    else if !c.team.late.isEmpty then s.stall c .accesses
    else (s.barArrive c scope n.toNat true).barWait c scope n.toNat

/-- A flit of a neighbour ends its silence (R357). -/
def State.heard (s : State) (m : Nat) : State := { s with silence := Sparse.set 0 s.silence m 0 }

/-- The event POD_BARRIER_ARRIVAL (R253): a crew of another module arrives and takes a rank; an arrival that is sent again, since the
instance has been rehomed, counts once (R357). -/
def execPodBarrierArrival (r : RemoteArrival) (s : State) : Host.Outcome State Fault Refusal :=
  let b := s.barAt (.pod r.group) [.pod r.group] r.barrier
  if s.msys.bring.inPod && !s.msys.podDown && !s.msys.fenced.contains r.module && r.module != s.msys.pkg then
    if r.group == 0 || b.remote.contains (r.module, r.crew) then .next (s.heard r.module)
    else .next (State.barSettle { s.heard r.module with fresh := s.fresh + 1 } { b with remote := (r.module, r.crew) :: b.remote })
  else .next s

/-! `exit` (R168). -/

/-- A key of a vector register of a lane of `m`. -/
def keyIn (m : LaneSet) (key : Nat) : Bool := decide (key < 262144) && m.getLsbD (key / 256)

/-- The lanes of `m` become absent: their vector registers read zero, and no load writes them any more (R23, R41). -/
def Team.without (t : Team) (m : LaneSet) : Team :=
  { t with present := t.present &&& ~~~m, mask := t.mask &&& ~~~m, div := t.div.map (fun e => e.without m)
           vregs := t.vregs.filter (fun p => !keyIn m p.1)
           inflight := t.inflight.map (fun o => { o with writes := o.writes.filter (fun p => !keyIn m p.1) }) }

/-- The retirement of a team is its crew's arrival at an instance at which another of its teams has arrived, where it was the last that had
not (R252, R253). -/
def State.retireArrives (s : State) (cid : Nat) (c : Crew) (b : BarState) : State :=
  if b.ranked.contains cid || !s.crewIn b cid c then s
  else
    match (s.teamsOf c).findSome? (fun t => t.arrivals.find? (fun a => a.inst == b.id)) with
    | some a => s.crewArrives a.scope b cid c
    | none => s

/-- A team that has retired: the gives it made are discarded (R34), and instances that waited for it may complete (R252). -/
def State.afterRetire (s : State) (cid i : Nat) : State :=
  match s.crewAt cid with
  | none => s
  | some c =>
    let c := { c with channels := c.channels.filter (fun p => p.1 / 4 != i) }
    let s := s.setCrew cid c
    let s := s.barriers.foldl (fun s b => s.retireArrives cid c b) s
    let s := if s.allRetired c then s.setCrew cid { c with phase := .leaving } else s
    s.barSweep

/-- `exit` (R168): every active lane becomes absent.  The last lanes of a team leave when its accesses have been performed: the retirement
counts as arrivals, which are releases (R138, R252). -/
def execExit (s : State) : Host.Outcome State Fault Refusal :=
  s.issue fun c =>
    let t := (c.team.without (laneSetOf (c.team.active s.rf))).jump c.team.after
    if t.present ≠ 0 then s.setTeam c.ref t
    else if !t.late.isEmpty then s.stall c .accesses
    else (s.setTeam c.ref t).afterRetire c.cid t.index

end Sys2Proof.Machine
end

