-- ==== Sys2Proof/Machine/Poly.lean ====
section
/-! DEFINITION. The polynomial instructions (R230 to R235) and `apmul` (R248). -/

namespace Sys2Proof.Machine

/-! The instructions (R230 to R235). -/

/-- An index below the declared count (R75, R230). -/
def Issuer.ppOk (c : Issuer) (n : BitVec 8) : Bool := decide (n.toNat < c.crew.alloc.pp)

/-- A polynomial instruction of one word that changes its accumulator; none raises `ILLEGAL_OP`, and the interlock is waited on (R150). -/
def State.polyOp (s : State) (n : BitVec 8) (src : Option Reg) (f : Issuer → PolyAcc → Option PolyAcc) :
    Host.Outcome State Fault Refusal :=
  s.issue fun c =>
    if !c.ppOk n then s.illegal c
    else if c.team.locked (.poly n.toNat) then s.stall c (.interlock (.poly n.toNat))
    else match f c (c.crew.poly n.toNat) with
      | some p => (s.setCrew c.cid (c.crew.setPoly n.toNat p)).setTeam c.ref (c.team.advance 1 (src.map (c.team.source s.rf)))
      | none => s.illegal c

/-- The accumulator with degree `d` (R231). -/
def PolyAcc.setDeg (p : PolyAcc) (d : Nat) : PolyAcc :=
  let q := { p with deg := d, trunc := p.trunc || (!p.poison && p.above (d + 1)) }
  if p.poison then q.poisoned else q.withCoefs (p.coefs.take (d + 1))

/-- `ppdeg` (R231). -/
def execPpdeg (n : BitVec 8) (a : Reg) (s : State) : Host.Outcome State Fault Refusal :=
  s.polyOp n none fun c p =>
    let d := (c.team.s s.rf a.toNat).toNat
    if 63 < d then none else some (p.setDeg d)

/-- `ppclr` (R231). -/
def execPpclr (n : BitVec 8) (s : State) : Host.Outcome State Fault Refusal :=
  s.polyOp n none fun _ p => some { PolyAcc.initial with deg := p.deg }

/-- The factors of the active lanes, in order (R106, R232). -/
def Team.factors (t : Team) (free : Nat) (a b : Reg) : List (Nat × Nat) :=
  (t.active free).map (fun l => (t.v64 free l a.toNat, t.v64 free l b.toNat))

/-- `ppfac` (R232). -/
def execPpfac (n : BitVec 8) (a b : Reg) (s : State) : Host.Outcome State Fault Refusal :=
  s.polyOp n (some a) fun c p =>
    if c.vOk true a && c.vOk true b then some ((c.team.factors s.rf a b).foldl PolyAcc.mulFactor p) else none

/-- `ppdiv` (R109, R232). -/
def execPpdiv (n : BitVec 8) (a b : Reg) (s : State) : Host.Outcome State Fault Refusal :=
  s.polyOp n (some a) fun c p =>
    let fs := c.team.factors s.rf a b
    if c.vOk true a && c.vOk true b && p.removable p.n fs then some (fs.foldl PolyAcc.remove p) else none

/-- `ppmul` (R233): it waits on the interlock of both (R150). -/
def execPpmul (n m : BitVec 8) (s : State) : Host.Outcome State Fault Refusal :=
  s.issue fun c =>
    if !c.ppOk n || !c.ppOk m then s.illegal c
    else if c.team.locked (.poly n.toNat) then s.stall c (.interlock (.poly n.toNat))
    else if c.team.locked (.poly m.toNat) then s.stall c (.interlock (.poly m.toNat))
    else (s.setCrew c.cid (c.crew.setPoly n.toNat ((c.crew.poly n.toNat).merge (c.crew.poly m.toNat)))).setTeam c.ref (c.team.advance 1 none)

/-- `ppscl` (R231). -/
def execPpscl (n : BitVec 8) (a : Reg) (s : State) : Host.Outcome State Fault Refusal :=
  s.polyOp n none fun c p =>
    let e := p.e + toSigned 32 (c.team.s s.rf a.toNat).toNat
    some (if p.poison then p else if expOk e then { p with e := e } else p.poisoned)

/-- `ppld` (R234): the header is read at issue, since a reserved bit in it traps; the rest of the image may be late. -/
def execPpld (n : BitVec 8) (a : Reg) (s : State) : Host.Outcome State Fault Refusal :=
  s.issue fun c =>
    if !c.ppOk n || !evenReg a then s.illegal c
    else if c.team.locked (.poly n.toNat) then s.stall c (.interlock (.poly n.toNat))
    else s.longIssue c fun flag =>
      let va := c.team.s64 s.rf a.toNat % 2 ^ 57
      if va % 16 ≠ 0 then s.raise c .misaligned 0 va 0
      else s.whole c 1 false false false va 528 fun m ps =>
        let us := m.units ps
        let q := (us.take 1).foldl (fun q p => c.putPart s 0 0 true p q) (c.seq s m 0)
        match q.blocked with
        | some w => s.stall c w
        | none =>
          if imageReserved (Sparse.run 0 q.got 0 8) then (s.afterLanes c (fun m => m) q).illegal c
          else s.endAccess c 1 flag (fun m => m) (c.putTaker s 0 (.poly n.toNat) (c.putParts s 0 1 (us.drop 1) q))

/-- `ppst` (R234): the image is written in its 8-byte units. -/
def execPpst (n : BitVec 8) (a : Reg) (s : State) : Host.Outcome State Fault Refusal :=
  s.issue fun c =>
    if !c.ppOk n || !evenReg a || c.uncommitted then s.illegal c
    else if c.team.locked (.poly n.toNat) then s.stall c (.interlock (.poly n.toNat))
    else s.longIssue c fun flag =>
      let va := c.team.s64 s.rf a.toNat % 2 ^ 57
      if va % 16 ≠ 0 then s.raise c .misaligned 0 va 0
      else s.whole c 1 true false false va 528 fun m ps =>
        s.endAccess c 1 flag (fun m => m) (c.putUnits s 0 (m.units ps) (c.crew.poly n.toNat).bytes (c.seq s m 0))

/-- A polynomial instruction of one word that gives its accumulator to the uniform file, once the interlock lets it (R150). -/
def State.polyRead (s : State) (n : BitVec 8) (ok : Bool) (f : Issuer → PolyAcc → Team) : Host.Outcome State Fault Refusal :=
  s.issue fun c =>
    if !c.ppOk n || !ok then s.illegal c
    else if c.team.locked (.poly n.toNat) then s.stall c (.interlock (.poly n.toNat))
    else s.setTeam c.ref ((f c (c.crew.poly n.toNat)).advance 1 none)

/-- `pprd` (R235). -/
def execPprd (d : Reg) (n k : BitVec 8) (s : State) : Host.Outcome State Fault Refusal :=
  s.polyRead n (evenReg d && decide (k.toNat ≤ 63)) fun c p => c.team.writeS64 d.toNat (if k.toNat ≤ p.deg then p.at k.toNat else 0)

/-- The word of `ppinfo` (R235). -/
def PolyAcc.info (p : PolyAcc) : Nat :=
  let ev := max (-32768) (min 32767 p.e)
  truncBits ev 16 * 65536 + (if !p.trunc && decide (p.n ≤ p.deg) then 2048 else 0) + (if ev ≠ p.e then 1024 else 0)
    + (if p.trunc then 512 else 0) + (if p.poison then 256 else 0) + p.deg

/-- `ppinfo` (R235). -/
def execPpinfo (d : Reg) (n : BitVec 8) (s : State) : Host.Outcome State Fault Refusal :=
  s.polyRead n true fun c p => c.team.writeS d.toNat (BitVec.ofNat 32 p.info)

/-! `apmul` (R248). -/

/-- `apmul` (R248). -/
def execApmul (n : BitVec 8) (a : Reg) (sc : Scope) (order : Order) (s : State) : Host.Outcome State Fault Refusal :=
  s.issue fun c =>
    if !c.ppOk n || !evenReg a || c.uncommitted then s.illegal c
    else if c.team.locked (.poly n.toNat) then s.stall c (.interlock (.poly n.toNat))
    else s.longIssue c fun flag =>
      let va := c.team.s64 s.rf a.toNat % 2 ^ 57
      if va % 1024 ≠ 0 then s.raise c .misaligned 0 va 0
      else s.whole c 1 true true false va 528 fun m ps =>
        s.endAccess c 2 flag (fun m => if orderAcquires order then c.acquire sc m else m)
          (c.put s 0 (orderAcquires order) ((ps.take 1).map (fun p => m.place p.2.2 p.1 528)) (orderReleases order) (.merge (c.crew.poly n.toNat))
            (c.seq s m 0))

end Sys2Proof.Machine
end

