-- ==== Sys2Proof/Machine/Grids.lean ====
section
/-! DEFINITION. Grid records and their checks (R48, R86, R300, R301), homes of crews (R36), accepted grids, the launch state of a
crew (R40), and the end of a grid (R51, R299). -/

namespace Sys2Proof.Machine

/-! Reading a record (R300). -/

/-- A little-endian field of a record. -/
def fieldAt (bs : List Byte) (off len : Nat) : Nat := leNat ((bs.drop off).take len)

def recKind (bs : List Byte) : Nat := bitsOf (fieldAt bs 0x18 4) 0 2
def recTeams (bs : List Byte) : Nat := bitsOf (fieldAt bs 0x1C 4) 0 2 + 1
def recTeam (bs : List Byte) (t : Nat) : Nat := fieldAt bs (0x24 + 4 * t) 4

/-- Every address of the record lies below 2^57. -/
def recAddrsOk (bs : List Byte) (offs : List Nat) : Bool := offs.all (fun o => decide (fieldAt bs o 8 < 2 ^ 57))

/-- Every reserved field of a counted or page-bound record is zero (R300). -/
def recReservedOk (bs : List Byte) : Bool :=
  let control := fieldAt bs 0x18 4
  let paged := recKind bs == 1
  fieldAt bs 0x68 24 == 0 && bitsOf control 6 2 == 0 && bitsOf control 16 16 == 0 && bitsOf (fieldAt bs 0x1C 4) 21 11 == 0
    && bitsOf (fieldAt bs 0x20 4) 10 22 == 0
    && (List.range 4).all (fun t => if t < recTeams bs then bitsOf (recTeam bs t) 10 6 == 0 && bitsOf (recTeam bs t) 17 7 == 0
                                    else recTeam bs t == 0)
    && recAddrsOk bs ([0x00, 0x08, 0x10, 0x38] ++ (if paged then [0x40, 0x50, 0x60] else [0x48]))
    && (if paged then fieldAt bs 0x4B 5 == 0 && fieldAt bs 0x5C 4 == 0 else fieldAt bs 0x46 2 == 0)
    && (paged || fieldAt bs 0x08 8 == 0)

/-- Teams that the record declares (R32, R300). -/
def recDecls (bs : List Byte) : List TeamDecl :=
  (List.range (recTeams bs)).map (fun t =>
    ⟨bitsOf (recTeam bs t) 0 10 + 1, if (recTeam bs t).testBit 16 then bitsOf (recTeam bs t) 24 8 else t⟩)

/-- The fields of a record (R300). -/
def parseGrid (bs : List Byte) : GridRec :=
  let control := fieldAt bs 0x18 4
  let crew := fieldAt bs 0x1C 4
  let paged := recKind bs == 1
  let decl := bitsOf (fieldAt bs 0x20 4) 0 10 * 1024
  let pwin := roundUp decl 16384
  let teams := recDecls bs
  { paged := paged, entry := BitVec.ofNat 57 (fieldAt bs 0 8), faultEntry := BitVec.ofNat 57 (fieldAt bs 8 8), arg := fieldAt bs 0x10 8
    coop := control.testBit 2, fuse := control.testBit 3, cls := bitsOf control 4 2, threshold := bitsOf control 8 8, teams := teams
    alloc := ⟨8 * (bitsOf crew 16 5 + 1), bitsOf crew 10 6, bitsOf crew 6 4, bitsOf crew 2 4, if paged then pwin + 16384 else decl,
      (teams.map (fun d => (d.lanes + 31) / 32)).foldl (· + ·) 0⟩
    group := BitVec.ofNat 32 (fieldAt bs 0x34 4), logBase := fieldAt bs 0x38 8
    gx := fieldAt bs 0x40 2 + 1, gy := fieldAt bs 0x42 2 + 1, gz := fieldAt bs 0x44 2 + 1
    tileBase := fieldAt bs 0x48 8, strideX := fieldAt bs 0x50 8, strideY := fieldAt bs 0x58 8, strideZ := fieldAt bs 0x60 8
    count := if paged then fieldAt bs 0x48 3 else (fieldAt bs 0x40 2 + 1) * (fieldAt bs 0x42 2 + 1) * (fieldAt bs 0x44 2 + 1)
    listAddr := fieldAt bs 0x40 8, parkBase := fieldAt bs 0x50 8, parkSlots := fieldAt bs 0x58 4, stateAddr := fieldAt bs 0x60 8, pwin := pwin }

/-! Homes of crews (R36). -/

/-- Coordinates of crew `i` (R35). -/
def GridRec.coords (r : GridRec) (i : Nat) : Nat × Nat × Nat := (i % r.gx, i / r.gx % r.gy, i / (r.gx * r.gy))

/-- The placement hash (R36). -/
def GridRec.hash (r : GridRec) (i : Nat) : Nat :=
  let (cx, cy, cz) := r.coords i
  (cx * 0x9E3779B1 % 2 ^ 32) ^^^ (cy * 0x85EBCA77 % 2 ^ 32) ^^^ (cz * 0xC2B2AE3D % 2 ^ 32)

/-- The tile address (R36). -/
def GridRec.tileAddr (r : GridRec) (i : Nat) : Nat :=
  let (cx, cy, cz) := r.coords i
  truncBits ((r.tileBase : Int) + cx * toSigned 64 r.strideX + cy * toSigned 64 r.strideY + cz * toSigned 64 r.strideZ) 57

/-- The home die of crew `i` of a counted grid (R36). -/
def State.homeDie (s : State) (r : GridRec) (world i : Nat) : Nat :=
  let va := r.tileAddr i
  let hashed := r.hash i % 8
  if va = 0 then hashed
  else match s.msys.leafFor (freeAt s 50000) 0 none world va with
    | .ok (leaf, lvl) =>
      let pa := s.msys.norm (leafPa leaf + va % pageBytes lvl)
      if inHbm pa && !hostUnanswered leaf then homeOf pa else hashed
    | .error _ => hashed

/-- The cores of the home die in the order of R36. -/
def GridRec.coreOrder (r : GridRec) (i : Nat) : List Nat := (List.range 64).map (fun k => (bitsOf (r.hash i) 26 6 + k) % 64)

/-! The checks of R301. -/

/-- What one crew of the grid uses. -/
def GridRec.use (r : GridRec) : Use := r.alloc.use r.teams.length

/-- Crews of the grid that fit on a core beside what `u` holds (R70). -/
def GridRec.perCore (r : GridRec) (u : Use) : Nat :=
  ((List.range 16).filter (fun k => ((List.replicate (k + 1) r.use).foldl Use.add u).fits)).length

/-- M of R70. -/
def GridRec.maxResident (r : GridRec) : Nat := Nat.min r.count (512 * r.perCore Use.zero)

/-- Crews of the grid that a die with nothing but its service teams can hold (R38, R117, R310). -/
def GridRec.perDie (r : GridRec) : Nat :=
  if r.fuse then 60 * r.perCore Use.zero else 63 * r.perCore Use.zero + r.perCore serviceUse

/-- A cooperative grid fits on the module (R38). -/
def State.coopFits (s : State) (r : GridRec) (world : Nat) : Bool :=
  decide (r.count ≤ 8192) &&
    (List.range 8).all (fun die => decide (((List.range r.count).filter (fun i => s.homeDie r world i == die)).length ≤ r.perDie))

/-- A cooperative page-bound grid could have all its pages sensed and landed at once (R38, R54).  Which die a page falls to is not known
before its list is read, so that the test takes them evenly spread (DEDUCED, log 71). -/
def GridRec.coopPages (r : GridRec) : Bool := decide (r.count ≤ 8 * Nat.min 256 r.perDie)

/-- The limits of R22, R35, R38, R48 and R86 hold. -/
def State.sizeOk (s : State) (r : GridRec) (world : Nat) : Bool :=
  r.use.fits && decide (0 < r.count) && decide (r.count < 2 ^ 32)
    && !(r.paged && r.parkBase != 0 && decide (r.parkSlots < r.maxResident))
    && !(r.coop && !(if r.paged then r.coopPages else s.coopFits r world))

/-- An area is aligned and every line of it is mapped memory-side for a device-agent write. -/
def State.areaPieces (s : State) (world va len : Nat) : Option (MemSys × List Piece) :=
  if va % 64 ≠ 0 then none
  else match s.msys.agentPieces (freeAt s 41000) (agentAccess 0 world true true) (linePieces (len + 1) va len) with
    | .ok x => some x
    | .error _ => none

/-- The lines of translated pieces. -/
def pieceLines (m : MemSys) (ps : List Piece) : List Nat := ps.map (fun p => lineOf (m.norm p.1))

/-- Write an area that a grid names, and answer its lines (R51, R253). -/
def State.writeArea (s : State) (world va : Nat) (bs : List Byte) : List Nat × State :=
  match s.areaPieces world va bs.length with
  | some (m, ps) => (pieceLines m ps, s.setMsys (m.agentPut true false world ps bs))
  | none => ([], s)

/-- Bytes of the grid state area (R48). -/
def GridRec.areaBytes (r : GridRec) : Nat := 64 + 8 * r.count

/-- The status of a counted or page-bound record, 0 where it is accepted (R301). -/
def State.gridStatusOf (s : State) (bs : List Byte) (world : Nat) : Nat :=
  let r := parseGrid bs
  if 2 ≤ recKind bs ∨ recReservedOk bs = false then 4
  else if r.paged && ((s.areaPieces world r.stateAddr r.areaBytes).isNone || decide (r.parkBase % 64 ≠ 0)) then 6
  else if r.logBase ≠ 0 ∧ (s.areaPieces world r.logBase r.logBytes).isNone then 7
  else if r.paged && decide (r.listAddr % 8 ≠ 0) then 8
  else if s.sizeOk r world then 0 else 1

/-! Accepted grids. -/

/-- Accept a grid under an identifier: its areas are written and held (R51, R253). -/
def State.accept (s : State) (gid : Word) (r : GridRec) (world level : Nat) (origin : Origin) (task : Option Nat) : State :=
  let (order, s) := s.newOrder
  let g : Grid :=
    { gid := gid, record := r, world := world, level := level, origin := origin, order := order, task := task, placed := [], launched := 0
      retired := 0, corrected := 0, uncorrectable := 0, abort := none, seq := 0, home := 0
      stateLines := [], logLines := [], blocks := [], pages := [], park := [], logSeq := [], log := [], gone := [] }
  let (stateLines, s) := if r.paged then s.writeArea world r.stateAddr g.resetArea else ([], s)
  let (logLines, s) := if r.logBase = 0 then ([], s) else s.writeArea world r.logBase ((List.range 8).flatMap (fun _ => g.resetSection))
  let g := { g with home := homeOf (stateLines.getD 0 0 * 128), stateLines := stateLines, logLines := logLines }
  State.refreshHeld { s with grids := s.grids ++ [g], lastGid := gid }

/-- The names of sets of members that `dead` takes in are no more, nor are the instances that have no other name. -/
def State.dropNames (s : State) (dead : BarOwner → Bool) : State :=
  { s with barriers := (s.barriers.map (fun b => { b with names := b.names.filter (fun o => !dead o) })).filter (fun b => !b.names.isEmpty)
           barCounts := s.barCounts.filter (fun p => !dead p.1) }

/-- The barriers of a grid that is no more: `gone` of its crews stay members of its group's barriers while another grid of the group stands
(R251, R252). -/
def State.closeBarriers (s : State) (g : Grid) (gone : Nat) : State :=
  let k := g.record.group
  let last := !s.grids.any (fun x => x.record.group == k)
  let s := s.dropNames (fun o => o.isOf g.gid || (last && o == .pod k))
  { s with goneGroups := Sparse.set 0 s.goneGroups k.toNat (if last then 0 else Sparse.get 0 s.goneGroups k.toNat + gone) }

/-- A grid ends when its last crew has retired (R299): its log's lines are ordinary again, its barriers are no more, and its completion is
written. -/
def State.endGrid (s : State) (g : Grid) : State :=
  let s := ((s.dropGrid g.gid).closeBarriers g g.gone.length).refreshHeld
  match g.origin with
  | .queue q index => s.queueDone q index (if g.abort.isSome then 16 else 0) g.gid (g.abort.getD 0xFFFFFFFF)
  | .device => s

/-- End the grid if nothing of it is left. -/
def State.settleGrid (s : State) (gid : Word) : State :=
  match s.gridAt gid with
  | some g => if g.record.count ≤ g.retired ∧ (s.crewsOfGrid gid).isEmpty = true then s.endGrid g else s
  | none => s

/-! Launch (R40). -/

/-- A team at its launch. -/
def launchTeam (cid i level : Nat) (d : TeamDecl) (pc : VAddr) (sregs : List (Nat × Word)) : Team where
  crew := cid
  index := i
  role := d.role
  lanes := d.lanes
  vregs := []
  sregs := Sparse.setAll 0 [] sregs
  flags := 0
  mode := 0
  part := 5
  stat := 0
  mask := firstLanes d.lanes
  present := firstLanes d.lanes
  pc := pc
  clause := none
  ret := []
  div := []
  hold := []
  reuse := []
  level := level
  frame := none
  ctxcrew := 0
  ctxstat := 0
  tlbspace := 0
  port := ⟨0, 0, 0, 0, 0⟩
  batches := ⟨0, [], 0, 0, []⟩
  arrivals := []
  svc := none
  replay := none
  inflight := []
  late := []
  pending := none
  wait := none
  yielded := false
  lastIssue := 0

/-- The uniform registers at launch: the argument address in s0:1, and the values given (R40, R61, R277). -/
def launchRegs (arg : Nat) (more : List (Nat × Word)) : List (Nat × Word) :=
  [(0, BitVec.ofNat 32 arg), (1, BitVec.ofNat 32 (arg / 2 ^ 32))] ++ more

/-- A crew at its launch, not yet on a core. -/
def Grid.newCrew (g : Grid) (cid index : Nat) (page : Option PageInfo) (pc : VAddr) (arg : Nat) (more : List (Nat × Word))
    (scratch : List (Nat × Byte)) : Crew where
  gid := g.gid
  index := BitVec.ofNat 32 index
  phase := .resident
  die := 0
  core := 0
  slots := []
  world := g.world
  cls := g.record.cls
  group := g.record.group
  coop := g.record.coop
  fuse := g.record.fuse
  task := g.task
  committed := false
  page := page
  alloc := g.record.alloc
  scratch := scratch
  tiles := []
  metadata := []
  pps := []
  channels := []
  teams := (List.range g.record.teams.length).map (fun i =>
    launchTeam cid i g.level (g.record.teams.getD i ⟨1, i⟩) pc (launchRegs arg more))
  await := none
  woken := none
  landWait := false
  faulted := false
  doubleTrap := false
  stop := none
  placedAt := 0
  parkedAt := 0

/-- Launch a crew on a core (R32, R39, R366). -/
def State.launchCrew (s : State) (g : Grid) (index die core : Nat) (page : Option PageInfo) (pc : VAddr) (arg : Nat)
    (more : List (Nat × Word)) (scratch : List (Nat × Byte)) : Nat × State :=
  let (cid, s) := s.newId
  (cid, s.putOn cid (g.newCrew cid index page pc arg more scratch) die core .resident)

end Sys2Proof.Machine
end

