-- ==== Sys2Proof/Machine/Tasks.lean ====
section
/-! DEFINITION. Device-side launch: `tsub`, `nrec`, `glaunch`, `tcommit` (R260 to R264), node bins (R302, R303) and lock keys
(R306 to R309). -/

namespace Sys2Proof.Machine

/-! Keys of records. -/

/-- Home die of a lock key (R306). -/
def keyHome (k : Nat) : Nat := ((leBytes k 8).foldl (fun x b => x ^^^ b.toNat) 0) % 8

/-- The keys of a record, four of 8 bytes from `off` on. -/
def recordKeys (bs : List Byte) (off : Nat) : List Nat := (List.range 4).map (fun i => fieldAt bs (off + 8 * i) 8)

/-- No two entries are equal. -/
def allDistinct : List Nat → Bool
  | [] => true
  | k :: ks => !ks.contains k && allDistinct ks

/-- The list without later copies of an entry. -/
def uniq (ks : List Nat) : List Nat := ks.foldl (fun acc k => if acc.contains k then acc else acc ++ [k]) []

/-- Steps 2 to 4 of R260 on the keys of a record, 0 where they pass. -/
def keyStatus (count : Nat) (keys : List Nat) : Nat :=
  if 4 < count then 2
  else if (keys.drop count).any (fun k => k != 0) then 4
  else if allDistinct (keys.take count) then 0 else 2

/-- Insert a key into a list that ascends by (home, key) (R307). -/
def insertKey (k : Nat) : List Nat → List Nat
  | [] => [k]
  | x :: xs => if keyHome k < keyHome x ∨ (keyHome k = keyHome x ∧ k < x) then k :: x :: xs else x :: insertKey k xs

/-- The order in which a task takes its keys (R307). -/
def keyOrder (keys : List Nat) : List Nat := (uniq keys).foldr insertKey []

/-! Tasks. -/

/-- The next submission number of a die (R306). -/
def State.nextTaskSeq (s : State) (die : Nat) : Nat × State :=
  let n := Sparse.get 0 s.taskSeq die
  (n, { s with taskSeq := Sparse.set 0 s.taskSeq die (n + 1) })

/-- Where a task begins (R303, R307). -/
def firstPhase (keys : List Nat) : TaskPhase := if keys.isEmpty then .ready else .want 0

/-- A task enters the dispatcher of its die, with a grid of its own where an identifier is free (R78). -/
def State.submitTask (s : State) (r : GridRec) (raw : List Byte) (world die arg : Nat) (keys : List Nat) (records : List (List Byte)) :
    State :=
  let (id, s) := s.newId
  let (seq, s) := s.nextTaskSeq die
  let (order, s) := s.newOrder
  let order' := keyOrder keys
  let gid := s.freeGid
  let s := match gid with
    | some g => s.accept g r world 0 .device (some id)
    | none => s
  s.setTask id ⟨r, gid, world, die, arg, order', seq, order, records, firstPhase order', raw⟩

/-- Give a grid to a task that has none yet: its record passes validation (R39, R78); one that fails it is rejected. -/
def State.giveGid (s : State) (id : Nat) (t : Task) : State :=
  match t.gid, s.freeGid with
  | none, some g =>
    if s.gridStatusOf t.raw t.world = 0 then (s.accept g t.record t.world 0 .device (some id)).setTask id { t with gid := some g }
    else { s with tasks := Sparse.set none s.tasks id none }
  | _, _ => s

/-- The end of `tsub`, `nrec` and `glaunch`: the status in sd (R260). -/
def State.endSubmit (s : State) (c : Issuer) (d : Reg) (status : Nat) : State :=
  s.setTeam c.ref ((c.team.writeS d.toNat (BitVec.ofNat 32 status)).advance 1 none)

/-- The address of a record: aligned to 64 (R260). -/
def State.withRecord (s : State) (c : Issuer) (a : Reg) (len : Nat) (k : State → List Byte → State) : State :=
  if !evenReg a || c.uncommitted then s.illegal c
  else
    let va := c.team.s64 s.rf a.toNat % 2 ^ 57
    if va % 64 ≠ 0 then s.raise c .misaligned 0 va 0 else s.readWhole c 1 va len k

/-- Every reserved bit of a task record is zero (R261). -/
def taskReservedOk (bs : List Byte) : Bool :=
  fieldAt bs 56 8 == 0 && fieldAt bs 17 7 == 0 && bitsOf (fieldAt bs 16 1) 3 5 == 0 && decide (fieldAt bs 8 8 < 2 ^ 57)
    && decide (fieldAt bs 0 8 < 2 ^ 57)

/-- A grid record that a task or a node may name (R261, R302). -/
def taskKindOk (bs : List Byte) : Bool :=
  let r := parseGrid bs
  recKind bs == 0 && r.gx == 1 && r.gy == 1 && r.gz == 1 && !r.coop

/-- `tsub` (R260, R261).  A grid_addr that is no multiple of 64 is read where it stands, with no trap and no status of its own: the spec gives
none, and this is the model's choice (log 90). -/
def execTsub (d a : Reg) (s : State) : Host.Outcome State Fault Refusal :=
  s.issue fun c => s.withRecord c a 64 fun s bs =>
    let count := bitsOf (fieldAt bs 16 1) 0 3
    let keys := recordKeys bs 24
    let status := if taskReservedOk bs then keyStatus count keys else 4
    if status ≠ 0 then s.endSubmit c d status
    else s.readWhole c 1 (fieldAt bs 0 8) 128 fun s grid =>
      let status := if taskKindOk grid then s.gridStatusOf grid c.crew.world else 4
      if status ≠ 0 then s.endSubmit c d status
      else if Config.launchFull (freeAt s 45900) then s.endSubmit c d 3
      else if s.freeGid.isNone then s.stall c .gridId
      else (s.submitTask (parseGrid grid) grid c.crew.world c.ref.die (fieldAt bs 8 8) (keys.take count) []).endSubmit c d 0

/-- `glaunch` (R260, R263). -/
def execGlaunch (d a : Reg) (s : State) : Host.Outcome State Fault Refusal :=
  s.issue fun c => s.withRecord c a 128 fun s grid =>
    let status := s.gridStatusOf grid c.crew.world
    if status ≠ 0 then s.endSubmit c d status
    else if Config.launchFull (freeAt s 45900) then s.endSubmit c d 3
    else match s.freeGid with
      | none => s.stall c .gridId
      | some g => (s.accept g (parseGrid grid) c.crew.world 0 .device none).endSubmit c d 0

/-- `tcommit` (R264). -/
def execTcommit (s : State) : Host.Outcome State Fault Refusal :=
  s.issue fun c =>
    if c.crew.task.isNone then s.illegal c
    else (s.setCrew c.cid { c.crew with committed := true }).setTeam c.ref (c.team.advance 1 none)

/-! Node bins (R277, R302, R303). -/

def State.nodeAt (s : State) (n : Nat) : Option Node := Sparse.get none s.nodes n
def State.setNode (s : State) (n : Nat) (x : Node) : State := { s with nodes := Sparse.set none s.nodes n (some x) }

/-- The keys that a node record names (R262). -/
def nodeKeys (bs : List Byte) : List Nat := (recordKeys bs 8).take (bitsOf (fieldAt bs 0 1) 0 3)

/-- The longest run of at most `n` records whose distinct keys are at most four (R277). -/
def takeGroup : Nat → List Nat → List (List Byte) → List (List Byte) × List (List Byte)
  | 0, _, rs => ([], rs)
  | _ + 1, _, [] => ([], [])
  | n + 1, keys, r :: rs =>
    let keys := uniq (keys ++ nodeKeys r)
    if 4 < keys.length then ([], r :: rs)
    else
      let (g, rest) := takeGroup n keys rs
      (r :: g, rest)

/-- Form one group of the records in a bin (R277, R303). -/
def State.formGroup (s : State) (n : Nat) (x : Node) : State :=
  let (g, rest) := takeGroup x.count [] x.bin
  let s := s.setNode n { x with bin := rest }
  s.submitTask x.record x.raw x.world (n % 8) x.record.arg (g.flatMap nodeKeys) g

/-- A bin that holds its count forms a group, once the dispatcher has room for it; until then its records stay in the bin (R303). -/
def State.settleBin (s : State) (n : Nat) (x : Node) : State :=
  if x.count ≤ x.bin.length ∧ Config.launchFull (freeAt s 45900) = false then s.formGroup n x else s.setNode n x

/-- Append a record to a bin (R303). -/
def State.binAppend (s : State) (n : Nat) (x : Node) (bs : List Byte) : State := s.settleBin n { x with bin := x.bin ++ [bs] }

/-- A bin that holds its count and has formed no group yet. -/
def groupReady (n : Nat) (s : State) : State :=
  match s.nodeAt n with
  | some x => if x.count ≤ x.bin.length then s.settleBin n x else s
  | none => s

/-- `nrec` (R260, R262, R305). -/
def execNrec (d a b : Reg) (s : State) : Host.Outcome State Fault Refusal :=
  s.issue fun c => s.withRecord c a 64 fun s bs =>
    let status := if fieldAt bs 1 7 == 0 && bitsOf (fieldAt bs 0 1) 3 5 == 0
      then keyStatus (bitsOf (fieldAt bs 0 1) 0 3) (recordKeys bs 8) else 4
    let n := (c.team.s s.rf b.toNat).toNat
    if status ≠ 0 then s.endSubmit c d status
    else match s.nodeAt n with
      | none => s.endSubmit c d 5
      | some x =>
        if x.world ≠ c.crew.world then s.endSubmit c d 10
        else if 256 ≤ x.bin.length then s.endSubmit c d 3
        else (s.binAppend n x bs).endSubmit c d 0

/-- The event BIN_TIMER_EXPIRY (R303). -/
def execBinTimerExpiry (n : Nat) (s : State) : Host.Outcome State Fault Refusal :=
  match s.nodeAt n with
  | some x => if x.timer ≠ 0 ∧ x.bin ≠ [] ∧ Config.launchFull (freeAt s 45900) = false then .next (s.formGroup n x) else .next s
  | none => .next s

/-! Lock keys (R306 to R309). -/

def State.keyAt (s : State) (key : Nat) : Option KeyEntry := s.keys.find? (fun e => e.key == key)

/-- An entry as it changes; one that is neither held nor awaited is freed, which the die counts (R306, R308). -/
def State.setKey (s : State) (e : KeyEntry) : State :=
  let rest := s.keys.filter (fun x => x.key != e.key)
  if e.holder.isNone && e.waiters.isEmpty then
    { s with keys := rest, keyReleases := Sparse.set 0 s.keyReleases e.die (Sparse.get 0 s.keyReleases e.die + 1) }
  else { s with keys := rest ++ [e] }

/-- The task gives up every key and every place it holds (R308, R309). -/
def State.releaseKeys (s : State) (id : Nat) : State :=
  s.keys.foldl (fun s e =>
    if e.holder == some id || e.waiters.contains id then
      s.setKey { e with holder := if e.holder = some id then none else e.holder, waiters := e.waiters.filter (fun t => t != id) }
    else s) s

/-- Entries of a die's key table (R306). -/
def State.keyCount (s : State) (die : Nat) : Nat := (s.keys.filter (fun e => e.die == die)).length

/-- A key-table entry in the form that the overflow record gives it, without its key (R306).  An entry that none holds names no holder. -/
def State.entryBits (s : State) (e : KeyEntry) : Nat :=
  let who := match e.holder.bind s.taskAt with
    | some t => t.die * 2 ^ 59 + t.seq % 2 ^ 32 * 2 ^ 27
    | none => 0
  2 ^ 63 + (if e.holder.isSome then 2 ^ 62 else 0) + who + Nat.min 65535 e.waiters.length * 2 ^ 11

/-- The task that asked for its key at place `i` waits in its turn.  At a full table the overflow record carries the entry that the
request needs, its key in addr and the rest in aux (R306; DEDUCED, log 72); or the task gives up what it holds, and starts again after the
next release on that die (R308). -/
def State.keyArrive (s : State) (id : Nat) (t : Task) (i key : Nat) : State :=
  match s.keyAt key with
  | some e => (s.setKey { e with waiters := e.waiters ++ [id] }).setTask id { t with phase := .wait i }
  | none =>
    let die := keyHome key
    if s.keyCount die < 8192 then (s.setKey ⟨die, key, none, [id]⟩).setTask id { t with phase := .wait i }
    else if s.firm.keys then
      (s.setTask id { t with phase := .overflow i }).setMsys
        (s.msys.faultPost ⟨10, 0, false, false, t.world, t.world, die, 0, 0, 0, key, s.entryBits ⟨die, key, none, [id]⟩, s.msys.assistFaults⟩ (.keys id))
    else
      let s := s.releaseKeys id
      s.setTask id { t with phase := .restart die (Sparse.get 0 s.keyReleases die) }

/-- The event KEY_REQUEST (R307, R308): the request for the task's next key arrives at its home.  A task acquires keys once its record has
passed validation and it has an identifier (R39, R78). -/
def execKeyRequest (id : Nat) (s : State) : Host.Outcome State Fault Refusal :=
  match s.taskAt id with
  | some t =>
    match t.phase with
    | .want i => if t.gid.isSome then .next (s.keyArrive id t i (t.keys.getD i 0)) else .next s
    | _ => .next s
  | none => .next s

/-- The event KEY_GRANT (R307): a free key goes to the first of its waiters. -/
def execKeyGrant (key : Dword) (s : State) : Host.Outcome State Fault Refusal :=
  match s.keyAt key.toNat with
  | some e =>
    match e.holder, e.waiters with
    | none, id :: rest =>
      let s := s.setKey { e with holder := some id, waiters := rest }
      match s.taskAt id with
      | some t =>
        match t.phase with
        | .wait i => .next (s.setTask id { t with phase := if i + 1 < t.keys.length then .want (i + 1) else .ready })
        | _ => .next s
      | none => .next s
    | _, _ => .next s
  | none => .next s

/-- The event KEY_ACQUISITION_RESTART (R308), once an entry of the die has been freed. -/
def execKeyAcquisitionRestart (id : Nat) (s : State) : Host.Outcome State Fault Refusal :=
  match s.taskAt id with
  | some t =>
    match t.phase with
    | .restart die n => if n < Sparse.get 0 s.keyReleases die then .next (s.setTask id { t with phase := .want 0 }) else .next s
    | _ => .next s
  | none => .next s

end Sys2Proof.Machine
end

