-- ==== Sys2Proof/Machine/Image.lean ====
section
/-! DEFINITION. The crew context image (R291): header, team blocks, registers, channels, tiles, metadata, polynomial accumulators
and scratchpad.  Where R291 names a field without its position, the position is the model's (log 12). -/

namespace Sys2Proof.Machine

/-- Bytes of a team's vector registers, of `w` words (R291). -/
def Alloc.vregBytes (a : Alloc) (w : Nat) : Nat := 128 * a.regs * w

/-- Registers of a handover channel (R291). -/
def Alloc.channelRegs (a : Alloc) : Nat := Nat.min 64 a.regs

/-- Bytes of one handover channel whose giver has `w` words (R291). -/
def Alloc.channelBytes (a : Alloc) (w : Nat) : Nat := 64 + 128 * a.channelRegs * w

/-- Ordered pairs of teams. -/
def teamPairs (n : Nat) : List (Nat × Nat) :=
  (List.range n).flatMap (fun i => ((List.range n).filter (fun j => j != i)).map (fun j => (i, j)))

/-- Bytes of the sections of an image before the tiles, for teams of the words given (R291). -/
def Alloc.teamsLen (a : Alloc) (ws : List Nat) : Nat :=
  256 + 12288 * ws.length + (ws.map (fun w => a.vregBytes w + (ws.length - 1) * a.channelBytes w)).foldl (· + ·) 0

/-- Size of an image, and of a park slot (R70, R291). -/
def Alloc.imageSize (a : Alloc) (ws : List Nat) : Nat :=
  roundUp (a.teamsLen ws + 1024 * a.accs + 1024 * a.granules + 576 * a.pp + a.scratch) 64

/-- Size of the image of a crew with the teams given (R291). -/
def Crew.imageSize (c : Crew) (ts : List Team) : Nat := c.alloc.imageSize (ts.map Team.words)

/-- Size of the image of a grid's crews, which is that of a park slot (R70). -/
def GridRec.imageSize (r : GridRec) : Nat := r.alloc.imageSize (r.teams.map (fun d => (d.lanes + 31) / 32))

/-- A value at a bit position. -/
def bitsAt (x lo : Nat) : Nat := x * 2 ^ lo

/-- The keys that the image of a task crew names (R291). -/
def State.imageKeys (s : State) (c : Crew) : List Nat :=
  match c.task with
  | some t => (s.taskAt t).elim [] Task.keys
  | none => []

/-- The 256-byte header (R291). -/
def Crew.header (c : Crew) (ts : List Team) (keys : List Nat) (sealDie sn : Nat) : List Byte :=
  leBytes (bitsAt 1 48 + bitsAt (c.imageSize ts) 64
    + ((List.range ts.length).map (fun i => bitsAt ((ts.map Team.words).getD i 0) (128 + 8 * i))).foldl (· + ·) 0
    + bitsAt keys.length 165 + bitsAt ts.length 168 + bitsAt c.alloc.regs 176 + bitsAt c.alloc.accs 192 + bitsAt c.alloc.granules 200
    + bitsAt c.alloc.pp 208 + bitsAt c.world 216 + bitsAt c.alloc.scratch 224 + bitsAt (boolNat c.page.isSome) 256
    + bitsAt (boolNat c.task.isSome) 257 + bitsAt (boolNat c.committed) 258 + bitsAt (c.page.elim 0 PageInfo.pstat) 259
    + bitsAt (c.page.elim 0 PageInfo.retry) 261 + bitsAt (c.page.elim 0 PageInfo.arrival) 264
    + bitsAt (c.page.elim 0xFFFFFFFF PageInfo.index) 288 + bitsAt c.index.toNat 320 + bitsAt c.gid.toNat 352 + bitsAt sn 384
    + ((List.range keys.length).map (fun i => bitsAt (keys.getD i 0) (448 + 64 * i))).foldl (· + ·) 0
    + bitsAt sealDie 704 + bitsAt c.cls 708 + bitsAt (boolNat c.fuse) 710 + bitsAt (boolNat c.coop) 711 + bitsAt c.group.toNat 712) 256

/-- Kinds of divergence entries (R169). -/
def DivKind.code : DivKind → Nat
  | .ifPath => 1 | .elsePath => 2 | .loop => 3

/-- The bytes padded with zeros to `n`. -/
def padTo (n : Nat) (bs : List Byte) : List Byte := bs ++ List.replicate (n - bs.length) 0

/-- The control word of a team block, with the clause that the team stands in and the number of the last closed batch (R287, R291). -/
def Team.control (t : Team) : List Byte :=
  let k := t.clause.getD ⟨0, 0, 0, [], 0, []⟩
  leBytes t.pc.toNat 8 ++ leBytes t.level 1 ++ leBytes t.part.toNat 1 ++ leBytes t.flags.toNat 2 ++ leBytes t.mode.toNat 4
    ++ leBytes t.stat.toNat 1 ++ leBytes t.role 1 ++ leBytes t.lanes 2 ++ leBytes (wordLive t.mask).toNat 4 ++ leBytes t.ret.length 1
    ++ leBytes t.div.length 1 ++ leBytes k.h0.toNat 4 ++ leBytes k.h1.toNat 4 ++ leBytes k.pos 1 ++ leBytes (boolNat t.clause.isSome) 1
    ++ leBytes t.batches.last 4

/-- The core's copy of a trap frame, with the action and the done mask that stand in memory (R284, R291). -/
def Frame.image (f : Frame) (m : MemSys) : List Byte :=
  let bs := frameBytes f (BitVec.ofNat 1024 (m.readNat (f.phys + 0x80) 128))
  bs.take 0x18 ++ m.readN (f.phys + 0x18) 4 ++ bs.drop 0x1C

/-- The entries of the batch table: the ended operations of an open batch under the number it will have, and the counts (R291, R367).
The code of the widest scope stands above a number. -/
def BatchLog.table (b : BatchLog) : List BatchCount :=
  let top := if b.openDone = 0 ∧ b.openScope = 0 then [] else [⟨b.last + 1, b.openDone, b.openScope⟩]
  (top ++ b.counts).take 64

/-- The 12 288 bytes of a team block (R291). -/
def Team.block (t : Team) (m : MemSys) : List Byte :=
  ((List.range 256).flatMap (fun r => leBytes (Sparse.get 0 t.sregs r).toNat 4))
    ++ padTo 512 (match t.frame with
        | some f => f.image m
        | none => [])
    ++ padTo 64 t.control ++ leBytes t.present.toNat 128 ++ leBytes t.mask.toNat 128
    ++ padTo 128 (t.ret.reverse.flatMap (fun e => leBytes (e.addr.toNat + 2 ^ 57 * e.depth) 8))
    ++ padTo 64 (leBytes t.port.w0.toNat 8 ++ leBytes t.port.w1.toNat 8 ++ leBytes t.port.w2.toNat 8 ++ leBytes t.port.w3.toNat 8
        ++ leBytes t.port.written.toNat 1)
    ++ padTo 1024 (t.batches.table.flatMap (fun p => leBytes (p.number + 2 ^ 32 * p.scope) 8 ++ leBytes p.bytes 8))
    ++ padTo 64 (t.arrivals.flatMap (fun a => leBytes a.barrier 4 ++ leBytes a.inst 8 ++ leBytes a.scope.code.toNat 1
        ++ leBytes (boolNat a.bar) 1 ++ leBytes 1 2))
    ++ padTo 8448 (t.div.reverse.flatMap (fun e => leBytes (e.target.toNat + 2 ^ 62 * e.kind.code) 8 ++ leBytes e.pend.toNat 128
        ++ leBytes e.outer.toNat 128))
    ++ List.replicate 704 0

/-- A team's vector registers: word, register, lane (R291). -/
def Crew.vregImage (c : Crew) (t : Team) : List Byte :=
  (List.range t.words).flatMap (fun w => (List.range c.alloc.regs).flatMap (fun r => (List.range 32).flatMap (fun l =>
    leBytes (Sparse.get 0 t.vregs (regKey (32 * w + l) r)).toNat 4)))

/-- A handover channel: first register, count, valid, lanes, and the values (R291). -/
def Crew.channelImage (c : Crew) (giver : Team) (taker : Nat) : List Byte :=
  match Sparse.get none c.channels (giver.index * 4 + taker) with
  | some g =>
    padTo 64 (leBytes g.first 4 ++ leBytes g.count 4 ++ leBytes 1 4 ++ leBytes g.lanes 4) ++
      (List.range giver.words).flatMap (fun w => (List.range c.alloc.channelRegs).flatMap (fun i => (List.range 32).flatMap (fun l =>
        leBytes (Sparse.get 0 g.vals (regKey (32 * w + l) (g.first + i))).toNat 4)))
  | none => List.replicate (c.alloc.channelBytes giver.words) 0

/-- The whole image, padded to its size (R291). -/
def Crew.image (c : Crew) (ts : List Team) (m : MemSys) (keys : List Nat) (sealDie sn : Nat) : List Byte :=
  padTo (c.imageSize ts) (c.header ts keys sealDie sn
    ++ ts.flatMap (fun t => t.block m) ++ ts.flatMap c.vregImage
    ++ (teamPairs ts.length).flatMap (fun p => match ts[p.1]? with
        | some t => c.channelImage t p.2
        | none => [])
    ++ (List.range 4).flatMap (fun q => (List.range c.alloc.accs).flatMap (fun n =>
        (Sparse.run 0 c.tiles ((q * 32 + n) * 64) 64).flatMap (fun w => leBytes w.toNat 4)))
    ++ (List.range 4).flatMap (fun q => Sparse.run 0 c.metadata (q * 2048) (256 * c.alloc.granules))
    ++ (List.range c.alloc.pp).flatMap (fun n => padTo 576 (c.poly n).bytes)
    ++ Sparse.run 0 c.scratch 0 c.alloc.scratch)

/-! A crew read back from an image (R293). -/

/-- `n` bytes of an image at an offset, and the number they hold. -/
def sect (bs : List Byte) (off n : Nat) : List Byte := (bs.drop off).take n
def sectNat (bs : List Byte) (off n : Nat) : Nat := leNat (sect bs off n)
def sectWord (bs : List Byte) (off : Nat) : Word := BitVec.ofNat 32 (sectNat bs off 4)

/-- A sparse table of words from the keys given and the bytes at an offset, 4 a key. -/
def sectWords (bs : List Byte) (off : Nat) (keys : List Nat) : List (Nat × Word) :=
  Sparse.setAll 0 [] (List.zip keys (wordsOfBytes (sect bs off (4 * keys.length))))

/-- A divergence kind by its code in an image. -/
def DivKind.ofCode : Nat → DivKind
  | 1 => .ifPath
  | 2 => .elsePath
  | _ => .loop

/-- The return stack of a team block, the top first (R166). -/
def blockRet (bs : List Byte) : List RetEntry :=
  ((List.range (Nat.min 16 (sectNat bs 0x618 1))).map (fun i =>
    let x := sectNat bs (0x740 + 8 * i) 8
    (⟨x / 2 ^ 57, BitVec.ofNat 57 x⟩ : RetEntry))).reverse

/-- The divergence stack of a team block, the top first (R169). -/
def blockDiv (bs : List Byte) : List DivEntry :=
  ((List.range (Nat.min 32 (sectNat bs 0x619 1))).map (fun i =>
    let o := 0xC40 + 264 * i
    let x := sectNat bs o 8
    (⟨DivKind.ofCode (x / 2 ^ 62), BitVec.ofNat 1024 (sectNat bs (o + 136) 128), BitVec.ofNat 1024 (sectNat bs (o + 8) 128),
      BitVec.ofNat 57 x⟩ : DivEntry))).reverse

/-- Recorded barrier arrivals of a team block (R252). -/
def blockArrivals (bs : List Byte) : List Arrival :=
  (List.range 4).filterMap (fun i =>
    let o := 0xC00 + 16 * i
    let n := sectNat bs o 4
    if sectNat bs (o + 14) 2 = 0 then none
    else some ⟨(Scope.ofCode (BitVec.ofNat 3 (sectNat bs (o + 12) 1))).getD .core, n, sectNat bs (o + 4) 8, decide (sectNat bs (o + 13) 1 ≠ 0)⟩)

/-- The batch table of a team block; counts that a full table had no entry for stay as the device keeps them (R259). -/
def blockBatches (old : BatchLog) (bs : List Byte) : BatchLog :=
  let last := sectNat bs 0x624 4
  let es := (List.range 64).filterMap (fun i =>
    let x := sectNat bs (0x800 + 16 * i) 8
    if x = 0 then none else some (⟨x % 2 ^ 32, sectNat bs (0x808 + 16 * i) 8, x / 2 ^ 32⟩ : BatchCount))
  let counts := es.filter (fun e => decide (e.number ≤ last))
  let more := old.counts.filter (fun e => !counts.any (fun x => x.number == e.number))
  match es.find? (fun e => e.number == last + 1) with
  | some e => ⟨last, counts ++ (if es.length = 64 then more else []), e.bytes, e.scope, old.widest⟩
  | none => ⟨last, counts, 0, 0, old.widest⟩

/-- The clause of a team block; the words of the clause stay in the core's clause buffer where it is the same clause (R143). -/
def blockClause (old : Option Clause) (bs : List Byte) (pc : VAddr) : Option Clause :=
  if sectNat bs 0x623 1 = 0 then none
  else
    let k : Clause := ⟨pc - BitVec.ofNat 57 (8 + 4 * sectNat bs 0x622 1), sectWord bs 0x61A, sectWord bs 0x61E, [], sectNat bs 0x622 1, []⟩
    match old with
    | some o => if ({ o with words := [], seen := [] } : Clause) = k then some o else some k
    | none => some k

/-- The copy of a trap frame in a team block, where the team has an active frame (R284, R291). -/
def Frame.ofImage (f : Frame) (bs : List Byte) : Frame :=
  { f with pc := BitVec.ofNat 57 (sectNat bs 0 8), cause := sectNat bs 8 4, arg := sectWord bs 0xC, tva := BitVec.ofNat 57 (sectNat bs 0x10 8)
           level := sectNat bs 0x1C 4, h0 := sectWord bs 0x20, h1 := sectWord bs 0x24, slot := sectNat bs 0x28 4
           retDepth := sectNat bs 0x41 1, divDepth := sectNat bs 0x40 1, mode := sectWord bs 0x44, part := BitVec.ofNat 3 (sectNat bs 0x48 4)
           mask := BitVec.ofNat 1024 (sectNat bs 0x100 128), saved := (List.range 8).map (fun i => sectWord bs (0x180 + 4 * i)) }

/-- A team as its block and its registers hold it; `t` is what the device keeps beside the image (log 12).  Flags read clear, and the
latches are empty (R84, R293). -/
def Team.ofImage (t : Team) (bs : List Byte) (vregs : List (Nat × Word)) : Team :=
  let pc := BitVec.ofNat 57 (sectNat bs 0x600 8)
  { t with vregs := vregs, sregs := sectWords bs 0 (List.range 256), flags := 0, pc := pc, level := sectNat bs 0x608 1
           part := BitVec.ofNat 3 (sectNat bs 0x609 1), mode := sectWord bs 0x60C, stat := BitVec.ofNat 3 (sectNat bs 0x610 1)
           role := sectNat bs 0x611 1, lanes := sectNat bs 0x612 2, present := BitVec.ofNat 1024 (sectNat bs 0x640 128)
           mask := BitVec.ofNat 1024 (sectNat bs 0x6C0 128), clause := blockClause t.clause bs pc, ret := blockRet bs, div := blockDiv bs
           port := ⟨BitVec.ofNat 64 (sectNat bs 0x7C0 8), BitVec.ofNat 64 (sectNat bs 0x7C8 8), BitVec.ofNat 64 (sectNat bs 0x7D0 8),
             BitVec.ofNat 64 (sectNat bs 0x7D8 8), BitVec.ofNat 4 (sectNat bs 0x7E0 1)⟩
           batches := blockBatches t.batches bs, arrivals := blockArrivals bs, frame := t.frame.map (fun f => f.ofImage (sect bs 0x400 512))
           hold := [], reuse := [] }

/-- What a header says the crew has (R291). -/
def headerWords (h : Nat) : List Nat := (List.range (Nat.min 4 (bitsOf h 168 8))).map (fun i => bitsOf h (128 + 8 * i) 8)
def headerAlloc (h : Nat) : Alloc :=
  ⟨bitsOf h 176 16, bitsOf h 192 8, bitsOf h 200 8, bitsOf h 208 8, bitsOf h 224 32, (headerWords h).foldl (· + ·) 0⟩

/-- Bytes of the image that a header describes (R291). -/
def headerSize (hs : List Byte) : Nat := (headerAlloc (leNat hs)).imageSize (headerWords (leNat hs))

/-- Keys of the registers of `w` words in the order of a section: word, register, lane. -/
def regKeys (w first n : Nat) : List Nat :=
  (List.range w).flatMap (fun i => (List.range n).flatMap (fun r => (List.range 32).map (fun l => regKey (32 * i + l) (first + r))))

/-- Offset of the registers of team `i`, and of the channels' section. -/
def Alloc.vregOff (a : Alloc) (ws : List Nat) (i : Nat) : Nat :=
  256 + 12288 * ws.length + ((ws.take i).map a.vregBytes).foldl (· + ·) 0

/-- The channels of an image, by key `giver · 4 + taker` (R34, R291). -/
def imageChannels (a : Alloc) (ws : List Nat) (bs : List Byte) : Nat → List (Nat × Nat) → Table Give
  | _, [] => []
  | off, (i, j) :: ps =>
    let w := ws.getD i 0
    let rest := imageChannels a ws bs (off + a.channelBytes w) ps
    if sectNat bs (off + 8) 4 = 0 then rest
    else
      let first := sectNat bs off 4
      let count := sectNat bs (off + 4) 4
      let vals := (regKeys w first a.channelRegs).zip (wordsOfBytes (sect bs (off + 64) (a.channelBytes w - 64)))
      Sparse.set none rest (i * 4 + j) (some ⟨first, count, sectNat bs (off + 12) 4, Sparse.setAll 0 [] vals⟩)

/-- The page values that an image holds; the page's address and window are the device's (R57, R291). -/
def imagePage (old : Option PageInfo) (h : Nat) : Option PageInfo :=
  if bitsOf h 256 1 = 0 then none
  else
    let p := old.getD ⟨0, 0, 0, 0, 0, 0⟩
    some { p with index := bitsOf h 288 32, arrival := bitsOf h 264 24, retry := bitsOf h 261 3, pstat := bitsOf h 259 2 }

/-- The crew that an image holds (R293): `c` is the crew that was saved under its seal, which keeps what R291 gives the image no place for. -/
def Crew.ofImage (c : Crew) (cid : Nat) (bs : List Byte) : Crew :=
  let h := leNat (bs.take 256)
  let ws := headerWords h
  let a := headerAlloc h
  let n := ws.length
  let o := a.teamsLen ws
  let om := o + 1024 * a.accs
  let op := om + 1024 * a.granules
  let os := op + 576 * a.pp
  { c with
    gid := BitVec.ofNat 32 (bitsOf h 352 32), index := BitVec.ofNat 32 (bitsOf h 320 32), cls := bitsOf h 708 2
    group := BitVec.ofNat 32 (bitsOf h 712 32), coop := h.testBit 711, fuse := h.testBit 710, committed := h.testBit 258
    page := imagePage c.page h, alloc := a
    scratch := Sparse.setRun 0 [] 0 (sect bs os a.scratch)
    tiles := sectWords bs o ((List.range 4).flatMap (fun q => (List.range a.accs).flatMap (fun k =>
      (List.range 64).map (fun e => (q * 32 + k) * 64 + e))))
    metadata := Sparse.setAll 0 [] (((List.range 4).flatMap (fun q => (List.range (256 * a.granules)).map (fun k => q * 2048 + k))).zip
      (sect bs om (1024 * a.granules)))
    pps := Sparse.setAll PolyAcc.initial [] ((List.range a.pp).map (fun k => (k, PolyAcc.ofBytes (sect bs (op + 576 * k) 528))))
    channels := imageChannels a ws bs (a.vregOff ws n) (teamPairs n)
    teams := (List.range n).map (fun i =>
      (c.teams.getD i (launchTeam cid i 0 ⟨0, i⟩ 0 [])).ofImage (sect bs (256 + 12288 * i) 12288)
        (sectWords bs (a.vregOff ws i) (regKeys (ws.getD i 0) 0 a.regs))) }

end Sys2Proof.Machine
end

