-- ==== Sys2Proof/Machine/Waiting.lean ====
section
/-! DEFINITION. What waits for room on a die, and in which order: re-landings (R72), crews and tasks (R313), pages (R53, R314), and
the Parked crew that gives way (R71). -/

namespace Sys2Proof.Machine

/-- The first of `n` numbers from `i` on that satisfies `p`. -/
def findFrom (p : Nat → Bool) : Nat → Nat → Option Nat
  | 0, _ => none
  | n + 1, i => if p i then some i else findFrom p n (i + 1)

/-- The place of a candidate in an order: higher class first, then submission, then index (R53, R313). -/
structure Place where
  cls : Nat
  order : Nat
  index : Nat
  deriving DecidableEq, Repr

def Place.before (a b : Place) : Bool :=
  decide (b.cls < a.cls) || (a.cls == b.cls && (decide (a.order < b.order) || (a.order == b.order && decide (a.index < b.index))))

/-- The first of a list of candidates. -/
def firstOf {α : Type} (place : α → Place) : List α → Option α
  | [] => none
  | x :: xs =>
    match firstOf place xs with
    | some y => if (place y).before (place x) then some y else some x
    | none => some x

/-! Re-landings. -/

/-- An evicted crew that has been woken, and whose park slot does not await a reply. -/
def Crew.toLand (c : Crew) : Bool := c.phase == .evicted && c.await.isNone && !c.landWait

def State.crewPlace (s : State) (p : Nat × Crew) : Place := ⟨p.2.cls, ((s.gridAt p.2.gid).map Grid.order).getD 0, p.2.index.toNat⟩

/-- The woken evicted crew that a die re-lands next (R72, R314). -/
def State.nextRelanding (s : State) (die : Nat) : Option (Nat × Crew) :=
  firstOf s.crewPlace (s.crews.filterMap (fun p => match p.2 with
    | some c => if c.toLand && c.die == die then some (p.1, c) else none
    | none => none))

/-- What a crew uses of its core. -/
def Crew.use (c : Crew) : Use := c.alloc.use c.teams.length

/-! Pages. -/

/-- Key of a block of a die in `Grid.blocks`. -/
def blockKey (die b : Nat) : Nat := die * 2 ^ 32 + b

/-- A die has read the block that holds the entry of a page index, and with it the blocks before (R50). -/
def Grid.hasRead (g : Grid) (die i : Nat) : Bool := Sparse.get 0 g.blocks (blockKey die ((g.record.listAddr % 64 + 8 * i) / 64)) == 1

/-- The page of a grid that its die reserves next (R50, R53): pending, of a block that the die has read, valid or invalid. -/
def Grid.nextPage (g : Grid) (die : Nat) : Option Nat :=
  if g.abort.isSome then none
  else (g.pages.find? (fun p => match p.2 with
    | some q => q.state == 0 && q.die == die && g.hasRead die p.1
    | none => false)).map Prod.fst

/-- The page that a die reserves next, with its grid (R53, R314). -/
def State.nextPage (s : State) (die : Nat) : Option (Grid × Nat) :=
  firstOf (fun p => ⟨p.1.record.cls, p.1.order, p.2⟩) (s.grids.filterMap (fun g => (g.nextPage die).map (fun i => (g, i))))

/-- Reservations of a die in state 1 (R54). -/
def State.sensing (s : State) (die : Nat) : Nat :=
  ((s.grids.map (fun g => (g.pages.filter (fun p => match p.2 with
    | some q => q.state == 1 && q.die == die
    | none => false)).length)).foldl (· + ·) 0)

/-! Crews of counted grids and tasks. -/

/-- A crew that waits to be placed. -/
structure Cand where
  grid : Option Grid
  task : Option (Nat × Task)
  index : Nat
  record : GridRec
  place : Place

/-- The least unplaced crew of a counted grid whose home is a die (R36, R37). -/
def State.nextCrew (s : State) (g : Grid) (die : Nat) : Option Nat :=
  if g.record.paged || g.task.isSome then none
  else findFrom (fun i => !Sparse.get false g.placed i && s.homeDie g.record g.world i == die) g.record.count 0

/-- Crews of counted grids that wait on a die. -/
def State.crewCands (s : State) (die : Nat) : List Cand :=
  s.grids.filterMap (fun g => (s.nextCrew g die).map (fun i => ⟨some g, none, i, g.record, ⟨g.record.cls, g.order, i⟩⟩))

/-- Tasks that hold their keys and wait on a die (R307, R312). -/
def State.taskCands (s : State) (die : Nat) : List Cand :=
  s.tasks.filterMap (fun p => match p.2 with
    | some t => if t.phase == .ready && t.die == die && t.gid.isSome then
        some ⟨none, some (p.1, t), 0, t.record, ⟨t.record.cls, t.order, 0⟩⟩ else none
    | none => none)

/-- The crew that a die places next (R313). -/
def State.nextCand (s : State) (die : Nat) : Option Cand := firstOf Cand.place (s.crewCands die ++ s.taskCands die)

/-- The cores in the order in which a candidate takes them (R36). -/
def Cand.cores (c : Cand) : List Nat :=
  match c.task with
  | some _ => List.range 64
  | none => c.record.coreOrder c.index

/-! Placement (R36, R38). -/

/-- Launch crew `i` of a counted grid on a core; its first instruction is an acquire at `pkg` (R139). -/
def State.placeCrew (s : State) (g : Grid) (i die core : Nat) : State :=
  let g := { g with placed := Sparse.set false g.placed i true, launched := g.launched + 1 }
  let s := ((s.setGrid g).launchCrew g i die core none g.record.entry g.record.arg [] []).2
  s.setMsys (s.msys.acquire die core .pkg)

/-- Launch crews of a grid on their home dies, all of them or none (R38). -/
def State.placeAll (s : State) (gid : Word) : List Nat → Option State
  | [] => some s
  | i :: is =>
    match s.gridAt gid with
    | none => none
    | some g =>
      let die := s.homeDie g.record g.world i
      match s.findRoom die g.record.fuse g.record.use (g.record.coreOrder i) with
      | none => none
      | some core => (s.placeCrew g i die core).placeAll gid is

/-- Every crew of a cooperative grid. -/
def State.placeCoop (s : State) (g : Grid) : Option State := s.placeAll g.gid (List.range g.record.count)

/-! Room that Parked crews hold (R71). -/

/-- A Parked crew that nothing else moves. -/
def Crew.mayEvict (c : Crew) : Bool := c.phase == .parked && c.stop.isNone

/-- The crew is being evicted: its room is being made already. -/
def Crew.evicting (c : Crew) : Bool :=
  match c.stop with
  | some (.evict _ _) => true
  | _ => false

/-- The state without the crews that satisfy `p`. -/
def State.withoutCrews (s : State) (p : Crew → Bool) : State :=
  { s with crews := s.crews.filter (fun x => match x.2 with
      | some c => !p c
      | none => true) }

/-- The cores whose Parked crews must go for a crew to be placed on a core: the whole quad's where its mode must change (R117). -/
def State.liftedFor (s : State) (die core : Nat) (fuse : Bool) : List Nat :=
  if s.msys.quadFused die core == fuse then [core] else (List.range 4).map (fun i => core / 4 * 4 + i)

/-- A crew that would fit on no core as it stands, evictions under way done: the Parked crews of which cores must go for it to fit, on the
first core where that makes room. -/
def State.makeRoom (s : State) (die : Nat) (fuse : Bool) (u : Use) (cores : List Nat) : Option (List Nat) :=
  let s := s.withoutCrews (fun c => c.evicting && c.die == die)
  match s.findRoom die fuse u cores with
  | some _ => none
  | none => (cores.find? (fun core => (s.withoutCrews (fun c => c.mayEvict && c.die == die && (s.liftedFor die core fuse).contains c.core)).hasRoom
      die core fuse u)).map (fun core => s.liftedFor die core fuse)

/-- A cooperative grid that would fit only without Parked crews (R38, R71): every core of the die may give way. -/
def State.makeRoomCoop (s : State) (g : Grid) : Option (List Nat) :=
  if ((s.withoutCrews Crew.evicting).placeCoop g).isSome then none
  else if ((s.withoutCrews (fun c => c.evicting || c.mayEvict)).placeCoop g).isSome then some (List.range 64) else none

/-- The cores on which a die needs the room of Parked crews: for a re-landing, then for a page, then for a crew. -/
def State.roomNeed (s : State) (die : Nat) : Option (List Nat) :=
  match s.nextRelanding die with
  | some (_, c) => s.makeRoom die c.fuse c.use (List.range 64)
  | none =>
    let page := match s.nextPage die with
      | some (g, _) => if s.sensing die < 256 then s.makeRoom die g.record.fuse g.record.use (List.range 64) else none
      | none => none
    match page with
    | some cores => some cores
    | none =>
      match s.nextCand die with
      | some ⟨some g, none, i, r, _⟩ => if r.coop then s.makeRoomCoop g else s.makeRoom die r.fuse r.use (r.coreOrder i)
      | some c => s.makeRoom die c.record.fuse c.record.use c.cores
      | none => none

/-- The Parked crews of a core. -/
def State.parkedOn (s : State) (die core : Nat) : List (Nat × Crew) := (s.crewsOn die core).filter (fun p => p.2.mayEvict)

/-- The place of a Parked crew among those that may go: the one that parked earliest first (R71). -/
def parkPlace (p : Nat × Crew) : Place := ⟨0, p.2.parkedAt, p.1⟩

/-- The crew that is to be evicted on a die: of the Parked crews of the first of those cores that has one, the one that parked
earliest (R71). -/
def State.victim (s : State) (die : Nat) : Option (Nat × Crew) :=
  match s.roomNeed die with
  | some cores => cores.findSome? (fun core => firstOf parkPlace (s.parkedOn die core))
  | none => none

end Sys2Proof.Machine
end

