-- ==== Sys2Proof/Machine/Sprout.lean ====
section
/-! DEFINITION. The Sprout engines: the page list (R49, R50), reservation, sensing and landing of pages (R53 to R59), `await` and its
cycles (R64 to R68), wakes (R269), eviction and re-landing (R71, R72). -/

namespace Sys2Proof.Machine

/-! The page list. -/

/-- First page index in block `b` of the list (R50). -/
def GridRec.blockFirst (r : GridRec) (b : Nat) : Nat := if b = 0 then 0 else ((r.listAddr / 64 + b) * 64 - r.listAddr) / 8

/-- Page indices of block `b`. -/
def GridRec.blockPages (r : GridRec) (b : Nat) : List Nat :=
  let i := r.blockFirst b
  (List.range (Nat.min r.count (r.blockFirst (b + 1)) - i)).map (fun k => i + k)

/-- The bits of an entry that are zero in a valid one (R49). -/
def entryValid (e : Nat) : Bool := bitsOf e 30 34 == 0

/-- Die of an entry: that of its stack, or that of its index where it is invalid (R49, R53). -/
def entryDie (i e : Nat) (valid : Bool) : Nat := if valid then bitsOf e 27 3 else i % 8

/-- Whether the entry of a page index has been taken (R60). -/
def Grid.isTaken (g : Grid) (i : Nat) : Bool := (Sparse.get none g.pages i).isSome

/-- Take the entries of a block that are a die's: valid ones of its stack, and invalid ones by index.  No entry is taken twice, whichever die
has read it (R60). -/
def Grid.takeBlock (g : Grid) (die b : Nat) (bs : List Byte) : Grid :=
  (g.record.blockPages b).foldl (fun g i =>
    let e := fieldAt bs ((g.record.listAddr + 8 * i) % 64) 8
    if entryDie i e (entryValid e) = die ∧ g.isTaken i = false then
      g.setPage i { PageSt.initial with entry := BitVec.ofNat 64 e, valid := entryValid e, die := die }
    else g) g

/-- A block that cannot be read: every entry of it that no die has taken is invalid, and falls to die i mod 8 (R49, R329, R332).  Its entry
bits are not known, so that `x.paddr` is 0 (DESIGN CHOICE, log 73: the spec gives no value). -/
def Grid.loseBlock (g : Grid) (b : Nat) : Grid :=
  (g.record.blockPages b).foldl (fun g i => if g.isTaken i then g else g.setPage i { PageSt.initial with valid := false, die := i % 8 }) g

/-- Whether a die may read a block now: it has read the block before, and this one neither stands read nor waits. -/
def Grid.mayRead (g : Grid) (die b : Nat) : Bool :=
  g.record.paged && g.abort.isNone && decide (g.record.blockFirst b < g.record.count) && Sparse.get 0 g.blocks (blockKey die b) == 0
    && (b == 0 || Sparse.get 0 g.blocks (blockKey die (b - 1)) == 1)

/-- The event PAGE_LIST_BLOCK_READ (R50, R329). -/
def execPageListBlockRead (die : Nat) (gid : Word) (b : Nat) (s : State) : Host.Outcome State Fault Refusal :=
  match s.gridAt gid with
  | none => .next s
  | some g =>
    if !g.mayRead die b then .next s
    else
      let va := (g.record.listAddr / 64 + b) * 64 % 2 ^ 57
      match s.msys.agentRead (freeAt s 42000) die g.world va 64 with
      | .ok (bs, m) => .next ((s.setGrid { g.takeBlock die b bs with blocks := Sparse.set 0 g.blocks (blockKey die b) 1 }).setMsys m)
      | .error f =>
        if decide (f.1 ≠ 0) && !s.msys.canPost die then .next s
        else if f.1 = 7 then
          .next ((s.setGrid { g.loseBlock b with blocks := Sparse.set 0 g.blocks (blockKey die b) 1 }).setMsys
            (s.msys.agentFail 5 die g.world false f .none))
        else
          let g := if f.1 = 0 then g else { g with blocks := Sparse.set 0 g.blocks (blockKey die b) 2 }
          .next ((s.setGrid g).setMsys (s.msys.agentFail 5 die g.world false f (.listBlock gid (blockKey die b))))

/-! Reservation, sensing, landing. -/

/-- The event PAGE_RESERVATION (R54): allocation and page slot on the lowest core with room, for the page that stands first. -/
def execPageReservation (die : Nat) (s : State) : Host.Outcome State Fault Refusal :=
  if !s.mayLaunch || (s.nextRelanding die).isSome || decide (256 ≤ s.sensing die) then .next s
  else match s.nextPage die with
    | none => .next s
    | some (g, i) =>
      match s.findRoom die g.record.fuse g.record.use (List.range 64) with
      | none => .next s
      | some core =>
        let s := s.setMsys (s.msys.setQuad die core g.record.fuse)
        .next (s.areaWrite (g.setPage i { g.pageAt i with state := 1, core := core }) [i])

/-- Flash page of an entry as `stack · 2^27 + page`, and its erase block (R49, R350). -/
def PageSt.flashPage (p : PageSt) : Nat := bitsOf p.entry.toNat 0 30
def flashBlock (page : Nat) : Nat × Nat := (page / 2 ^ 27, page % 2 ^ 27 / 256)

/-- Abandon every page that has not launched, and the grid with them (R59). -/
def State.abortGrid (s : State) (g : Grid) (page : Nat) : State :=
  let lost := (List.range g.record.count).filter (fun i => decide ((g.pageAt i).state ≤ 1))
  let g := lost.foldl (fun g i => g.setPage i { g.pageAt i with state := 8 }) g
  let g := { g with abort := some page, retired := g.retired + lost.length }
  (s.areaWrite g lost).settleGrid g.gid

/-- The 16 KiB of a flash page, by offset. -/
def State.flashWindow (s : State) (page : Nat) : List (Nat × Byte) :=
  (s.flash.filter (fun p => p.1 / 16384 == page)).map (fun p => (p.1 - page * 16384, p.2))

/-- The sense sequence of a page ends (R55, R57, R58). -/
def State.sensed (s : State) (g : Grid) (i : Nat) (p : PageSt) (pstat : Nat) : State :=
  let g := g.setPage i { p with sensed := some pstat }
  if pstat = 2 ∧ g.record.faultEntry = 0 then s.abortGrid g i else s.setGrid g

/-- The event PAGE_SENSE (R55, R58, R59): one sense of a page, which corrects or does not; a page being erased or programmed
waits (R350).  A sense that corrects yields the data that lands; one that does not is followed by one at the next shift of the retry table. -/
def execPageSense (gid : Word) (i : Nat) (corrected : Bool) (s : State) : Host.Outcome State Fault Refusal :=
  match s.gridAt gid with
  | none => .next s
  | some g =>
    let p := g.pageAt i
    if p.state ≠ 1 ∨ p.sensed ≠ none then .next s
    else if !p.valid then .next (s.sensed g i p 2)
    else if s.flashBusy.contains (flashBlock p.flashPage) then .next s
    else if corrected then .next (s.sensed g i { p with data := s.flashWindow p.flashPage } (if p.retry = 0 then 0 else 1))
    else if p.retry < 7 then .next (s.setGrid (g.setPage i { p with retry := p.retry + 1, shift := s.msys.bring.retryTable.getD p.retry 0 }))
    else .next (s.sensed g i p 2)

/-- A page whose sense sequence has ended lands: its crew is registered and launched (R56, R57, R61, R62). -/
def State.land (s : State) (g : Grid) (i pstat : Nat) : State :=
  let p := g.pageAt i
  let bad := decide (pstat = 2)
  let q := { p with state := if bad then 3 else 2, fault := bad, rank := g.launched, data := [] }
  let g := { g.setPage i q with launched := g.launched + 1, corrected := g.corrected + boolNat (pstat == 1), uncorrectable := g.uncorrectable + boolNat bad }
  let s := s.areaWrite g [i]
  let info : PageInfo := ⟨i, bitsOf p.entry.toNat 0 48, q.rank, p.retry, pstat, g.record.pwin⟩
  let regs := if bad then [(2, if p.valid then (1 : Word) else 3), (3, 0)] else []
  let window := if bad then [] else p.data.map (fun x => (x.1 + g.record.pwin, x.2))
  let entry := if bad then g.record.faultEntry else g.record.entry
  let s := (s.launchCrew g i p.die p.core (some info) entry g.record.arg regs window).2
  s.setMsys (s.msys.acquire p.die p.core .pkg)

/-- Land the pages listed, in order. -/
def State.landAll (s : State) (gid : Word) (is : List Nat) : State :=
  is.foldl (fun s i => match s.gridAt gid with
    | some g => match (g.pageAt i).sensed with
      | some pstat => s.land g i pstat
      | none => s
    | none => s) s

/-- Every page of the grid has been sensed and none has landed. -/
def Grid.allSensed (g : Grid) : Bool :=
  (List.range g.record.count).all (fun i => (g.pageAt i).state == 1 && (g.pageAt i).sensed.isSome)

/-- The event PAGE_LANDING (R56, R57, R61, R62).  The crews of a cooperative grid launch at once, when every page has been sensed (R38). -/
def execPageLanding (gid : Word) (i : Nat) (s : State) : Host.Outcome State Fault Refusal :=
  match s.gridAt gid with
  | none => .next s
  | some g =>
    match (g.pageAt i).sensed with
    | none => .next s
    | some pstat =>
      if !s.mayLaunch || (g.pageAt i).state != 1 then .next s
      else if g.record.coop then (if g.allSensed then .next (s.landAll gid (List.range g.record.count)) else .next s)
      else .next (s.land g i pstat)

/-! `await`. -/

/-- The grid and the page index of a page-bound crew. -/
def State.pageOf (s : State) (c : Crew) : Option (Grid × Nat) :=
  match c.page, s.gridAt c.gid with
  | some p, some g => some (g, p.index)
  | _, _ => none

/-- Whether the chain that starts at page `k` returns to page `i` (R66). -/
def Grid.chain (g : Grid) (i : Nat) : Nat → Nat → Bool
  | 0, _ => false
  | n + 1, k =>
    if k = i then true
    else
      let p := g.pageAt k
      match p.awaited with
      | some j => (p.state == 4 || p.state == 5) && g.chain i n j
      | none => false

/-- An await of crew `i` on page `j` closes a cycle (R66). -/
def Grid.closes (g : Grid) (i j : Nat) : Bool := g.chain i (g.pages.length + 1) j

/-- The status of an `await` on a page that has retired or been abandoned (R64). -/
def awaitStatus (state : Nat) : Option Nat := if 6 ≤ state ∧ state ≤ 8 then some (state - 6) else none

/-- Statuses 0 and 1 are an acquire at `pkg` (R73). -/
def MemSys.awaitAcquire (m : MemSys) (die core status : Nat) : MemSys := if status < 2 then m.acquire die core .pkg else m

/-- The `await` ends with a status in its destination (R64, R151). -/
def Team.awaited (t : Team) (d : Reg) (status : Nat) : Team :=
  let t := { t with wait := none }
  (t.writeS d.toNat (BitVec.ofNat 32 status)).jump t.after

/-- The `await` of page `j` by the crew of page `i` parks the crew (R65). -/
def State.park (s : State) (c : Issuer) (g : Grid) (i j : Nat) (d : Reg) : State :=
  let s := s.areaWrite (g.setPage i { g.pageAt i with state := 4, awaited := some j }) [i]
  let s := s.setTeam c.ref { c.team with wait := some .await }
  let s := s.setCrew c.cid { c.crew with phase := .parked, await := some (j, c.team.index, d), parkedAt := s.clock }
  s.mapTeams c.cid (fun t => { t with hold := [], reuse := [] })

/-- The `await` of page `j` by the crew of page `i` closes a cycle (R66, R67). -/
def State.closeCycle (s : State) (c : Issuer) (g : Grid) (i j : Nat) (d : Reg) : State :=
  let s := s.areaWrite (g.setPage i { g.pageAt i with state := 3, fault := true }) [i]
  let s := s.setTeam c.ref { c.team with wait := some .await }
  s.setCrew c.cid { c.crew with faulted := true, stop := some .awaitCycle, await := some (j, c.team.index, d) }

/-- `await` (R64 to R68, R255). -/
def execAwait (d a : Reg) (s : State) : Host.Outcome State Fault Refusal :=
  s.issue fun c =>
    match s.pageOf c.crew with
    | none => s.illegal c
    | some (g, i) =>
      let j := (c.team.s s.rf a.toNat).toNat
      let atOnce := fun status =>
        let s := (s.gridSeq g).2
        (s.setMsys (s.msys.awaitAcquire c.ref.die c.ref.core status)).setTeam c.ref (c.team.awaited d status)
      if g.record.faultEntry = 0 ∨ g.record.parkBase = 0 then s.illegal c
      else if g.record.count ≤ j then atOnce 3
      else if i = j then s.closeCycle c g i j d
      else match awaitStatus (g.pageAt j).state with
        | some status => atOnce status
        | none => if g.closes i j then s.closeCycle c g i j d else s.park c g i j d

/-- A team at the fault entry after a cycle (R67).  A team inside a trap handler keeps its level and its active frame, which the table of
R67 does not name (DESIGN CHOICE, log 74). -/
def Team.toFault (t : Team) (entry : VAddr) (j : Nat) : Team :=
  if t.present = 0 then t
  else { t with
    pc := entry, clause := none, mask := t.present, div := [], ret := [], part := 5
    sregs := Sparse.setAll 0 t.sregs [(2, 2), (3, BitVec.ofNat 32 j)]
    port := ⟨0, 0, 0, 0, 0⟩, hold := [], reuse := [], replay := none, wait := none, yielded := false
    arrivals := t.arrivals.map (fun a => { a with bar := false })
    mode := 0 }

/-- A team that has come to rest at an instruction boundary, its accesses complete and its flags clear. -/
def Team.atRest (t : Team) : Bool := t.drained && t.pending.isNone && t.svc.isNone && t.replay.isNone

/-- The event AWAIT_CYCLE (R67). -/
def execAwaitCycle (cid : Nat) (s : State) : Host.Outcome State Fault Refusal :=
  match s.crewAt cid with
  | none => .next s
  | some c =>
    match c.stop, c.await, s.pageOf c with
    | some .awaitCycle, some (j, _, _), some (g, _) =>
      if (s.teamsOf c).all Team.atRest then
        .next ((s.setCrew cid { c with stop := none, await := none }).mapTeams cid (fun t => t.toFault g.record.faultEntry j))
      else .next s
    | _, _, _ => .next s

/-! Wakes, eviction, re-landing. -/

/-- A `ctxsv` that waited ends with a status (R292). -/
def State.ctxDone (s : State) (by_ : Option TeamRef) (status : Nat) : State :=
  match by_ with
  | none => s
  | some r =>
    match s.teamAt r with
    | some t => if t.wait = some .ctxsv then s.setTeam r ({ t with wait := none, ctxstat := BitVec.ofNat 32 status }.advance 1 none) else s
    | none => s

/-- Whether a crew waits for a page, Parked or evicted. -/
def Crew.awaiting (c : Crew) : Bool := c.phase == .parked || c.phase == .evicted

/-- The wake of a crew by the page that it awaits (R65, R269): an update of its own.  A Parked crew goes on; an evicted one, or one whose
eviction is under way and goes on to its end (R71), is to be re-landed, and its `await` ends then. -/
def State.wake (s : State) (cid : Nat) (c : Crew) (g : Grid) (i team : Nat) (d : Reg) (status : Nat) : State :=
  let p := g.pageAt i
  let s := s.areaWrite (g.setPage i { p with state := if p.fault then 3 else 2, awaited := none }) [i]
  if c.phase = .parked ∧ c.evicting = false then
    let s := (s.setCrew cid { c with await := none, phase := .resident }).mapTeam cid team (fun t => t.awaited d status)
    s.setMsys (s.msys.awaitAcquire c.die c.core status)
  else s.setCrew cid { c with await := none, woken := some (team, d, status) }

/-- The event CREW_WAKE (R65, R269): once the awaited page has retired or been abandoned. -/
def execCrewWake (cid : Nat) (s : State) : Host.Outcome State Fault Refusal :=
  match s.crewAt cid with
  | none => .next s
  | some c =>
    match c.await, s.pageOf c with
    | some (j, team, d), some (g, i) =>
      match c.awaiting, awaitStatus (g.pageAt j).state with
      | true, some status => .next (s.wake cid c g i team d status)
      | _, _ => .next s
    | _, _ => .next s

/-- Wake every crew of a grid that awaits a page which has just retired: their updates take the next numbers (R269).  The order among them, that
of the crews' launches, is the model's choice (log 87): the spec gives none. -/
def State.wakeAll (s : State) (gid : Word) (j : Nat) : State :=
  (s.crewsOfGrid gid).foldl (fun s p =>
    match s.crewAt p.1 with
    | some c =>
      match c.await, s.pageOf c with
      | some (k, team, d), some (g, i) =>
        match c.awaiting && k == j, awaitStatus (g.pageAt j).state with
        | true, some status => s.wake p.1 c g i team d status
        | _, _ => s
      | _, _ => s
    | none => s) s

/-- A free park slot of a grid (R70): the lowest (DESIGN CHOICE, log 75: R71 says a free one). -/
def Grid.freePark (g : Grid) : Option Nat := findFrom (fun k => (Sparse.get none g.park k).isNone) g.record.parkSlots 0

/-- Hand the image of a drained crew to the agent that writes it to a free park slot (R71). -/
def State.writeImage (s : State) (cid : Nat) (c : Crew) (g : Grid) (slot : Nat) (by_ : Option TeamRef) : State :=
  let s := s.foldOps cid
  let bytes := c.image (s.teamsOf c) s.msys [] 0 0
  let s := s.setCrew cid { c with stop := some (.evict true by_) }
  let s := s.setGrid { g with park := Sparse.set none g.park slot (some cid) }
  s.agentWrite (crewChan cid) c.die g.world ((g.record.parkBase + slot * g.record.imageSize) % 2 ^ 57) bytes false

/-- The eviction ends once the image is written: the crew leaves its core, and its page's state becomes 5 (R71).  The page of a crew that has
been woken meanwhile keeps the state that the wake gave it, 2 or 3 (R52, R269; DEDUCED, log 87). -/
def State.endEviction (s : State) (cid : Nat) (c : Crew) (g : Grid) (i : Nat) : State :=
  let s := if c.woken.isSome then s else s.areaWrite (g.setPage i { g.pageAt i with state := 5 }) [i]
  s.takeOff cid c .evicted

/-- The event EVICTION (R71): the crew that is to make room is chosen, its image is written once it is drained, and it leaves.  Where every park
slot holds an image, the victim stays stopped, its room counted as being made, until a slot is freed: the spec gives no way, and this is the
model's choice (log 75). -/
def execEviction (cid : Nat) (s : State) : Host.Outcome State Fault Refusal :=
  match s.crewAt cid with
  | none => .next s
  | some c =>
    match s.pageOf c with
    | none => .next s
    | some (g, i) =>
      match c.stop with
      | none => if (s.victim c.die).any (fun p => p.1 == cid) then .next (s.setCrew cid { c with stop := some (.evict false none) }) else .next s
      | some (.evict false by_) =>
        match s.drained cid c && (s.teamsOf c).all Team.atRest, g.freePark with
        | true, some slot => .next (s.writeImage cid c g slot by_)
        | _, _ => .next s
      | some (.evict true by_) => if s.agentBusy (crewChan cid) then .next s else .next ((s.endEviction cid c g i).ctxDone by_ 2)
      | _ => .next s

/-- The park slot that holds a crew's image. -/
def Grid.parkOf (g : Grid) (cid : Nat) : Option Nat := (g.park.find? (fun p => p.2 == some cid)).map Prod.fst

/-- The crew as its image holds it, with what no eviction changes: its identity and its allocation (R57, R72). -/
def Crew.landed (c : Crew) (cid : Nat) (bs : List Byte) : Crew :=
  { c.ofImage cid bs with
    gid := c.gid, index := c.index, cls := c.cls, group := c.group, coop := c.coop, fuse := c.fuse, committed := c.committed, page := c.page
    alloc := c.alloc, woken := none }

/-- The crew takes the core, with the image that was read from its park slot; its `await` ends (R65, R72). -/
def State.landCrew (s : State) (cid : Nat) (c : Crew) (g : Grid) (i core : Nat) (bs : List Byte) : State :=
  let g := { g with park := g.park.filter (fun p => p.2 != some cid) }
  let s := s.areaWrite (g.setPage i { g.pageAt i with die := c.die, core := core }) [i]
  let s := (s.putOn cid (c.landed cid bs) c.die core .resident).barSweep
  let s := match c.woken with
    | some (team, d, status) => s.mapTeam cid team (fun t => t.awaited d status)
    | none => s
  s.setMsys (s.msys.acquire c.die core .pkg)

/-- The event RE_LANDING (R72): the image is read from the park slot; a read that fails posts a record, and waits for its reply (R329). -/
def execReLanding (cid : Nat) (s : State) : Host.Outcome State Fault Refusal :=
  match s.crewAt cid with
  | none => .next s
  | some c =>
    if !(s.nextRelanding c.die).any (fun p => p.1 == cid) then .next s
    else match s.findRoom c.die c.fuse c.use (List.range 64), s.pageOf c with
      | some core, some (g, i) =>
        match g.parkOf cid with
        | none => .next s
        | some slot =>
          match s.msys.agentRead (freeAt s 42200) c.die g.world ((g.record.parkBase + slot * g.record.imageSize) % 2 ^ 57) g.record.imageSize with
          | .ok (bs, m) => .next ((s.setMsys m).landCrew cid c g i core bs)
          | .error f =>
            if decide (f.1 ≠ 0) && !s.msys.canPost c.die then .next s
            else .next ((s.setCrew cid { c with landWait := decide (f.1 ≠ 0) }).setMsys (s.msys.agentFail 7 c.die g.world false f (.landing cid)))
      | _, _ => .next s

end Sys2Proof.Machine
end

