-- ==== Sys2Proof/Machine/Dispatcher.lean ====
section
/-! DEFINITION. The dispatchers: launch queues (R296 to R299), node setup (R302), placement (R36 to R38, R304, R313), retirement (R41),
discard (R264, R312) and thermal migration (R315). -/

namespace Sys2Proof.Machine

/-! Launch queues. -/

/-- The event TAIL_WRITE (R296, R298). -/
def execTailWrite (q : Nat) (tail : Word) (s : State) : Host.Outcome State Fault Refusal :=
  match s.queueAt q with
  | some x => if x.status < 2 ∧ (tail - x.head).toNat ≤ 2 ^ x.log2 then .next (s.setQueue q { x with tail := tail }) else .next s
  | none => .next s

/-- The event RESUME_COMMAND (R296, R297). -/
def execResumeCommand (q : Nat) (s : State) : Host.Outcome State Fault Refusal :=
  match s.queueAt q with
  | some x => if x.status = 1 then .next (s.setQueue q { x with status := 0 }) else .next s
  | none => .next s

/-- The event DESTROY_COMMAND (R298). -/
def execDestroyCommand (q : Nat) (s : State) : Host.Outcome State Fault Refusal :=
  match s.queueAt q with
  | some x => if x.status < 2 then .next ((s.setQueue q { x with status := 2 }).settleQueue q) else .next s
  | none => .next s

/-- A read for a queue that failed: the queue's error state, with the record posted to die 0's fault queue (R297). -/
def State.queueFail (s : State) (q : Nat) (x : Queue) (f : AgentFail) : State :=
  if f.1 ≠ 0 ∧ s.msys.canPost 0 = false then s
  else
    let s := s.setMsys (s.msys.agentFail 6 0 x.world false f .none)
    if f.1 = 0 then s
    else s.setQueue q { x with status := 1, errorOffset := BitVec.ofNat 32 (128 * (x.head.toNat % 2 ^ x.log2)) }

/-- A queue whose next record is to be read. -/
def State.queueReady (s : State) (q : Nat) : Option Queue :=
  match s.queueAt q with
  | some x => if x.status = 0 ∧ x.head ≠ x.tail ∧ s.mayLaunch = true then some x else none
  | none => none

/-- The queue's next record, read whole (R297). -/
def State.nextRecord (s : State) (x : Queue) : Except AgentFail (List Byte × MemSys) :=
  s.msys.agentRead (freeAt s 43000) 0 x.world ((x.ringBase + 128 * (x.head.toNat % 2 ^ x.log2)) % 2 ^ 57) 128

/-- Whether a record sets up a node: kind 2 in a system queue (R302). -/
def isSetup (x : Queue) (bs : List Byte) : Bool := x.level == 2 && recKind bs == 2

/-- Head passes the record (R296). -/
def Queue.pass (x : Queue) : Queue := { x with head := x.head + 1 }

/-- The event LAUNCH_RECORD_READ (R297, R301). -/
def execLaunchRecordRead (q : Nat) (s : State) : Host.Outcome State Fault Refusal :=
  match s.queueReady q with
  | none => .next s
  | some x =>
    match s.nextRecord x with
    | .error f => .next (s.queueFail q x f)
    | .ok (bs, m) =>
      if isSetup x bs then .next s
      else
        let s := s.setMsys m
        let status := s.gridStatusOf bs x.world
        if status ≠ 0 then .next ((s.setQueue q x.pass).queueDone q x.head status 0 0xFFFFFFFF)
        else match s.freeGid with
          | none => .next s
          | some gid => .next ((s.setQueue q x.pass).accept gid (parseGrid bs) x.world x.level (.queue q x.head) none)

/-- Every reserved field of a kind-2 record is zero (R302). -/
def setupReservedOk (bs : List Byte) : Bool :=
  fieldAt bs 0x08 16 == 0 && fieldAt bs 0x18 4 == 2 && fieldAt bs 0x1C 36 == 0 && bitsOf (fieldAt bs 0x40 4) 12 20 == 0
    && bitsOf (fieldAt bs 0x44 4) 6 26 == 0 && fieldAt bs 0x50 48 == 0 && decide (fieldAt bs 0 8 < 2 ^ 57)

/-- The status of a node setup, 0 where it is made (R302). -/
def State.setupStatus (s : State) (bs grid : List Byte) (world : Nat) : Nat :=
  let count := bitsOf (fieldAt bs 0x44 4) 0 6
  let busy := match s.nodeAt (bitsOf (fieldAt bs 0x40 4) 0 12) with
    | some n => !n.bin.isEmpty
    | none => false
  if !taskKindOk grid || s.gridStatusOf grid world != 0 || decide ((parseGrid grid).alloc.scratch < 64 * count) || count == 0
    || decide (32 < count) || busy then 9 else 0

/-- The event NODE_SETUP (R302). -/
def execNodeSetup (q : Nat) (s : State) : Host.Outcome State Fault Refusal :=
  match s.queueReady q with
  | none => .next s
  | some x =>
    match s.nextRecord x with
    | .error f => .next (s.queueFail q x f)
    | .ok (bs, m) =>
      if !isSetup x bs then .next s
      else
      let s := s.setMsys m
      if !setupReservedOk bs then .next ((s.setQueue q x.pass).queueDone q x.head 4 0 0xFFFFFFFF)
      else match s.msys.agentRead (freeAt s 44000) 0 x.world (fieldAt bs 0 8) 128 with
        | .error f => .next (s.queueFail q x f)
        | .ok (grid, m) =>
          let s := s.setMsys m
          let status := s.setupStatus bs grid x.world
          let node : Node := ⟨parseGrid grid, x.world, bitsOf (fieldAt bs 0x44 4) 0 6, fieldAt bs 0x48 8, [], grid⟩
          let s := if status = 0 then s.setNode (bitsOf (fieldAt bs 0x40 4) 0 12) node else s
          .next ((s.setQueue q x.pass).queueDone q x.head status 0 0xFFFFFFFF)

/-! Placement. -/

/-- The records of a group in scratchpad, record `i` at 64·i (R277). -/
def recordScratch (rs : List (List Byte)) : List (Nat × Byte) := Sparse.setRun 0 [] 0 (rs.flatMap (padTo 64))

/-- Launch a task crew on a core of its die (R277, R304); its launch is an acquire at `pkg` (R278). -/
def State.placeTask (s : State) (id : Nat) (t : Task) (g : Grid) (core : Nat) : State :=
  let g := { g with placed := [(0, true)], launched := g.launched + 1 }
  let regs := if t.records.isEmpty then [] else [(2, BitVec.ofNat 32 t.records.length)]
  let s := ((s.setGrid g).setTask id { t with phase := .running }).launchCrew g 0 t.die core none g.record.entry t.arg regs (recordScratch t.records)
  s.2.setMsys (s.2.msys.acquire t.die core .pkg)

/-- A cooperative grid stands first on each of its home dies (R38, R313). -/
def State.coopFirst (s : State) (g : Grid) : Bool :=
  (List.range 8).all (fun die => (s.nextCrew g die).isNone || ((s.nextRelanding die).isNone && (match s.nextCand die with
    | some c => c.grid.any (fun x => x.gid == g.gid)
    | none => false)))

/-- A task of a die that waits for an identifier where one is free (R78). -/
def State.needsGid (s : State) (die : Nat) : Option (Nat × Task) :=
  if s.freeGid.isNone then none
  else s.tasks.findSome? (fun p => match p.2 with
    | some t => if t.die = die ∧ t.gid = none then some (p.1, t) else none
    | none => none)

/-- The event CREW_PLACEMENT (R36 to R38, R304, R313): the crew that stands first on a die, if it fits. -/
def execCrewPlacement (die : Nat) (s : State) : Host.Outcome State Fault Refusal :=
  if !s.mayLaunch || (s.nextRelanding die).isSome then .next s
  else match s.needsGid die with
  | some (id, t) => .next (s.giveGid id t)
  | none =>
    match s.nextCand die with
    | none => .next s
    | some ⟨some g, _, i, r, _⟩ =>
      if r.coop then (if s.coopFirst g then (match s.placeCoop g with
        | some t => .next t
        | none => .next s) else .next s)
      else match s.findRoom die r.fuse r.use (r.coreOrder i) with
        | some core => .next (s.placeCrew g i die core)
        | none => .next s
    | some ⟨none, some (id, t), _, r, _⟩ =>
      match t.gid.bind s.gridAt, s.findRoom die r.fuse r.use (List.range 64) with
      | some g, some core => .next (s.placeTask id t g core)
      | _, _ => .next s
    | some ⟨none, none, _, _, _⟩ => .next s

/-! Retirement. -/

/-- The crew is one of the retired ones of its grid, in the quad where it was (R251). -/
def State.noteGone (s : State) (c : Crew) : State :=
  { s with grids := s.grids.map (fun g => if g.gid = c.gid then { g with gone := (c.die * 16 + c.core / 4) :: g.gone } else g) }

/-- The crew gives up everything it holds (R41, R309). -/
def State.removeCrew (s : State) (cid : Nat) (c : Crew) : State :=
  let s := (s.foldOps cid).noteGone c
  let s := ((s.clearSlots c).clearCrew cid).dropNames (fun o => o == .crew cid)
  let s := match c.task with
    | some id => (s.releaseKeys id)
    | none => s
  s.barSweep

/-- The retired crew is counted in its grid (R51, R52, R299). -/
def State.countRetired (s : State) (c : Crew) : State :=
  match s.gridAt c.gid with
  | none => s
  | some g =>
    let g := { g with retired := g.retired + 1 }
    match c.page with
    | some p =>
      let q := g.pageAt p.index
      let q := { q with state := if q.fault || c.doubleTrap then 7 else 6, awaited := none }
      ((s.areaWrite (g.setPage p.index q) [p.index]).wakeAll c.gid p.index).settleGrid c.gid
    | none => (s.setGrid g).settleGrid c.gid

/-- Whether a team's open batch holds operations. -/
def State.hasOpen (s : State) (cid i : Nat) : Bool := s.ops.any (fun o => o.crew == cid && o.team == i && o.batch == none)

/-- Close the open batches of a crew, in ascending team (R41). -/
def State.closeAll (s : State) (cid : Nat) (c : Crew) : State :=
  (s.teamsOf c).foldl (fun s t => if s.hasOpen cid t.index then (s.closeBatch cid t.index t).2 else s) s

/-- The event CREW_RETIRE (R41): the batches are closed; once every access has performed and every batch has completed the
crew is released. -/
def execCrewRetire (cid : Nat) (s : State) : Host.Outcome State Fault Refusal :=
  match s.crewAt cid with
  | none => .next s
  | some c =>
    if c.phase ≠ .leaving then .next s
    else
      let s := s.closeAll cid c
      if s.drained cid c then
        let s := (s.removeCrew cid c).countRetired c
        .next (match c.task with
          | some id => { s with tasks := Sparse.set none s.tasks id none }
          | none => s)
      else .next s

/-! Discard. -/

/-- A grid that vanishes without a completion: its log's lines are ordinary again. -/
def State.forgetGrid (s : State) (gid : Word) : State :=
  match s.gridAt gid with
  | some g => ((s.dropGrid gid).closeBarriers g 0).refreshHeld
  | none => s

/-- The task returns to Queued, with its keys to be acquired anew and, once its record has passed validation again, a new identifier
(R39, R78, R309).  It takes a new place in the order of R313: the spec does not say whether it keeps its old one (DESIGN CHOICE, log 76). -/
def State.requeue (s : State) (id : Nat) : State :=
  match s.taskAt id with
  | some t =>
    let (order, s) := s.newOrder
    let t := { t with gid := none, order := order, phase := firstPhase t.keys }
    (s.setTask id t).giveGid id t
  | none => s

/-- A crew that waits on the die and has no room there, of a class above `cls` (R312): one to be re-landed, or the next to be placed, of
a cooperative grid where the grid as a whole lacks room. -/
def State.outranked (s : State) (die cls : Nat) : Bool :=
  (match s.nextRelanding die with
    | some (_, c) => decide (cls < c.cls) && (s.findRoom die c.fuse c.use (List.range 64)).isNone
    | none => false) ||
  (match s.nextCand die with
    | some c => decide (cls < c.record.cls) && (match c.grid with
      | some g => if g.record.coop then (s.placeCoop g).isNone else (s.findRoom die c.record.fuse c.record.use c.cores).isNone
      | none => (s.findRoom die c.record.fuse c.record.use c.cores).isNone)
    | none => false)

/-- A task crew that may be discarded: Resident and uncommitted (R264). -/
def Crew.discardable (c : Crew) : Bool := c.phase == .resident && c.task.isSome && !c.committed

/-- The event TASK_DISCARD (R264, R312): the crew is stopped, and discarded once it is drained. -/
def execTaskDiscard (cid : Nat) (s : State) : Host.Outcome State Fault Refusal :=
  match s.crewAt cid with
  | none => .next s
  | some c =>
    match c.stop, c.task with
    | none, some _ =>
      if c.discardable && s.outranked c.die c.cls then .next (s.setCrew cid { c with stop := some (.discard none) }) else .next s
    | some (.discard by_), some id =>
      if s.drained cid c then .next ((((s.removeCrew cid c).forgetGrid c.gid).requeue id).ctxDone by_ 1) else .next s
    | _, _ => .next s

/-! Thermal migration. -/

/-- Nothing waits for room on a die (R315). -/
def State.noneWaits (s : State) (die : Nat) : Bool :=
  (s.nextRelanding die).isNone && (s.nextPage die).isNone && (s.nextCand die).isNone

/-- A core that a crew may move to (R315): another core of its die with room, of a fused quad for an `l1_fuse` grid. -/
def State.mayMove (s : State) (c : Crew) (core : Nat) : Bool :=
  decide (core < 64) && decide (core ≠ c.core) && s.noneWaits c.die && (!c.fuse || s.msys.quadFused c.die core)
    && s.hasRoom c.die core c.fuse (c.alloc.use c.slots.length)

/-- The event THERMAL_MIGRATION (R315): the crew is stopped, and moved once it is drained; `elapsed` is the local cycles since
its placement or its last move.  No line of the new core's L1 is older than what the crew has read or written (R130, R134): the lines
there are discarded. -/
def execThermalMigration (cid core elapsed : Nat) (s : State) : Host.Outcome State Fault Refusal :=
  match s.crewAt cid with
  | none => .next s
  | some c =>
    match c.stop with
    | none =>
      if s.msys.bring.migration && decide (s.msys.bring.minResidency ≤ elapsed) && c.phase == .resident && c.gid != 0 && s.mayMove c core
      then .next (s.setCrew cid { c with stop := some (.migrate core) }) else .next s
    | some (.migrate k) =>
      if !(s.drained cid c && (s.teamsOf c).all Team.atRest) then .next s
      else if !s.mayMove c k then .next (s.setCrew cid { c with stop := none })
      else
        let s := (s.foldOps cid).takeOff cid c .resident
        match s.crewAt cid with
        | some c =>
          let s := (s.putOn cid c c.die k .resident).barSweep
          .next (s.setMsys (s.msys.acquire c.die k .pkg))
        | none => .next s
    | _ => .next s

end Sys2Proof.Machine
end

