-- ==== Sys2Proof/Machine/Port.lean ====
section
/-! DEFINITION. The engine port (R120 to R122, R126, R127, R256) and batches (R124, R257 to R259). -/

namespace Sys2Proof.Machine

/-! Command words (R121). -/

/-- The four words of a command. -/
structure Cmd where
  w0 : Nat
  w1 : Nat
  w2 : Nat
  w3 : Nat
  deriving DecidableEq, Repr

def Cmd.op (c : Cmd) : Nat := bitsOf c.w0 60 4
def Cmd.src (c : Cmd) : Nat := bitsOf c.w0 58 2
def Cmd.dst (c : Cmd) : Nat := bitsOf c.w0 56 2
def Cmd.scope (c : Cmd) : Nat := bitsOf c.w0 53 3
def Cmd.mx (c : Cmd) : Bool := c.w0.testBit 52
def Cmd.mxFmt (c : Cmd) : Nat := bitsOf c.w0 48 4
def Cmd.elemLog2 (c : Cmd) : Nat := bitsOf c.w0 44 4
def Cmd.count (c : Cmd) : Nat := bitsOf c.w0 0 32
def Cmd.elem (c : Cmd) : Nat := 2 ^ c.elemLog2

/-- The index array of a gather or scatter lies in scratchpad. -/
def Cmd.idxScratch (c : Cmd) : Bool := c.w3.testBit 63
def Cmd.idxAddr (c : Cmd) : Nat := bitsOf c.w3 0 57

/-- Element bytes of a block of an MX copy (R99); 9 is `e2m1`. -/
def Cmd.mxBytes (c : Cmd) : Nat := if c.mxFmt = 9 then 16 else 32

/-- Offsets of the scales from the element bases. -/
def Cmd.srcScale (c : Cmd) : Int := toSigned 32 (bitsOf c.w3 32 32)
def Cmd.dstScale (c : Cmd) : Int := toSigned 32 (bitsOf c.w3 0 32)

/-- Bytes that a copy writes, scales apart. -/
def Cmd.bytes (c : Cmd) : Nat := if c.mx then c.count * c.mxBytes else c.count

/-- Bytes of a flash stack. -/
def stackBytes : Nat := 2 ^ 27 * 16384

/-- The source of a copy, a gather or a scatter as an address: a flash page stands as its first byte, stack by stack. -/
def Cmd.srcAddr (c : Cmd) : Nat := if c.src = 2 then c.w1 * 16384 else c.w1

/-! The checks at go (R122). -/

/-- Reserved bits of an address word are zero (R121). -/
def addrOk (space w : Nat) : Bool :=
  match space with
  | 0 => decide (w < 2 ^ 57)
  | 1 => decide (w < 2 ^ 19)
  | _ => decide (w < 2 ^ 30)

/-- A run of flash bytes from `base + off` on stays in the stack of `base`.  R122 names a range that passes page 2^27 − 1; one that reaches below
page 0, as the scales of an MX copy may, is treated in the same way, which is the model's choice (log 90). -/
def flashOk (base : Nat) (off : Int) (n : Nat) : Bool :=
  let lo : Int := (base % stackBytes : Nat) + off
  n == 0 || (decide (0 ≤ lo) && decide (lo + n ≤ stackBytes))

/-- The index word of a gather or scatter. -/
def Cmd.idxOk (c : Cmd) : Bool := if c.idxScratch then bitsOf c.w3 19 44 == 0 else bitsOf c.w3 57 6 == 0

def Cmd.copyOk (c : Cmd) : Bool :=
  addrOk c.src c.w1 && addrOk c.dst c.w2 && (c.mx || c.w3 == 0)
    && (c.src != 2 || (flashOk c.srcAddr 0 c.bytes && (!c.mx || flashOk c.srcAddr c.srcScale c.count)))

/-- No reserved field or value, and none of the other cases of `ILLEGAL_OP` (R122). -/
def Cmd.legal (c : Cmd) (record : Bool) : Bool :=
  decide (c.op < 5) && decide (c.src < 3) && decide (c.dst < 2) && decide (c.scope < 6) && bitsOf c.w0 32 12 == 0
    && (if c.mx then c.op == 0 && decide (5 ≤ c.mxFmt) && decide (c.mxFmt ≤ 9) else c.mxFmt == 0)
    && (if c.op = 1 ∨ c.op = 2 then decide (c.elemLog2 ≤ 12) else c.elemLog2 == 0)
    && (c.src != 2 || decide (c.op < 2))
    && (match c.op with
        | 0 => c.copyOk
        | 1 | 2 => addrOk c.src c.w1 && addrOk c.dst c.w2 && c.idxOk
        | 3 => !record && decide (c.w1 < 2 ^ 57) && c.w1 % 32 == 0 && c.w2 == 0 && c.w3 == 0
        | _ => !record && c.dst == 0 && decide (4 ≤ c.scope) && decide (c.count ≤ 65536) && decide (c.w2 < 2 ^ 20) && addrOk c.src c.w1)

/-- The scale byte of some block lies within the block's own element bytes (R99). -/
def scaleInside (eb count : Nat) (off : Int) : Bool :=
  if off < 0 then false
  else
    let q := off.toNat / (eb - 1)
    decide (q < count) || (off.toNat % (eb - 1) == 0 && decide (1 ≤ q) && decide (q - 1 < count))

/-- An MX copy that breaks R99. -/
def Cmd.misaligned (c : Cmd) : Bool :=
  c.mx && c.count != 0 && (c.srcAddr % c.mxBytes != 0 || c.w2 % c.mxBytes != 0
    || scaleInside c.mxBytes c.count c.srcScale || scaleInside c.mxBytes c.count c.dstScale)

/-- Ranges whose place is known at go: space, write, first byte, length (R126). -/
def Cmd.ranges (c : Cmd) : List (Nat × Bool × Int × Nat) :=
  let index := (boolNat c.idxScratch, false, (c.idxAddr : Int), 4 * c.count)
  match c.op with
  | 0 =>
    [(c.src, false, (c.w1 : Int), c.bytes), (c.dst, true, (c.w2 : Int), c.bytes)] ++
      (if c.mx then [(c.src, false, (c.w1 : Int) + c.srcScale, c.count), (c.dst, true, (c.w2 : Int) + c.dstScale, c.count)] else [])
  | 1 => [index, (c.dst, true, (c.w2 : Int), c.count * c.elem)]
  | 2 => [(c.src, false, (c.w1 : Int), c.count * c.elem), index]
  | 3 => [(0, false, (c.w1 : Int), 32 * c.count)]
  | _ => [(c.src, false, (c.w1 : Int), c.count)]

/-- The first scratchpad range outside an allocation (R122). -/
def Cmd.outside (c : Cmd) (alloc : Nat) : Option Nat :=
  (c.ranges.find? (fun r => r.1 == 1 && r.2.2.2 != 0 && !(decide (0 ≤ r.2.2.1) && decide (r.2.2.1 + (r.2.2.2 : Int) ≤ (alloc : Int))))).map
    (fun r => truncBits r.2.2.1 32)

/-- The ranges that the operation registers: flash ranges never are (R126).  A range of no byte registers no entry and needs none (DESIGN CHOICE,
log 77: the spec does not say). -/
def Cmd.locks (c : Cmd) : List (Nat × Bool × Int × Nat) := c.ranges.filter (fun r => r.1 != 2 && r.2.2.2 != 0)

/-! `stp` (R120, R256). -/

def Port.word (p : Port) (k : Nat) (v : Dword) : Port :=
  let p := match k with
    | 0 => { p with w0 := v }
    | 1 => { p with w1 := v }
    | 2 => { p with w2 := v }
    | _ => { p with w3 := v }
  { p with written := p.written ||| BitVec.ofNat 4 (2 ^ k) }

/-- The staged command is emptied (R120). -/
def Team.dropPort (t : Team) : Team := { t with port := { t.port with written := 0 } }

def Port.cmd (p : Port) : Cmd := ⟨p.w0.toNat, p.w1.toNat, p.w2.toNat, p.w3.toNat⟩

/-- Entries of a core's range-lock table in use (R126), and those that open batches hold (R127). -/
def State.locksOn (s : State) (die core : Nat) : List RangeLock := s.msys.locks.filter (fun l => l.die == die && l.core == core)

def State.openLocks (s : State) (die core : Nat) : List RangeLock :=
  (s.locksOn die core).filter (fun l => s.ops.any (fun o => o.id == l.op && o.batch == none))

/-- Enter the operation in the open batch, register its ranges and start it (R120, R126).  A range longer than the 32 bits of an entry's length is
locked whole (DESIGN CHOICE, log 77). -/
def State.startOp (s : State) (c : Issuer) (cmd : Cmd) (chain : Bool) : State :=
  let prev := ((s.ops.filter (fun o => o.crew == c.cid && o.team == c.team.index && o.batch == none)).getLast?).map EngineOp.id
  let (id, s) := s.newId
  let o : EngineOp :=
    { id := id, crew := c.cid, team := c.team.index, die := c.ref.die, core := c.ref.core, slot := c.ref.slot, world := c.crew.world
      level := c.team.level, batch := none, number := c.team.batches.last + 1, prev := if chain then prev else none
      w0 := BitVec.ofNat 64 cmd.w0, w1 := BitVec.ofNat 64 cmd.w1, w2 := BitVec.ofNat 64 cmd.w2, w3 := BitVec.ofNat 64 cmd.w3
      phase := if cmd.count = 0 then .ended else .running, record := 0, sub := none, next := 0, redo := [], missing := [], tail := none
      fails := [], walked := [], xfer := none, failing := none, done := 0, failed := false, payload := [] }
  let locks := cmd.locks.map (fun r => (⟨c.ref.die, c.ref.core, c.ref.slot, id, r.1 == 1, r.2.1,
    if r.1 = 1 then r.2.2.1.toNat else truncBits r.2.2.1 57, r.2.2.2⟩ : RangeLock))
  let s := { s with ops := s.ops ++ [o] }
  let t := { c.team.dropPort with batches := c.team.batches.widen (c.team.batches.last + 1) cmd.scope }
  (s.setMsys { s.msys with locks := s.msys.locks ++ locks }).setTeam c.ref (t.advance 1 none)

/-- A go that an uncommitted task crew may not give (R264). -/
def Issuer.goForbidden (c : Issuer) (cmd : Cmd) : Bool := c.crew.task.isSome && !c.crew.committed && (cmd.dst == 0 || decide (3 ≤ cmd.op))

/-- The go word (R120, R122, R127).  Of several of R122's cases the first in this order is raised, and the `c.tva` of `MISALIGNED` is the
destination word w2: the spec gives neither, and both are the model's choice (log 90).  The operation starts behind the team's accesses, which are performed first (R139). -/
def State.go (s : State) (c : Issuer) (v : Nat) : State :=
  let empty := { c with team := c.team.dropPort }
  let cmd := c.team.port.cmd
  let need := cmd.locks.length
  if c.team.port.written ≠ 15 ∨ 2 ≤ v then s.raise empty .portSequence 4 0 0
  else if !cmd.legal false || c.goForbidden cmd then s.illegal empty
  else if cmd.misaligned then s.raise empty .misaligned 0 cmd.w2 0
  else match cmd.outside c.crew.alloc.scratch with
    | some off => s.raise empty .worldViolation 0 off 0
    | none =>
      if 32 < (s.openLocks c.ref.die c.ref.core).length + need then s.raise empty .portSequence 4 0 0
      else if 32 < (s.locksOn c.ref.die c.ref.core).length + need then s.stall c (.rangeLock need)
      else if !c.team.late.isEmpty then s.stall c .accesses
      else s.startOp c cmd (v == 1)

/-- Write a pair to port index `k`. -/
def State.portWrite (s : State) (c : Issuer) (k v : Nat) : State :=
  if k = 4 then s.go c v
  else if 4 < k then s.illegal c
  else if c.team.port.written.getLsbD k then s.raise { c with team := c.team.dropPort } .portSequence k 0 0
  else s.setTeam c.ref ({ c.team with port := c.team.port.word k (BitVec.ofNat 64 v) }.advance 1 none)

/-- `stp` (R120, R256): a trap empties the staged command, but at an index above 4. -/
def execStp (k : BitVec 8) (a : Reg) (s : State) : Host.Outcome State Fault Refusal :=
  s.issue fun c =>
    if evenReg a then s.portWrite c k.toNat (c.team.s64 s.rf a.toNat)
    else s.illegal (if 4 < k.toNat then c else { c with team := c.team.dropPort })

/-- The instruction at which a team stands. -/
def Team.current (t : Team) : Option Instr :=
  match t.clause with
  | some k => (decodeWords (k.words.drop k.pos)).toOption.map Prod.fst
  | none => none

/-- The event ENGINE_OPERATION_START (R126, R127): a go that waited is carried out once the table has room.  One that open batches of other
teams have since left too little room for goes on waiting (DESIGN CHOICE, log 78: R127 speaks of the go as it issues). -/
def execEngineOperationStart (r : TeamRef) (s : State) : Host.Outcome State Fault Refusal :=
  match s.teamAt r, s.issuerAt r with
  | some t, some c =>
    match t.wait, t.current with
    | some (.rangeLock need), some (.stp _ a) =>
      if c.crew.phase = .resident ∧ c.crew.stop = none ∧ (s.locksOn r.die r.core).length + need ≤ 32 then .next (s.go c (c.team.s64 s.rf a.toNat)) else .next s
    | _, _ => .next s
  | _, _ => .next s

/-! Batches (R257 to R259). -/

/-- `bclose` (R257). -/
def execBclose (d : Reg) (s : State) : Host.Outcome State Fault Refusal :=
  s.issue fun c =>
    if c.team.batches.last + 1 = 2 ^ 32 then s.illegal c
    else if 64 ≤ (s.openBatches c.cid c.team.index).length then s.stall c .bclose
    else
      let (n, s) := (s.setTeam c.ref c.team).closeBatch c.cid c.team.index c.team
      match s.teamAt c.ref with
      | some t => s.setTeam c.ref ((t.writeS d.toNat (BitVec.ofNat 32 n)).advance 1 none)
      | none => s

/-- The widest scope of the batches numbered `n` or less (R139). -/
def BatchLog.scopeTo (b : BatchLog) (n : Nat) : Scope :=
  match Scope.ofCode (BitVec.ofNat 3 (b.scopeCode n)) with
  | some sc => sc
  | none => .sys

/-- `bwait` (R258); its return is an acquire (R139). -/
def execBwait (a : Reg) (s : State) : Host.Outcome State Fault Refusal :=
  s.issue fun c =>
    let n := (c.team.s s.rf a.toNat).toNat
    if c.team.batches.last < n then s.illegal c
    else if (s.openBatches c.cid c.team.index).any (fun b => decide (b ≤ n)) then s.stall c (.batch n)
    else (s.setMsys (c.acquire (c.team.batches.scopeTo n) s.msys)).setTeam c.ref (c.team.advance 1 none)

/-- Bytes done of a closed batch (R259). -/
def State.batchBytes (s : State) (cid : Nat) (t : Team) (n : Nat) : Nat :=
  match t.batches.counts.find? (fun p => p.number == n) with
  | some p => p.bytes + ((s.ops.filter (fun o => o.crew == cid && o.team == t.index && o.batch == some n)).map EngineOp.done).foldl (· + ·) 0
  | none => 2 ^ 64 - 1

/-- `bcnt` (R259). -/
def execBcnt (d a : Reg) (s : State) : Host.Outcome State Fault Refusal :=
  s.issue fun c =>
    let n := (c.team.s s.rf a.toNat).toNat
    if !evenReg d || n == 0 || decide (c.team.batches.last < n) then s.illegal c
    else s.setTeam c.ref ((c.team.writeS64 d.toNat (s.batchBytes c.cid c.team n)).advance 1 none)

end Sys2Proof.Machine
end

