-- ==== Sys2Proof/Machine/Engine.lean ====
section
/-! DEFINITION. Engines as they run: sectors and elements, missing runs, stops, resumes and ends (R123 to R125, R332, R336). -/

namespace Sys2Proof.Machine

/-! Operations. -/

def EngineOp.words (o : EngineOp) : Cmd := ⟨o.w0.toNat, o.w1.toNat, o.w2.toNat, o.w3.toNat⟩

/-- The command that runs: the record of a chain once it is read, else the operation's own. -/
def EngineOp.cmd (o : EngineOp) : Cmd :=
  match o.sub with
  | some (a, b, c, d) => ⟨a.toNat, b.toNat, c.toNat, d.toNat⟩
  | none => o.words

/-- The record of a chain is still to be read. -/
def EngineOp.reading (o : EngineOp) : Bool := o.words.op == 3 && o.sub.isNone

def State.opAt (s : State) (id : Nat) : Option EngineOp := s.ops.find? (fun o => o.id == id)
def State.setOp (s : State) (o : EngineOp) : State := { s with ops := s.ops.map (fun x => if x.id = o.id then o else x) }

/-- Units of a command: sectors of 256-byte blocks of the destination, elements, or 256-byte parts of a send's source (R123, R125). -/
def Cmd.units (c : Cmd) : Nat :=
  match c.op with
  | 0 => if c.bytes = 0 then 0 else (c.w2 + c.bytes - 1) / 256 - c.w2 / 256 + 1
  | 4 => (c.count + 255) / 256
  | _ => c.count

/-- Offset and length of unit `u` of a copy or a send within its bytes.  The sectors of a send are the parts of 256 bytes counted from the start
of its source (DESIGN CHOICE, log 80: R123 names none, and R125 cuts by a destination that a send has not). -/
def Cmd.part (c : Cmd) (u : Nat) : Nat × Nat :=
  if c.op = 4 then (256 * u, Nat.min 256 (c.count - 256 * u))
  else
    let lo := Nat.max c.w2 ((c.w2 / 256 + u) * 256)
    let hi := Nat.min (c.w2 + c.bytes) ((c.w2 / 256 + u + 1) * 256)
    (lo - c.w2, hi - lo)

/-! Accesses of an engine. -/

/-- What checks of an operation answer, with the operation and the memory system as the translations made so far leave them. -/
abbrev EngCheck (α : Type) := Except EngFail α × EngineOp × MemSys

/-- Go on with what a check has answered. -/
def EngCheck.andThen {α β : Type} (x : EngCheck α) (f : α → EngineOp → MemSys → EngCheck β) : EngCheck β :=
  match x with
  | (.ok a, o, m) => f a o m
  | (.error e, o, m) => (.error e, o, m)

/-- The accesses of an operation (R325). -/
def EngineOp.access (o : EngineOp) (write : Bool) : Access := ⟨o.die, o.world, o.level, write, false, false, none⟩

/-- Translate an engine's address; a line that one aligned engine copy writes whole may be poisoned, since that write clears the poison
(R326, R354). -/
def MemSys.engXlate (m : MemSys) (free : Nat) (a : Access) (heal : Bool) (va : Nat) : Xlate :=
  match m.translate free a va with
  | .fail 11 =>
    match heal, m.leafFor free a.die a.core a.world va with
    | true, .ok (leaf, lvl) => (m.setPoison (lineOf (m.norm (leafPa leaf + va % pageBytes lvl))) false).translate free a va
    | _, _ => .fail 11
  | x => x

/-- The page of an address lies in the window of a fenced module: an engine operation that reaches it ends failed (R357). -/
def MemSys.fencedPage (m : MemSys) (free die world va : Nat) : Bool :=
  match m.leafFor free die none world va with
  | .ok (leaf, lvl) => m.fencedAt (leafPa leaf + va % pageBytes lvl)
  | .error _ => false

/-- What a page that has been translated in this start may still meet at an access: a fence, a link that is down, or poison (R326, R354, R357). -/
def MemSys.engRecheck (m : MemSys) (write heal : Bool) (va pa : Nat) : Option EngFail :=
  if m.fencedAt pa then some (.stop 4 9 write va)
  else if (if heal then inHost pa && !(m.linkUp && m.hostOk) else m.broken pa) then some (.miss write 11 va)
  else none

/-- A piece of a line, `n` bytes at `va`: its page is translated once in a start or resume (R336), and a destination that is held ends the
operation (R51). -/
def EngineOp.piece (o : EngineOp) (m : MemSys) (free : Nat) (write heal : Bool) (va n : Nat) : EngCheck EngLoc :=
  let found := fun (pa : Nat) (leaf : Dword) (o : EngineOp) (m : MemSys) =>
    if write && m.isHeld pa then (.error (.stop 4 13 true va), o, m) else (.ok (⟨0, pa, va, n, leaf, heal⟩ : EngLoc), o, m)
  match o.walked.find? (fun w => w.page == va / 4096 && w.write == write) with
  | some w =>
    let pa := leafPa w.leaf + va % pageBytes w.level
    match m.engRecheck write heal va pa with
    | some e => (.error e, o, m)
    | none => found pa w.leaf o m
  | none =>
    match m.engXlate free (o.access write) heal va with
    | .ok pa leaf lvl => found pa leaf { o with walked := ⟨va / 4096, write, leaf, lvl⟩ :: o.walked } (m.tlbFill (o.access write) va leaf lvl)
    | .fail cause => (.error (if cause = 9 ∧ m.fencedPage free o.die o.world va = true then .stop 4 9 write va else .miss write cause va), o, m)
    | .world => (.error (.stop 4 7 write va), o, m)
    | .ats => (.error (.ats write va), o, m)

/-- The pieces of a run of bytes; `whole` where a line that lies in it whole is written by an aligned copy (R326). -/
def EngineOp.pieces (o : EngineOp) (m : MemSys) (free : Nat) (write whole : Bool) : List (Nat × Nat) → EngCheck (List EngLoc)
  | [] => (.ok [], o, m)
  | (va, n) :: ps =>
    (o.piece m free write (whole && n == 128) va n).andThen fun l o m =>
      (o.pieces m (free + 1) write whole ps).andThen fun ls o m => (.ok (l :: ls), o, m)

/-- The pages of a run of flash bytes: being written, uncorrectable, or read (R125, R350). -/
def State.flashCheck (s : State) (k addr len : Nat) : Option EngFail :=
  let pages := (List.range ((addr + len - 1) / 16384 - addr / 16384 + 1)).map (fun i => addr / 16384 + i)
  if len = 0 then none
  else if pages.any (fun p => s.flashBusy.contains (flashBlock p)) then some .busy
  else (pages.find? (fun p => Config.flashFails (freeAt s k) p)).map (fun p => .stop 8 0 false p)

/-- Where a run of bytes of a space lies, checked. -/
def State.engPlaces (s : State) (k : Nat) (write whole : Bool) (space addr len : Nat) (o : EngineOp) (m : MemSys) : EngCheck (List EngLoc) :=
  if len = 0 then (.ok [], o, m)
  else match space with
  | 0 => o.pieces m (freeAt s k) write whole (linePieces (len + 1) (addr % 2 ^ 57) len)
  | 1 => (.ok [⟨1, addr, addr, len, 0, false⟩], o, m)
  | _ =>
    match s.flashCheck k addr len with
    | some e => (.error e, o, m)
    | none => (.ok [⟨2, addr, addr, len, 0, false⟩], o, m)

/-- Cut a place at the multiples of `unit`; `fuel` is at least the number of parts. -/
def cutAt (unit : Nat) : Nat → EngLoc → List EngLoc
  | 0, _ => []
  | fuel + 1, l =>
    if l.len = 0 then []
    else
      let n := Nat.min l.len (unit - l.addr % unit)
      { l with len := n } :: cutAt unit fuel { l with addr := l.addr + n, va := l.va + n, len := l.len - n }

/-- The parts of places that an engine reads or writes at once: aligned units of 8 bytes (R129). -/
def cutUnits (ls : List EngLoc) : List (List EngLoc) := ls.flatMap (fun l => (cutAt 8 (l.len + 1) l).map (fun x => [x]))

/-! Performing. -/

/-- The bytes at a place: those of a memory-side line with a number of their own (R118). -/
def State.engRead (s : State) (o : EngineOp) (l : EngLoc) : List Byte × State :=
  match l.space with
  | 0 => (s.msys.readN l.addr l.len, s.setMsys (s.msys.number (leafMsd l.leaf) (s.msys.norm l.addr)))
  | 1 => (match s.crewAt o.crew with
    | some c => Sparse.run 0 c.scratch l.addr l.len
    | none => leBytes 0 l.len, s)
  | _ => (Sparse.run 0 s.flash l.addr l.len, s)

/-- Write global bytes: a copy in the issuing core's L1 is updated (R139), and the poison of a line goes with the last bytes of a copy that
writes it whole (R326). -/
def MemSys.engPut (m : MemSys) (o : EngineOp) (l : EngLoc) (bs : List Byte) : MemSys :=
  let pa := m.norm l.addr
  let m := if leafMsd l.leaf then m.number true pa
    else if m.fixedIn pa bs.length then m.l1Drop (m.l1Of o.die o.core pa) (lineOf pa) else m.l1Store (m.l1Of o.die o.core pa) pa bs
  let m := m.softWrite o.world pa bs
  if l.heal && (pa + l.len) % 128 == 0 then m.setPoison (lineOf pa) false else m

/-- Write bytes at a place. -/
def State.engWrite (s : State) (o : EngineOp) (l : EngLoc) (bs : List Byte) : State :=
  if l.space = 0 then s.setMsys (s.msys.engPut o l bs)
  else match s.crewAt o.crew with
    | some c => s.setCrew o.crew { c with scratch := Sparse.setRun 0 c.scratch l.addr bs }
    | none => s

/-- Why a place that was checked when its sector began can no longer be accessed. -/
def MemSys.engLate (m : MemSys) (write : Bool) (l : EngLoc) : Option EngFail :=
  if l.space ≠ 0 then none
  else if write && m.isHeld l.addr then some (.stop 4 13 true l.va)
  else m.engRecheck write l.heal l.va l.addr

/-- Read a unit, or write it: places that are accessed at once. -/
def State.readUnit (s : State) (o : EngineOp) : List EngLoc → List Byte × State
  | [] => ([], s)
  | l :: ls =>
    let (bs, s) := s.engRead o l
    let (rest, s) := s.readUnit o ls
    (bs ++ rest, s)

def State.writeUnit (s : State) (o : EngineOp) : List EngLoc → List Byte → State
  | [], _ => s
  | l :: ls, bs => (s.engWrite o l (bs.take l.len)).writeUnit o ls (bs.drop l.len)

def unitBytes (ls : List EngLoc) : Nat := (ls.map EngLoc.len).foldl (· + ·) 0

/-- Units that a sector has still to read or write. -/
def Xfer.left (x : Xfer) : Nat := x.reads.length + x.writes.length

/-- The next unit of a sector: units are read, and then written (R125, R129). -/
def State.xferUnit (s : State) (o : EngineOp) (x : Xfer) : Except EngFail (State × Xfer) :=
  match x.reads with
  | ls :: rest =>
    match ls.findSome? (s.msys.engLate false) with
    | some e => .error e
    | none =>
      let (bs, s) := s.readUnit o ls
      .ok (s, { x with reads := rest, got := x.got ++ bs })
  | [] =>
    match x.writes with
    | ls :: rest =>
      match ls.findSome? (s.msys.engLate true) with
      | some e => .error e
      | none => .ok (s.writeUnit o ls x.got, { x with writes := rest, got := x.got.drop (unitBytes ls) })
    | [] => .ok (s, x)

/-- The next timing choice (log 4). -/
def State.choose (s : State) : Bool × State := (s.late.headD false, { s with late := s.late.drop 1 })

/-- The sector has flash to read: its pages are sensed at once, so that it never sees two states of one (R55, R350). -/
def Xfer.senses (x : Xfer) : Bool := x.reads.any (fun ls => ls.any (fun l => l.space == 2))

/-- Units of a sector, one after another, up to one after which a timing choice says that the rest comes later. -/
def State.xferGo (s : State) (o : EngineOp) : Nat → Xfer → Except EngFail Xfer × State
  | 0, x => (.ok x, s)
  | n + 1, x =>
    match s.xferUnit o x with
    | .error e => (.error e, s)
    | .ok (s, x) =>
      match if x.senses then (false, s) else s.choose with
      | (true, s) => (.ok x, s)
      | (false, s) => s.xferGo o n x

/-! Sectors and elements. -/

/-- The crew's scratchpad allocation. -/
def State.opAlloc (s : State) (o : EngineOp) : Nat := ((s.crewAt o.crew).map (fun c => c.alloc.scratch)).getD 0

/-- A run of bytes moved from one place to another. -/
def State.moveXfer (s : State) (whole : Bool) (ss sa ds da len : Nat) (o : EngineOp) (m : MemSys) : EngCheck Xfer :=
  (s.engPlaces 45000 false false ss sa len o m).andThen fun rs o m =>
    (s.engPlaces 45512 true whole ds da len o m).andThen fun ws o m => (.ok ⟨cutUnits rs, [], cutUnits ws, len⟩, o, m)

/-- Blocks with their scales: element bytes cut into blocks of `unit` bytes, and one scale byte for each (R101). -/
def mxUnits (unit : Nat) (es ks : List EngLoc) : List (List EngLoc) :=
  List.zipWith (fun e k => [e, k]) (es.flatMap (fun l => cutAt unit (l.len + 1) l)) (ks.flatMap (fun l => cutAt 1 (l.len + 1) l))

/-- A sector of an MX copy: each block is read and written at once with its scale (R101).  Its done bytes are those of its elements and its
scales (DESIGN CHOICE, log 40: the spec does not say whether scales count). -/
def State.mxXfer (s : State) (c : Cmd) (off len : Nat) (o : EngineOp) (m : MemSys) : EngCheck Xfer :=
  let b := off / c.mxBytes
  let n := len / c.mxBytes
  (s.engPlaces 45000 false false c.src (c.srcAddr + off) len o m).andThen fun es o m =>
    (s.engPlaces 45256 false false c.src (truncBits ((c.srcAddr : Int) + c.srcScale + b) 57) n o m).andThen fun ks o m =>
      (s.engPlaces 45512 true (c.w2 % 128 == 0) c.dst (c.w2 + off) len o m).andThen fun es' o m =>
        (s.engPlaces 45768 true false c.dst (truncBits ((c.w2 : Int) + c.dstScale + b) 57) n o m).andThen fun ks' o m =>
          (.ok ⟨mxUnits c.mxBytes es ks, [], mxUnits c.mxBytes es' ks', len + n⟩, o, m)

/-- The index of element `i` of a gather or scatter, read at once, and where it lies. -/
def State.engIndex (s : State) (c : Cmd) (i : Nat) (o : EngineOp) (m : MemSys) : EngCheck (Nat × List EngLoc) :=
  (s.engPlaces 46000 false false (boolNat c.idxScratch) (c.idxAddr + 4 * i) 4 o m).andThen fun ls o m =>
    let (bs, s) := (s.setMsys m).readUnit o ls
    (.ok (leNat bs, ls), o, s.msys)

/-- An element outside the crew's allocation or beyond its flash stack (R122, R125). -/
def Cmd.elemOutside (c : Cmd) (space base x alloc : Nat) : Option Nat :=
  match space with
  | 1 => if alloc < base + x * c.elem + c.elem then some (base + x * c.elem) else none
  | 2 => if flashOk base (x * c.elem : Nat) c.elem then none else some ((base + x * c.elem) / 16384)
  | _ => none

/-- The index of an element as it stands, for what is decided without an access of the operation. -/
def State.peekIndex (s : State) (o : EngineOp) (c : Cmd) (i : Nat) : Option Nat :=
  match s.engIndex c i o s.msys with
  | (.ok x, _, _) => some x.1
  | (.error _, _, _) => none

/-- Element `i` of a gather, whose index is `x`. -/
def State.gatherXfer (s : State) (c : Cmd) (i x : Nat) (o : EngineOp) (m : MemSys) : EngCheck Xfer :=
  match c.elemOutside c.src c.srcAddr x (s.opAlloc o) with
  | some addr => (.error (.stop 4 15 false addr), o, m)
  | none => s.moveXfer false c.src (c.srcAddr + x * c.elem) c.dst (c.w2 + i * c.elem) c.elem o m

/-- Whether an element after `i` that is already done names the same destination (R121: the highest wins). -/
def State.overwritten (s : State) (o : EngineOp) (c : Cmd) (i x : Nat) : Bool :=
  !o.redo.isEmpty && (List.range o.next).any (fun j => decide (i < j) && !o.redo.contains j
    && !o.missing.any (fun r => decide (r.1 ≤ j) && decide (j < r.1 + r.2)) && s.peekIndex o c j == some x)

/-- Element `i` of a scatter, whose index is `x`. -/
def State.scatterXfer (s : State) (c : Cmd) (i x : Nat) (o : EngineOp) (m : MemSys) : EngCheck Xfer :=
  match c.elemOutside c.dst c.w2 x (s.opAlloc o) with
  | some addr => (.error (.stop 4 15 true addr), o, m)
  | none =>
    if s.overwritten o c i x then (.ok ⟨[], [], [], c.elem⟩, o, m)
    else s.moveXfer false c.src (c.srcAddr + i * c.elem) c.dst (c.w2 + x * c.elem) c.elem o m

/-- What unit `u` has to read and to write; `x` is the index of an element of a gather or scatter. -/
def State.unitXfer (s : State) (u x : Nat) (o : EngineOp) (m : MemSys) : EngCheck Xfer :=
  let c := o.cmd
  let (off, len) := c.part u
  match c.op with
  | 0 => if c.mx then s.mxXfer c off len o m else s.moveXfer (c.w2 % 128 == 0) c.src (c.srcAddr + off) c.dst (c.w2 + off) len o m
  | 1 => s.gatherXfer c u x o m
  | 2 => s.scatterXfer c u x o m
  | _ => (s.engPlaces 45000 false false c.src (c.srcAddr + off) len o m).andThen fun rs o m => (.ok ⟨cutUnits rs, [], [], len⟩, o, m)

/-- Global addresses of a transfer and of its index with their leaves, one for each region of 64 KiB (R334). -/
def Xfer.regions (x : Xfer) (index : List EngLoc) : List (Nat × Dword) :=
  ((index ++ x.reads.flatten ++ x.writes.flatten).filter (fun l => l.space == 0 && leafCnt l.leaf)).foldl
    (fun rs l => if rs.any (fun r => r.1 / 65536 == l.va / 65536) then rs else rs ++ [(l.va, l.leaf)]) []

/-- A sector counts once in each region that it touches (R334). -/
def MemSys.countXfer (m : MemSys) (o : EngineOp) (x : Xfer) (index : List EngLoc) : MemSys :=
  (x.regions index).foldl (fun m r => m.count o.die o.world o.world r.1 r.2) m

/-! Missing runs (R125). -/

/-- Add units to the runs. -/
def addRun (u n : Nat) : List (Nat × Nat) → List (Nat × Nat)
  | [] => [(u, n)]
  | [(a, k)] => if a + k = u then [(a, k + n)] else [(a, k), (u, n)]
  | r :: rs => r :: addRun u n rs

/-- Unit `u` would begin a run. -/
def beginsRun (u : Nat) (runs : List (Nat × Nat)) : Bool :=
  match runs.getLast? with
  | some (a, k) => a + k != u
  | none => true

/-- Units in ascending order that the operation has yet to perform. -/
def EngineOp.head (o : EngineOp) : Option Nat :=
  match o.redo with
  | u :: _ => some u
  | [] => if o.next < o.cmd.units then some o.next else none

/-- The unit at the head has been taken. -/
def EngineOp.pop (o : EngineOp) : EngineOp :=
  match o.redo with
  | _ :: us => { o with redo := us }
  | [] => { o with next := o.next + 1 }

/-- The unit at the head becomes missing; where a 17th run would begin, the operation issues nothing more (R125). -/
def EngineOp.lose (o : EngineOp) (u : Nat) : EngineOp :=
  if o.missing.length = 16 ∧ beginsRun u o.missing = true then
    let p := o.pop
    let rest := p.redo.foldl (fun rs v => addRun v 1 rs) (addRun u 1 o.missing)
    let rest := if p.next < o.cmd.units then addRun p.next (o.cmd.units - p.next) rest else rest
    { o with missing := rest, redo := [], next := o.cmd.units, tail := some (u + 1) }
  else { o.pop with missing := addRun u 1 o.missing }

/-- The aux field of a record (R330). -/
def EngineOp.aux (o : EngineOp) : Nat :=
  o.number % 2 ^ 32 + 2 ^ 32 * ((o.missing.headD (0, 0)).1 % 65536) + 2 ^ 48 * Nat.min 16 o.missing.length

/-- The record of an operation (R336). -/
def EngineOp.post (o : EngineOp) (code cause : Nat) (write : Bool) (addr : Nat) (assisted : Bool) : FaultPost :=
  ⟨code, cause, write, false, o.world, o.world, o.die, o.core, o.slot, 0, addr, o.aux, assisted⟩

/-- The mode in which the failure of an operation arose (R365). -/
def EngineOp.mode (o : EngineOp) (m : MemSys) : Bool :=
  match o.failing with
  | some f => f.2
  | none => m.assistFaults

/-! Ends and replies (R124, R332). -/

/-- The operations of a batch. -/
def State.batchOps (s : State) (cid team : Nat) (batch : Option Nat) : List EngineOp :=
  s.ops.filter (fun o => o.crew == cid && o.team == team && o.batch == batch)

/-- Missing units, one by one. -/
def EngineOp.missingUnits (o : EngineOp) : List Nat := o.missing.flatMap (fun r => (List.range r.2).map (fun k => r.1 + k))

/-- Bytes `lo … lo + n − 1` touch a 4 KiB page. -/
def onPage (page lo n : Nat) : Bool := decide (lo % 2 ^ 57 / 4096 ≤ page) && decide (page ≤ (lo % 2 ^ 57 + n - 1) / 4096)

/-- Global runs of a unit, as source and as destination; those that an index places only where it is known. -/
def EngineOp.runsAt (o : EngineOp) (u : Nat) (x : Option Nat) : List (Nat × Nat) × List (Nat × Nat) :=
  let c := o.cmd
  if o.reading then ([(c.w1 + 32 * o.record, 32)], [])
  else
    let only := fun (space addr n : Nat) => if space = 0 then [(addr, n)] else []
    match c.op with
    | 1 | 2 =>
      let idx := if c.idxScratch then [] else [(c.idxAddr + 4 * u, 4)]
      let far := fun (space base : Nat) => match x with
        | some x => only space (base + x * c.elem) c.elem
        | none => []
      if c.op = 1 then (idx ++ far c.src c.srcAddr, only c.dst (c.w2 + u * c.elem) c.elem)
      else (idx ++ only c.src (c.srcAddr + u * c.elem) c.elem, far c.dst c.w2)
    | _ =>
      let (off, len) := c.part u
      let mx := fun (space : Nat) (base : Int) => if c.mx then only space (truncBits (base + (off / c.mxBytes : Nat)) 57) (len / c.mxBytes) else []
      (only c.src (c.srcAddr + off) len ++ mx c.src (c.srcAddr + c.srcScale),
       (if c.op = 4 then [] else only c.dst (c.w2 + off) len) ++ mx c.dst (c.w2 + c.dstScale))

/-- Global runs of a unit, with its index as it stands. -/
def State.unitRuns (s : State) (o : EngineOp) (u : Nat) : List (Nat × Nat) × List (Nat × Nat) := o.runsAt u (s.peekIndex o o.cmd u)

/-- A missing unit is covered by a record answered with end (R332). -/
def State.endCovers (s : State) (o : EngineOp) (u : Nat) : Bool :=
  !o.tail.any (fun t => decide (t ≤ u)) && o.fails.any (fun f => f.answer == some false &&
    ((if f.write then (s.unitRuns o u).2 else (s.unitRuns o u).1).any (fun r => onPage f.page r.1 r.2)))

/-- The missing units that no end covers. -/
def State.uncovered (s : State) (o : EngineOp) : List Nat := o.missingUnits.filter (fun u => !s.endCovers o u)

/-- The operation ends failed, with nothing left to move. -/
def EngineOp.endFailed (o : EngineOp) : EngineOp :=
  { o with phase := .ended, missing := [], tail := none, fails := [], walked := [], xfer := none, failing := none, failed := true }

/-- A stopped operation after the replies to its batch (R332). -/
def State.afterReplies (s : State) (resume : Bool) (o : EngineOp) : EngineOp :=
  let us := s.uncovered o
  if resume && !us.isEmpty then
    { o with phase := .running, redo := if o.reading then [] else us, missing := [], tail := none, fails := [], walked := [], xfer := none, failing := none
             failed := o.failed || decide (us.length < o.missingUnits.length) }
  else o.endFailed

/-- The operations of a batch after the replies to it, in their order.  Where nothing resumes, the batch completes with none of its
operations going on; where it resumes, an operation chained behind one that a reply has ended ends too (DESIGN CHOICE, log 79). -/
def State.replied (s : State) (resume : Bool) : List EngineOp → List Nat → List EngineOp
  | [], _ => []
  | o :: os, gone =>
    let p := if o.phase = .ended then o
      else if o.phase = .stopped then s.afterReplies resume o
      else if !resume || o.prev.any gone.contains then o.endFailed else o
    p :: s.replied resume os (if p.phase = .ended ∧ o.phase ≠ .ended then o.id :: gone else gone)

/-- Act on the replies to a batch once all of it is at rest and every record is answered (R332). -/
def State.settleReplies (s : State) (cid team : Nat) (batch : Option Nat) : State :=
  let os := s.batchOps cid team batch
  let stopped := os.filter (fun o => o.phase == .stopped)
  if stopped.isEmpty || !os.all s.opAtRest || stopped.any (fun o => o.fails.any (fun f => f.answer.isNone)) then s
  else
    let resume := stopped.any (fun o => o.fails.any (fun f => f.answer == some true)) && stopped.any (fun o => !(s.uncovered o).isEmpty)
    let s := (s.replied resume os []).foldl State.setOp s
    match batch with
    | some n => s.settleBatch cid team n
    | none => s

/-- An operation as it changes; a batch whose operations have all ended completes (R124). -/
def State.putOp (s : State) (o : EngineOp) : State :=
  let s := (s.setOp o).settleReplies o.crew o.team o.batch
  match o.batch with
  | some n => if o.phase = .ended then s.settleBatch o.crew o.team n else s
  | none => s

/-- The operation ends failed, with a record that awaits no reply (R125); where the queue has no free slot, it waits with what it has found
(R330). -/
def State.failOp (s : State) (o : EngineOp) (code cause : Nat) (write : Bool) (addr : Nat) : State :=
  if s.msys.canPost o.die then
    (s.setMsys (s.msys.faultWrite (o.post code cause write addr (o.mode s.msys)) .none)).putOp
      { o with phase := .ended, failed := true, walked := [], xfer := none, failing := none }
  else s.setOp { o with failing := some (.stop code cause write addr, o.mode s.msys) }

/-- A module that takes sends: not fenced, or taken over by this module or by a live successor (R356, R357). -/
def State.reachable (s : State) (module : Nat) : Bool :=
  let live := fun x => !s.msys.fenced.contains x
  module == s.msys.pkg || s.takenOver.contains module || (s.msys.bring.inPod && !s.msys.podDown && (live module ||
    (match s.msys.bring.successors.find? (fun x => x.1 == module) with
    | some (_, p, q) => live p || live q
    | none => false)))

/-- A send that is refused or whose destination is fenced ends failed, with no byte done (R123). -/
def State.failSend (s : State) (o : EngineOp) (k : Nat) : State :=
  s.failOp { o with done := 0 } 4 14 true (Config.sendAddr (freeAt s k)).toNat

/-- A send leaves, or ends failed where its destination is fenced (R123). -/
def State.sendOff (s : State) (o : EngineOp) : State :=
  if s.reachable (bitsOf o.w2.toNat 0 8) then s.putOp { o with phase := .sent, record := 0 }
  else s.failSend o 49000

/-- No unit is left: the operation stops, or goes to the next record of its chain, or ends (R125). -/
def State.endUnits (s : State) (o : EngineOp) : State :=
  if !o.missing.isEmpty then s.putOp { o with phase := .stopped }
  else if o.words.op = 3 then
    let o := { o with record := o.record + 1, sub := none, next := 0, redo := [] }
    s.putOp (if o.failed || decide (o.words.count ≤ o.record) then { o with phase := .ended } else o)
  else if o.words.op = 4 ∧ o.failed = false then s.sendOff o
  else s.putOp { o with phase := .ended }

/-- Post a record that awaits a reply, where the queue has a free slot; else the engine waits with the failure that it has found, and walks the
page no more (R330, R336). -/
def State.loseUnit (s : State) (o : EngineOp) (u : Nat) (write : Bool) (cause va : Nat) : State :=
  if !s.msys.canPost o.die then s.setOp { o with failing := some (.miss write cause va, o.mode s.msys) }
  else
    let p := { o with failing := none }.lose u
    let index := Sparse.get 0 s.msys.faultNext o.die
    let m := s.msys.faultWrite (p.post 4 cause write va (o.mode s.msys)) (.engine o.id (va / 4096) write)
    let m := if cause = 10 then m.atsForget o.die o.world va else m
    let p := { p with fails := o.fails ++ [⟨va / 4096, write, index, none⟩] }
    if p.head.isNone then (s.setMsys m).endUnits p else (s.setMsys m).setOp p

/-- The outcome of a unit that was not performed. -/
def State.engFailed (s : State) (o : EngineOp) (u : Nat) (f : EngFail) : State :=
  match f with
  | .miss write cause va => s.loseUnit o u write cause va
  | .known => let p := o.lose u
              if p.head.isNone then s.endUnits p else s.setOp p
  | .ats write va => (s.setMsys (s.msys.atsAsk o.die o.world va write)).setOp o
  | .stop code cause write addr => s.failOp o code cause write addr
  | .busy => s.setOp o

/-- The unit that an operation is at: that of the next record of a chain is its read. -/
def EngineOp.unit (o : EngineOp) : Option Nat := if o.reading then some 0 else o.head

/-- Address of the record of a chain that is read. -/
def EngineOp.recordAddr (o : EngineOp) : Nat := (o.words.w1 + 32 * o.record) % 2 ^ 57

/-- One of the runs is on a page that has failed in this start (R336). -/
def EngineOp.knows (o : EngineOp) (rs : List (Nat × Nat) × List (Nat × Nat)) : Bool :=
  let on := fun (write : Bool) (runs : List (Nat × Nat)) => o.fails.any (fun f => f.write == write && runs.any (fun r => onPage f.page r.1 r.2))
  on false rs.1 || on true rs.2

/-- The index of a unit that has one, and where it lies. -/
def State.unitIndex (s : State) (o : EngineOp) (u : Nat) : EngCheck (Nat × List EngLoc) :=
  if o.cmd.op = 1 ∨ o.cmd.op = 2 then s.engIndex o.cmd u o s.msys else (.ok (0, []), o, s.msys)

/-- Begin a unit: a page that has failed in this start makes it missing with no walk of its own (R336), else its places are checked. -/
def State.unitStart (s : State) (o : EngineOp) (u : Nat) : EngCheck Xfer :=
  if o.knows (o.runsAt u none) then (.error .known, o, s.msys)
  else if o.reading then
    (s.engPlaces 45000 false false 0 o.recordAddr 32 o s.msys).andThen fun ls o m =>
      let x : Xfer := ⟨cutUnits ls, [], [], 0⟩
      (.ok x, o, m.countXfer o x [])
  else
    (s.unitIndex o u).andThen fun p o m =>
      if o.knows (o.runsAt u (some p.1)) then (.error .known, o, m)
      else (s.unitXfer u p.1 o m).andThen fun x o m => (.ok x, o, m.countXfer o x p.2)

/-- The record of a chain has been read (R121, R125): its operation is part of the batch, and its scope one of those of the batch (R124, R139). -/
def State.chainRecord (s : State) (o : EngineOp) (bs : List Byte) : State :=
  let c : Cmd := ⟨fieldAt bs 0 8, fieldAt bs 8 8, fieldAt bs 16 8, fieldAt bs 24 8⟩
  if !c.legal true || c.misaligned || (c.outside (s.opAlloc o)).isSome then s.failOp o 4 15 false o.recordAddr
  else
    let s := s.mapTeam o.crew o.team (fun t => { t with batches := t.batches.widen o.number c.scope })
    let o := { o with sub := some (BitVec.ofNat 64 c.w0, BitVec.ofNat 64 c.w1, BitVec.ofNat 64 c.w2, BitVec.ofNat 64 c.w3), next := 0 }
    if c.count = 0 then s.endUnits o else s.setOp o

/-- A unit has been moved. -/
def State.unitDone (s : State) (o : EngineOp) (u : Nat) (x : Xfer) : State :=
  let o := { o with xfer := none }
  if o.reading then s.chainRecord o x.got
  else
    let o := { o.pop with done := o.done + x.count, payload := if o.cmd.op = 4 then o.payload ++ [(u, x.got)] else o.payload }
    if o.head.isNone then s.endUnits o else s.setOp o

/-- A unit that could not be performed; the reads of a chain stop with their record. -/
def State.unitFailed (s : State) (o : EngineOp) (u : Nat) (f : EngFail) : State :=
  let o := { o with xfer := none }
  match f with
  | .miss write cause va => s.loseUnit (if o.reading then { o with next := o.cmd.units } else o) u write cause va
  | f => s.engFailed o u f

/-- Move what is to be moved of a unit (R125). -/
def State.moveUnit (s : State) (o : EngineOp) (u : Nat) (x : Xfer) : State :=
  match s.xferGo o x.left x with
  | (.error f, s) => s.unitFailed o u f
  | (.ok x, s) => if x.left = 0 then s.unitDone o u x else s.setOp { o with xfer := some x }

/-- One sector or element of an operation, the part of it that timing choices leave to this event, or a failure that awaits its record (R125,
R129, R330, log 4). -/
def State.engineUnit (s : State) (o : EngineOp) : State :=
  match o.unit with
  | none => s.endUnits o
  | some u =>
    match o.failing, o.xfer with
    | some f, _ => s.unitFailed o u f.1
    | none, some x => s.moveUnit o u x
    | none, none =>
      match s.unitStart o u with
      | (.ok x, o, m) => (s.setMsys m).moveUnit o u x
      | (.error f, o, m) => (s.setMsys m).unitFailed o u f

/-! What still uses a translation (R289, R335). -/

/-- Pages of 4 KiB that the entry may map from which an operation took a translation: those of its leaf, and for a leaf of 2 MiB those of the
range that is coalesced with it (R323, R327). -/
def WalkedPage.span (w : WalkedPage) : Nat :=
  match w.level with
  | 0 => if leafS64 w.leaf then 16 else 1
  | 1 => 32768
  | _ => 262144

/-- The invalidation reaches a translation that an engine operation has taken (R289, R336). -/
def EngineOp.usesHit (o : EngineOp) (k space va : Nat) : Bool :=
  o.phase == .running && o.walked.any (fun w => k == 2 || (o.world == space && (k == 1 || w.page / w.span == va / 4096 / w.span)))

/-- An accepted access is still to be performed, of whichever team. -/
def State.anyLate (s : State) : Bool := s.teams.any (fun p => p.2.any (fun t => !t.late.isEmpty))

/-- An operation that may perform a unit. -/
def State.opRuns (s : State) (o : EngineOp) : Bool := o.phase == .running && !s.opBlocked o

/-- The event ENGINE_SECTOR (R125). -/
def execEngineSector (r : TeamRef) (id : Nat) (s : State) : Host.Outcome State Fault Refusal :=
  match s.opAt id with
  | some o => if s.opRuns o ∧ r = ⟨o.die, o.core, o.slot⟩ then .next (s.engineUnit o) else .next s
  | none => .next s

end Sys2Proof.Machine
end

