-- ==== Sys2Proof/Machine/Acorn.lean ====
section
/-! DEFINITION. Weight contexts (R341, R342), and the Acorn as it processes their routing rings (R343 to R347). -/

namespace Sys2Proof.Machine

/-! Weight contexts (R341). -/

def WCtx.die (c : WCtx) : Nat := bitsOf (fieldAt c.desc 0x48 4) 8 3
def WCtx.world (c : WCtx) : Nat := bitsOf (fieldAt c.desc 0x48 4) 16 8
def WCtx.nodeBase (c : WCtx) : Nat := fieldAt c.desc 0x4C 4
def WCtx.layers (c : WCtx) : Nat := bitsOf (fieldAt c.desc 0x50 4) 0 8
def WCtx.experts (c : WCtx) : Nat := bitsOf (fieldAt c.desc 0x50 4) 8 12
def WCtx.topK (c : WCtx) : Nat := bitsOf (fieldAt c.desc 0x50 4) 20 3
def WCtx.slotBytes (c : WCtx) : Nat := 2 ^ bitsOf (fieldAt c.desc 0x54 4) 0 5
def WCtx.slotCount (c : WCtx) : Nat := bitsOf (fieldAt c.desc 0x54 4) 8 8
def WCtx.ringSlots (c : WCtx) : Nat := 2 ^ bitsOf (fieldAt c.desc 0x54 4) 16 4
def WCtx.slotBase (c : WCtx) : Nat := fieldAt c.desc 0x58 8
def WCtx.windowBase (c : WCtx) : Nat := fieldAt c.desc 0x60 8
def WCtx.ringBase (c : WCtx) : Nat := fieldAt c.desc 0x68 8
def WCtx.tableOf (c : WCtx) (g : Nat) : Nat := fieldAt c.desc (0x38 + 8 * g) 8

/-- A context as it is enabled. -/
def WCtx.initial (desc : List Byte) : WCtx := ⟨desc, [], [], [], none, 0, 0, 0, 0⟩

/-- Every reserved field of a descriptor is zero (R341). -/
def descReservedOk (bs : List Byte) : Bool :=
  let ctl := fieldAt bs 0x48 4
  fieldAt bs 0x70 16 == 0 && fieldAt bs 0x30 8 == 0 && fieldAt bs 0x10 16 == 0 && decide (fieldAt bs 0 16 < 2)
    && decide (fieldAt bs 0x68 8 < 2 ^ 57) && decide (fieldAt bs 0x60 8 < 2 ^ 57) && decide (fieldAt bs 0x58 8 < 2 ^ 52)
    && bitsOf (fieldAt bs 0x54 4) 5 3 == 0 && bitsOf (fieldAt bs 0x54 4) 20 12 == 0 && bitsOf (fieldAt bs 0x50 4) 23 9 == 0
    && decide (fieldAt bs 0x4C 4 < 4096) && bitsOf ctl 1 7 == 0 && bitsOf ctl 11 5 == 0 && bitsOf ctl 24 8 == 0
    && decide (fieldAt bs 0x40 8 < 2 ^ 57) && decide (fieldAt bs 0x38 8 < 2 ^ 57)

/-- Every field of a descriptor is in its range (R341). -/
def WCtx.inRange (c : WCtx) : Bool :=
  let log := bitsOf (fieldAt c.desc 0x54 4) 0 5
  let ring := bitsOf (fieldAt c.desc 0x54 4) 16 4
  decide (21 ≤ log ∧ log ≤ 30) && decide (1 ≤ c.slotCount) && decide (4 ≤ ring ∧ ring ≤ 12) && decide (1 ≤ c.layers)
    && decide (1 ≤ c.experts) && decide (1 ≤ c.topK ∧ c.topK ≤ 6) && decide (c.nodeBase + c.experts ≤ 4096) && decide (c.world ≤ 254)
    && c.ringBase % 4096 == 0 && c.windowBase % 2 ^ 30 == 0 && c.slotBase % c.slotBytes == 0
    && decide (c.slotBase + c.slotCount * c.slotBytes ≤ hbmBytes)

def State.ctxAt (s : State) (ctx : Nat) : Option WCtx := Sparse.get none s.contexts ctx
def State.setCtx (s : State) (ctx : Nat) (c : WCtx) : State := { s with contexts := Sparse.set none s.contexts ctx (some c) }

/-- Every node of a context's experts has the context's world (R341). -/
def State.nodesOk (s : State) (c : WCtx) : Bool :=
  (List.range c.experts).all (fun e => (s.nodeAt (c.nodeBase + e)).any (fun n => n.world == c.world))

/-- Address of a descriptor, in world 0. -/
def State.descAddr (s : State) (ctx : Nat) : Nat := (s.msys.bring.ctxTable + 128 * ctx) % 2 ^ 57

/-- Channel of the Acorn's writes for a context. -/
def acornChan (ctx : Nat) : Nat := 2 ^ 35 + 2 * ctx + 1

/-- The enabled bit of a descriptor as it stands in memory, where the table is mapped. -/
def State.descBit (s : State) (ctx : Nat) : Option Bool :=
  let va := (s.descAddr ctx + 0x48) % 2 ^ 57
  match s.msys.walk 0 va with
  | .ok (leaf, lvl) => some ((s.msys.readB (leafPa leaf + va % pageBytes lvl)).getLsbD 0)
  | .error _ => none

/-- The Acorn may read the descriptor of a context, or act on its enabled bit. -/
def State.descFree (s : State) (ctx : Nat) : Bool := decide (ctx < 64) && !s.agentBusy (acornChan ctx) && !s.readers.contains ctx

/-- A context that is to be enabled: its enabled bit has gone to 1. -/
def State.toEnable (s : State) (ctx : Nat) : Bool := s.descFree ctx && (s.ctxAt ctx).isNone && s.descBit ctx == some true

/-- A context that is to be disabled: its enabled bit has gone to 0, and no entry is in work (R341). -/
def State.toDisable (s : State) (ctx : Nat) : Option WCtx :=
  match s.ctxAt ctx with
  | some c => if s.descFree ctx && s.descBit ctx == some false && c.work.isNone then some c else none
  | none => none

/-- The windows of a context leave with it. -/
def MemSys.dropWindows (m : MemSys) (c : WCtx) (size : Nat) : MemSys :=
  let base := c.windowBase
  { m with windows := m.windows.filter (fun w => !(w.world == c.world && decide (base ≤ w.base) && decide (w.base < base + size)))
           tlb := m.tlb.filter (fun e => !(e.space == c.world && decide (base / 4096 < e.page + e.span) && decide (e.page < (base + size) / 4096))) }

/-- A failed read of an agent that no row of R329 names posts a record of code 7, whose write bit is 0, and is made again after the reply
(DESIGN CHOICE, log 39); `key` stands for the reader. -/
def State.readerFails (s : State) (key die world : Nat) (f : AgentFail) : State :=
  if f.1 = 0 then s.setMsys (s.msys.agentFail 7 die world false f .none)
  else if s.msys.canPost die then { s.setMsys (s.msys.agentFail 7 die world false f (.reader key)) with readers := key :: s.readers }
  else s

/-- The Acorn writes a part of the descriptor, in world 0. -/
def State.writeDesc (s : State) (ctx : Nat) (c : WCtx) (off : Nat) (bs : List Byte) : State :=
  s.agentWrite (acornChan ctx) c.die 0 ((s.descAddr ctx + off) % 2 ^ 57) bs false

/-- A context is disabled: its windows are unmapped, its batches are no more, and its read-only fields take their reset values (DESIGN CHOICE,
log 81). -/
def State.disable (s : State) (ctx : Nat) (c : WCtx) : State :=
  let s := s.setMsys (s.msys.dropWindows c (2 * c.layers * c.experts * c.slotBytes))
  State.writeDesc { s with contexts := Sparse.set none s.contexts ctx none } ctx c 0x20 (leBytes 0 16)

/-- A context's next record has found its bin full (R346). -/
def WCtx.holds (c : WCtx) : Bool := c.work.any RouteWork.full

/-- A full bin holds the Acorn of a die: a context other than `ctx` waits for room (R346). -/
def State.acornHeld (s : State) (ctx die : Nat) : Bool :=
  s.contexts.any (fun p => decide (p.1 ≠ ctx) && p.2.any (fun x => x.die == die && x.holds))

/-- The event WEIGHT_CONTEXT_ENABLE (R341): the descriptor is read as its enabled bit goes to 1, and again each time that it does; a read that
fails is posted for die 0, since the home die is not known (R329, log 39). -/
def execWeightContextEnable (ctx : Nat) (s : State) : Host.Outcome State Fault Refusal :=
  match s.toEnable ctx, s.toDisable ctx with
  | false, some c => .next (if s.acornHeld ctx c.die then s else s.disable ctx c)
  | false, none => .next s
  | true, _ =>
    match s.msys.agentRead (freeAt s 45000) 0 0 (s.descAddr ctx) 128 with
    | .error f => .next (s.readerFails ctx 0 0 f)
    | .ok (bs, m) =>
      let c := WCtx.initial bs
      if s.acornHeld ctx c.die then .next s
      else if descReservedOk bs && c.inRange && s.nodesOk c then .next ((s.setMsys m).setCtx ctx c)
      else .next ((s.setMsys m).writeDesc ctx c 0x48 (leBytes (fieldAt bs 0x48 4 - 1) 4))

/-! The routing ring (R343, R344). -/

/-- Address of slot `i` of a ring. -/
def WCtx.slotAddr (c : WCtx) (i : Nat) : Nat := (c.ringBase + 128 + 64 * (i % c.ringSlots)) % 2 ^ 57

/-- The entry that stands in the next slot of the ring, once its ctl is not zero. -/
def State.ringEntry (s : State) (c : WCtx) : Option (List Byte × MemSys) :=
  match s.msys.agentRead (freeAt s 45100) c.die c.world (c.slotAddr c.head) 64 with
  | .ok (bs, m) => if fieldAt bs 0 4 = 0 then none else some (bs, m)
  | .error _ => none

def entryTag (e : List Byte) : Nat := fieldAt e 4 4
def entryLayer (e : List Byte) : Nat := fieldAt e 0x0C 2
def entryRetire (e : List Byte) : Bool := bitsOf (fieldAt e 0 4) 0 4 == 2

/-- Candidates of a route entry: expert and score. -/
def entryCandidates (e : List Byte) : List (Nat × Nat) :=
  ((List.range 6).map (fun i => (fieldAt e (0x10 + 8 * i) 2, fieldAt e (0x14 + 8 * i) 4))).filter (fun p => p.1 != 0xFFFF)

def WCtx.batch (c : WCtx) (tag : Nat) : Option WBatch := c.batches.find? (fun b => b.tag == tag)

def WCtx.slot (c : WCtx) (k : Nat) : Option WSlot := Sparse.get none c.slots k
def WCtx.setSlot (c : WCtx) (k : Nat) (x : Option WSlot) : WCtx := { c with slots := Sparse.set none c.slots k x }

/-- An entry of the tag is set aside. -/
def WCtx.aside (c : WCtx) (tag : Nat) : Bool := c.side.any (fun e => entryTag e == tag)

/-- The entry to be processed next, and whether it stands in the ring: a set-aside entry first, once it finds its batch live or
fewer than 256 batches live (R346). -/
def State.nextEntry (s : State) (c : WCtx) : Option (Bool × List Byte × MemSys) :=
  match c.side with
  | e :: _ =>
    if (c.batch (entryTag e)).isSome || decide (c.batches.length < 256) then some (false, e, s.msys) else (s.ringEntry c).map (fun e => (true, e.1, e.2))
  | [] => (s.ringEntry c).map (fun e => (true, e.1, e.2))

/-- The context whose Acorn may read an entry: it is free, no entry is in work, no write waits, and system software does not route
(R340). -/
def State.acornReads (s : State) (ctx : Nat) : Option WCtx :=
  match s.ctxAt ctx with
  | some c =>
    if c.work.isSome || s.firm.routing || s.agentBusy (acornChan ctx) || s.readers.contains ctx || s.acornHeld ctx c.die then none else some c
  | none => none

/-- The context with the entry to be processed next and the current generation as the Acorn reads it, an acquire at `pkg` (R344, R346). -/
def State.acornNext (s : State) (ctx : Nat) : Option (State × WCtx × Bool × List Byte) :=
  match s.acornReads ctx with
  | none => none
  | some c =>
    match s.nextEntry c with
    | none => none
    | some (ring, e, m) =>
      match m.agentRead (freeAt s 45200) c.die 0 (s.descAddr ctx) 16 with
      | .ok (cur, m) => some (s.setMsys m, { c with current := fieldAt cur 0 1 % 2 }, ring, e)
      | .error _ => none

/-- A read of the Acorn that fails: of the ring's next slot, or of the current generation; the world, and the failure (R329). -/
def State.acornFails (s : State) (ctx : Nat) : Option (WCtx × Nat × AgentFail) :=
  match s.acornReads ctx with
  | none => none
  | some c =>
    match s.msys.agentRead (freeAt s 45100) c.die c.world (c.slotAddr c.head) 64, s.msys.agentRead (freeAt s 45200) c.die 0 (s.descAddr ctx) 16 with
    | .error f, _ => some (c, c.world, f)
    | _, .error f => some (c, 0, f)
    | _, _ => none

/-- The Acorn's failed read is posted. -/
def State.acornFault (s : State) (ctx : Nat) : State :=
  match s.acornFails ctx with
  | some (c, world, f) => s.readerFails ctx c.die world f
  | none => s

/-- The Acorn writes into the ring, in the context's world. -/
def State.writeRing (s : State) (ctx : Nat) (c : WCtx) (va : Nat) (bs : List Byte) : State :=
  s.agentWrite (acornChan ctx) c.die c.world (va % 2 ^ 57) bs false

/-- The entry leaves: its slot's ctl becomes 0 and head advances, or it leaves the side list. -/
def State.leaveRing (s : State) (ctx : Nat) (c : WCtx) (ring : Bool) : State :=
  if ring then
    let s := s.setCtx ctx { c with head := (c.head + 1) % 2 ^ 32 }
    (s.writeRing ctx c (c.slotAddr c.head) (leBytes 0 4)).writeRing ctx c (c.ringBase + 4) (leBytes ((c.head + 1) % 2 ^ 32) 4)
  else s.setCtx ctx { c with side := c.side.drop 1 }

/-- Discard an entry (R345): rejected is written before the slot is given back (R344). -/
def State.rejectEntry (s : State) (ctx : Nat) (c : WCtx) (ring : Bool) : State :=
  let c := { c with rejected := (c.rejected + 1) % 2 ^ 32 }
  (s.writeRing ctx c (c.ringBase + 8) (leBytes c.rejected 4)).leaveRing ctx c ring

/-- Set an entry aside, or reject it where the side list is full (R345, R346). -/
def State.setAside (s : State) (ctx : Nat) (c : WCtx) (e : List Byte) : State :=
  if 256 ≤ c.side.length then s.rejectEntry ctx c true else s.leaveRing ctx { c with side := c.side ++ [e] } true

/-- Live batches bound to a generation. -/
def WCtx.bound (c : WCtx) (g : Nat) : Nat := (c.batches.filter (fun b => b.gen == g)).length

/-- State of a generation (R346). -/
def WCtx.genState (c : WCtx) (g : Nat) : Nat := if g = c.current then 1 else if c.bound g = 0 then 0 else 2

/-- Write gen_state, bound0 and bound1 (R341, R346). -/
def State.writeGens (s : State) (ctx : Nat) (c : WCtx) : State :=
  s.writeDesc ctx c 0x20 (leBytes (c.genState 0 + 4 * c.genState 1) 4 ++ leBytes (c.bound 0) 4 ++ leBytes (c.bound 1) 4)

/-! Checks (R345). -/

/-- The encoding of an `f32` NaN. -/
def nan32 (x : Nat) : Bool := bitsOf x 23 8 == 255 && bitsOf x 0 23 != 0

/-- No reserved bit is set, and the kind is route or retire. -/
def entryFormOk (e : List Byte) : Bool :=
  (fieldAt e 0 4 == 1 || fieldAt e 0 4 == 2) && fieldAt e 0x0E 2 == 0 && (List.range 6).all (fun i => fieldAt e (0x12 + 8 * i) 2 == 0)

/-- Layer, candidates and scores of a route entry. -/
def WCtx.routeOk (c : WCtx) (e : List Byte) : Bool :=
  let cs := entryCandidates e
  decide (entryLayer e < c.layers) && cs.all (fun p => decide (p.1 < c.experts)) && allDistinct (cs.map Prod.fst)
    && (List.range 6).all (fun i => !nan32 (fieldAt e (0x14 + 8 * i) 4)) && decide (c.topK ≤ cs.length)

/-! Choice of experts and slots (R346, R347). -/

/-- A score as `fcmplt` orders it (R194): equal zeros. -/
def scoreKey (x : Nat) : Int := if x.testBit 31 then -(bitsOf x 0 31 : Int) else bitsOf x 0 31

/-- Candidate `p` comes before `q`. -/
def better (p q : Nat × Nat) : Bool :=
  decide (scoreKey q.2 < scoreKey p.2) || (scoreKey p.2 == scoreKey q.2 && decide (p.1 < q.1))

def insertCandidate (p : Nat × Nat) : List (Nat × Nat) → List (Nat × Nat)
  | [] => [p]
  | q :: qs => if better p q then p :: q :: qs else q :: insertCandidate p qs

/-- The experts of a route in the order of R346. -/
def WCtx.chosen (c : WCtx) (e : List Byte) : List (Nat × Nat) := ((entryCandidates e).foldr insertCandidate []).take c.topK

/-- The slot that holds an expert. -/
def WCtx.holder (c : WCtx) (g l e : Nat) : Option Nat :=
  (List.range c.slotCount).find? (fun k => (c.slot k).any (fun x => x.gen == g && x.layer == l && x.expert == e))

/-- Distance of a slot's layer (R347). -/
def WCtx.distance (c : WCtx) (x : WSlot) : Nat := (x.layer + c.layers - c.layer % c.layers) % c.layers

/-- Slot `k`, which holds `x`, is a better victim than slot `k'`, which holds `y` and has a lower number (R347). -/
def WCtx.sooner (c : WCtx) (x y : WSlot) : Bool :=
  let old := fun (z : WSlot) => z.gen != c.current
  (old x && !old y) || (old x == old y && decide (c.distance y < c.distance x))

/-- The better of a victim found so far and slot `k`. -/
def WCtx.pick (c : WCtx) (best : Option (Nat × WSlot)) (k : Nat) : Option (Nat × WSlot) :=
  match c.slot k, best with
  | some x, none => if x.users = 0 then some (k, x) else none
  | some x, some (k', y) => if x.users = 0 ∧ c.sooner x y = true then some (k, x) else some (k', y)
  | none, _ => best

/-- The slot for an expert that no slot holds (R347). -/
def WCtx.freeSlot (c : WCtx) : Option Nat :=
  match (List.range c.slotCount).find? (fun k => (c.slot k).isNone) with
  | some k => some k
  | none => ((List.range c.slotCount).foldl c.pick none).map Prod.fst

/-- The batch uses a slot: it is touched, and counted once (R346). -/
def WCtx.touch (c : WCtx) (tag k : Nat) : WCtx :=
  match c.batch tag, c.slot k with
  | some b, some x =>
    if b.touched.contains k then c
    else { c.setSlot k (some { x with users := x.users + 1 }) with
           batches := c.batches.map (fun y => if y.tag = tag then { y with touched := y.touched ++ [k] } else y) }
  | _, _ => c

/-- The slots that a route would touch, were every load to succeed (R345). -/
def WCtx.planned (c : WCtx) (tag g l : Nat) : List (Nat × Nat) → WCtx
  | [] => c
  | (e, _) :: es =>
    match c.holder g l e with
    | some k => (c.touch tag k).planned tag g l es
    | none => match c.freeSlot with
      | some k => ((c.setSlot k (some ⟨g, l, e, 0, false, false⟩)).touch tag k).planned tag g l es
      | none => c.planned tag g l es

/-- The route would give its batch more than 64 touched slots (R345). -/
def WCtx.tooMany (c : WCtx) (tag g l : Nat) (es : List (Nat × Nat)) : Bool :=
  ((({ c with layer := l } : WCtx).planned tag g l es).batch tag).any (fun b => decide (64 < b.touched.length))

/-! Windows and slots (R342, R347). -/

/-- The window of an expert (R342). -/
def WCtx.window (c : WCtx) (x : WSlot) : Nat := (c.windowBase + ((x.gen * c.layers + x.layer) * c.experts + x.expert) * c.slotBytes) % 2 ^ 57

/-- Physical base of a slot. -/
def WCtx.slotPa (c : WCtx) (k : Nat) : Nat := c.slotBase + k * c.slotBytes

/-- Unmap the window of a slot; its translations leave the TLBs (R335, R347). -/
def MemSys.unmapWindow (m : MemSys) (c : WCtx) (x : WSlot) : MemSys :=
  let base := c.window x
  { m with windows := m.windows.filter (fun w => !(w.world == c.world && w.base == base))
           tlb := m.tlb.filter (fun e => !(e.space == c.world && decide (base / 4096 < e.page + e.span) && decide (e.page < (base + c.slotBytes) / 4096))) }

/-- Map the window of a slot, with the attribute of the slot's frames (R347). -/
def MemSys.mapWindow (m : MemSys) (c : WCtx) (k : Nat) (x : WSlot) : MemSys :=
  let attr := bitsOf (m.frameOf 0 (c.slotPa k)).toNat 8 2
  { m with windows := m.windows ++ [⟨c.world, c.window x, c.slotBytes, c.slotPa k, attr⟩] }

/-- The entry of the weight table is malformed (R342). -/
def weightEntryBad (c : WCtx) (e : List Byte) : Bool :=
  let n := fieldAt e 8 4
  let w := fieldAt e 0 8
  fieldAt e 12 4 != 0 || bitsOf w 57 6 != 0 || (w.testBit 63 && bitsOf w 48 9 != 0) || n == 0 || n % 256 != 0 || decide (c.slotBytes < n)

/-- The source of an expert's weights. -/
inductive Weights where
  /-- the bytes, and the first page where they come from flash -/
  | bytes (bs : List Byte) (page : Option Nat)
  /-- the copy ends failed -/
  | failed
  /-- a flash page is uncorrectable -/
  | lost (page : Nat)
  /-- a flash page is being erased or programmed (R350) -/
  | busy
  /-- a translation failure -/
  | miss (f : AgentFail)
  deriving DecidableEq, Repr

/-- Read the weights of an expert (R342); the memory system as the reads leave it.  A flash range that passes the last page of its stack ends
the copy failed (R121). -/
def State.weights (s : State) (c : WCtx) (x : WSlot) : Weights × MemSys :=
  match s.msys.agentRead (freeAt s 45300) c.die c.world ((c.tableOf x.gen + 16 * (x.layer * c.experts + x.expert)) % 2 ^ 57) 16 with
  | .error f => (.miss f, s.msys)
  | .ok (e, m) =>
    let n := fieldAt e 8 4
    let w := fieldAt e 0 8
    if weightEntryBad c e then (.failed, m)
    else if w.testBit 63 then
      let a := bitsOf w 0 30 * 16384
      if bitsOf w 30 18 ≠ 0 ∨ flashOk a 0 n = false then (.failed, m)
      else match s.flashCheck 45400 a n with
        | some .busy => (.busy, s.msys)
        | some (.stop _ _ _ page) => (.lost page, m)
        | some _ => (.failed, m)
        | none => (.bytes (Sparse.run 0 s.flash a n) (some (a / 16384)), m)
    else match m.agentRead (freeAt s 45500) c.die c.world (bitsOf w 0 57) n with
      | .ok (bs, m) => (.bytes bs none, m)
      | .error f => (.miss f, m)

/-! Routes. -/

/-- The node record of one expert of a route (R262, R346). -/
def nodeRecord (w : RouteWork) (window e score : Nat) : List Byte :=
  leBytes 0 40 ++ leBytes window 8 ++ leBytes (fieldAt w.entry 8 4) 4 ++ leBytes w.tag 4 ++ leBytes score 4
    ++ leBytes (entryLayer w.entry + 2 ^ 16 * e) 4

/-- Start the load of an expert into a slot, whose old window is unmapped (R347). -/
def State.startLoad (s : State) (ctx : Nat) (c : WCtx) (w : RouteWork) (g e k : Nat) : State :=
  let s := match c.slot k with
    | some old => s.setMsys (s.msys.unmapWindow c old)
    | none => s
  s.setCtx ctx { c.setSlot k (some ⟨g, entryLayer w.entry, e, 0, true, false⟩) with work := some { w with slot := some (some k) } }

/-- The window that a record carries: of the slot, or 0 (R346). -/
def WCtx.recordWindow (c : WCtx) (k : Option Nat) : Nat :=
  match k.bind c.slot with
  | some x => c.window x
  | none => 0

/-- Append the record of one expert, whose slot is known; none where the bin is full (R346). -/
def State.appendExpert (s : State) (ctx : Nat) (c : WCtx) (w : RouteWork) (e score : Nat) (k : Option Nat) : Option State :=
  match s.nodeAt (c.nodeBase + e) with
  | some x =>
    if 256 ≤ x.bin.length then none
    else
      let s := s.setCtx ctx { c with work := some { w with experts := w.experts.drop 1, slot := none, full := false } }
      some (s.binAppend (c.nodeBase + e) x (nodeRecord w (c.recordWindow k) e score))
  | none => none

/-- Serve the experts of the route in work until a load is awaited or a bin is full; the route then ends (R346).  Nothing of it goes on while a
full bin holds the Acorn for another context. -/
def State.routeGo (ctx : Nat) : Nat → State → State
  | 0, s => s
  | n + 1, s =>
    match s.ctxAt ctx with
    | none => s
    | some c =>
      match if s.acornHeld ctx c.die then none else c.work with
      | none => s
      | some w =>
        match w.experts with
        | [] => s.leaveRing ctx { c with work := none } w.ring
        | (e, score) :: _ =>
          let g := ((c.batch w.tag).map WBatch.gen).getD 0
          let known := match w.slot with
            | some k => some k
            | none => match c.holder g (entryLayer w.entry) e with
              | some k => some (some k)
              | none => if c.freeSlot.isNone then some none else none
          match known with
          | none => s.startLoad ctx c w g e (c.freeSlot.getD 0)
          | some k =>
            if (k.bind c.slot).any (fun x => x.loading) then s
            else
              let c := match k with
                | some i => c.touch w.tag i
                | none => c
              match s.appendExpert ctx c w e score k with
              | some s => State.routeGo ctx n s
              | none => s.setCtx ctx { c with work := some { w with slot := some k, full := true } }

/-- Continue the route in work. -/
def State.routeOn (s : State) (ctx : Nat) : State := State.routeGo ctx 8 s

/-- Bind a route to its batch and begin its experts; `c` has the batch (R346). -/
def State.bindRoute (s : State) (ctx : Nat) (c : WCtx) (ring : Bool) (e : List Byte) (opened : Bool) : State :=
  let c := { c with layer := entryLayer e, work := some ⟨entryTag e, e, c.chosen e, none, ring, false⟩ }
  let s := s.setCtx ctx c
  let s := if opened then s.writeGens ctx c else s
  (s.writeDesc ctx c 0x2C (leBytes (entryLayer e) 4)).routeOn ctx

/-- Process a route entry (R345, R346): one of a tag that has an entry set aside is set aside behind it, live or not. -/
def State.route (s : State) (ctx : Nat) (c : WCtx) (ring : Bool) (e : List Byte) : State :=
  let tag := entryTag e
  if !entryFormOk e || !c.routeOk e then s.rejectEntry ctx c ring
  else if ring && c.aside tag then s.setAside ctx c e
  else match c.batch tag with
    | some b => if c.tooMany tag b.gen (entryLayer e) (c.chosen e) then s.rejectEntry ctx c ring else s.bindRoute ctx c ring e false
    | none =>
      if ring && decide (256 ≤ c.batches.length) then s.setAside ctx c e
      else s.bindRoute ctx { c with batches := c.batches ++ [⟨tag, c.current, []⟩] } ring e true

/-- The event ROUTE_ENTRY (R346): the next entry that is no retire, or the route in work goes on. -/
def execRouteEntry (ctx : Nat) (s : State) : Host.Outcome State Fault Refusal :=
  match s.ctxAt ctx with
  | none => .next s
  | some c =>
    if c.work.isSome then .next (s.routeOn ctx)
    else match s.acornNext ctx with
      | some (s', c, ring, e) => if entryRetire e then .next s else .next (s'.route ctx c ring e)
      | none => .next s

/-! Retirement (R346). -/

/-- The users of touched slots are counted down, and the batch ends. -/
def WCtx.retire (c : WCtx) (b : WBatch) : WCtx :=
  let c := b.touched.foldl (fun c k => match c.slot k with
    | some x => c.setSlot k (some { x with users := x.users - 1 })
    | none => c) c
  { c with batches := c.batches.filter (fun x => x.tag != b.tag) }

/-- Process a retire entry (R345, R346): the bounds are written before the slot is given back (R344). -/
def State.retireEntry (s : State) (ctx : Nat) (c : WCtx) (ring : Bool) (e : List Byte) : State :=
  if !entryFormOk e then s.rejectEntry ctx c ring
  else match c.batch (entryTag e) with
    | some b => (s.writeGens ctx (c.retire b)).leaveRing ctx (c.retire b) ring
    | none => if ring && c.aside (entryTag e) then s.setAside ctx c e else s.rejectEntry ctx c ring

/-- The event RETIRE_ENTRY (R345, R346). -/
def execRetireEntry (ctx : Nat) (s : State) : Host.Outcome State Fault Refusal :=
  match s.acornNext ctx with
  | some (s', c, ring, e) => if entryRetire e then .next (s'.retireEntry ctx c ring e) else .next s
  | none => .next s

/-! Loads (R347). -/

/-- The slot that a context loads. -/
def WCtx.loadingSlot (c : WCtx) : Option (Nat × WSlot) :=
  match c.work with
  | some w => match w.slot with
    | some (some k) => (c.slot k).bind (fun x => if x.loading then some (k, x) else none)
    | _ => none
  | none => none

/-- The copy has failed: the slot is empty, and the record carries window 0 (R347). -/
def State.failLoad (s : State) (ctx : Nat) (c : WCtx) (k : Nat) : State :=
  let c := c.setSlot k none
  (s.setCtx ctx { c with work := c.work.map (fun w => { w with slot := some none }) }).routeOn ctx

/-- The frames of a slot that a copy of `n` bytes writes belong to the context's world (R324, R325, R347); else the failure, at the address of
the window. -/
def State.slotCheck (s : State) (c : WCtx) (k : Nat) (x : WSlot) (n : Nat) : Option AgentFail :=
  let attr := bitsOf (s.msys.frameOf 0 (c.slotPa k)).toNat 8 2
  (List.range ((n + 4095) / 4096)).findSome? (fun i =>
    match frameCheck (s.msys.frameOf 0 (c.slotPa k + 4096 * i)) c.world (BitVec.ofNat 64 (64 * attr)) with
    | some (.fail cause) => some (cause, c.window x + 4096 * i)
    | some _ => some (7, c.window x + 4096 * i)
    | none => none)

/-- The copy has been made: the window is mapped, and the records follow (R347). -/
def State.endLoad (s : State) (ctx : Nat) (c : WCtx) (k : Nat) (x : WSlot) (bs : List Byte) : State :=
  let m := s.msys.writeFree c.world (c.slotPa k) bs
  let m := { m with poison := Sparse.clearRun m.poison (lineOf (c.slotPa k)) (bs.length / 128) }
  let x := { x with loading := false }
  ((s.setMsys (m.mapWindow c k x)).setCtx ctx (c.setSlot k (some x))).routeOn ctx

/-- A flash page of the source is uncorrectable: its record is posted, and the copy ends failed (R125, R331, R347). -/
def State.loseLoad (s : State) (ctx : Nat) (c : WCtx) (k page : Nat) : State :=
  if s.msys.canPost c.die then
    (s.setMsys (s.msys.faultWrite ⟨8, 0, false, false, c.world, c.world, c.die, 0, 0, 0, page, 0, s.msys.assistFaults⟩ .none)).failLoad ctx c k
  else s

/-- A translation or frame failure of a load: cause 7 ends the copy, and any other awaits its reply (R329, R332); it waits for a free slot
of the queue (R330). -/
def State.missLoad (s : State) (ctx : Nat) (c : WCtx) (k : Nat) (x : WSlot) (write : Bool) (f : AgentFail) : State :=
  if f.1 = 0 then s.setMsys (s.msys.agentFail 4 c.die c.world write f .none)
  else if !s.msys.canPost c.die then s
  else if f.1 = 7 then (s.setMsys (s.msys.agentFail 4 c.die c.world write f .none)).failLoad ctx c k
  else (s.setMsys (s.msys.agentFail 4 c.die c.world write f (.slot ctx k))).setCtx ctx (c.setSlot k (some { x with waiting := true }))

/-- An accepted access or an engine operation still uses bytes of a run of physical addresses (R335). -/
def State.inUse (s : State) (lo len : Nat) : Bool :=
  s.teams.any (fun p => p.2.any (fun t => t.late.any (fun a => a.touches [⟨false, false, lo, len⟩])))
    || s.ops.any (fun o => o.phase == .running && o.walked.any (fun w =>
      decide (leafPa w.leaf < lo + len) && decide (lo < leafPa w.leaf + pageBytes w.level)))

/-- The event SLOT_LOAD (R347): the copy of a slot begins once what used its frames has drained (R335), and ends; `ok` says whether flash pages
it reads are correctable, and a translation failure is posted, and its reply awaited (log 57). -/
def execSlotLoad (ctx k : Nat) (ok : Bool) (s : State) : Host.Outcome State Fault Refusal :=
  match s.ctxAt ctx with
  | none => .next s
  | some c =>
    match c.loadingSlot with
    | none => .next s
    | some (i, x) =>
      if i ≠ k ∨ x.waiting = true ∨ s.inUse (c.slotPa k) c.slotBytes = true then .next s
      else
        let (w, m) := s.weights c x
        let s' := s.setMsys m
        match w with
        | .bytes bs page =>
          match ok, page with
          | false, some p => .next (s'.loseLoad ctx c k p)
          | false, none => .next s
          | true, _ =>
            match s.slotCheck c k x bs.length with
            | some f => .next (s'.missLoad ctx c k x true f)
            | none => .next (s'.endLoad ctx c k x bs)
        | .failed => .next (s'.failLoad ctx c k)
        | .lost p => .next (s'.loseLoad ctx c k p)
        | .busy => .next s
        | .miss f => .next (s'.missLoad ctx c k x false f)

/-- The reply to the record of a load: the copy is made again, or it ends failed (R332, R347). -/
def State.answerSlot (s : State) (ctx k : Nat) (retry : Bool) : State :=
  match s.ctxAt ctx with
  | none => s
  | some c =>
    match c.loadingSlot with
    | some (i, x) =>
      if i ≠ k ∨ x.waiting = false then s
      else if retry then s.setCtx ctx (c.setSlot k (some { x with waiting := false }))
      else s.failLoad ctx c k
    | none => s

end Sys2Proof.Machine
end

