-- ==== Sys2Proof/Machine/Clause.lean ====
section
/-! DEFINITION. The fetch of a clause and its checks (R143, R148, R281), and trap entry once a team has drained (R283). -/

namespace Sys2Proof.Machine

/-- The end-of-clause instructions (R151). -/
def endsClause (op : BitVec 8) : Bool :=
  (decide (1 ≤ op.toNat) && decide (op.toNat ≤ 5)) || (decide (7 ≤ op.toNat) && decide (op.toNat ≤ 15)) || op == 0xE9 || op == 0xF8

/-- Whether a team of a level may fetch a clause that holds an opcode (R281). -/
def levelMay (level : Nat) (op : BitVec 8) : Bool :=
  if op.toNat < 0xF8 ∨ 0xFD < op.toNat then true else if level = 1 then op == 0xF9 || op == 0xFA else level == 2

/-- The checks of R148 on the words of a clause from position `pos` on. -/
def wordsOk (level : Nat) (h1 : Word) : Nat → List Word → Bool
  | pos, [] => (List.range 8).all (fun i => decide (i < pos) || hintAt h1 i == 0)
  | pos, w :: ws =>
    match opcodeMap (opOf w) with
    | none => false
    | some sh =>
      levelMay level (opOf w) &&
      (if sh.extended then
        match ws with
        | [] => false
        | _ :: rest => hintAt h1 (pos + 1) == 0 && wordsOk level h1 (pos + 2) rest
       else (!endsClause (opOf w) || ws.isEmpty) && wordsOk level h1 (pos + 1) ws)

/-- The checks of R148 on the header. -/
def headerOk (h0 h1 : Word) : Bool :=
  let a := headerSet h0 0
  let b := headerSet h0 1
  let bad := fun x => decide (12 ≤ x) && decide (x ≤ 14)
  bitsOf h0.toNat 24 8 == 0xFF && !bad a && !bad b && (a != b || a == 15) && bitsOf h1.toNat 16 16 == 0

/-- Every check of R148. -/
def clauseOk (level : Nat) (h0 h1 : Word) (ws : List Word) : Bool :=
  headerOk h0 h1 && wordsOk level h1 0 ws && decide (longsIn false ws.length ws ≤ 2)

/-- The access of a fetch (R325). -/
def Issuer.fetchAccess (c : Issuer) : Access := ⟨c.ref.die, c.crew.world, c.team.level, false, true, false, some c.ref.core⟩

/-- Translate the pieces of a fetch, whose reads of memory-side lines take numbers (R118, R143, R329). -/
def Issuer.fetchPieces (c : Issuer) (m : MemSys) (free : Nat) : List (Nat × Nat) → Except LaneFail (MemSys × List (Nat × Nat))
  | [] => .ok (m, [])
  | (va, n) :: ps =>
    match m.translate free c.fetchAccess va with
    | .ok pa leaf lvl =>
      let m := (m.tlbFill c.fetchAccess va leaf lvl).count c.ref.die c.crew.world c.crew.world va leaf
      match c.fetchPieces (m.number (leafMsd leaf) (m.norm pa)) (free + 1) ps with
      | .ok (m, rest) => .ok (m, (pa, n) :: rest)
      | .error e => .error e
    | .fail cause => .error (.xlate cause va)
    | .world => .error (.trap .worldViolation va)
    | .ats => .error (.ats va)

/-- The lanes done by the instruction that a team is to issue again (R240). -/
def Team.replayed (t : Team) : LaneSet :=
  match t.replay with
  | some (_, done) => done
  | none => 0

/-- Fetch words at an address, and go on with them; a failure traps at the team's pc, with the header `head` if it has been read, and a resumed
instruction keeps the lanes that it has done (R143, R240, R284, R329). -/
def State.fetchWords (s : State) (c : Issuer) (head : Word × Word) (va n : Nat) (k : State → List Word → State) : State :=
  match c.fetchPieces s.msys (freeAt s 1) (linePieces (4 * n + 1) va (4 * n)) with
  | .ok (m, ps) => k (s.setMsys m) (wordsOfBytes (ps.flatMap (fun p => m.readN p.1 p.2)))
  | .error f => s.accessFails c 2 false 0 c.team.replayed head f

/-- Fetch the clause at the team's pc and check it (R148). -/
def State.fetchClause (s : State) (c : Issuer) : State :=
  s.fetchWords c (0, 0) c.team.pc.toNat 2 fun s hs =>
    let h0 := hs.getD 0 0
    let h1 := hs.getD 1 0
    if !headerOk h0 h1 then s.badClause c h0 h1
    else s.fetchWords c (h0, h1) ((c.team.pc.toNat + 8) % 2 ^ 57) (headerCount h0) fun s ws =>
      if clauseOk c.team.level h0 h1 ws then
        s.setTeam c.ref { c.team with clause := some ⟨c.team.pc, h0, h1, ws, 0, []⟩, pc := c.team.pc + 8 }
      else s.badClause c h0 h1

/-- Fetch the words of a clause that a trap or a move left half run; it is not checked again (R287). -/
def State.refetch (s : State) (c : Issuer) (k : Clause) : State :=
  s.fetchWords c (k.h0, k.h1) ((k.addr.toNat + 8) % 2 ^ 57) (headerCount k.h0) fun s ws =>
    s.setTeam c.ref { c.team with clause := some { k with words := ws } }

/-- A team that has yet to fetch the words it issues from. -/
def Team.needsFetch (t : Team) : Bool :=
  match t.clause with
  | some k => k.words.isEmpty
  | none => true

/-- The crew runs on its core, and nothing stops the team at its instruction boundary; an instruction of which some lanes are done goes on to
its end, the next boundary (R293). -/
def Crew.runs (c : Crew) (t : Team) : Bool := c.phase == .resident && (c.stop.isNone || t.replay.isSome)

/-- The event CLAUSE_FETCH (R143, R148). -/
def execClauseFetch (r : TeamRef) (s : State) : Host.Outcome State Fault Refusal :=
  match s.issuerAt r with
  | none => .next s
  | some c =>
    if !c.crew.runs c.team || c.team.present == 0 || c.team.pending.isSome || !c.team.needsFetch then .next s
    else match c.team.clause with
      | some k => .next (s.refetch c k)
      | none => .next (s.fetchClause c)

/-- The event TRAP_ENTRY (R283, R330): a trap that stands is taken once its record is written and the team has drained. -/
def execTrapEntry (r : TeamRef) (s : State) : Host.Outcome State Fault Refusal :=
  match s.issuerAt r with
  | none => .next s
  | some c =>
    match c.team.pending with
    | some p => .next (s.tryEnter c p)
    | none => .next s

end Sys2Proof.Machine
end

