-- ==== Sys2Proof/Machine/Context.lean ====
section
/-! DEFINITION. `ctxsv`, `ctxld` and the end of a save (R290 to R295). -/

namespace Sys2Proof.Machine

/-! The image's memory. -/

/-- The outcome of translating an image's pages (R292, R295): the memory system once the TLB keeps and the counters have counted the
pages (R327, R334), and the pieces. -/
inductive ImageRes where
  | ok (m : MemSys) (ps : List Piece)
  | fail (cause va : Nat)
  | ats (va : Nat)
  | world
  deriving DecidableEq, Repr

/-- One piece of an image in the issuing team's space: its frame belongs to the image's world, and the page of a world
other than 0 is mapped `encint` (R295).  A held line fails nothing: what is written to it is dropped (R51). -/
def Issuer.imagePiece (c : Issuer) (m : MemSys) (free world : Nat) (write : Bool) (va : Nat) : ImageRes :=
  let a : Access := ⟨c.ref.die, c.crew.world, 2, write, false, false, some c.ref.core⟩
  match m.leafFor free a.die a.core a.world va with
  | .error cause => .fail cause va
  | .ok (leaf, lvl) =>
    if hostUnanswered leaf then
      match m.translate free a va with
      | .fail cause => .fail cause va
      | _ => .ats va
    else
      let pa := leafPa leaf + va % pageBytes lvl
      match m.check free { a with world := world } pa leaf with
      | some (.fail cause) => .fail cause va
      | some _ => .world
      | none =>
        if world ≠ 0 ∧ leafAttr leaf ≠ 2 then .world
        else .ok ((m.tlbFill a va leaf lvl).count a.die a.world world va leaf) [(pa, 0, leaf)]

/-- Every piece of an image, in order. -/
def Issuer.imagePieces (c : Issuer) (m : MemSys) (free world : Nat) (write : Bool) : List (Nat × Nat) → ImageRes
  | [] => .ok m []
  | (va, n) :: ps =>
    match c.imagePiece m free world write va with
    | .ok m [(pa, _, leaf)] =>
      match c.imagePieces m (free + 1) world write ps with
      | .ok m rest => .ok m ((pa, n, leaf) :: rest)
      | x => x
    | x => x

/-- The pieces of an image of `len` bytes. -/
def State.imageAt (s : State) (c : Issuer) (world : Nat) (write : Bool) (va len : Nat) : ImageRes :=
  c.imagePieces s.msys (freeAt s 1) world write (linePieces (len + 1) va len)

/-- `ctxsv` or `ctxld` ends at once with a status (R292). -/
def State.ctxEnd (s : State) (c : Issuer) (status : Nat) : State :=
  s.setTeam c.ref ({ c.team with ctxstat := BitVec.ofNat 32 status }.advance 1 none)

/-- A translation failure on the image: the record, and status 8 with its index; the instruction waits for a slot of the fault
queue, and for the team's earlier accesses, since the record is a release (R292, R330). -/
def State.ctxFail (s : State) (c : Issuer) (write : Bool) (cause va : Nat) : State :=
  if !c.team.late.isEmpty then s.stall c .accesses
  else if !s.msys.canPost c.ref.die then s.stall c .faultSlot
  else
    let index := Sparse.get 0 s.msys.faultNext c.ref.die
    let p : FaultPost := ⟨1, cause, write, false, c.crew.world, c.crew.world, c.ref.die, c.ref.core, c.ref.slot, 0, va, 0, s.msys.assistFaults⟩
    let m := if cause = 10 then s.msys.atsForget c.ref.die c.crew.world va else s.msys
    (s.setMsys (m.faultWrite p .none)).ctxEnd c (8 + 256 * (index.toNat % 2 ^ 24))

/-- What a failed translation of an image leads to. -/
def State.imageFail (s : State) (c : Issuer) (write : Bool) (r : ImageRes) : State :=
  match r with
  | .fail cause va => s.ctxFail c write cause va
  | .ats va => (s.stall c (.ats c.crew.world (va / 4096))).setMsys (s.msys.atsAsk c.ref.die c.crew.world va write)
  | .world => s.ctxEnd c 7
  | .ok _ _ => s

/-! `ctxsv`. -/

/-- Handle of `c.ctxcrew` (R290). -/
def handleOf (w : Word) : TeamRef := ⟨bitsOf w.toNat 16 3, bitsOf w.toNat 8 6, bitsOf w.toNat 0 4⟩

/-- The crew at a handle: Resident or Parked, with team 0 in the slot (R290, R292). -/
def State.crewAtHandle (s : State) (h : TeamRef) : Option (Nat × Crew) :=
  match s.teamAt h with
  | some t =>
    match s.crewAt t.crew with
    | some c => if t.index = 0 ∧ c.gid ≠ 0 ∧ (c.phase = .resident ∨ c.phase = .parked) then some (t.crew, c) else none
    | none => none
  | none => none

/-- The address operand of `ctxsv` and `ctxld`. -/
def State.ctxOp (s : State) (c : Issuer) (a : Reg) (k : Nat → State) : State :=
  let va := c.team.s64 s.rf a.toNat % 2 ^ 57
  if !c.team.may 2 || !evenReg a then s.illegal c
  else if va % 64 ≠ 0 then s.raise c .misaligned 0 va 0
  else k va

/-- Stop the target crew, to be saved, evicted or discarded (R292, R293); a crew that is stopped already is waited for. -/
def State.stopFor (s : State) (c : Issuer) (cid : Nat) (t : Crew) (va : Nat) : State :=
  let wait := s.stall c .ctxsv
  if t.stop.isSome then wait
  else if s.batchStopped cid then s.ctxEnd c 4
  else if t.phase = .parked then wait.setCrew cid { t with stop := some (.evict false (some c.ref)) }
  else if t.discardable then wait.setCrew cid { t with stop := some (.discard (some c.ref)) }
  else match s.imageAt c t.world true va (t.imageSize (s.teamsOf t)) with
    | .ok _ _ => wait.setCrew cid { t with stop := some (.save c.ref va) }
    | r => s.imageFail c true r

/-- `ctxsv` (R292, R293). -/
def execCtxsv (a : Reg) (s : State) : Host.Outcome State Fault Refusal :=
  s.issue fun c => s.ctxOp c a fun va =>
    match s.crewAtHandle (handleOf c.team.ctxcrew) with
    | some (cid, t) => s.stopFor c cid t va
    | none => s.ctxEnd c 3

/-- The crew that a team saves. -/
def State.savedBy (s : State) (r : TeamRef) : Option (Nat × Crew × Nat) :=
  s.crews.findSome? (fun p => match p.2 with
    | some c => match c.stop with
      | some (.save by_ va) => if by_ = r then some (p.1, c, va) else none
      | _ => none
    | none => none)

/-- Entries of a die's seal table (R293). -/
def State.sealCount (s : State) (die : Nat) : Nat := (s.seals.filter (fun x => x.1 == die)).length

/-- Write the image, seal it and release the allocation (R293). -/
def State.saveCrew (s : State) (r : TeamRef) (cid : Nat) (c : Crew) (ps : List (Nat × Nat × Dword)) : State :=
  let s := s.foldOps cid
  let n := Sparse.get 0 s.sealNext r.die
  let bytes := c.image (s.teamsOf c) s.msys (s.imageKeys c) r.die n
  let s := s.setMsys (s.msys.agentPut true true c.world ps bytes)
  let s := { s with sealNext := Sparse.set 0 s.sealNext r.die (n + 1), seals := s.seals ++ [(r.die, n, cid)] }
  (s.takeOff cid c .saved).ctxDone (some r) 0

/-- The event CREW_SAVE (R293): the crew that the team's `ctxsv` stopped is drained. -/
def execCrewSave (r : TeamRef) (s : State) : Host.Outcome State Fault Refusal :=
  match s.savedBy r, s.issuerAt r with
  | some (cid, c, va), some i =>
    if c.phase = .leaving then .next s
    else if !(s.drained cid c && (s.teamsOf c).all Team.atRest) || decide (4096 ≤ s.sealCount r.die) || i.cid == cid then
      (if s.batchStopped cid then .next ((s.setCrew cid { c with stop := none }).ctxDone (some r) 4) else .next s)
    else match s.imageAt i c.world true va (c.imageSize (s.teamsOf c)) with
      | .ok m ps => .next ((s.setMsys m).saveCrew r cid c ps)
      | x => .next ((s.setCrew cid { c with stop := none }).imageFail i true x)
  | _, _ => .next s

/-! `ctxld`. -/

/-- The reserved bits of a header are zero, and its version is 1 (R291). -/
def imageHeaderOk (bs : List Byte) : Bool :=
  let h := leNat bs
  bitsOf h 744 1304 == 0 && bitsOf h 707 1 == 0 && bitsOf h 160 5 == 0 && bitsOf h 0 48 == 0 && bitsOf h 48 16 == 1

/-- Bytes `lo` to `hi`, the last one left out, are zero. -/
def zeroBytes (bs : List Byte) (lo hi : Nat) : Bool := (sect bs lo (hi - lo)).all (fun b => b == 0)

/-- The reserved bits of `mode` are zero (R76). -/
def modeReservedOk (w : Word) : Bool := w &&& ~~~modeMask == 0

/-- The reserved bits of the copy of a trap frame are zero (R284, R285). -/
def frameReservedOk (bs : List Byte) : Bool :=
  zeroBytes bs 0x2C 0x40 && zeroBytes bs 0x50 0x80 && zeroBytes bs 0x1A0 0x200
    && decide (sectNat bs 0 8 < 2 ^ 57) && decide (sectNat bs 8 4 < 2 ^ 16) && decide (sectNat bs 0x10 8 < 2 ^ 57) && decide (sectNat bs 0x1C 4 < 4)
    && decide (sectNat bs 0x28 4 < 8) && bitsOf (sectNat bs 0x40 4) 13 19 == 0 && bitsOf (sectNat bs 0x40 4) 6 2 == 0
    && modeReservedOk (sectWord bs 0x44) && decide (sectNat bs 0x48 4 < 8)

/-- The reserved bits of a team block are zero (R291). -/
def blockReservedOk (bs : List Byte) : Bool := zeroBytes bs 0x2D40 0x3000 && modeReservedOk (sectWord bs 0x60C) && frameReservedOk (sect bs 0x400 512)

/-- Offset of the image of accumulator `k`. -/
def Alloc.polyOff (a : Alloc) (ws : List Nat) (k : Nat) : Nat := a.teamsLen ws + 1024 * a.accs + 1024 * a.granules + 576 * k

/-- The reserved bits of every team block and of every accumulator image are zero (R105, R291, R292). -/
def imageBlocksOk (bs : List Byte) : Bool :=
  let h := leNat (bs.take 256)
  let ws := headerWords h
  (List.range ws.length).all (fun i => blockReservedOk (sect bs (256 + 12288 * i) 12288))
    && (List.range (headerAlloc h).pp).all (fun k => !imageReserved (sect bs ((headerAlloc h).polyOff ws k) 16))

/-- The crew that was saved under the seal of a header (R293). -/
def State.sealed (s : State) (bs : List Byte) : Option (Nat × Crew) :=
  let h := leNat bs
  match s.seals.find? (fun x => x.1 == bitsOf h 704 3 && x.2.1 == bitsOf h 384 64) with
  | some (_, _, cid) => (s.crewAt cid).map (fun c => (cid, c))
  | none => none

/-- The entry of a page-bound crew that is restored on another die shows that die: an update of the area (R52; DEDUCED, log 88). -/
def State.noteDie (s : State) (t : Crew) (die : Nat) : State :=
  match s.pageOf t with
  | some (g, i) => if (g.pageAt i).die = die then s else s.areaWrite (g.setPage i { g.pageAt i with die := die }) [i]
  | none => s

/-- Restore the crew on a core (R293); the load is an acquire at `pkg`. -/
def State.restore (s : State) (c : Issuer) (cid : Nat) (t : Crew) (h : TeamRef) : State :=
  let s := { s with seals := s.seals.filter (fun x => x.2.2 != cid) }
  let s := ((s.putOn cid t h.die h.core .resident).noteDie t h.die).barSweep
  (s.setMsys (s.msys.acquire h.die h.core .pkg)).ctxEnd c 0

/-- The world that the header of an image names, read from memory before its pages are checked. -/
def State.imageWorld (s : State) (c : Issuer) (va : Nat) : Except AgentFail Nat :=
  match s.msys.leafFor (freeAt s 1) c.ref.die (some c.ref.core) c.crew.world ((va + 27) % 2 ^ 57) with
  | .ok (leaf, lvl) => .ok (s.msys.readB (leafPa leaf + (va + 27) % pageBytes lvl)).toNat
  | .error cause => .error (cause, va)

/-- Check an image that could be read, and load it (R292). -/
def State.loadImage (s : State) (c : Issuer) (va : Nat) (hs : List Byte) (world : Nat) : State :=
  match imageHeaderOk hs, s.sealed hs with
  | true, some (cid, x) =>
    match s.imageAt c world false va (headerSize hs) with
    | .ok m ps =>
      let s := s.setMsys (m.numberAll ps)
      let bs := m.pieceBytes ps
      let t := x.ofImage cid bs
      let h := handleOf c.team.ctxcrew
      if !imageBlocksOk bs then s.ctxEnd c 6
      else if t.world ≠ world then s.ctxEnd c 7
      else if s.hasRoom h.die h.core t.fuse t.use = true ∧ t.teams.length ≤ (s.freeSlots h.die h.core).length then s.restore c cid t h
      else s.ctxEnd c 5
    | r => s.imageFail c false r
  | _, _ => s.ctxEnd c 6

/-- `ctxld` (R292, R293): it reads the image once the team's earlier accesses are performed (R130). -/
def execCtxld (a : Reg) (s : State) : Host.Outcome State Fault Refusal :=
  s.issue fun c => s.ctxOp c a fun va =>
    if !c.team.late.isEmpty then s.stall c .accesses
    else match s.imageWorld c va with
    | .error f => s.ctxFail c false f.1 f.2
    | .ok world =>
      match s.imageAt c world false va 256 with
      | .ok m ps => (s.setMsys (m.numberAll ps)).loadImage c va (m.pieceBytes ps) world
      | r => s.imageFail c false r

end Sys2Proof.Machine
end

