-- ==== Sys2Proof/Machine/Fabric.lean ====
section
/-! DEFINITION. The pod: sends and receive rings (R123, R356), heartbeats and fences (R357), accesses by other modules (R319, R325) and
link-level retry (R355). -/

namespace Sys2Proof.Machine

/-! Receive rings (R356). -/

/-- An entry of the receive-ring table, its address and its tail. -/
structure Ring where
  va : Nat
  bits : Nat
  tail : Nat

def Ring.head (r : Ring) : Nat := bitsOf r.bits 160 32
def Ring.base (r : Ring) : Nat := bitsOf r.bits 64 57
def Ring.accept (r : Ring) : Nat := bitsOf r.bits 24 8
def Ring.world (r : Ring) : Nat := bitsOf r.bits 16 8
def Ring.countLog2 (r : Ring) : Nat := bitsOf r.bits 8 4
def Ring.sizeLog2 (r : Ring) : Nat := bitsOf r.bits 4 4
def Ring.area (r : Ring) : Nat := 2 ^ (r.sizeLog2 + 8)
def Ring.enabled (r : Ring) : Bool := r.bits.testBit 0

/-- No reserved bit of an entry is set, and every field has a value that R356 gives it; world 255 is none (R6, R320). -/
def Ring.wellFormed (r : Ring) : Bool :=
  bitsOf r.bits 192 64 == 0 && bitsOf r.bits 121 7 == 0 && bitsOf r.bits 32 32 == 0 && bitsOf r.bits 12 4 == 0 && bitsOf r.bits 1 3 == 0
    && decide (1 ≤ r.countLog2 ∧ r.countLog2 ≤ 12) && decide (r.sizeLog2 ≤ 8) && r.base % 4096 == 0 && r.world != 255

/-- Address of an entry of the table, in world 0. -/
def State.ringAddr (s : State) (ring : Nat) : Nat := (s.msys.bring.ringTable + 32 * ring) % 2 ^ 57

/-- The fabric engine's read of an entry; its tail is the device's own, which no store changes (R7). -/
def State.ringRead (s : State) (ring : Nat) : Except AgentFail (Ring × State) :=
  match s.msys.agentPieces (freeAt s 42500) (agentAccess 0 0 false false) [(s.ringAddr ring, 32)] with
  | .ok (m, ps) =>
    let m' := match ps with
      | (pa, _, _) :: _ => m.fix (m.norm pa + 16) 4
      | [] => m
    .ok (⟨s.ringAddr ring, leNat (m.pieceBytes ps), Sparse.get 0 s.ringTails ring⟩, s.setMsys (m'.numberAll ps))
  | .error f => .error f

/-- Slot `i` of a ring. -/
def Ring.slot (r : Ring) (i : Nat) : Nat := (r.base + i % 2 ^ r.countLog2 * (r.area + 64)) % 2 ^ 57

/-- Room for one more message. -/
def Ring.room (r : Ring) : Bool := decide ((r.tail + 2 ^ 32 - r.head) % 2 ^ 32 < 2 ^ r.countLog2)

/-- The ring takes a message (R356); an entry that is malformed is none in use (R6). -/
def Ring.takes (r : Ring) (m : SendMsg) : Bool :=
  r.enabled && r.wellFormed && (r.accept == 255 || r.accept == m.world) && decide (m.payload.length ≤ r.area)

/-- The 64 bytes of a completion record (R356). -/
def sendRecord (m : SendMsg) : List Byte :=
  leBytes 1 4 ++ leBytes 0 12 ++ leBytes m.src 1 ++ leBytes m.world 1 ++ leBytes m.ring 2 ++ leBytes m.payload.length 4
    ++ leBytes m.tag.toNat 8 ++ leBytes 0 32

/-- The ring that receives a message at this module: the one it names, or the takeover ring of a module taken over. -/
def State.ringFor (s : State) (m : SendMsg) : Option Nat :=
  if m.module = s.msys.pkg then some m.ring
  else if s.takenOver.contains m.module then (s.msys.bring.takeover.find? (fun p => p.1 == m.module)).map Prod.snd
  else none

/-- Where a send of this module stands at its destination, when that is this module. -/
def State.markSend (s : State) (m : SendMsg) (k : Nat) : State :=
  match m.sender with
  | some (_, id) => { s with ops := s.ops.map (fun o => if o.id = id ∧ o.phase = .sent then { o with record := k } else o) }
  | none => s

/-- The source bytes of a send, sector by sector, in whatever order they were read (R123). -/
def EngineOp.source (o : EngineOp) : List Byte :=
  (List.range o.cmd.units).flatMap (fun u => ((o.payload.find? (fun p => p.1 == u)).map Prod.snd).getD [])

/-- The message of a send that has left for this module (R123). -/
def State.localSend (s : State) (o : EngineOp) : SendMsg :=
  ⟨s.msys.pkg, o.world, bitsOf o.w2.toNat 0 8, bitsOf o.w2.toNat 8 12, o.w3, o.source,
    some (⟨o.die, o.core, o.slot⟩, o.id)⟩

/-- A message that may arrive: from a live module, or a send of this module that has left and not arrived yet. -/
def State.mayArrive (s : State) (m : SendMsg) : Bool :=
  match m.sender with
  | some (_, id) => s.ops.any (fun o => o.id == id && o.phase == .sent && o.record == 0 && s.localSend o == m)
  | none => s.msys.bring.inPod && !s.msys.podDown && m.src != s.msys.pkg && !s.msys.fenced.contains m.src

/-- A message that has come: another module's ends that module's silence (R357). -/
def State.hears (s : State) (m : SendMsg) : State :=
  match m.sender with
  | some _ => s
  | none => s.heard m.src

/-- A flit of another module comes in, unless this module's pod traffic has stopped: it ends that module's silence (R357). -/
def State.flitFrom (s : State) (m : Nat) : State := if s.msys.bring.inPod && !s.msys.podDown && m != s.msys.pkg then s.heard m else s

/-- The event SEND_ARRIVAL (R356): the ring refuses the send, or the send waits for room; where the entry cannot be read, the send waits for
the reply to the record of that read (log 39). -/
def execSendArrival (m : SendMsg) (s : State) : Host.Outcome State Fault Refusal :=
  match s.mayArrive m, s.ringFor m with
  | true, some ring =>
    if s.readers.contains (64 + ring) then .next (s.hears m)
    else match s.ringRead ring with
      | .ok (r, s) =>
        let s := s.hears m
        .next (if r.takes m then State.markSend { s with sends := s.sends ++ [⟨ring, m, false⟩] } m 1 else s.markSend m 3)
      | .error f => .next ((s.hears m).readerFails (64 + ring) 0 0 f)
  | true, none => .next (s.hears m)
  | false, _ => .next s

/-- The first send that waits for a ring. -/
def State.sendFor (s : State) (ring : Nat) : Option WaitSend := s.sends.find? (fun w => w.ring == ring)

/-- Remove the first send of a ring, or mark it. -/
def changeSend (ring : Nat) (f : WaitSend → List WaitSend) : List WaitSend → List WaitSend
  | [] => []
  | w :: ws => if w.ring = ring then f w ++ ws else w :: changeSend ring f ws

/-- Write payload, completion record and tail, in this order (R141, R356). -/
def State.deliver (s : State) (ring : Nat) (r : Ring) (m : SendMsg) : State :=
  let s := { s with ringTails := Sparse.set 0 s.ringTails ring ((r.tail + 1) % 2 ^ 32) }
  let slot := r.slot r.tail
  let s := s.agentWrite (ringChan ring) 0 r.world slot m.payload false
  let s := s.agentWrite (ringChan ring) 0 r.world ((slot + r.area) % 2 ^ 57) (sendRecord m) false
  s.agentWrite (ringChan ring) 0 0 ((r.va + 16) % 2 ^ 57) (leBytes (r.tail + 1) 4) false

/-- A delivered send is acknowledged and leaves (R356). -/
def State.endDelivery (s : State) (ring : Nat) (m : SendMsg) : State :=
  if s.agentBusy (ringChan ring) then { s with sends := changeSend ring (fun w => [{ w with written := true }]) s.sends }
  else State.markSend { s with sends := changeSend ring (fun _ => []) s.sends } m 2

/-- The event RECEIVE_RING_DELIVERY (R356); a read of the entry that fails is posted, and the delivery waits for the reply (R329, log 39). -/
def execReceiveRingDelivery (ring : Nat) (s : State) : Host.Outcome State Fault Refusal :=
  match s.sendFor ring with
  | none => .next s
  | some w =>
    if w.written then .next (if s.agentBusy (ringChan ring) then s else s.endDelivery ring w.msg)
    else if s.readers.contains (64 + ring) then .next s
    else match s.ringRead ring with
      | .ok (r, s') => if r.room then .next ((s'.deliver ring r w.msg).endDelivery ring w.msg) else .next s
      | .error f => .next (s.readerFails (64 + ring) 0 0 f)

/-- Whether a send has been answered as `accepted` says: by this module's own ring, or by another module; one that cannot be reached accepts
nothing (R357). -/
def State.answered (s : State) (o : EngineOp) (accepted : Bool) : Bool :=
  let module := bitsOf o.w2.toNat 0 8
  if module = s.msys.pkg ∨ s.takenOver.contains module = true then o.record == (if accepted then 2 else 3)
  else !accepted || s.reachable module

/-- The module whose flit answers a send: the destination, or its successor once it is fenced; none where no flit comes (R357). -/
def State.answerer (s : State) (o : EngineOp) : Option Nat :=
  let module := bitsOf o.w2.toNat 0 8
  let live := fun x => !s.msys.fenced.contains x
  if module = s.msys.pkg ∨ s.takenOver.contains module = true then none
  else if live module then some module
  else (s.msys.bring.successors.find? (fun x => x.1 == module)).bind (fun x => if live x.2.1 then some x.2.1 else if live x.2.2 then some x.2.2 else none)

/-- The answer to a send is a flit of another module, where one gave it (R357). -/
def State.hearAnswer (s : State) (o : EngineOp) : State :=
  match s.answerer o with
  | some m => s.flitFrom m
  | none => s

/-- The event SEND_ACKNOWLEDGE (R123): the send ends, done whole or failed with cause 14. -/
def execSendAcknowledge (r : TeamRef) (id : Nat) (accepted : Bool) (s : State) : Host.Outcome State Fault Refusal :=
  match s.opAt id with
  | some o =>
    if o.phase ≠ .sent ∨ r ≠ ⟨o.die, o.core, o.slot⟩ ∨ s.answered o accepted = false then .next s
    else if accepted then .next ((s.hearAnswer o).putOp { o with phase := .ended, done := o.words.count })
    else .next ((s.hearAnswer o).failSend o 49000)
  | none => .next s

/-! Heartbeats and fences (R357). -/

/-- Modules whose network addresses this module takes over: it is the primary successor, or the secondary of a module
whose primary it has declared silent too. -/
def State.takeovers (s : State) : List Nat :=
  let b := s.msys.bring
  s.msys.fenced.filter (fun m => match b.successors.find? (fun x => x.1 == m) with
    | some (_, p, q) => p == b.pkg || (q == b.pkg && s.msys.fenced.contains p)
    | none => false)

/-- Declare a neighbour silent: its window is fenced, its sends fail, its members count as arrived (R357). -/
def State.declareSilent (s : State) (m : Nat) : State :=
  let s := s.setMsys { s.msys with fenced := s.msys.fenced ++ [m] }
  let lost := s.ops.filter (fun o => o.phase == .sent && bitsOf o.w2.toNat 0 8 == m && o.record == 0)
  let s := lost.foldl (fun s o => s.failSend o (49001 + o.id)) s
  let s := { s with takenOver := s.takeovers }
  s.barSweep

/-- Neighbours that are not fenced. -/
def State.liveNeighbours (s : State) : List Nat := s.msys.bring.neighbours.filter (fun m => !s.msys.fenced.contains m)

/-- One interval without a flit from a neighbour. -/
def State.countSilence (s : State) (m : Nat) : State :=
  let n := Sparse.get 0 s.silence m + 1
  if s.msys.bring.silence ≤ n then State.declareSilent { s with silence := Sparse.set 0 s.silence m 0 } m
  else { s with silence := Sparse.set 0 s.silence m n }

/-- The event HEARTBEAT_INTERVAL (R357). -/
def execHeartbeatInterval (s : State) : Host.Outcome State Fault Refusal :=
  if s.msys.bring.inPod && !s.msys.podDown then .next (s.liveNeighbours.foldl State.countSilence s) else .next s

/-- The event HEARTBEAT_RECEIVE (R357). -/
def execHeartbeatReceive (m : Nat) (s : State) : Host.Outcome State Fault Refusal :=
  if s.liveNeighbours.contains m then .next (s.heard m) else .next s

/-- The event FENCE_FLIT (R357). -/
def execFenceFlit (s : State) : Host.Outcome State Fault Refusal :=
  if s.msys.bring.inPod then .next { s.setMsys { s.msys with podDown := true } with silence := [] } else .next s

/-- The event LINK_LEVEL_RETRY (R355): the flit is resent, and the receiver's order is kept; nothing else is seen of it. -/
def execLinkLevelRetry (_port : Nat) (s : State) : Host.Outcome State Fault Refusal := .next s

/-! Accesses by other modules (R319, R325). -/

/-- The leaf that the accessing module found: its attribute and its memory-side bit. -/
def podLeaf (a : PodAccess) : Dword := BitVec.ofNat 64 (64 * (a.attr % 4) + (if a.msd then 256 else 0) + 0x2B)

/-- Bytes that the access covers. -/
def podBytes (a : PodAccess) : Nat :=
  match a.op with
  | .load n => n
  | .store bs => bs.length
  | .add w _ | .swap w _ | .cas w _ _ => w

def podWrites (a : PodAccess) : Bool :=
  match a.op with
  | .load _ => false
  | _ => true

/-- The home slice performs the access: the frame map of this module allows it, and no line of it is poisoned or, for a write,
held. -/
def State.podOk (s : State) (a : PodAccess) : Bool :=
  let m := s.msys
  m.bring.inPod && !m.podDown && !m.fenced.contains a.module && a.module != m.pkg && decide (a.offset + podBytes a ≤ hbmBytes)
    && decide (a.offset % 128 + podBytes a ≤ 128) && !m.carved a.offset && (frameCheck (m.frameOf 0 a.offset) a.world (podLeaf a)).isNone
    && !m.poisoned a.offset && !(podWrites a && m.isHeld a.offset)

/-- An atomic at the home slice, on `w` bytes. -/
def MemSys.podAtomic (m : MemSys) (a : PodAccess) (w : Nat) (f : Nat → Nat) : MemSys :=
  let m := m.number a.msd a.offset
  m.softWrite a.world a.offset (leBytes (f (m.readNat a.offset w)) w)

/-- The event POD_WINDOW_ACCESS (R319); a flit whose access is refused ends the silence of its module too (R357). -/
def execPodWindowAccess (a : PodAccess) (s : State) : Host.Outcome State Fault Refusal :=
  if !s.podOk a then .next (s.flitFrom a.module)
  else let s := s.heard a.module
    match a.op with
    | .load _ => .next (s.setMsys (s.msys.number a.msd a.offset))
    | .store bs =>
      let m := s.msys.number a.msd a.offset
      .next (s.setMsys (m.softWrite a.world a.offset bs))
    | .add w x => .next (s.setMsys (s.msys.podAtomic a w (fun old => old + x.toNat)))
    | .swap w x => .next (s.setMsys (s.msys.podAtomic a w (fun _ => x.toNat)))
    | .cas w e x => .next (s.setMsys (s.msys.podAtomic a w (fun old => if old = e.toNat % 2 ^ (8 * w) then x.toNat else old)))

end Sys2Proof.Machine
end

