-- ==== Sys2Proof/Machine/FaultEvents.lean ====
section
/-! DEFINITION. The fault queue's events: posts and replies (R330, R332), page requests (R337), ATS (R333) and access counters
(R334). -/

namespace Sys2Proof.Machine

/-! Posts and replies. -/

/-- Remove the first post of a die that waits. -/
def dropPost (die : Nat) : List (Nat × FaultPost × FaultOwner) → List (Nat × FaultPost × FaultOwner)
  | [] => []
  | p :: ps => if p.1 = die then ps else p :: dropPost die ps

/-- The event FAULT_RECORD_POST (R330): the oldest post that waits takes a slot that has become free. -/
def execFaultRecordPost (die : Nat) (s : State) : Host.Outcome State Fault Refusal :=
  match s.msys.posts.find? (fun p => p.1 == die) with
  | some (_, p, o) =>
    if s.msys.faultRoom die then .next (s.setMsys (({ s.msys with posts := dropPost die s.msys.posts } : MemSys).faultWrite p o)) else .next s
  | none => .next s

/-- The record of an index that has neither been answered nor overwritten (R332). -/
def MemSys.unanswered (m : MemSys) (die : Nat) (index : Word) : Option FaultRec :=
  match m.faultAt die (index.toNat % 4096) with
  | some r => if r.index = index ∧ r.answer = none then some r else none
  | none => none

/-- Note the answer in the record's status and in the device's memory of it. -/
def MemSys.answer (m : MemSys) (die : Nat) (index : Word) (retry : Bool) : MemSys :=
  let m := m.writeFree 0 (m.faultSlotAddr die index + 0x1C) (leBytes (if retry then 1 else 2) 4)
  { m with faults := m.faults.map (fun r => if r.1 = die ∧ r.2.index = index then (r.1, { r.2 with answer := some retry }) else r) }

/-- Note the answer in the operation that posted the record, and act once its batch is answered (R332). -/
def State.answerOp (s : State) (id : Nat) (index : Word) (retry : Bool) : State :=
  match s.opAt id with
  | some o =>
    let o := { o with fails := o.fails.map (fun f => if f.index = index then { f with answer := some retry } else f) }
    (s.setOp o).settleReplies o.crew o.team o.batch
  | none => s

/-- A page-list block is read again, or all its entries take the invalid path (R332). -/
def State.answerBlock (s : State) (gid : Word) (key : Nat) (retry : Bool) : State :=
  match s.gridAt gid with
  | some g =>
    if retry then s.setGrid { g with blocks := Sparse.set 0 g.blocks key 0 }
    else s.setGrid { g.loseBlock (key % 2 ^ 32) with blocks := Sparse.set 0 g.blocks key 1 }
  | none => s

/-- Device agents write again; queues whose last completion is written end (R298). -/
def State.retryAgents (s : State) : State := s.queues.foldl (fun s q => s.settleQueue q.1) s.agentFlush

/-- A device agent writes again (R332). -/
def State.answerAgent (s : State) (id : Nat) : State :=
  State.retryAgents { s with agents := s.agents.map (fun w => if w.id = id then { w with waiting := false } else w) }

/-- A key is requested again, or the acquisition restarts from the first key (R308, R332). -/
def State.answerKey (s : State) (id : Nat) (retry : Bool) : State :=
  match s.taskAt id with
  | some t =>
    match t.phase with
    | .overflow i => if retry then s.setTask id { t with phase := .want i } else (s.setTask id { t with phase := .want 0 }).releaseKeys id
    | _ => s
  | none => s

/-- A re-landing reads its park slot again (R329, R332). -/
def State.answerLanding (s : State) (cid : Nat) : State :=
  match s.crewAt cid with
  | some c => s.setCrew cid { c with landWait := false }
  | none => s

/-- A reply (R332); it ends the record's page request group (R337). -/
def State.reply (s : State) (die : Nat) (index : Word) (retry : Bool) : State :=
  match s.msys.unanswered die index with
  | none => s
  | some r =>
    let s := { s.setMsys (s.msys.answer die index retry) with pri := s.pri.filter (fun g => !(g.die == die && g.index == index)) }
    match r.owner with
    | .none => s
    | .engine id _ _ => s.answerOp id index retry
    | .listBlock gid key => s.answerBlock gid key retry
    | .agent id => s.answerAgent id
    | .keys id => s.answerKey id retry
    | .slot ctx k => s.answerSlot ctx k retry
    | .landing cid => s.answerLanding cid
    | .reader key => { s with readers := s.readers.filter (fun k => k != key) }

/-- The event FAULT_REPLY_RETRY (R332). -/
def execFaultReplyRetry (die : Nat) (index : Word) (s : State) : Host.Outcome State Fault Refusal := .next (s.reply die index true)

/-- The event FAULT_REPLY_END (R332). -/
def execFaultReplyEnd (die : Nat) (index : Word) (s : State) : Host.Outcome State Fault Refusal := .next (s.reply die index false)

/-! Page requests (R337). -/

/-- Group index of a record. -/
def groupIndex (index : Word) : Nat := index.toNat % 512

/-- The oldest cause-10 record of a die that awaits its page request: it arose in hardware mode (R365), the group index is free, and
fewer than 512 groups are outstanding. -/
def State.nextPri (s : State) (die : Nat) : Option FaultRec :=
  let out := s.pri.filter (fun g => g.die == die)
  if 512 ≤ out.length then none
  else (s.msys.faults.reverse.find? (fun r => r.1 == die && r.2.post.cause == 10 && r.2.answer.isNone && !r.2.post.assisted
    && !out.any (fun g => groupIndex g.index == groupIndex r.2.index))).map Prod.snd

/-- The group of a record: one Page Request, with Last set (R337). -/
def State.priOf (s : State) (die : Nat) (r : FaultRec) : PriGroup :=
  ⟨die, r.index, spacePasid (s.msys.spaceEntry r.post.space), r.post.addr / 4096, !r.post.write, r.post.write, true⟩

/-- The event PAGE_REQUEST_SEND (R337): the device sends the group of a record that arose in hardware mode (R365). -/
def execPageRequestSend (die : Nat) (s : State) : Host.Outcome State Fault Refusal :=
  match s.nextPri die with
  | some r => .next { s with pri := s.pri ++ [s.priOf die r] }
  | none => .next s

/-- The event PRG_RESPONSE (R337): the response answers the record of an outstanding group. -/
def execPrgResponse (die group : Nat) (success : Bool) (s : State) : Host.Outcome State Fault Refusal :=
  match s.pri.find? (fun g => g.die == die && groupIndex g.index == group) with
  | some g => .next (State.reply { s with pri := s.pri.filter (fun x => !(x.die == die && x.index == g.index)) } die g.index success)
  | none => .next s

/-! ATS (R333). -/

/-- The request that a completion answers. -/
def MemSys.atsFor (m : MemSys) (die : Nat) (a : AtsAnswer) : Option AtsReq :=
  m.ats.find? (fun r => r.die == die && r.page == a.page && !r.denied && spacePasid (m.spaceEntry r.space) == a.pasid)

/-- The host leaf with the frame and the permissions that the host grants (R333): a write or a fetch that it does not grant is not permitted
by the entry, and bit 63 of the TLB's copy notes that it grants no read. -/
def grantLeaf (leaf : Dword) (a : AtsAnswer) : Dword :=
  let l := (leaf &&& 0xFFF#64) ||| BitVec.ofNat 64 (a.frame % 2 ^ 40 * 2 ^ 12)
  let l := if a.write then l else l &&& ~~~0x8#64
  let l := if a.exec then l else l &&& ~~~0x10#64
  if a.read then l else l ||| (1#64 <<< 63)

/-- The host grants some access (R333). -/
def atsGrants (a : AtsAnswer) : Bool := a.granted && (a.read || a.write || a.exec)

/-- The event ATS_COMPLETION (R333): the translation is cached, or the access is to fail with cause 10. -/
def execAtsCompletion (die : Nat) (a : AtsAnswer) (s : State) : Host.Outcome State Fault Refusal :=
  match s.msys.atsFor die a with
  | none => .next s
  | some r =>
    let rest := s.msys.ats.filter (fun x => !(x == r))
    if !atsGrants a then .next (State.retryAgents (s.setMsys { s.msys with ats := { r with denied := true } :: rest }))
    else match s.msys.walk r.space (a.page * 4096) with
      | .ok (leaf, lvl) =>
        let m := ({ s.msys with ats := rest } : MemSys)
        if leafHost leaf && inHost (a.frame * 4096) then
          .next (State.retryAgents (s.setMsys (m.tlbFill (agentAccess die r.space false false) (a.page * 4096) (grantLeaf leaf a) lvl)))
        else .next (s.setMsys m)
      | .error _ => .next (s.setMsys { s.msys with ats := rest })

/-- An access that may have used a translation that the host invalidates is not complete: one to host memory that is still to be performed, or an
engine operation that has taken the translation (R289, R333). -/
def State.usesHost (s : State) (pasid page : Nat) : Bool :=
  s.teams.any (fun p => p.2.any (fun t => t.late.any (fun a => a.places.any (fun q => !q.scratch && inHost q.addr))))
    || s.ops.any (fun o => spacePasid (s.msys.spaceEntry o.world) == pasid && o.usesHit 0 o.world (page * 4096))

/-- The event ATS_INVALIDATION (R333): every TLB of the module loses the translation, and the request stands until what used it is complete. -/
def execAtsInvalidation (pasid page : Nat) (s : State) : Host.Outcome State Fault Refusal :=
  .next { s.setMsys { s.msys with tlb := s.msys.tlb.filter (fun e =>
      !(leafHost e.leaf && e.covers e.space page && spacePasid (s.msys.spaceEntry e.space) == pasid)) } with
    invalidations := (pasid, page) :: s.invalidations.filter (fun p => p != (pasid, page)) }

/-- An invalidation request completes (R333). -/
def State.endInvalidation (s : State) (pasid page : Nat) : State :=
  if s.usesHost pasid page then s else { s with invalidations := s.invalidations.filter (fun p => p != (pasid, page)) }

/-! Access counters (R334). -/

/-- Remove the first record that matches. -/
def dropReached (f : FaultPost → Bool) : List FaultPost → List FaultPost
  | [] => []
  | p :: ps => if f p then ps else p :: dropReached f ps

/-- The event ACCESS_COUNTER_THRESHOLD (R334): the record of a counter that has reached the threshold or left the cache,
once a slot is free (R330). -/
def execAccessCounterThreshold (die space region : Nat) (s : State) : Host.Outcome State Fault Refusal :=
  let here := fun (p : FaultPost) => p.die == die && p.space == space && p.addr == region * 65536
  match s.msys.reached.find? here with
  | some p =>
    if s.msys.canPost die then .next (s.setMsys (({ s.msys with reached := dropReached here s.msys.reached } : MemSys).faultWrite p .none))
    else .next s
  | none => .next s

end Sys2Proof.Machine
end

