-- ==== Sys2Proof/Machine/HostLink.lean ====
section
/-! DEFINITION. The host's links: CXL.mem requests, snoops, the data link and the quarantine (R351 to R354), and entry to ERROR (R361). -/

namespace Sys2Proof.Machine

def State.setFirm (s : State) (f : Firm) : State := { s with firm := f }

/-- A response on the session's response ring (R359). -/
def State.respond (s : State) (r : Response) : State := s.setFirm { s.firm with responses := s.firm.responses ++ [r] }

/-- The memory-side bit of the frame of an address (R324). -/
def MemSys.frameMsd (m : MemSys) (pa : Nat) : Bool := (Sparse.get 0 m.frames (pa / 4096)).getLsbD 10

/-- A host request that is performed: one line of HBM at most, outside the carve-outs, and not poisoned (R319, R326). -/
def MemSys.hostMay (m : MemSys) (pa n : Nat) : Bool :=
  m.linkUp && inHbm pa && !m.carved pa && !m.poisoned pa && decide (pa % 128 + n ≤ 128)

/-- The event CXL_MEM_REQUEST (R51, R352): a write to a held line is dropped. -/
def execCxlMemRequest (pa : Nat) (write : Option (List Byte)) (s : State) : Host.Outcome State Fault Refusal :=
  match write with
  | none => if s.msys.hostMay pa 1 then .next (s.setMsys (s.msys.number (s.msys.frameMsd pa) pa)) else .next s
  | some bs =>
    if s.msys.hostMay pa bs.length && !s.msys.isHeld pa then .next (s.setMsys ((s.msys.number (s.msys.frameMsd pa) pa).softWrite 0 pa bs))
    else .next s

/-- The bytes that the host stores into a line, in order. -/
def MemSys.hostStore (m : MemSys) (line : Nat) : List (Nat × Byte) → MemSys
  | [] => m
  | (off, b) :: ws => (m.pokeB (line * 128 + off % 128) b).hostStore line ws

/-- The event HOST_SNOOP (R352): a slice that holds the line dirty writes it back and gives it up, and the host's stores follow; bytes of
read-only fields keep their values (R7). -/
def execHostSnoop (line : Nat) (store : List (Nat × Byte)) (s : State) : Host.Outcome State Fault Refusal :=
  if inHost (line * 128) then
    let m := match s.msys.dirtyFind line with
      | some d => s.msys.writeBack d
      | none => s.msys
    .next (s.setMsys (m.hostStore line (store.filter (fun w => !s.msys.readOnly (line * 128 + w.1 % 128)))))
  else .next s

/-! The data link (R354). -/

/-- Key of a quarantine entry. -/
def qKey (slice entry : Nat) : Nat := slice * 2 ^ 20 + entry

/-- The lowest free entry of a slice's quarantine region. -/
def State.qFree (s : State) (slice : Nat) : Nat :=
  ((List.range (s.quarantine.length + 1)).find? (fun i => (Sparse.get none s.quarantine (qKey slice i)).isNone)).getD s.quarantine.length

/-- Write a dirty line into the quarantine; the line is poisoned, and no L1 keeps a copy of it, so that once it is released the next access
reads host memory (R326, R354). -/
def State.quarantineLine (s : State) (d : DirtyLine) : State :=
  let slice := homeOf (d.line * 128)
  let key := qKey slice (s.qFree slice)
  let s := s.setMsys { s.msys.setPoison d.line true with l1 := s.msys.l1.filter (fun l => l.line != d.line) }
  { s with quarantine := Sparse.set none s.quarantine key (some ⟨d.data, d.line * 128, d.seq, d.world, 1⟩) }

/-- Entries in use by slice (R354). -/
def State.quarantineCounts (s : State) : List Nat :=
  (List.range 8).map (fun slice => (s.quarantine.filter (fun p => p.1 / 2 ^ 20 == slice)).length)

/-- RUN gives way to ERROR (R361). -/
def State.enterError (s : State) : State :=
  if s.firm.iface = .run then (s.setFirm { s.firm with iface := .error }).setMsys { s.msys with hostOk := false } else s

/-- The memory accesses of a team that are still to be performed are, in order, from place `k` on; what only takes their bytes stays. -/
def State.performMemory (s : State) (r : TeamRef) : Nat → Nat → State
  | 0, _ => s
  | n + 1, k =>
    match s.teamAt r with
    | none => s
    | some t =>
      match t.late[k]? with
      | none => s
      | some a =>
        if a.places.isEmpty then s.performMemory r n (k + 1)
        else (s.performAt (freeAt s (61000 + n)) r k).performMemory r n k

/-- Accesses to host memory that have been accepted are performed before the link leaves its active state, with the team's accesses that come
before them (R239; DEDUCED, log 91). -/
def State.settleHost (s : State) : State :=
  s.teams.foldl (fun s p => match p.2 with
    | some t => if t.late.any (fun a => a.places.any (fun q => !q.scratch && inHost q.addr)) then s.performMemory (refOf p.1) t.late.length 0 else s
    | none => s) s

/-- The event DATA_LINK_DOWN (R354, R361). -/
def execDataLinkDown (s : State) : Host.Outcome State Fault Refusal :=
  if s.msys.linkUp then
    let s := s.settleHost
    let dirty := s.msys.dirty
    let s := s.setMsys { s.msys with linkUp := false, dirty := [] }
    let s := dirty.foldl State.quarantineLine s
    .next (s.respond (.quarantine s.quarantineCounts)).enterError
  else .next s

/-- The event DATA_LINK_ACTIVE (R354): quarantined lines stay poisoned. -/
def execDataLinkActive (s : State) : Host.Outcome State Fault Refusal :=
  if s.firm.phase = .ready then .next (s.setMsys { s.msys with linkUp := true }) else .next s

/-- The event IDE_FAILURE (R361). -/
def execIdeFailure (s : State) : Host.Outcome State Fault Refusal := .next s.enterError

/-- The event CONFIG_ACCESS_OUTSIDE_MESSAGE (R361). -/
def execConfigAccessOutsideMessage (s : State) : Host.Outcome State Fault Refusal := .next s.enterError

end Sys2Proof.Machine
end

