-- ==== Sys2Proof/Machine/Service.lean ====
section
/-! DEFINITION. Service calls (R47, R265, R294): the batches of `svc`, and the reads and writes of `c.svcnext` and `c.svcdone`. -/

namespace Sys2Proof.Machine

/-! The service area (R294). -/

def svcKey (die slot : Nat) : Nat := die * 256 + slot

/-- Channel of the device's write of a batch: one whose writes to held lines are dropped (R51). -/
def svcChan (die slot : Nat) : Nat := 2 ^ 34 + 2 * svcKey die slot + 1

/-- Free batches of a die, lowest first. -/
def State.svcFree (s : State) (die : Nat) : List Nat := (List.range 256).filter (fun i => (Sparse.get none s.svc (svcKey die i)).isNone)

/-- Address of a batch, in world 0. -/
def State.svcAddr (s : State) (die slot : Nat) : Nat := (s.msys.bring.svcBase.getD die 0 + 512 * slot) % 2 ^ 57

/-- A handle as `c.ctxcrew` lays it out (R290). -/
def handleCode (r : TeamRef) : Nat := r.slot + 2 ^ 8 * r.core + 2 ^ 16 * r.die

/-- The 512 bytes of a batch (R294). -/
def svcBytes (c : Issuer) (free k word : Nat) (mask : Word) (a : Reg) : List Byte :=
  leBytes mask.toNat 4 ++ leBytes (k + 256 * word) 4 ++ leBytes c.crew.world 4 ++ leBytes (handleCode c.ref) 4 ++ leBytes 0 48
    ++ (List.range 32).flatMap (fun l =>
        leBytes (if mask.getLsbD l then (c.team.v free (32 * word + l) a.toNat).toNat else 0) 4 ++ leBytes 0 4)
    ++ leBytes 0 192

/-- The non-empty words of a team: those whose word_live bit is 1, whatever the guard says (R25). -/
def Team.liveWords (t : Team) : List Nat := (List.range 32).filter (fun w => (wordLive t.mask).getLsbD w)

/-- Hand one word's lanes over as a batch. -/
def State.svcHand (s : State) (c : Issuer) (k : Nat) (lanes : LaneSet) (a : Reg) (p : Nat × Nat) : State :=
  let (slot, word) := p
  let mask := wordMask lanes word
  let s := { s with svc := Sparse.set none s.svc (svcKey c.ref.die slot) (some ⟨c.ref, c.cid, c.team.index, mask, word, false⟩) }
  s.agentWrite (svcChan c.ref.die slot) c.ref.die 0 (s.svcAddr c.ref.die slot) (svcBytes c s.rf k word mask a) false

/-- `svc` (R265, R294): one batch for each non-empty word, of which the lanes that call are those active.  The hand-over is a release, so that
earlier accesses are performed first (R139). -/
def execSvc (d a : Reg) (k : BitVec 8) (s : State) : Host.Outcome State Fault Refusal :=
  s.issue fun c =>
    let (lanes, done) := c.team.todo s.rf
    let lanes := laneSetOf lanes
    let words := c.team.liveWords
    let free := s.svcFree c.ref.die
    if !c.vOk false d || !c.vOk false a || c.crew.gid == 0 || (c.crew.task.isSome && !c.crew.committed) then s.illegal c
    else if !s.msys.bring.services.contains k.toNat then
      s.raise { c with team := { c.team with replay := some (lanes, done) } } .svcFault k.toNat 0 done
    else if words.isEmpty then s.setTeam c.ref (c.team.advance 1 (some (c.team.source s.rf a)))
    else if !c.team.late.isEmpty then s.stall c .accesses
    else if free.length < words.length then s.stall c (.svcRoom words.length)
    else
      let t := { c.team with svc := some ⟨words.length, lanes, done⟩, wait := some .svc }
      (List.zip free words).foldl (fun s p => s.svcHand c k.toNat lanes a p) (s.setTeam c.ref t)

/-! `c.svcnext` and `c.svcdone` (R294). -/

/-- The next batch of a die that is pending: written, and not taken yet.  Of several it is the one in the lowest slot (DESIGN CHOICE, log 85: R294
names no order). -/
def State.svcPending (s : State) (die : Nat) : Option Nat :=
  (List.range 256).find? (fun i => (match Sparse.get none s.svc (svcKey die i) with
    | some b => !b.taken
    | none => false) && !s.agentBusy (svcChan die i))

/-- A read of `c.svcnext` (R294). -/
def State.svcnextRead (s : State) (c : Issuer) (d : Reg) : State :=
  match s.svcPending c.ref.die with
  | none => s.stall c .svcnext
  | some slot =>
    let s := match Sparse.get none s.svc (svcKey c.ref.die slot) with
      | some b => { s with svc := Sparse.set none s.svc (svcKey c.ref.die slot) (some { b with taken := true }) }
      | none => s
    s.setTeam c.ref ((c.team.writeS d.toNat (BitVec.ofNat 32 (512 * slot))).advance 1 none)

/-- Results of a batch: the successful lanes of its word receive theirs (R265). -/
def Team.svcResults (t : Team) (d : Reg) (word : Nat) (mask success : Word) (bs : List Byte) : Team :=
  let lanes := (List.range 32).filter (fun l => (mask &&& success).getLsbD l)
  t.writeV [d.toNat] (lanes.map (fun l => (regKey (32 * word + l) d.toNat, BitVec.ofNat 32 (leNat ((bs.drop (0x44 + 8 * l)).take 4)))))

/-- The lanes of one word as team-wide lanes. -/
def wordLanes (word : Nat) (m : Word) : LaneSet := BitVec.ofNat 1024 (m.toNat * 2 ^ (32 * word))

/-- The call has come back whole: it ends, with its source `a` held where the hint says so (R82), or the lanes that failed raise `SVC_FAULT` (R265). -/
def State.svcEnd (s : State) (r : TeamRef) (a : Reg) (k : Nat) (call : SvcCall) : State :=
  match s.issuerAt r with
  | none => s
  | some c =>
    let t := { c.team with svc := none }
    let s := s.setMsys (s.msys.acquire r.die r.core .die)
    let left := call.lanes &&& ~~~call.success
    if left = 0 then s.setTeam r (t.advance 1 (some (c.team.source s.rf a)))
    else s.raise { c with team := { t with replay := some (left, call.success) } } .svcFault k 0 call.success

/-- A batch returns to its caller (R265, R294).  A crew that has been Parked meanwhile by another of its teams does not hold the return back: the
call ends, or its trap is raised, at once (DESIGN CHOICE, log 83: R65 names neither). -/
def State.svcReturn (s : State) (b : SvcBatch) (bs : List Byte) : State :=
  match s.teamAt b.caller with
  | none => s
  | some t =>
    match t.svc, t.current with
    | some call, some (.svc d a k) =>
      if t.crew ≠ b.crew ∨ t.index ≠ b.team then s
      else
        let success := BitVec.ofNat 32 (leNat ((bs.drop 0x10).take 4))
        let call : SvcCall := ⟨call.out - 1, call.lanes, call.success ||| wordLanes b.word (b.mask &&& success)⟩
        let s := s.setTeam b.caller { t.svcResults d b.word b.mask success bs with svc := some call }
        if call.out = 0 then s.svcEnd b.caller a k.toNat call else s
    | _, _ => s

/-- A write of `c.svcdone` (R294); a value that is not the offset of a batch taken returns nothing.  The return is a release, so that
earlier accesses are performed first (R139).  A results area that cannot be read traps the team as an access of its own would (DEDUCED, log 43). -/
def State.svcdoneWrite (s : State) (c : Issuer) (d : Reg) : State :=
  let off := (c.team.s s.rf d.toNat).toNat
  let slot := off / 512
  match (if off % 512 = 0 ∧ slot < 256 then Sparse.get none s.svc (svcKey c.ref.die slot) else none) with
  | none => s.setTeam c.ref (c.team.advance 1 none)
  | some b =>
    if !b.taken then s.setTeam c.ref (c.team.advance 1 none)
    else if !c.team.late.isEmpty then s.stall c .accesses
    else match s.msys.agentRead (freeAt s 42600) c.ref.die 0 (s.svcAddr c.ref.die slot) 512 with
      | .error f =>
        if f.1 = 0 then (s.stall c (.ats 0 (f.2 / 4096))).setMsys (s.msys.atsAsk c.ref.die 0 f.2 false)
        else if f.1 = 7 then s.raise c .worldViolation 0 f.2 0
        else
          let s := if f.1 = 10 then s.setMsys (s.msys.atsForget c.ref.die 0 f.2) else s
          s.xlateTrap c 7 f.1 false false 0 f.2 0 (0, 0)
      | .ok (bs, m) =>
        let s := { s.setMsys m with svc := Sparse.set none s.svc (svcKey c.ref.die slot) none }
        (s.setTeam c.ref (c.team.advance 1 none)).svcReturn b bs

/-- The event SVCNEXT_READ (R294): the read of `c.svcnext` by the team that issues. -/
def execSvcnextRead (d : Reg) (s : State) : Host.Outcome State Fault Refusal :=
  s.issue fun c => if c.team.may 1 then s.svcnextRead c d else s.illegal c

/-- The event SVCDONE_WRITE (R294): the write of `c.svcdone` by the team that issues. -/
def execSvcdoneWrite (d : Reg) (s : State) : Host.Outcome State Fault Refusal :=
  s.issue fun c => if c.team.may 1 then s.svcdoneWrite c d else s.illegal c

end Sys2Proof.Machine
end

