-- ==== Sys2Proof/Machine/Priv.lean ====
section
/-! DEFINITION. `eret` (R286, R287), `sysrd` and `syswr` (R282, R288), and `tlbinv` (R289). -/

namespace Sys2Proof.Machine

/-! `eret`. -/

/-- The `n` bytes of a frame from `off` on (R284); none where their line cannot be accessed.  The read takes a number on a memory-side line
(R118). -/
def State.frameRead (s : State) (f : Frame) (off n : Nat) : Option (Nat × State) :=
  if s.msys.broken (f.phys + off) then none
  else some (s.msys.readNat (f.phys + off) n, s.setMsys (s.msys.number f.msd (s.msys.norm (f.phys + off))))

/-- Execution resumes after the instruction at the frame's pc (R287). -/
def Team.skipAt (t : Team) (f : Frame) : Team := (t.replayAt f 0).advance f.len none

/-- What `eret` does with the action that the handler left (R287); a frame that cannot be read is a trap in the handler, so a double trap (R283,
R326). -/
def State.eretAction (s : State) (c : Issuer) (f : Frame) (action : Nat) : State :=
  match action with
  | 0 =>
    if f.cause = 9 then s.setTeam c.ref (c.team.skipAt f)
    else match s.frameRead f 0x80 128 with
      | some (done, s) => s.setTeam c.ref (c.team.replayAt f (BitVec.ofNat 1024 done))
      | none => s.doubleTrap c c.team.pc
  | 1 => if f.inClause then s.setTeam c.ref (c.team.skipAt f) else s.doubleTrap c c.team.pc
  | 2 => (s.setTeam c.ref ((c.team.restore f).without c.team.present)).afterRetire c.cid c.team.index
  | _ => s.doubleTrap c c.team.pc

/-- `eret` (R286, R287).  The handler's accesses are performed first, so that what it has stored in the frame and in page tables is seen (R284,
R328). -/
def execEret (s : State) : Host.Outcome State Fault Refusal :=
  s.issue fun c =>
    if !c.team.may 2 then s.illegal c
    else if !c.team.late.isEmpty then s.stall c .accesses
    else match c.team.frame with
      | none => s.doubleTrap c c.team.pc
      | some f =>
        if c.team.ret.length ≠ f.retDepth ∨ c.team.div.length ≠ f.divDepth then s.doubleTrap c c.team.pc
        else match s.frameRead f 0x18 4 with
          | some (action, s) => s.eretAction c f action
          | none => s.doubleTrap c c.team.pc

/-! `sysrd` and `syswr` (R282). -/

/-- Level of a register; none for a number that is not listed. -/
def sysLevel (i : Nat) : Option Nat :=
  if i = 0x00 ∨ (0x10 ≤ i ∧ i ≤ 0x13) then some 1
  else if i ≤ 0x13 ∨ (0x20 ≤ i ∧ i ≤ 0x3F) then some 2
  else none

/-- The low and the high word of a value. -/
def lowWord (x : Nat) : Word := BitVec.ofNat 32 x
def highWord (x : Nat) : Word := BitVec.ofNat 32 (x / 2 ^ 32)

/-- Where a register of the frame stands in memory, which the handler may store to: the action and the words of the done mask (R284). -/
def frameOffset (i : Nat) : Option Nat := if i = 7 then some 0x18 else if 0x20 ≤ i ∧ i ≤ 0x3F then some (0x80 + 4 * (i - 0x20)) else none

/-- A register that is a view of the active frame (R282, R284). -/
def State.frameReg (s : State) (f : Frame) (i : Nat) : Word :=
  match i with
  | 0x01 => BitVec.ofNat 32 f.cause
  | 0x02 => f.arg
  | 0x03 => lowWord f.pc.toNat
  | 0x04 => highWord f.pc.toNat
  | 0x05 => lowWord f.tva.toNat
  | 0x06 => highWord f.tva.toNat
  | _ => BitVec.ofNat 32 (s.msys.readNat (f.phys + (frameOffset i).getD 0) 4)

/-- Whether a register is a view of the frame. -/
def isFrameReg (i : Nat) : Bool := (decide (1 ≤ i) && decide (i ≤ 7)) || (decide (0x20 ≤ i) && decide (i ≤ 0x3F))

/-- The value of a register other than `c.svcnext`; one that is write-only reads zero (R7). -/
def State.sysValue (s : State) (c : Issuer) (i : Nat) : Word :=
  let core := s.coreAt c.ref.die c.ref.core
  let base := s.msys.bring.svcBase.getD c.ref.die 0
  if isFrameReg i then
    match c.team.frame with
    | some f => s.frameReg f i
    | none => 0
  else match i with
    | 0x00 => BitVec.ofNat 32 c.team.level
    | 0x08 => lowWord core.tvec.toNat
    | 0x09 => highWord core.tvec.toNat
    | 0x0A => lowWord core.tframe.toNat
    | 0x0B => highWord core.tframe.toNat
    | 0x0C => BitVec.ofNat 32 c.crew.world
    | 0x0D => c.team.ctxcrew
    | 0x0E => c.team.ctxstat
    | 0x0F => c.team.tlbspace
    | 0x12 => lowWord base
    | 0x13 => highWord base
    | _ => 0

/-- A register that the team may name. -/
def Team.sysMay (t : Team) (i : Nat) : Bool :=
  match sysLevel i with
  | some n => t.may n
  | none => false

/-- The active frame and the address of a register that stands in it in memory. -/
def Team.frameSlot (t : Team) (i : Nat) : Option (Frame × Nat) :=
  match t.frame, frameOffset i with
  | some f, some off => some (f, f.phys + off)
  | _, _ => none

/-- `sysrd` (R282, R288); a line of the frame that cannot be accessed is a trap in the handler, so a double trap (R283, R326). -/
def execSysrd (d : Reg) (i : BitVec 16) (s : State) : Host.Outcome State Fault Refusal :=
  s.issue fun c =>
    if !c.team.sysMay i.toNat then s.illegal c
    else if i = 0x10 then s.svcnextRead c d
    else if isFrameReg i.toNat && !c.team.late.isEmpty then s.stall c .accesses
    else
      let t := (c.team.writeS d.toNat (s.sysValue c i.toNat)).advance 1 none
      match c.team.frameSlot i.toNat with
      | some (f, pa) => if s.msys.broken pa then s.doubleTrap c c.team.pc else (s.setMsys (s.msys.number f.msd (s.msys.norm pa))).setTeam c.ref t
      | none => s.setTeam c.ref t

/-- Write the low or the high word of an address register; the bits of `mask` exist (R6, R282). -/
def putAddr (old : VAddr) (high : Bool) (w mask : Word) : VAddr :=
  if high then BitVec.ofNat 57 (old.toNat % 2 ^ 32 + 2 ^ 32 * (w &&& mask).toNat) else BitVec.ofNat 57 (old.toNat / 2 ^ 32 * 2 ^ 32 + (w &&& mask).toNat)

def State.setCore (s : State) (die core : Nat) (r : CoreRegs) : State := { s with cores := Sparse.set CoreRegs.initial s.cores (die * 64 + core) r }

/-- Write `c.tvec` or `c.tframe` (R282). -/
def State.writeCoreReg (s : State) (die core i : Nat) (w : Word) : State :=
  let r := s.coreAt die core
  s.setCore die core (match i with
    | 0x08 => { r with tvec := putAddr r.tvec false w 0xFFFFFFFC }
    | 0x09 => { r with tvec := putAddr r.tvec true w 0x01FFFFFF }
    | 0x0A => { r with tframe := putAddr r.tframe false w 0xFFFFF000 }
    | _ => { r with tframe := putAddr r.tframe true w 0x01FFFFFF })

/-- A register that `syswr` may write. -/
def sysWritable (i : Nat) : Bool :=
  decide (7 ≤ i ∧ i ≤ 0x0B) || i == 0x0D || i == 0x0F || i == 0x11 || decide (0x20 ≤ i ∧ i ≤ 0x3F)

/-- `syswr` (R282, R288); the action and the done mask are written in the frame, as the team's store (R113, R284). -/
def execSyswr (d : Reg) (i : BitVec 16) (s : State) : Host.Outcome State Fault Refusal :=
  s.issue fun c =>
    let n := i.toNat
    let w := c.team.s s.rf d.toNat
    if !c.team.sysMay n || !sysWritable n then s.illegal c
    else if n = 0x11 then s.svcdoneWrite c d
    else if isFrameReg n && !c.team.late.isEmpty then s.stall c .accesses
    else if isFrameReg n then
      match c.team.frameSlot n with
      | some (f, pa) =>
        if s.msys.broken pa then s.doubleTrap c c.team.pc
        else (s.setMsys (s.msys.store c.ref.die c.ref.core c.crew.world f.msd pa (leBytes w.toNat 4))).setTeam c.ref (c.team.advance 1 none)
      | none => s.illegal c
    else match n with
      | 0x0D => s.setTeam c.ref ({ c.team with ctxcrew := w &&& 0x00073F0F }.advance 1 none)
      | 0x0F => s.setTeam c.ref ({ c.team with tlbspace := w &&& 0x0000FFFF }.advance 1 none)
      | _ => (s.writeCoreReg c.ref.die c.ref.core n w).setTeam c.ref (c.team.advance 1 none)

/-! `tlbinv` (R289). -/

/-- Whether an invalidation reaches an entry of a TLB: one that maps the page, of whatever size it is (R289, R327). -/
def TlbEntry.hit (e : TlbEntry) (k space va : Nat) : Bool := k == 2 || (if k = 1 then e.space == space else e.covers space (va / 4096))

/-- Whether an invalidation reaches an entry that a walker keeps (R327). -/
def WalkEntry.hit (e : WalkEntry) (k space va : Nat) : Bool :=
  k == 2 || (e.space == space && (k == 1 || e.index == va / 2 ^ (21 + 9 * e.level)))

/-- Every TLB and every walker of the module drops the entries (R289). -/
def MemSys.invalidate (m : MemSys) (k space va : Nat) : MemSys :=
  { m with tlb := m.tlb.filter (fun e => !e.hit k space va), walks := m.walks.filter (fun e => !e.hit k space va) }

/-- The team has issued its `tlbinv`, and waits for what used the entries. -/
def Team.invalidating (t : Team) : Bool :=
  match t.wait with
  | some (.tlbinv _) => true
  | _ => false

/-- The pair keeps the column of its form. -/
def tlbPairOk (k x : Nat) : Bool :=
  match k with
  | 0 => decide (x < 2 ^ 57) && x % 4096 == 0
  | 1 | 2 => x == 0
  | _ => false

/-- `tlbinv` (R289): a release towards the walkers, so that the team's earlier accesses are performed first (R328).  The entries then leave every TLB
of every die at once, and the team waits until the engine operations that have used one of them have come to rest and every access accepted so
far is performed (DESIGN CHOICE, log 44: accesses that used no such entry are waited for too).  A space that does not exist has no entries, and
nothing is waited for (R320). -/
def execTlbinv (a : Reg) (k : BitVec 8) (s : State) : Host.Outcome State Fault Refusal :=
  s.issue fun c =>
    let x := c.team.s64 s.rf a.toNat
    if !c.team.may 2 || !evenReg a || !tlbPairOk k.toNat x then s.illegal c
    else
      let space := bitsOf c.team.tlbspace.toNat 0 16
      let used := (s.ops.filter (fun o => o.usesHit k.toNat space x)).map EngineOp.id
      if (k.toNat ≠ 2 ∧ 255 ≤ space) ∨ (s.teamAt c.ref).any Team.invalidating = true then s.setTeam c.ref (c.team.advance 1 none)
      else if !c.team.late.isEmpty then s.stall c .accesses
      else
        let s := s.setMsys (s.msys.invalidate k.toNat space x)
        if used.isEmpty && !s.anyLate then s.setTeam c.ref (c.team.advance 1 none) else s.stall c (.tlbinv used)

end Sys2Proof.Machine
end

