-- ==== Sys2Proof/Machine/Firmware.lean ====
section
/-! DEFINITION. Germ and Husk: the session ring and its messages (R296, R324, R350, R354, R359 to R362, R365), the scrub (R363), starts
(R358, R364), and the registers that the event REGISTER_WRITE writes (R7). -/

namespace Sys2Proof.Machine

/-! The session (R359). -/

/-- Germ runs: it offers the session (R358, R364). -/
def Firm.germ (f : Firm) : Bool := f.phase != .off

/-- The start is not in bare mode and has not failed: every message of the table may act (R364). -/
def Firm.full (f : Firm) : Bool :=
  match f.phase with
  | .starting | .ready => true
  | _ => false

/-- Germ accepts a message: its MAC holds, its session is current, and its sequence number is greater than the last accepted one. -/
def Firm.takes (f : Firm) (m : Msg) : Bool :=
  m.macOk && f.session == some m.session && (match f.lastSeq with
    | some n => decide (n < m.seq)
    | none => true)

/-- A message on the session ring (R359, R361): discarded and counted, answered with an error outside its states, or acted on. -/
def State.message (s : State) (m : Msg) (may : Bool) (act : State → State) : Host.Outcome State Fault Refusal :=
  if !s.firm.germ then .next s
  else if !s.firm.takes m then .next (s.setFirm { s.firm with discarded := s.firm.discarded + 1 })
  else
    let s := s.setFirm { s.firm with lastSeq := some m.seq }
    .next (if may then act s else s.respond .error)

def State.ok (s : State) (data : List Nat) : State := s.respond (.ok data)

/-- The interface is in RUN, and the start is not in bare mode. -/
def State.running (s : State) : Bool := s.firm.full && s.firm.iface == .run

/-- An attestation report: the measurement log, signed by Germ with the module's identity key (R358). -/
def Firm.attest (f : Firm) : List (BitVec 256) × List Byte := (f.measured, Config.germSigns f.measured)

/-- The event SPDM_SESSION (R359); Germ attests as the session begins (R358; DESIGN CHOICE, log 92: the spec does not say when it gives a report). -/
def execSpdmSession (id : Nat) (s : State) : Host.Outcome State Fault Refusal :=
  if s.firm.germ then .next (s.setFirm { s.firm with session := some id, lastSeq := none, report := some s.firm.attest }) else .next s

/-- The event SESSION_DOORBELL (R359): Germ reads the ring up to the tail; each message it reads is an event of its own. -/
def execSessionDoorbell (tail : Nat) (s : State) : Host.Outcome State Fault Refusal :=
  if s.firm.germ then .next (s.setFirm { s.firm with ringTail := tail % 256 }) else .next s

/-! Interface states (R361). -/

/-- The message LOCK. -/
def execLock (m : Msg) (s : State) : Host.Outcome State Fault Refusal :=
  s.message m (s.firm.full && s.firm.iface == .unlocked) fun s => (s.setFirm { s.firm with iface := .locked }).ok []

/-- The message START: the device may access host memory. -/
def execStart (m : Msg) (s : State) : Host.Outcome State Fault Refusal :=
  s.message m (s.firm.full && s.firm.iface == .locked) fun s =>
    ((s.setFirm { s.firm with iface := .run }).setMsys { s.msys with hostOk := true }).ok []

/-- Drain a queue (R298). -/
def State.drainQueue (s : State) (q : Nat) : State :=
  match s.queueAt q with
  | some x => if x.status < 2 then (s.setQueue q { x with status := 2 }).settleQueue q else s
  | none => s

/-- The message STOP: every queue drains. -/
def execStop (m : Msg) (s : State) : Host.Outcome State Fault Refusal :=
  s.message m (s.firm.full && s.firm.iface != .unlocked) fun s =>
    let s := s.setFirm { s.firm with stopping := true }
    ((s.queues.map Prod.fst).foldl State.drainQueue s).ok []

/-- Every queue is destroyed. -/
def State.queuesDone (s : State) : Bool :=
  s.queues.all (fun p => match p.2 with
    | some q => q.status == 3
    | none => true)

/-- The event STOP_COMPLETE (R361): UNLOCKED is entered once every queue has drained. -/
def execStopComplete (s : State) : Host.Outcome State Fault Refusal :=
  if s.firm.stopping && s.queuesDone then
    .next ((s.setFirm { s.firm with iface := .unlocked, stopping := false }).setMsys { s.msys with hostOk := false })
  else .next s

/-! Launch queues (R296). -/

/-- A physical range that Husk reads: mapped, not poisoned, and in the host range only while the data link is active. -/
def MemSys.huskMay (m : MemSys) (pa n : Nat) : Bool :=
  m.mapped pa && m.mapped (pa + n - 1) && !m.poisoned pa && !m.poisoned (pa + n - 1) && (!inHost pa || (m.linkUp && m.hostOk))

/-- The queue that a descriptor describes, if it keeps the rules of its fields (R296, R320); its reserved bytes are zero (R6). -/
def parseQueue (desc bell : Nat) (bs : List Byte) : Option Queue :=
  let ring := fieldAt bs 0 8
  let done := fieldAt bs 8 8
  let log := fieldAt bs 0x10 1
  let level := fieldAt bs 0x11 1
  let world := fieldAt bs 0x12 1
  if ring < 2 ^ 57 ∧ done < 2 ^ 57 ∧ ring % 4096 = 0 ∧ done % 4096 = 0 ∧ 1 ≤ log ∧ log ≤ 15 ∧ (level = 0 ∨ level = 2) ∧ world ≤ 254
    ∧ fieldAt bs 0x13 1 = 0 ∧ fieldAt bs 0x20 32 = 0
  then some ⟨desc, bell, ring, done, log, level, world, 0, 0, 0, 0xFFFFFFFF⟩
  else none

/-- The number names no queue, or one that is destroyed. -/
def State.queueFree (s : State) (q : Nat) : Bool :=
  match s.queueAt q with
  | some x => x.status == 3
  | none => true

/-- Doorbell pages without that of queue `q`. -/
def State.otherBells (s : State) (q : Nat) : List Nat :=
  match s.queueAt q with
  | some x => s.msys.bells.filter (fun b => b != x.bell)
  | none => s.msys.bells

/-- The message QUEUE_CREATE (R296). -/
def execQueueCreate (m : Msg) (q desc bell : Nat) (s : State) : Host.Outcome State Fault Refusal :=
  s.message m s.running fun s =>
    match (if s.queueFree q && bell % 4096 == 0 && desc % 64 == 0 && s.msys.huskMay desc 64 then parseQueue desc bell (s.msys.readN desc 64) else none) with
    | some x => ((s.setMsys { s.msys with bells := bell :: s.otherBells q }).setQueue q x).ok []
    | none => s.respond .error

/-- The message QUEUE_DESTROY (R298). -/
def execQueueDestroy (m : Msg) (q : Nat) (s : State) : Host.Outcome State Fault Refusal :=
  s.message m s.running fun s => if (s.queueAt q).isSome then (s.drainQueue q).ok [] else s.respond .error

/-! Worlds (R324, R362). -/

/-- The map entry of an assigned frame (R324). -/
def frameEntry (world attr : Nat) (msd : Bool) : BitVec 16 := BitVec.ofNat 16 (world + 256 * attr + (if msd then 1024 else 0) + 16384)

def frameState (f : BitVec 16) : Nat := bitsOf f.toNat 14 2
def frameWorld (f : BitVec 16) : Nat := bitsOf f.toNat 0 8

/-- Every frame of a range is free, and lies in HBM outside the carve-outs. -/
def MemSys.framesFree (m : MemSys) (first count : Nat) : Bool :=
  decide ((first + count) * 4096 ≤ hbmBytes)
    && (List.range count).all (fun i => frameState (Sparse.get 0 m.frames (first + i)) == 0 && !m.carved ((first + i) * 4096))

/-- The message WORLD_ASSIGN (R359, R362). -/
def execWorldAssign (m : Msg) (world first count attr : Nat) (msd : Bool) (s : State) : Host.Outcome State Fault Refusal :=
  s.message m s.running fun s =>
    if world < 256 ∧ attr < 3 ∧ s.msys.framesFree first count = true then
      let keys := if s.firm.worldKeys.contains world then s.firm.worldKeys else world :: s.firm.worldKeys
      ((s.setMsys { s.msys with frames := Sparse.setRun 0 s.msys.frames first (List.replicate count (frameEntry world attr msd)) }).setFirm
        { s.firm with worldKeys := keys }).ok []
    else s.respond .error

/-- The world has a live queue, a crew that is Resident, Parked or Saved, or an enabled weight context (R362). -/
def State.worldBusy (s : State) (world : Nat) : Bool :=
  s.queues.any (fun p => match p.2 with
    | some q => q.world == world && q.status != 3
    | none => false)
  || s.crews.any (fun p => match p.2 with
    | some c => c.world == world && c.phase != .evicted
    | none => false)
  || s.contexts.any (fun p => match p.2 with
    | some c => c.world == world
    | none => false)

/-- The frames assigned to a world, ascending. -/
def MemSys.framesOf (m : MemSys) (world : Nat) : List Nat :=
  (m.frames.filter (fun p => frameState p.2 == 1 && frameWorld p.2 == world)).map Prod.fst

/-- Runs of consecutive frames: first frame and count. -/
def frameRuns : List Nat → List (Nat × Nat)
  | [] => []
  | f :: fs =>
    match frameRuns fs with
    | (g, n) :: rest => if g = f + 1 then (f, n + 1) :: rest else (f, 1) :: (g, n) :: rest
    | [] => [(f, 1)]

/-- Journal entries that are not in use (R362). -/
def Firm.journalFree (f : Firm) : List Nat :=
  (List.range 256).filter (fun i => match Sparse.get none f.journal i with
    | some e => e.state != 1
    | none => true)

/-- Enter runs of a world's frames into the journal; their scrub arises in the mode of this moment (R365). -/
def Firm.scrubRuns (f : Firm) (world : Nat) : List (Nat × Nat × Nat) → Firm
  | [] => f
  | (i, first, count) :: rest => Firm.scrubRuns { f with journal := Sparse.set none f.journal i (some ⟨world, 1, first, count, 0, f.scrub⟩) } world rest

/-- Move frames to state 2 (R324). -/
def MemSys.scrubFrames (m : MemSys) (world : Nat) : MemSys :=
  { m with frames := m.frames.map (fun p =>
      if frameState p.2 = 1 ∧ frameWorld p.2 = world then (p.1, BitVec.ofNat 16 (p.2.toNat % 16384 + 32768)) else p) }

/-- The message WORLD_RELEASE (R362). -/
def execWorldRelease (m : Msg) (world : Nat) (s : State) : Host.Outcome State Fault Refusal :=
  s.message m s.running fun s =>
    let runs := frameRuns (s.msys.framesOf world)
    if 255 ≤ world then s.respond .error
    else if s.worldBusy world || decide (s.firm.journalFree.length < runs.length) then s.respond .busy
    else
      let f := s.firm.scrubRuns world (List.zip s.firm.journalFree runs)
      ((s.setMsys (s.msys.scrubFrames world)).setFirm { f with worldKeys := f.worldKeys.filter (fun w => w != world) }).ok []

/-! The scrub (R360, R363). -/

/-- Zero `n` frames from `first` on, with the replay counters of their lines (R362); a byte that is not listed reads as zero (log 1). -/
def MemSys.zeroFrames (m : MemSys) (first n : Nat) : MemSys :=
  { m with mem := Sparse.clearRun m.mem (first * 4096) (n * 4096), replays := Sparse.clearRun m.replays (first * 32) (n * 32) }

/-- The frames of a complete entry become free (R362). -/
def MemSys.freeFrames (m : MemSys) (first n : Nat) : MemSys := { m with frames := Sparse.clearRun m.frames first n }

/-- Scrub the next frames of an entry in state 1, `n` of them or the rest. -/
def State.scrub (s : State) (i : Nat) (e : JEntry) (n : Nat) : State :=
  let k := Nat.min n (e.count - e.low)
  let done := decide (e.count ≤ e.low + k)
  let e' := { e with low := e.low + k, state := if done then 2 else 1 }
  let m := s.msys.zeroFrames (e.first + e.low) k
  let m := if done then m.freeFrames e.first e.count else m
  (s.setMsys m).setFirm { s.firm with journal := Sparse.set none s.firm.journal i (some e') }

/-- The journal entry of an index that is being scrubbed. -/
def State.scrubbing (s : State) (i : Nat) : Option JEntry :=
  match Sparse.get none s.firm.journal i with
  | some e => if e.state = 1 then some e else none
  | none => none

/-- The message SCRUB_STEP (R360) for an entry whose scrub arose in host-assisted mode (R365), answered with the new low_water and state. -/
def execScrubStep (m : Msg) (i : Nat) (s : State) : Host.Outcome State Fault Refusal :=
  s.message m s.firm.full fun s =>
    match s.scrubbing i with
    | some e =>
      if e.assisted then
        let s := s.scrub i e 4096
        match Sparse.get none s.firm.journal i with
        | some e => s.ok [e.low, e.state]
        | none => s
      else s.respond .error
    | none => s.respond .error

/-- The event SCRUB_PROGRESS (R363, R365): Germ scrubs an entry whose scrub arose in hardware mode, and writes low_water at least once every 4096 frames. -/
def execScrubProgress (i frames : Nat) (s : State) : Host.Outcome State Fault Refusal :=
  match s.scrubbing i with
  | some e =>
    if s.firm.germ && !e.assisted && decide (1 ≤ frames) && decide (frames ≤ 4096) then .next (s.scrub i e frames) else .next s
  | none => .next s

/-! Modes, flash and quarantine. -/

/-- Set the mode of a function; `true` is host-assisted (R365). -/
def Firm.setMode (f : Firm) (fn : DevFn) (assisted : Bool) : Firm :=
  match fn with
  | .faults => { f with faults := assisted }
  | .migration => { f with migration := assisted }
  | .keys => { f with keys := assisted }
  | .routing => { f with routing := assisted }
  | .scrub => { f with scrub := assisted }

/-- What a change of mode means to the fault queues and to the descriptors of the weight contexts (R340, R365). -/
def State.noteMode (s : State) : State :=
  s.setMsys { s.msys with assistFaults := s.firm.faults, assistMigration := s.firm.migration, assistRouting := s.firm.routing }

/-- The message MODE_SET (R365). -/
def execModeSet (m : Msg) (fn : DevFn) (assisted : Bool) (s : State) : Host.Outcome State Fault Refusal :=
  s.message m (s.firm.full && (s.firm.iface == .unlocked || s.firm.iface == .locked)) fun s =>
    ((s.setFirm (s.firm.setMode fn assisted)).noteMode).ok []

/-- Address of the level-0 entry that maps a page (R321). -/
def MemSys.leafSlot (m : MemSys) (space va : Nat) : Option Nat :=
  ((m.walkPath va [4, 3, 2, 1, 0] (spaceRoot (m.spaceEntry space))).find? (fun p => p.1 == 0)).map (fun p => p.2 + 8 * bitsOf va 12 9)

/-- The leaf of a page once it lies in another frame: host translations and 64 KiB groups are none of it. -/
def movedLeaf (leaf : Dword) (frame : Nat) : Dword := (leaf &&& 0xDFB#64) ||| BitVec.ofNat 64 (frame % 2 ^ 40 * 4096)

/-- A page may move to a frame: the leaf keeps the rules of R323, the frame is one of the page's world (R324), no line of either or of the
leaf's is held (R51), and neither is poisoned. -/
def MemSys.mayMove (m : MemSys) (space src dst slot : Nat) (leaf : Dword) : Bool :=
  !m.isHeld slot && (List.range 32).all (fun i => !m.isHeld (src + 128 * i) && !m.isHeld (dst + 128 * i)) && m.leafOk (spaceAts (m.spaceEntry space)) 0 0 0 leaf && m.mapped dst && !inPodWindow dst
    && (if inHost dst then m.linkUp && m.hostOk else (frameCheck (m.frameOf 0 dst) space leaf).isNone)
    && (List.range 32).all (fun i => !m.poisoned (src + 128 * i) && !m.poisoned (dst + 128 * i))

/-- Husk moves a page on a record of code 9 that arose in hardware mode (R365): its bytes are copied to the frame, its leaf is rewritten, and
no TLB keeps the old one.  Which page of the region moves, where to and when is Husk's choice (log 64); a page that an access in flight uses
does not move. -/
def State.migratePage (s : State) (die : Nat) (index : Word) (page frame : Nat) : State :=
  match s.msys.faultAt die (index.toNat % 4096) with
  | none => s
  | some r =>
    let m := s.msys
    let space := r.post.space
    let dst := frame * 4096
    if r.index ≠ index ∨ r.post.code ≠ 9 ∨ r.post.assisted = true ∨ page / 16 ≠ r.post.addr / 65536 then s
    else match m.translate (freeAt s 62000) (agentAccess die space false false) (page * 4096), m.leafSlot space (page * 4096) with
      | .ok pa leaf 0, some slot =>
        let new := movedLeaf leaf frame
        if leafS64 leaf || s.anyLate || s.ops.any (fun o => o.usesHit 0 space (page * 4096)) || !m.mayMove space pa dst slot new then s
        else
          let m := (m.writeN space dst (m.readN pa 4096)).writeNat 0 slot 8 new.toNat
          let m := { m.invalidate 0 space (page * 4096) with l1 := m.l1.filter (fun l => l.line / 32 != dst / 4096) }
          s.setMsys m
      | _, _ => s

/-- First byte of an erase block (R350). -/
def blockBase (stack block : Nat) : Nat := (stack * 2 ^ 27 + block * 256) * 16384

/-- Bytes of an erase block. -/
def blockBytes : Nat := 256 * 16384

/-- The message FLASH_WRITE (R350): the block is erased and programmed, and reads of it wait until the operation ends. -/
def execFlashWrite (m : Msg) (stack block : Nat) (data : List (Nat × Byte)) (s : State) : Host.Outcome State Fault Refusal :=
  s.message m s.running fun s =>
    if 8 ≤ stack ∨ 2 ^ 19 ≤ block ∨ data.any (fun p => decide (blockBytes ≤ p.1)) = true then s.respond .error
    else if s.flashBusy.contains (stack, block) then s.respond .busy
    else
      let base := blockBase stack block
      let flash := Sparse.setAll 0 (Sparse.clearRun s.flash base blockBytes) (data.map (fun p => (base + p.1, p.2)))
      State.ok { s with flash := flash, flashBusy := (stack, block) :: s.flashBusy } []

/-- The event ERASE_OR_PROGRAM_END (R350). -/
def execEraseOrProgramEnd (stack block : Nat) (s : State) : Host.Outcome State Fault Refusal :=
  .next { s with flashBusy := s.flashBusy.filter (fun p => p != (stack, block)) }

/-- The quarantine entry of a slice (R354). -/
def State.qEntry (s : State) (slice entry : Nat) : Option QEntry :=
  if slice < 8 ∧ entry < 2 ^ 20 then Sparse.get none s.quarantine (qKey slice entry) else none

/-- The message QREAD (R354), answered with the fields of the entry. -/
def execQread (m : Msg) (slice entry : Nat) (s : State) : Host.Outcome State Fault Refusal :=
  s.message m s.firm.full fun s =>
    match s.qEntry slice entry with
    | some e => State.ok { s with quarantine := Sparse.set none s.quarantine (qKey slice entry) (some { e with status := 2 }) }
        [leNat e.data, e.pa, e.seq, e.world, 2]
    | none => s.respond .error

/-- Another entry holds the same line. -/
def State.stillHeld (s : State) (pa : Nat) : Bool :=
  s.quarantine.any (fun p => match p.2 with
    | some e => e.pa == pa
    | none => false)

/-- The message QFREE (R354), accepted for an entry in status 2: the entry is free, and the line's poison clears. -/
def execQfree (m : Msg) (slice entry : Nat) (s : State) : Host.Outcome State Fault Refusal :=
  s.message m s.firm.full fun s =>
    match s.qEntry slice entry with
    | some e =>
      if e.status = 2 then
        let s := { s with quarantine := Sparse.set none s.quarantine (qKey slice entry) none }
        (if s.stillHeld e.pa then s else s.setMsys (s.msys.setPoison (lineOf e.pa) false)).ok []
      else s.respond .error
    | none => s.respond .error

/-! The status word and the image (R360, R364). -/

/-- The message STATUS (R359, R364). -/
def execStatus (m : Msg) (s : State) : Host.Outcome State Fault Refusal :=
  s.message m true fun s => s.ok [s.firm.status.toNat]

/-- The digest of an image: of the bytes that are signed (R358). -/
def imageDigest (image : List Byte) : BitVec 256 := sha256 (Config.imageBody image)

/-- Germ verifies an image: its signature holds over its digest, and its key is the one whose digest is fused (R358). -/
def verified (image : List Byte) : Bool :=
  Config.pssHolds (Config.imageKey image) (imageDigest image) (Config.imageSignature image) && sha256 (Config.imageKey image) == Config.fusedDigest

/-- A part that continues the parts received so far (R360). -/
def Firm.partOk (f : Firm) (off total : Nat) (bytes : List Byte) : Bool :=
  decide (bytes.length ≤ 3584) && decide (total ≤ 2 ^ 26) && off == f.parts.length && decide (off + bytes.length ≤ total)
    && (f.parts.isEmpty || f.partTotal == total)

/-- The message HUSK_UPDATE (R360, R364).  Germ trusts no claim that the image is signed: it verifies it (R358). -/
def execHuskUpdate (m : Msg) (off total : Nat) (bytes : List Byte) (_claim : Bool) (s : State) : Host.Outcome State Fault Refusal :=
  s.message m true fun s =>
    let f := s.firm
    if !f.partOk off total bytes then (s.setFirm { f with parts := [], partTotal := 0 }).respond .error
    else if off + bytes.length < total then (s.setFirm { f with parts := f.parts ++ bytes, partTotal := total }).ok []
    else if verified (f.parts ++ bytes) then
      (s.setFirm { f with image := f.parts ++ bytes, parts := [], partTotal := 0, status := f.status &&& ~~~3#32 }).ok []
    else (s.setFirm { f with parts := [], partTotal := 0 }).respond .error

/-! Starts (R358, R364). -/

/-- Consecutive failed starts. -/
def statusFailed (w : Word) : Nat := bitsOf w.toNat 0 2

/-- The word with its fields. -/
def statusWord (bare : Bool) (version cause failed : Nat) : Word :=
  BitVec.ofNat 32 (failed + 256 * cause + 65536 * version + (if bare then 2 ^ 31 else 0))

def statusVersion (w : Word) : Nat := bitsOf w.toNat 16 8
def statusCause (w : Word) : Nat := bitsOf w.toNat 8 8

/-- A start fails (R364). -/
def State.failStart (s : State) (cause : Nat) : State :=
  let w := s.firm.status
  s.setFirm { s.firm with phase := .failed, status := statusWord false (statusVersion w) cause (Nat.min 3 (statusFailed w + 1)) }

/-- Scrubs go on from their low_water after a start, in the mode of this moment (R363, R365; DEDUCED, log 93). -/
def Firm.resumeScrubs (f : Firm) : Firm :=
  { f with journal := f.journal.map (fun p => (p.1, p.2.map (fun e => if e.state = 1 then { e with assisted := f.scrub } else e))) }

/-- The frames of entries that are being scrubbed are in state 2 again, and their scrubs go on (R363). -/
def State.resumeScrub (s : State) : State :=
  (s.firm.journal.foldl (fun s p => match p.2 with
    | some e =>
      if e.state = 1 then
        s.setMsys { s.msys with frames := Sparse.setRun 0 s.msys.frames e.first (List.replicate e.count (BitVec.ofNat 16 (e.world % 256 + 32768))) }
      else s
    | none => s) s).setFirm s.firm.resumeScrubs

/-- Germ extends the digest of the stored image into the measurement log (R358). -/
def Firm.measure (f : Firm) : Firm := { f with measured := imageDigest f.image :: f.measured }

/-- The event DEVICE_START (R358, R363, R364): Germ verifies the image, whatever is claimed of it, measures it and
starts Husk; in bare mode it starts none. -/
def execDeviceStart (_claim : Bool) (s : State) : Host.Outcome State Fault Refusal :=
  .next (if s.firm.full then s
    else
      let s := s.resumeScrub
      let w := s.firm.status
      if statusFailed w = 3 then s.setFirm { s.firm with phase := .bare, status := statusWord true (statusVersion w) (statusCause w) 3 }
      else if verified s.firm.image then
        s.setFirm { s.firm.measure with phase := .starting, status := statusWord false (statusVersion w) (statusCause w) (statusFailed w) }
      else s.failStart 1)

/-- The service crew of a die: four teams of one word in service mode (R47, R310, R366).  It has no grid: `x.grid` and `x.crew` read 0 in it
(DESIGN CHOICE, log 55: R78 gives a team without a grid no value). -/
def serviceCrew (cid die : Nat) (entry : VAddr) : Crew where
  gid := 0
  index := 0
  phase := .resident
  die := die
  core := 63
  slots := [12, 13, 14, 15]
  world := 0
  cls := 3
  group := 0
  coop := false
  fuse := false
  task := none
  committed := false
  page := none
  alloc := ⟨64, 0, 0, 0, 65536, 4⟩
  scratch := []
  tiles := []
  metadata := []
  pps := []
  channels := []
  teams := (List.range 4).map (fun i => launchTeam cid i 1 ⟨32, i⟩ entry [])
  await := none
  woken := none
  landWait := false
  faulted := false
  doubleTrap := false
  stop := none
  placedAt := 0
  parkedAt := 0

/-- The service teams of a die begin. -/
def State.startServices (s : State) (die : Nat) : State :=
  let (cid, s) := s.newId
  let c := serviceCrew cid die (BitVec.ofNat 57 s.msys.bring.svcEntry)
  let s := s.setCrew cid { c with teams := [] }
  (List.zip c.slots c.teams).foldl (fun s p => s.setTeam ⟨die, 63, p.1⟩ p.2) s

/-- The event HUSK_READY (R358, R364): bring-up is done, with its parameters. -/
def execHuskReady (version : BitVec 8) (params : BringUp) (s : State) : Host.Outcome State Fault Refusal :=
  if s.firm.phase = .starting then
    let f := { s.firm with phase := .ready, status := statusWord false version.toNat (statusCause s.firm.status) 0 }
    let s := (s.setFirm f).setMsys { s.msys with bring := params.fit, linkUp := true }
    .next ((List.range 8).foldl State.startServices s)
  else .next s

/-- The event HUSK_READY_TIMEOUT (R364). -/
def execHuskReadyTimeout (s : State) : Host.Outcome State Fault Refusal :=
  if s.firm.phase = .starting then .next (s.failStart 5) else .next s

/-- The cause of a failed training (R364). -/
def trainCause : TrainPart → Nat
  | .hbm => 2
  | .controlLink => 3
  | .dataLink => 4

/-- The event TRAINING_FAILURE (R364). -/
def execTrainingFailure (part : TrainPart) (s : State) : Host.Outcome State Fault Refusal :=
  if s.firm.phase = .starting then .next (s.failStart (trainCause part)) else .next s

/-- The event POWER_FAILURE (R363, R364): the machine is as after reset, but for flash, the status word, the journal, the stored
image, host memory and the model's own inputs. -/
def execPowerFailure (s : State) : Host.Outcome State Fault Refusal :=
  let f := { Firm.initial with status := s.firm.status, journal := s.firm.journal, image := s.firm.image }
  let m := { MemSys.initial with mem := s.msys.mem.filter (fun p => inHost p.1) }
  .next { State.reset with firm := f, msys := m, flash := s.flash, agenda := s.agenda, late := s.late, sched := s.sched, turn := s.turn
                           clock := s.clock, fresh := s.fresh }

/-! Registers without a row of their own (R7). -/

/-- Write bytes at a virtual address of world 0, where they can be written. -/
def State.writeZero (s : State) (va : Nat) (bs : List Byte) : State :=
  match s.msys.agentPieces (freeAt s 45600) (agentAccess 0 0 true false) (linePieces (bs.length + 1) (va % 2 ^ 57) bs.length) with
  | .ok (m, ps) => s.setMsys (m.agentPut true true 0 ps bs)
  | .error _ => s

/-- A change of the parameters that system software may set after bring-up. -/
def State.setBring (s : State) (f : BringUp → BringUp) : State := s.setMsys { s.msys with bring := (f s.msys.bring.fit).fit }

/-- The event REGISTER_WRITE (R7, R282, R314, R315, R330, R341, R356). -/
def execRegisterWrite (r : DevReg) (v : Dword) (s : State) : Host.Outcome State Fault Refusal :=
  match r with
  | .tvec die core => .next ((s.writeCoreReg die core 8 (lowWord v.toNat)).writeCoreReg die core 9 (highWord v.toNat))
  | .tframe die core => .next ((s.writeCoreReg die core 0x0A (lowWord v.toNat)).writeCoreReg die core 0x0B (highWord v.toNat))
  | .ctxCtl ctx => .next (s.writeZero (s.descAddr ctx + 0x48) (leBytes v.toNat 4))
  | .ctxCurrent ctx => .next (s.writeZero (s.descAddr ctx) (leBytes (v.toNat % 2) 4))
  | .ringHead ring => .next (s.writeZero (s.msys.bring.ringTable + 32 * ring + 20) (leBytes v.toNat 4))
  | .retryShift i => .next (s.setBring (fun b => { b with retryTable := b.retryTable.set i v.toNat }))
  | .minResidency => .next (s.setBring (fun b => { b with minResidency := v.toNat }))
  | .migration => .next (s.setBring (fun b => { b with migration := v.getLsbD 0 }))
  | .faultStatus die index => .next (s.setMsys (s.msys.writeFree 0 (s.msys.faultSlotAddr die index + 0x1C) (leBytes v.toNat 4)))

end Sys2Proof.Machine
end

