-- ==== Sys2Proof/Machine/IntUni.lean ====
section
/-! DEFINITION. Uniform integer instructions (R186): the vector operations, once per team, on uniform registers. -/

namespace Sys2Proof.Machine

/-- A three-operand integer operation on uniform registers (R179, R186). -/
def uniV3 (op : IntV3) (d a b : Reg) (s : State) : Host.Outcome State Fault Refusal :=
  s.teamOp 1 none fun c =>
    let t := c.team
    let wide := t.et.wide
    let bw := wide && !op.isShift
    let dw := wide && !op.isCompare
    if sOk dw d && sOk wide a && sOk bw b then
      .done (t.uniformResult dw d (op.eval t.et.width t.et.signed t.sat (t.read s.rf 0 wide (.s a)) (t.read s.rf 0 bw (.s b))))
    else .illegal

/-- A two-operand integer operation on uniform registers (R181, R186). -/
def uniV2 (op : IntV2) (d a : Reg) (s : State) : Host.Outcome State Fault Refusal :=
  s.teamOp 1 none fun c =>
    let t := c.team
    let wide := t.et.wide
    let dw := wide && !op.isCount
    if sOk dw d && sOk wide a then
      .done (t.uniformResult dw d (op.eval t.et.width t.et.signed t.sat (t.read s.rf 0 wide (.s a))))
    else .illegal

/-- A four-operand integer operation on uniform registers (R180, R186). -/
def uniV4 (op : IntV4) (d a b c' : Reg) (s : State) : Host.Outcome State Fault Refusal :=
  s.teamOp 2 none fun c =>
    let t := c.team
    let wide := t.et.wide
    let cw := wide && op != .sel
    if sOk wide d && sOk wide a && sOk wide b && sOk cw c' then
      .done (t.uniformResult wide d (op.eval t.et.width t.et.signed t.sat
        (t.read s.rf 0 wide (.s a)) (t.read s.rf 0 wide (.s b)) (t.read s.rf 0 cw (.s c'))))
    else .illegal

/-- An immediate operation on a uniform register (R183, R186). -/
def uniImm (op : IntImm) (d : Reg) (imm : Nat) (s : State) : Host.Outcome State Fault Refusal :=
  s.teamOp 1 none fun c =>
    let t := c.team
    let wide := t.et.wide
    if sOk wide d then
      .done (t.uniformResult wide d (op.eval t.et.width t.et.signed t.sat (t.read s.rf 0 wide (.s d)) imm))
    else .illegal

def execSadd (d a b : Reg) (s : State) := uniV3 .add d a b s
def execSsub (d a b : Reg) (s : State) := uniV3 .sub d a b s
def execSmul (d a b : Reg) (s : State) := uniV3 .mul d a b s
def execSmulhi (d a b : Reg) (s : State) := uniV3 .mulhi d a b s
def execSmin (d a b : Reg) (s : State) := uniV3 .min d a b s
def execSmax (d a b : Reg) (s : State) := uniV3 .max d a b s
def execSand (d a b : Reg) (s : State) := uniV3 .and d a b s
def execSor (d a b : Reg) (s : State) := uniV3 .or d a b s
def execSxor (d a b : Reg) (s : State) := uniV3 .xor d a b s
def execSandn (d a b : Reg) (s : State) := uniV3 .andn d a b s
def execSshl (d a b : Reg) (s : State) := uniV3 .shl d a b s
def execSshr (d a b : Reg) (s : State) := uniV3 .shr d a b s
def execSsar (d a b : Reg) (s : State) := uniV3 .sar d a b s
def execSrot (d a b : Reg) (s : State) := uniV3 .rot d a b s
def execScmpeq (d a b : Reg) (s : State) := uniV3 .cmpeq d a b s
def execScmpne (d a b : Reg) (s : State) := uniV3 .cmpne d a b s
def execScmplt (d a b : Reg) (s : State) := uniV3 .cmplt d a b s
def execScmple (d a b : Reg) (s : State) := uniV3 .cmple d a b s

def execSneg (d a : Reg) (s : State) := uniV2 .neg d a s
def execSabs (d a : Reg) (s : State) := uniV2 .abs d a s
def execSnot (d a : Reg) (s : State) := uniV2 .not d a s
def execSpopc (d a : Reg) (s : State) := uniV2 .popc d a s
def execSclz (d a : Reg) (s : State) := uniV2 .clz d a s
def execSctz (d a : Reg) (s : State) := uniV2 .ctz d a s
def execSbrev (d a : Reg) (s : State) := uniV2 .brev d a s
def execSmov (d a : Reg) (s : State) := uniV2 .mov d a s

def execSmad (d a b c : Reg) (s : State) := uniV4 .mad d a b c s
def execSmadhi (d a b c : Reg) (s : State) := uniV4 .madhi d a b c s
def execSsel (d a b c : Reg) (s : State) := uniV4 .sel d a b c s

def execSaddi (d : Reg) (i : BitVec 16) (s : State) := uniImm .addi d i.toNat s
def execSmuli (d : Reg) (i : BitVec 16) (s : State) := uniImm .muli d i.toNat s
def execSandi (d : Reg) (i : BitVec 16) (s : State) := uniImm .andi d i.toNat s
def execSori (d : Reg) (i : BitVec 16) (s : State) := uniImm .ori d i.toNat s
def execSxori (d : Reg) (i : BitVec 16) (s : State) := uniImm .xori d i.toNat s
def execSshli (d : Reg) (i : BitVec 6) (s : State) := uniImm .shli d i.toNat s
def execSshri (d : Reg) (i : BitVec 6) (s : State) := uniImm .shri d i.toNat s
def execSsari (d : Reg) (i : BitVec 6) (s : State) := uniImm .sari d i.toNat s

/-- `sbfx` (R182, R186). -/
def execSbfx (d a : Reg) (pos : BitVec 6) (width : BitVec 7) (s : State) : Host.Outcome State Fault Refusal :=
  s.teamOp 2 none fun c =>
    let t := c.team
    let wide := t.et.wide
    if sOk wide d && sOk wide a && width != 0 && decide (pos.toNat + width.toNat ≤ t.et.width) then
      .done (t.uniformResult wide d (bfxBits t.et.width t.et.signed (t.read s.rf 0 wide (.s a)) pos.toNat width.toNat, false))
    else .illegal

/-- `sbfi` (R182, R186). -/
def execSbfi (d a b : Reg) (pos : BitVec 6) (width : BitVec 7) (s : State) : Host.Outcome State Fault Refusal :=
  s.teamOp 2 none fun c =>
    let t := c.team
    let wide := t.et.wide
    if sOk wide d && sOk wide a && sOk wide b && width != 0 && decide (pos.toNat + width.toNat ≤ t.et.width) then
      .done (t.uniformResult wide d
        (bfiBits (t.read s.rf 0 wide (.s a)) (t.read s.rf 0 wide (.s b)) pos.toNat width.toNat, false))
    else .illegal

/-- `smovi` (R183, R186); an odd destination under a 64-bit view is one register, as in `movi` (DEDUCED, log 14). -/
def execSmovi (d : Reg) (i : BitVec 16) (s : State) : Host.Outcome State Fault Refusal :=
  s.teamOp 1 none fun c =>
    .done (c.team.uniformResult (c.team.et.wide && evenReg d) d (moviBits 64 i.toNat, false))

/-- `smovh` (R183, R186). -/
def execSmovh (d : Reg) (i : BitVec 16) (s : State) : Host.Outcome State Fault Refusal :=
  s.teamOp 1 none fun c => .done (c.team.writeS d.toNat (movhBits (c.team.s s.rf d.toNat) i))

/-- `scvti` (R184, R186). -/
def execScvti (d a : Reg) (dt st : EType) (s : State) : Host.Outcome State Fault Refusal :=
  s.teamOp 1 none fun c =>
    let t := c.team
    if dt.isInt && st.isInt && sOk dt.wide d && sOk st.wide a then
      .done (t.uniformResult dt.wide d (cvtiBits dt st t.sat (t.read s.rf 0 st.wide (.s a))))
    else .illegal

/-- `slea` (R185, R186). -/
def execSlea (d a b : Reg) (s : State) : Host.Outcome State Fault Refusal :=
  s.teamOp 1 none fun c =>
    let t := c.team
    if sOk true d && sOk true a then
      .done (t.uniformResult true d (leaBits t.et.signed (t.s64 s.rf a.toNat) (t.s s.rf b.toNat).toNat, false))
    else .illegal

end Sys2Proof.Machine
end

