-- ==== Sys2Proof/Machine/Matrix.lean ====
section
/-! DEFINITION. Octet matrix instructions: `mma`, `mmas`, `ldmeta` and the tile moves (R216 to R229). -/

namespace Sys2Proof.Machine

/-! Operand shapes. -/

/-- Row of A of a lane that its octet unit's latch holds for the registers from `a` on (R83, R223). -/
def Team.latchRow (t : Team) (lane : Nat) (a : Reg) : Option Nat :=
  match Sparse.get none t.reuse (laneUnit lane) with
  | some x => if x.reg = a ∧ x.word = laneWord lane then x.rows[laneRow lane]? else none
  | none => none

/-- Row of A that a lane holds: from the latch, else from the banks (R83, R216). -/
def Team.rowA (t : Team) (free lane : Nat) (a : Reg) : Nat := (t.latchRow lane a).getD (leNat (t.regBytes free lane a.toNat 8))

/-- The tile operand is in the declared count, and even where a pair (R218). -/
def Issuer.tilesOk (c : Issuer) (n : BitVec 8) (t : Nat) : Bool :=
  decide (n.toNat + t * c.team.words ≤ c.crew.alloc.accs) && decide (n.toNat ≤ 31) && (t != 2 || n.toNat % 2 == 0)

/-- The tile width of the tile moves (R218). -/
def Team.tileWidth (t : Team) : Nat :=
  match t.et with
  | .i64 | .n64 | .f64 => 2
  | _ => 1

/-! `mma` and `mmas`. -/

/-- The instruction at the team's place has the reuse-A hint (R83). -/
def Team.reuseHint (t : Team) : Bool :=
  match t.clause with
  | some k => decide (hintAt k.h1 k.pos / 2 = 1)
  | none => false

/-- The words of the active lanes of a unit. -/
def Team.unitWords (t : Team) (free q : Nat) : List Nat := ((t.active free).filter (fun l => laneUnit l == q)).map laneWord

/-- The A operand of a word on a unit: the rows of its eight lanes. -/
def Team.operandA (t : Team) (free w q : Nat) (a : Reg) : ReuseA :=
  ⟨a, w, (List.range 8).map (fun i => t.rowA free (32 * w + 8 * q + i) a)⟩

/-- The reuse-A latches after a matrix instruction of the team: each unit that ran keeps the A of the last word whose K-step used it where
the hint says so, and lets it go otherwise (R83, R223). -/
def Team.reuseAfter (t : Team) (free : Nat) (a : Reg) : Table ReuseA :=
  (List.range 4).foldl (fun m q =>
    match (t.unitWords free q).getLast? with
    | some w => Sparse.set none m q (if t.reuseHint then some (t.operandA free w q a) else none)
    | none => m) t.reuse

/-- Another team's latch on a unit goes when a matrix instruction of team `c` runs there: the latch takes A anew, or the unit is taken by a
higher class or from another world (R83, R224, R295). -/
def State.latchGoes (s : State) (c : Issuer) (q : Nat) (t : Team) : Bool :=
  !(c.team.unitWords s.rf q).isEmpty && (c.team.reuseHint || (s.crewAt t.crew).any (fun x => decide (x.cls < c.crew.cls) || x.world != c.crew.world))

/-- The latches of the other teams of the core once a matrix instruction has run. -/
def State.takeUnits (s : State) (c : Issuer) : State :=
  { s with teams := s.teams.map (fun p =>
      if p.1 / 16 = slotKey c.ref / 16 ∧ p.1 ≠ slotKey c.ref then
        (p.1, p.2.map (fun t => { t with reuse := t.reuse.filter (fun x => !s.latchGoes c x.1 t) }))
      else p) }

/-- The B read of a matrix instruction (R217, R220, R229): `len` bytes, from scratchpad or global memory, in units of 8. -/
def State.readB (s : State) (c : Issuer) (spad : Bool) (b : Reg) (len : Nat) (k : MemSys → List Target → State) : State :=
  if spad then
    let off := (c.team.s s.rf b.toNat).toNat
    match c.scratchCheck s.msys false off len with
    | .error f => s.accessFails c 3 false 0 0 (0, 0) f
    | .ok () => k s.msys (scratchUnits off len)
  else
    let va := c.team.s64 s.rf b.toNat % 2 ^ 57
    if va % len ≠ 0 then s.raise c .misaligned 0 va 0 else s.whole c 3 false false false va len fun m ps => k m (m.units ps)

/-- What a matrix instruction does: it reads B, and its K-steps reach their units, each of which serves its own in order (R220, R224, log 4). -/
def Issuer.matrixSeq (c : Issuer) (s : State) (m : MemSys) (us : List Target) (ks : List KStep) : LaneSeq :=
  ks.foldl (fun q k => c.putTaker s 0 (.step k) q) (c.putParts s 0 0 us (c.seq s m 0))

/-- The end of a matrix instruction: K-steps, flag, latches and pc (R149, R150, R220). -/
def State.endMatrix (s : State) (c : Issuer) (flag : Option Nat) (a : Reg) (ks : List KStep) (m : MemSys) (us : List Target) : State :=
  let q := c.matrixSeq s m us ks
  let t := { c.launched s flag q with reuse := c.team.reuseAfter s.rf a }
  ((s.takeUnits c).afterLanes c (fun m => m) q).setTeam c.ref (t.advance 2 (some (c.team.source s.rf a)))

/-- `mma` (R219, R220). -/
def execMma (n : BitVec 8) (a b : Reg) (fa fb : Fmt) (spad : Bool) (s : State) : Host.Outcome State Fault Refusal :=
  s.issue fun c =>
    let t := if fa = .f64 then 2 else 1
    if !mmaPair fa fb || !c.vRun a 8 || (fa == .f64 && !evenReg a) || !(spad || evenReg b) || !c.tilesOk n t then s.illegal c
    else s.longIssue c fun flag => s.readB c spad b 256
      (s.endMatrix c flag a (kSteps fa fb t n.toNat (fun l => (c.team.rowA s.rf l a, none)) (c.team.active s.rf)))

/-- Metadata of row `i` of word `w` in an octet unit: 8 bytes (R225, R227). -/
def Crew.metaRow (c : Crew) (unit slot w i : Nat) : Nat :=
  leNat (Sparse.run 0 c.metadata ((unit * 8 + slot + w / 4) * 256 + 64 * (w % 4) + 8 * i) 8)

/-- `mmas` (R227): it waits on the interlock of the metadata (R150). -/
def execMmas (n : BitVec 8) (a b : Reg) (f : Fmt) (slot : BitVec 3) (spad : Bool) (s : State) : Host.Outcome State Fault Refusal :=
  s.issue fun c =>
    if !mmasFmt f || !c.vRun a 8 || !(spad || evenReg b) || !c.tilesOk n 1
        || decide (c.crew.alloc.granules ≤ slot.toNat + (c.team.words - 1) / 4) then s.illegal c
    else if c.team.locked .granules then s.stall c (.interlock .granules)
    else s.longIssue c fun flag => s.readB c spad b 512
      (s.endMatrix c flag a (kSteps f f 1 n.toNat
        (fun l => (c.team.rowA s.rf l a, some (c.crew.metaRow (laneUnit l) slot.toNat (laneWord l) (laneRow l)))) (c.team.active s.rf)))

/-- `ldmeta` (R226): it waits on the interlock of the metadata (R150). -/
def execLdmeta (k : BitVec 8) (a : Reg) (s : State) : Host.Outcome State Fault Refusal :=
  s.issue fun c =>
    if c.crew.alloc.granules ≤ k.toNat then s.illegal c
    else if c.team.locked .granules then s.stall c (.interlock .granules)
    else s.longIssue c fun flag =>
      let off := (c.team.s s.rf a.toNat).toNat
      if off % 256 ≠ 0 then s.raise c .misaligned 0 off 0
      else if c.crew.alloc.scratch < off + 1024 then s.raise c .worldViolation 0 off 0
      else if c.scratchConflict s.msys false off 1024 then s.raise c .rangeConflict 0 off 0
      else s.endAccess c 1 flag (fun m => m) (c.putTaker s 0 (.granule k.toNat) (c.putParts s 0 0 (scratchUnits off 1024) (c.seq s s.msys 0)))

/-! Tile moves (R228). -/

/-- A tile move that is not long-latency: `f` gives the tiles after one lane. -/
def Issuer.tileLanes (c : Issuer) (free : Nat) (f : List (Nat × Word) → Nat → List (Nat × Word)) : Crew :=
  { c.crew with tiles := (c.team.active free).foldl f c.crew.tiles }

/-- `accz` (R228). -/
def execAccz (n : BitVec 8) (s : State) : Host.Outcome State Fault Refusal :=
  s.issue fun c =>
    let t := c.team.tileWidth
    if !c.tilesOk n t then s.illegal c
    else if c.team.locked .tiles then s.stall c (.interlock .tiles)
    else (s.setCrew c.cid (c.tileLanes s.rf fun tiles l => setRow t n.toNat l (fun _ => 0) tiles)).setTeam c.ref
      (c.team.advance 1 none)

/-- `acrd` (R228). -/
def execAcrd (d : Reg) (n : BitVec 8) (s : State) : Host.Outcome State Fault Refusal :=
  s.issue fun c =>
    let t := c.team.tileWidth
    if !c.tilesOk n t || !c.vRun d (8 * t) || (t == 2 && !evenReg d) then s.illegal c
    else if c.team.locked .tiles then s.stall c (.interlock .tiles)
    else s.setTeam c.ref ((c.team.sweep s.rf (regRun d (8 * t)) fun l =>
      (List.range 8).flatMap (fun j =>
        let x := tileGet c.crew.tiles t (laneUnit l) (n.toNat + t * laneWord l) (laneRow l) j
        destWrites (t == 2) (d + BitVec.ofNat 8 (t * j)) x)).advance 1 none)

/-- `acwr` (R228). -/
def execAcwr (n : BitVec 8) (a : Reg) (s : State) : Host.Outcome State Fault Refusal :=
  s.issue fun c =>
    let t := c.team.tileWidth
    if !c.tilesOk n t || !c.vRun a (8 * t) || (t == 2 && !evenReg a) then s.illegal c
    else if c.team.locked .tiles then s.stall c (.interlock .tiles)
    else (s.setCrew c.cid (c.tileLanes s.rf fun tiles l =>
        setRow t n.toNat l (fun j => c.team.read s.rf l (t == 2) (.v (a + BitVec.ofNat 8 (t * j)))) tiles)).setTeam c.ref
      (c.team.advance 1 (some (c.team.source s.rf a)))

/-- Address of a lane's row in the image at `base` (R228). -/
def rowAddr (t base l : Nat) : Nat := (base + 256 * t * (4 * laneWord l + laneUnit l) + 32 * t * laneRow l) % 2 ^ 57

/-- The bytes of a lane's row. -/
def rowBytes (tiles : List (Nat × Word)) (t n l : Nat) : List Byte :=
  (List.range 8).flatMap (fun j => leBytes (tileGet tiles t (laneUnit l) (n + t * laneWord l) (laneRow l) j) (4 * t))

/-- `acld` of one lane (R228): the row is read in its 8-byte units. -/
def Issuer.acldLane (c : Issuer) (s : State) (n t base : Nat) (q : LaneSeq) (l : Nat) : Except LaneFail LaneSeq :=
  match c.piece q.m (laneFree s l 0) false false (rowAddr t base l) (32 * t) with
  | .error e => .error e
  | .ok (m, pa, leaf) => .ok (c.putTaker s l (.row t n l) (c.putParts s l 0 (m.units [(pa, 32 * t, leaf)]) { q with m := m, got := [] }))

/-- `acld` (R228). -/
def execAcld (n : BitVec 8) (a : Reg) (s : State) : Host.Outcome State Fault Refusal :=
  s.issue fun c =>
    let t := c.team.tileWidth
    let base := c.team.s64 s.rf a.toNat % 2 ^ 57
    if !c.tilesOk n t || !evenReg a then s.illegal c
    else if c.team.locked .tiles then s.stall c (.interlock .tiles)
    else if base % (256 * t) ≠ 0 then s.raise c .misaligned 0 base 0
    else s.laneInstr c 1 false (fun m => m) (c.acldLane s n.toNat t base)

/-- `acst` of one lane (R228). -/
def Issuer.acstLane (c : Issuer) (s : State) (n t base : Nat) (q : LaneSeq) (l : Nat) : Except LaneFail LaneSeq :=
  match c.piece q.m (laneFree s l 0) true false (rowAddr t base l) (32 * t) with
  | .error e => .error e
  | .ok (m, pa, leaf) =>
    .ok (c.putUnits s l (m.units [(pa, 32 * t, leaf)]) (rowBytes q.crew.tiles t n l) { q with m := m })

/-- `acst` (R228). -/
def execAcst (n : BitVec 8) (a : Reg) (s : State) : Host.Outcome State Fault Refusal :=
  s.issue fun c =>
    let t := c.team.tileWidth
    let base := c.team.s64 s.rf a.toNat % 2 ^ 57
    if !c.tilesOk n t || !evenReg a || c.uncommitted then s.illegal c
    else if c.team.locked .tiles then s.stall c (.interlock .tiles)
    else if base % (256 * t) ≠ 0 then s.raise c .misaligned 0 base 0
    else s.laneInstr c 1 true (fun m => m) (c.acstLane s n.toNat t base)

end Sys2Proof.Machine
end

