-- ==== Sys2Proof/Machine/Dispatch.lean ====
section
/-! DEFINITION. The meaning of each instruction and event: one arm per constructor. -/

namespace Sys2Proof.Machine

def exec (i : Instr) (s : State) : Host.Outcome State Fault Refusal :=
  match i with
  | .nop => Sys2Proof.Machine.execNop s
  | .bra off => Sys2Proof.Machine.execBra off s
  | .brx a => Sys2Proof.Machine.execBrx a s
  | .call off => Sys2Proof.Machine.execCall off s
  | .ret => Sys2Proof.Machine.execRet s
  | .exit => Sys2Proof.Machine.execExit s
  | .yield => Sys2Proof.Machine.execYield s
  | .mif c off => Sys2Proof.Machine.execMif c off s
  | .melse off => Sys2Proof.Machine.execMelse off s
  | .mend => Sys2Proof.Machine.execMend s
  | .mloop off => Sys2Proof.Machine.execMloop off s
  | .mbrk c => Sys2Proof.Machine.execMbrk c s
  | .mcont c => Sys2Proof.Machine.execMcont c s
  | .mnext off => Sys2Proof.Machine.execMnext off s
  | .many c off => Sys2Proof.Machine.execMany c off s
  | .mall c off => Sys2Proof.Machine.execMall c off s
  | .setm a => Sys2Proof.Machine.execSetm a s
  | .getm d k => Sys2Proof.Machine.execGetm d k s
  | .part t => Sys2Proof.Machine.execPart t s
  | .rdsp d n => Sys2Proof.Machine.execRdsp d n s
  | .xstatRead d => Sys2Proof.Machine.execXstatRead d s
  | .give t a n => Sys2Proof.Machine.execGive t a n s
  | .claim t a n => Sys2Proof.Machine.execClaim t a n s
  | .svc d a k => Sys2Proof.Machine.execSvc d a k s
  | .trap k => Sys2Proof.Machine.execTrap k s
  | .vtos d a b => Sys2Proof.Machine.execVtos d a b s
  | .stov d a => Sys2Proof.Machine.execStov d a s
  | .add d a b => Sys2Proof.Machine.execAdd d a b s
  | .sub d a b => Sys2Proof.Machine.execSub d a b s
  | .mul d a b => Sys2Proof.Machine.execMul d a b s
  | .mulhi d a b => Sys2Proof.Machine.execMulhi d a b s
  | .mad d a b c ub uc => Sys2Proof.Machine.execMad d a b c ub uc s
  | .madhi d a b c ub uc => Sys2Proof.Machine.execMadhi d a b c ub uc s
  | .neg d a => Sys2Proof.Machine.execNeg d a s
  | .abs d a => Sys2Proof.Machine.execAbs d a s
  | .min d a b => Sys2Proof.Machine.execMin d a b s
  | .max d a b => Sys2Proof.Machine.execMax d a b s
  | .and d a b => Sys2Proof.Machine.execAnd d a b s
  | .or d a b => Sys2Proof.Machine.execOr d a b s
  | .xor d a b => Sys2Proof.Machine.execXor d a b s
  | .not d a => Sys2Proof.Machine.execNot d a s
  | .andn d a b => Sys2Proof.Machine.execAndn d a b s
  | .shl d a b => Sys2Proof.Machine.execShl d a b s
  | .shr d a b => Sys2Proof.Machine.execShr d a b s
  | .sar d a b => Sys2Proof.Machine.execSar d a b s
  | .rot d a b => Sys2Proof.Machine.execRot d a b s
  | .popc d a => Sys2Proof.Machine.execPopc d a s
  | .clz d a => Sys2Proof.Machine.execClz d a s
  | .ctz d a => Sys2Proof.Machine.execCtz d a s
  | .brev d a => Sys2Proof.Machine.execBrev d a s
  | .bfx d a pos width => Sys2Proof.Machine.execBfx d a pos width s
  | .bfi d a b pos width => Sys2Proof.Machine.execBfi d a b pos width s
  | .sel d a b c ub uc => Sys2Proof.Machine.execSel d a b c ub uc s
  | .cmpeq d a b => Sys2Proof.Machine.execCmpeq d a b s
  | .cmpne d a b => Sys2Proof.Machine.execCmpne d a b s
  | .cmplt d a b => Sys2Proof.Machine.execCmplt d a b s
  | .cmple d a b => Sys2Proof.Machine.execCmple d a b s
  | .mov d a => Sys2Proof.Machine.execMov d a s
  | .cvti d a dt st => Sys2Proof.Machine.execCvti d a dt st s
  | .lea d a b => Sys2Proof.Machine.execLea d a b s
  | .addi d k => Sys2Proof.Machine.execAddi d k s
  | .muli d k => Sys2Proof.Machine.execMuli d k s
  | .andi d k => Sys2Proof.Machine.execAndi d k s
  | .ori d k => Sys2Proof.Machine.execOri d k s
  | .xori d k => Sys2Proof.Machine.execXori d k s
  | .shli d s_ => Sys2Proof.Machine.execShli d s_ s
  | .shri d s_ => Sys2Proof.Machine.execShri d s_ s
  | .sari d s_ => Sys2Proof.Machine.execSari d s_ s
  | .movi d k => Sys2Proof.Machine.execMovi d k s
  | .movh d k => Sys2Proof.Machine.execMovh d k s
  | .sadd d a b => Sys2Proof.Machine.execSadd d a b s
  | .ssub d a b => Sys2Proof.Machine.execSsub d a b s
  | .smul d a b => Sys2Proof.Machine.execSmul d a b s
  | .smulhi d a b => Sys2Proof.Machine.execSmulhi d a b s
  | .smad d a b c => Sys2Proof.Machine.execSmad d a b c s
  | .smadhi d a b c => Sys2Proof.Machine.execSmadhi d a b c s
  | .sneg d a => Sys2Proof.Machine.execSneg d a s
  | .sabs d a => Sys2Proof.Machine.execSabs d a s
  | .smin d a b => Sys2Proof.Machine.execSmin d a b s
  | .smax d a b => Sys2Proof.Machine.execSmax d a b s
  | .sand d a b => Sys2Proof.Machine.execSand d a b s
  | .sor d a b => Sys2Proof.Machine.execSor d a b s
  | .sxor d a b => Sys2Proof.Machine.execSxor d a b s
  | .snot d a => Sys2Proof.Machine.execSnot d a s
  | .sandn d a b => Sys2Proof.Machine.execSandn d a b s
  | .sshl d a b => Sys2Proof.Machine.execSshl d a b s
  | .sshr d a b => Sys2Proof.Machine.execSshr d a b s
  | .ssar d a b => Sys2Proof.Machine.execSsar d a b s
  | .srot d a b => Sys2Proof.Machine.execSrot d a b s
  | .spopc d a => Sys2Proof.Machine.execSpopc d a s
  | .sclz d a => Sys2Proof.Machine.execSclz d a s
  | .sctz d a => Sys2Proof.Machine.execSctz d a s
  | .sbrev d a => Sys2Proof.Machine.execSbrev d a s
  | .sbfx d a pos width => Sys2Proof.Machine.execSbfx d a pos width s
  | .sbfi d a b pos width => Sys2Proof.Machine.execSbfi d a b pos width s
  | .ssel d a b c => Sys2Proof.Machine.execSsel d a b c s
  | .scmpeq d a b => Sys2Proof.Machine.execScmpeq d a b s
  | .scmpne d a b => Sys2Proof.Machine.execScmpne d a b s
  | .scmplt d a b => Sys2Proof.Machine.execScmplt d a b s
  | .scmple d a b => Sys2Proof.Machine.execScmple d a b s
  | .smov d a => Sys2Proof.Machine.execSmov d a s
  | .scvti d a dt st => Sys2Proof.Machine.execScvti d a dt st s
  | .slea d a b => Sys2Proof.Machine.execSlea d a b s
  | .saddi d k => Sys2Proof.Machine.execSaddi d k s
  | .smuli d k => Sys2Proof.Machine.execSmuli d k s
  | .sandi d k => Sys2Proof.Machine.execSandi d k s
  | .sori d k => Sys2Proof.Machine.execSori d k s
  | .sxori d k => Sys2Proof.Machine.execSxori d k s
  | .sshli d s_ => Sys2Proof.Machine.execSshli d s_ s
  | .sshri d s_ => Sys2Proof.Machine.execSshri d s_ s
  | .ssari d s_ => Sys2Proof.Machine.execSsari d s_ s
  | .smovi d k => Sys2Proof.Machine.execSmovi d k s
  | .smovh d k => Sys2Proof.Machine.execSmovh d k s
  | .fadd d a b => Sys2Proof.Machine.execFadd d a b s
  | .fsub d a b => Sys2Proof.Machine.execFsub d a b s
  | .fmul d a b => Sys2Proof.Machine.execFmul d a b s
  | .ffma d a b c ub uc => Sys2Proof.Machine.execFfma d a b c ub uc s
  | .fmin d a b => Sys2Proof.Machine.execFmin d a b s
  | .fmax d a b => Sys2Proof.Machine.execFmax d a b s
  | .fneg d a => Sys2Proof.Machine.execFneg d a s
  | .fabs d a => Sys2Proof.Machine.execFabs d a s
  | .fcmpeq d a b => Sys2Proof.Machine.execFcmpeq d a b s
  | .fcmpne d a b => Sys2Proof.Machine.execFcmpne d a b s
  | .fcmplt d a b => Sys2Proof.Machine.execFcmplt d a b s
  | .fcmple d a b => Sys2Proof.Machine.execFcmple d a b s
  | .fcmpun d a b => Sys2Proof.Machine.execFcmpun d a b s
  | .fclass d a => Sys2Proof.Machine.execFclass d a s
  | .frnd d a => Sys2Proof.Machine.execFrnd d a s
  | .cvt d a dt st => Sys2Proof.Machine.execCvt d a dt st s
  | .rcp d a => Sys2Proof.Machine.execRcp d a s
  | .rsq d a => Sys2Proof.Machine.execRsq d a s
  | .sqrt d a => Sys2Proof.Machine.execSqrt d a s
  | .exp2 d a => Sys2Proof.Machine.execExp2 d a s
  | .log2 d a => Sys2Proof.Machine.execLog2 d a s
  | .sin d a => Sys2Proof.Machine.execSin d a s
  | .cos d a => Sys2Proof.Machine.execCos d a s
  | .tanh d a => Sys2Proof.Machine.execTanh d a s
  | .cvtn d a b fmt op => Sys2Proof.Machine.execCvtn d a b fmt op s
  | .cvtw d a fmt op => Sys2Proof.Machine.execCvtw d a fmt op s
  | .dp4 d a b c ub uc => Sys2Proof.Machine.execDp4 d a b c ub uc s
  | .dp8 d a b c ub uc => Sys2Proof.Machine.execDp8 d a b c ub uc s
  | .dpf4 d a b c ub uc => Sys2Proof.Machine.execDpf4 d a b c ub uc s
  | .dpf8 d a b c ub uc => Sys2Proof.Machine.execDpf8 d a b c ub uc s
  | .sacc d a b c ub uc => Sys2Proof.Machine.execSacc d a b c ub uc s
  | .lget d a b c => Sys2Proof.Machine.execLget d a b c s
  | .lgetRot d a b c => Sys2Proof.Machine.execLgetRot d a b c s
  | .lput d a b => Sys2Proof.Machine.execLput d a b s
  | .lbcast d a c k => Sys2Proof.Machine.execLbcast d a c k s
  | .lxor d a c k => Sys2Proof.Machine.execLxor d a c k s
  | .vany d a => Sys2Proof.Machine.execVany d a s
  | .vall d a => Sys2Proof.Machine.execVall d a s
  | .vballot d a => Sys2Proof.Machine.execVballot d a s
  | .vred d a op => Sys2Proof.Machine.execVred d a op s
  | .vscan d a c op ex => Sys2Proof.Machine.execVscan d a c op ex s
  | .tred d a op => Sys2Proof.Machine.execTred d a op s
  | .tany d a => Sys2Proof.Machine.execTany d a s
  | .tall d a => Sys2Proof.Machine.execTall d a s
  | .tcount d a => Sys2Proof.Machine.execTcount d a s
  | .mma n a b fa fb spad => Sys2Proof.Machine.execMma n a b fa fb spad s
  | .mmas n a b f slot spad => Sys2Proof.Machine.execMmas n a b f slot spad s
  | .accz n => Sys2Proof.Machine.execAccz n s
  | .acrd d n => Sys2Proof.Machine.execAcrd d n s
  | .acwr n a => Sys2Proof.Machine.execAcwr n a s
  | .acld n a => Sys2Proof.Machine.execAcld n a s
  | .acst n a => Sys2Proof.Machine.execAcst n a s
  | .ldmeta k a => Sys2Proof.Machine.execLdmeta k a s
  | .ppdeg n a => Sys2Proof.Machine.execPpdeg n a s
  | .ppclr n => Sys2Proof.Machine.execPpclr n s
  | .ppfac n a b => Sys2Proof.Machine.execPpfac n a b s
  | .ppdiv n a b => Sys2Proof.Machine.execPpdiv n a b s
  | .ppmul n m => Sys2Proof.Machine.execPpmul n m s
  | .ppld n a => Sys2Proof.Machine.execPpld n a s
  | .ppst n a => Sys2Proof.Machine.execPpst n a s
  | .pprd d n k => Sys2Proof.Machine.execPprd d n k s
  | .ppscl n a => Sys2Proof.Machine.execPpscl n a s
  | .ppinfo d n => Sys2Proof.Machine.execPpinfo d n s
  | .ld8 d a b off => Sys2Proof.Machine.execLd8 d a b off s
  | .ld16 d a b off => Sys2Proof.Machine.execLd16 d a b off s
  | .ld32 d a b off => Sys2Proof.Machine.execLd32 d a b off s
  | .ld64 d a b off => Sys2Proof.Machine.execLd64 d a b off s
  | .ldq d a b off => Sys2Proof.Machine.execLdq d a b off s
  | .lda d a b scope off => Sys2Proof.Machine.execLda d a b scope off s
  | .lds d a b off => Sys2Proof.Machine.execLds d a b off s
  | .sld d a off => Sys2Proof.Machine.execSld d a off s
  | .ldmx d a b off => Sys2Proof.Machine.execLdmx d a b off s
  | .pref a b off => Sys2Proof.Machine.execPref a b off s
  | .st8 d a b off => Sys2Proof.Machine.execSt8 d a b off s
  | .st16 d a b off => Sys2Proof.Machine.execSt16 d a b off s
  | .st32 d a b off => Sys2Proof.Machine.execSt32 d a b off s
  | .st64 d a b off => Sys2Proof.Machine.execSt64 d a b off s
  | .stl d a b scope off => Sys2Proof.Machine.execStl d a b scope off s
  | .sts d a b off => Sys2Proof.Machine.execSts d a b off s
  | .stmx d a b off => Sys2Proof.Machine.execStmx d a b off s
  | .aadd d a b c scope order off => Sys2Proof.Machine.execAadd d a b c scope order off s
  | .amin d a b c scope order off => Sys2Proof.Machine.execAmin d a b c scope order off s
  | .amax d a b c scope order off => Sys2Proof.Machine.execAmax d a b c scope order off s
  | .aand d a b c scope order off => Sys2Proof.Machine.execAand d a b c scope order off s
  | .aor d a b c scope order off => Sys2Proof.Machine.execAor d a b c scope order off s
  | .axor d a b c scope order off => Sys2Proof.Machine.execAxor d a b c scope order off s
  | .axchg d a b c scope order off => Sys2Proof.Machine.execAxchg d a b c scope order off s
  | .acas d a b c scope order off => Sys2Proof.Machine.execAcas d a b c scope order off s
  | .ainc d a b c scope order off => Sys2Proof.Machine.execAinc d a b c scope order off s
  | .afadd d a b c scope order off => Sys2Proof.Machine.execAfadd d a b c scope order off s
  | .apmul n a scope order => Sys2Proof.Machine.execApmul n a scope order s
  | .fenceAcq scope => Sys2Proof.Machine.execFenceAcq scope s
  | .fenceRel scope => Sys2Proof.Machine.execFenceRel scope s
  | .fenceAr scope => Sys2Proof.Machine.execFenceAr scope s
  | .bar scope n => Sys2Proof.Machine.execBar scope n s
  | .barr scope n => Sys2Proof.Machine.execBarr scope n s
  | .barw scope n => Sys2Proof.Machine.execBarw scope n s
  | .podBarrierArrival m => Sys2Proof.Machine.execPodBarrierArrival m s
  | .await d a => Sys2Proof.Machine.execAwait d a s
  | .awaitCycle crew => Sys2Proof.Machine.execAwaitCycle crew s
  | .crewWake crew => Sys2Proof.Machine.execCrewWake crew s
  | .stp k a => Sys2Proof.Machine.execStp k a s
  | .engineOperationStart t => Sys2Proof.Machine.execEngineOperationStart t s
  | .bclose d => Sys2Proof.Machine.execBclose d s
  | .bwait a => Sys2Proof.Machine.execBwait a s
  | .bcnt d a => Sys2Proof.Machine.execBcnt d a s
  | .engineSector t op => Sys2Proof.Machine.execEngineSector t op s
  | .tsub d a => Sys2Proof.Machine.execTsub d a s
  | .nrec d a b => Sys2Proof.Machine.execNrec d a b s
  | .binTimerExpiry node => Sys2Proof.Machine.execBinTimerExpiry node s
  | .tcommit => Sys2Proof.Machine.execTcommit s
  | .glaunch d a => Sys2Proof.Machine.execGlaunch d a s
  | .eret => Sys2Proof.Machine.execEret s
  | .sysrd d k => Sys2Proof.Machine.execSysrd d k s
  | .syswr d k => Sys2Proof.Machine.execSyswr d k s
  | .svcnextRead d => Sys2Proof.Machine.execSvcnextRead d s
  | .svcdoneWrite d => Sys2Proof.Machine.execSvcdoneWrite d s
  | .tlbinv a k => Sys2Proof.Machine.execTlbinv a k s
  | .ctxsv a => Sys2Proof.Machine.execCtxsv a s
  | .crewSave t => Sys2Proof.Machine.execCrewSave t s
  | .ctxld a => Sys2Proof.Machine.execCtxld a s
  | .escape bop d a b ua ub => Sys2Proof.Machine.execEscape bop d a b ua ub s
  | .clauseFetch t => Sys2Proof.Machine.execClauseFetch t s
  | .longLatencyCompletion t id => Sys2Proof.Machine.execLongLatencyCompletion t id s
  | .trapEntry t => Sys2Proof.Machine.execTrapEntry t s
  | .crewRetire crew => Sys2Proof.Machine.execCrewRetire crew s
  | .tailWrite q tail => Sys2Proof.Machine.execTailWrite q tail s
  | .resumeCommand q => Sys2Proof.Machine.execResumeCommand q s
  | .destroyCommand q => Sys2Proof.Machine.execDestroyCommand q s
  | .launchRecordRead q => Sys2Proof.Machine.execLaunchRecordRead q s
  | .nodeSetup q => Sys2Proof.Machine.execNodeSetup q s
  | .crewPlacement die => Sys2Proof.Machine.execCrewPlacement die s
  | .keyRequest task => Sys2Proof.Machine.execKeyRequest task s
  | .keyGrant key => Sys2Proof.Machine.execKeyGrant key s
  | .keyAcquisitionRestart task => Sys2Proof.Machine.execKeyAcquisitionRestart task s
  | .taskDiscard crew => Sys2Proof.Machine.execTaskDiscard crew s
  | .thermalMigration crew core elapsed => Sys2Proof.Machine.execThermalMigration crew core elapsed s
  | .pageListBlockRead die gid block => Sys2Proof.Machine.execPageListBlockRead die gid block s
  | .pageReservation die => Sys2Proof.Machine.execPageReservation die s
  | .pageSense gid page corrected => Sys2Proof.Machine.execPageSense gid page corrected s
  | .pageLanding gid page => Sys2Proof.Machine.execPageLanding gid page s
  | .eviction crew => Sys2Proof.Machine.execEviction crew s
  | .reLanding crew => Sys2Proof.Machine.execReLanding crew s
  | .faultRecordPost die => Sys2Proof.Machine.execFaultRecordPost die s
  | .faultReplyRetry die index => Sys2Proof.Machine.execFaultReplyRetry die index s
  | .faultReplyEnd die index => Sys2Proof.Machine.execFaultReplyEnd die index s
  | .pageRequestSend die => Sys2Proof.Machine.execPageRequestSend die s
  | .prgResponse die group success => Sys2Proof.Machine.execPrgResponse die group success s
  | .atsCompletion die answer => Sys2Proof.Machine.execAtsCompletion die answer s
  | .atsInvalidation pasid page => Sys2Proof.Machine.execAtsInvalidation pasid page s
  | .accessCounterThreshold die space region => Sys2Proof.Machine.execAccessCounterThreshold die space region s
  | .sendArrival m => Sys2Proof.Machine.execSendArrival m s
  | .receiveRingDelivery ring => Sys2Proof.Machine.execReceiveRingDelivery ring s
  | .sendAcknowledge t op accepted => Sys2Proof.Machine.execSendAcknowledge t op accepted s
  | .heartbeatInterval => Sys2Proof.Machine.execHeartbeatInterval s
  | .heartbeatReceive m => Sys2Proof.Machine.execHeartbeatReceive m s
  | .fenceFlit => Sys2Proof.Machine.execFenceFlit s
  | .dataLinkDown => Sys2Proof.Machine.execDataLinkDown s
  | .ideFailure => Sys2Proof.Machine.execIdeFailure s
  | .configAccessOutsideMessage => Sys2Proof.Machine.execConfigAccessOutsideMessage s
  | .spdmSession id => Sys2Proof.Machine.execSpdmSession id s
  | .sessionDoorbell tail => Sys2Proof.Machine.execSessionDoorbell tail s
  | .lock m => Sys2Proof.Machine.execLock m s
  | .start m => Sys2Proof.Machine.execStart m s
  | .stop m => Sys2Proof.Machine.execStop m s
  | .stopComplete => Sys2Proof.Machine.execStopComplete s
  | .queueCreate m q desc bell => Sys2Proof.Machine.execQueueCreate m q desc bell s
  | .queueDestroy m q => Sys2Proof.Machine.execQueueDestroy m q s
  | .worldAssign m world first count attr msd => Sys2Proof.Machine.execWorldAssign m world first count attr msd s
  | .worldRelease m world => Sys2Proof.Machine.execWorldRelease m world s
  | .modeSet m fn assisted => Sys2Proof.Machine.execModeSet m fn assisted s
  | .flashWrite m stack block data => Sys2Proof.Machine.execFlashWrite m stack block data s
  | .qread m slice entry => Sys2Proof.Machine.execQread m slice entry s
  | .qfree m slice entry => Sys2Proof.Machine.execQfree m slice entry s
  | .status m => Sys2Proof.Machine.execStatus m s
  | .scrubStep m entry => Sys2Proof.Machine.execScrubStep m entry s
  | .scrubProgress entry frames => Sys2Proof.Machine.execScrubProgress entry frames s
  | .huskUpdate m off total bytes claim => Sys2Proof.Machine.execHuskUpdate m off total bytes claim s
  | .deviceStart claim => Sys2Proof.Machine.execDeviceStart claim s
  | .huskReady version params => Sys2Proof.Machine.execHuskReady version params s
  | .huskReadyTimeout => Sys2Proof.Machine.execHuskReadyTimeout s
  | .weightContextEnable ctx => Sys2Proof.Machine.execWeightContextEnable ctx s
  | .routeEntry ctx => Sys2Proof.Machine.execRouteEntry ctx s
  | .retireEntry ctx => Sys2Proof.Machine.execRetireEntry ctx s
  | .slotLoad ctx slot ok => Sys2Proof.Machine.execSlotLoad ctx slot ok s
  | .registerWrite r v => Sys2Proof.Machine.execRegisterWrite r v s
  | .dataLinkActive => Sys2Proof.Machine.execDataLinkActive s
  | .eraseOrProgramEnd stack block => Sys2Proof.Machine.execEraseOrProgramEnd stack block s
  | .trainingFailure link => Sys2Proof.Machine.execTrainingFailure link s
  | .powerFailure => Sys2Proof.Machine.execPowerFailure s
  | .cxlMemRequest pa write => Sys2Proof.Machine.execCxlMemRequest pa write s
  | .hostSnoop line store => Sys2Proof.Machine.execHostSnoop line store s
  | .podWindowAccess m => Sys2Proof.Machine.execPodWindowAccess m s
  | .linkLevelRetry port => Sys2Proof.Machine.execLinkLevelRetry port s

end Sys2Proof.Machine
end

