-- ==== Sys2Proof/Machine/Issue.lean ====
section
/-! DEFINITION. Which team a core issues from (R44, R46, R311), and the instruction that it issues. -/

namespace Sys2Proof.Machine

/-! Runnable teams (R46). -/

/-- The channel between two teams of a crew holds a give, or the other team has retired (R34). -/
def State.handReady (s : State) (c : Crew) (key other : Nat) (full : Bool) : Bool :=
  (Sparse.get none c.channels key).isSome == full || s.teamRetired c other

/-- The condition that a team waits for has come about (R46). -/
def State.waitOver (s : State) (r : TeamRef) (t : Team) (c : Crew) : Bool :=
  match t.wait with
  | none => true
  | some (.flag f) => !t.flags.getLsbD f
  | some (.give taker) => s.handReady c (channelKey t.index taker) taker false
  | some (.claim giver) => s.handReady c (channelKey giver t.index) giver true
  | some (.rangeLock _) => false
  | some .accesses => t.late.isEmpty
  | some .reads => !t.late.any LateAcc.reads
  | some (.bytes ps) => !t.late.any (fun a => a.touches ps)
  | some (.interlock g) => !t.locked g
  | some (.tlbinv ids) => !s.ops.any (fun o => ids.contains o.id && o.phase == .running) && !s.anyLate
  | some (.batch n) => !(s.openBatches t.crew t.index).any (fun b => decide (b ≤ n))
  | some .bclose => decide ((s.openBatches t.crew t.index).length < 64)
  | some (.barrier n) => (t.arrivalAt n).any s.barDone
  | some .await => false
  | some .svc => false
  | some (.svcRoom need) => decide (need ≤ (s.svcFree r.die).length)
  | some .svcnext => (s.svcPending r.die).isSome
  | some .ctxsv => match s.crewAtHandle (handleOf t.ctxcrew) with
    | some (_, x) => x.stop.isNone
    | none => true
  | some .gridId => s.freeGid.isSome
  | some .faultSlot => s.msys.canPost r.die
  | some (.ats space page) => match s.msys.atsFind r.die space page with
    | some q => q.denied
    | none => true

/-- The clause waits for a flag (R80, R146). -/
def Team.headerWaits (t : Team) : Bool :=
  match t.clause with
  | some k => k.pos == 0 && headerWait k.h0 &&& t.flags != 0
  | none => false

/-- A team of a crew may issue (R46). -/
def State.mayIssue (s : State) (r : TeamRef) (t : Team) (c : Crew) : Bool :=
  c.runs t && t.present != 0 && t.pending.isNone && !t.headerWaits && s.waitOver r t c

/-! The issue rule (R311). -/

/-- A team that may issue, with what the rule compares. -/
structure Runner where
  ref : TeamRef
  cls : Nat
  last : Nat
  yielded : Bool

/-- The team at a key, if it may issue. -/
def State.runner (s : State) (key : Nat) : Option Runner :=
  match s.teamAt (refOf key) with
  | some t =>
    match s.crewAt t.crew with
    | some c => if s.mayIssue (refOf key) t c then some ⟨refOf key, c.cls, t.lastIssue, t.yielded⟩ else none
    | none => none
  | none => none

/-- The teams of a core of the module that may issue. -/
def State.runners (s : State) (core : Nat) : List Runner :=
  s.teams.filterMap (fun p => if p.1 / 16 = core then s.runner p.1 else none)

/-- The highest class first, then the team that has gone longest without issuing, then the lower slot (R311). -/
def Runner.place (x : Runner) : Place := ⟨x.cls, x.last, x.ref.slot⟩

/-- Teams that gave up the slot stand back where another may issue (R46). -/
def standBack (xs : List Runner) : List Runner :=
  match xs.filter (fun x => !x.yielded) with
  | [] => xs
  | ys => ys

/-- The team that a core of the module issues from next. -/
def State.select (s : State) (core : Nat) : Option TeamRef := (firstOf Runner.place (standBack (s.runners core))).map Runner.ref

/-- The cores that hold teams. -/
def State.busyCores (s : State) : List Nat := uniq (s.teams.map (fun p => p.1 / 16))

/-- Of the teams that the cores issue from next, the one that has gone longest without issuing (log 2). -/
def State.selectAny (s : State) : Option TeamRef :=
  firstOf (fun r => ⟨0, ((s.teamAt r).map Team.lastIssue).getD 0, slotKey r⟩) (s.busyCores.filterMap s.select)

/-! Issue. -/

/-- The slot is taken: what the teams of the core gave up is spent, and the issuing team is noted (log 6). -/
def State.taken (s : State) (r : TeamRef) (t : Team) : State :=
  let teams := s.teams.map (fun p => if p.1 / 16 = slotKey r / 16 then (p.1, p.2.map (fun t => { t with yielded := false })) else p)
  { s with cur := some r, teams := Sparse.set none teams (slotKey r) (some { t with yielded := false, lastIssue := s.clock + 1 }) }

/-- What the team issues: the fetch of its clause, the instruction at its place, or nothing that decodes. -/
def Team.issues (t : Team) (r : TeamRef) : Option Instr := if t.needsFetch then some (.clauseFetch r) else t.current

/-- An encoding that does not decode raises `ILLEGAL_OP` (R148, R155). -/
def State.badWord (s : State) : State :=
  match s.issuer with
  | some c => s.illegal c
  | none => s

/-! Inputs. -/

/-- What may stand in the agenda: a machine event, not an action of the team that issues. -/
def isEvent (i : Instr) : Bool :=
  match i with
  | .xstatRead _ | .svcnextRead _ | .svcdoneWrite _ => false
  | _ => (encode i).isEmpty

/-- The model's own counters advance after a step (log 6). -/
def State.tick (s : State) : State := { s with fresh := s.fresh + 1, clock := s.clock + 1 }

/-- The outcome of a step, its counters advanced. -/
def tickOutcome (o : Host.Outcome State Fault Refusal) : Host.Outcome State Fault Refusal :=
  match o with
  | .next s => .next s.tick
  | .fault f => .fault f
  | .refused r => .refused r

end Sys2Proof.Machine
end

