-- ==== Sys2Proof/Machine/Due.lean ====
section
/-! DEFINITION. The internal events that are due in a state: what the hardware does of itself, with no outside input and no issuing
team (log 2).  An event listed here that is not enabled leaves the state as it stands. -/

namespace Sys2Proof.Machine

/-! Doorbells rung by teams (R296, R332). -/

/-- The queue whose doorbell page holds an address. -/
def State.bellQueue (s : State) (pa : Nat) : Option Nat :=
  (s.queues.find? (fun p => match p.2 with
    | some q => decide (q.bell ≤ pa) && decide (pa < q.bell + 4096) && q.status != 3
    | none => false)).map Prod.fst

/-- The die whose fault reply doorbell an address is. -/
def State.bellDie (s : State) (pa : Nat) : Option Nat :=
  (List.range 8).find? (fun d => s.msys.bring.replyDoorbell.getD d 0 == pa && decide (d < s.msys.bring.replyDoorbell.length))

/-- What a write to a doorbell page commands. -/
def State.rings (s : State) (pa : Nat) (bs : List Byte) : Host.Outcome State Fault Refusal :=
  match s.bellDie pa with
  | some d =>
    if bs.length ≠ 8 then .next s
    else match bitsOf (leNat bs) 32 2 with
      | 1 => execFaultReplyRetry d (BitVec.ofNat 32 (leNat bs)) s
      | 2 => execFaultReplyEnd d (BitVec.ofNat 32 (leNat bs)) s
      | _ => .next s
  | none =>
    match s.bellQueue pa with
    | some q =>
      if bs.length ≠ 4 then .next s
      else match pa % 4096, leNat bs with
        | 0, x => execTailWrite q (BitVec.ofNat 32 x) s
        | 8, 1 => execResumeCommand q s
        | 8, 2 => execDestroyCommand q s
        | _, _ => .next s
    | none => .next s

/-- The first doorbell write that has not been acted on is. -/
def State.answerBell (s : State) : Host.Outcome State Fault Refusal :=
  match s.msys.rung with
  | (pa, bs) :: rest => (s.setMsys { s.msys with rung := rest }).rings pa bs
  | [] => .next s

/-! Events. -/

/-- What an internal event does: the meaning of the event of that name. -/
def Due.run (e : Due) (s : State) : Host.Outcome State Fault Refusal :=
  match e with
  | .trapEntry r => execTrapEntry r s
  | .lateAccess r => .next (s.performFirst r 1)
  | .longLatencyCompletion r id => execLongLatencyCompletion r id s
  | .engineOperationStart r => execEngineOperationStart r s
  | .crewRetire cid => execCrewRetire cid s
  | .awaitCycle cid => execAwaitCycle cid s
  | .eviction cid => execEviction cid s
  | .crewSave r => execCrewSave r s
  | .taskDiscard cid => execTaskDiscard cid s
  | .thermalMigration cid core => execThermalMigration cid core 0 s
  | .crewWake cid => execCrewWake cid s
  | .reLanding cid => execReLanding cid s
  | .pageReservation die => execPageReservation die s
  | .crewPlacement die => execCrewPlacement die s
  | .faultRecordPost die => execFaultRecordPost die s
  | .pageRequestSend die => execPageRequestSend die s
  | .pageListBlockRead die gid b => execPageListBlockRead die gid b s
  | .pageSense gid i corrected => execPageSense gid i corrected s
  | .pageLanding gid i => execPageLanding gid i s
  | .launchRecordRead q => execLaunchRecordRead q s
  | .nodeSetup q => execNodeSetup q s
  | .keyRequest id => execKeyRequest id s
  | .keyAcquisitionRestart id => execKeyAcquisitionRestart id s
  | .keyGrant key => execKeyGrant key s
  | .engineSector r id => execEngineSector r id s
  | .sendAcknowledge r id accepted => execSendAcknowledge r id accepted s
  | .sendArrival m => execSendArrival m s
  | .receiveRingDelivery ring => execReceiveRingDelivery ring s
  | .accessCounterThreshold die space region => execAccessCounterThreshold die space region s
  | .groupForm n => .next (groupReady n s)
  | .acornFault ctx => .next (s.acornFault ctx)
  | .weightContextEnable ctx => execWeightContextEnable ctx s
  | .routeEntry ctx => execRouteEntry ctx s
  | .retireEntry ctx => execRetireEntry ctx s
  | .slotLoad ctx k => execSlotLoad ctx k true s
  | .stopComplete => execStopComplete s
  | .scrubProgress i => execScrubProgress i 4096 s
  | .doorbell => s.answerBell
  | .atsDone pasid page => .next (s.endInvalidation pasid page)

/-- The values of a table with their numbers. -/
def entries {α : Type} (m : Table α) : List (Nat × α) := m.filterMap (fun p => p.2.map (fun x => (p.1, x)))

/-- The eight dies. -/
def dies : List Nat := List.range 8

/-- One event where there is something to act on. -/
def ifSome {α : Type} (x : Option α) (f : α → Due) : List Due := (x.map f).toList

/-! Teams and crews. -/

/-- Events of a resident team. -/
def Team.due (t : Team) (r : TeamRef) : List Due :=
  (if t.pending.isSome then [Due.trapEntry r] else []) ++ (if t.late.isEmpty then [] else [Due.lateAccess r]) ++ t.inflight.map (fun o => Due.longLatencyCompletion r o.id)
    ++ (match t.wait with
      | some (.rangeLock _) => [Due.engineOperationStart r]
      | _ => [])

/-- Events of a crew. -/
def State.crewDue (s : State) (p : Nat × Crew) : List Due :=
  let (cid, c) := p
  (if c.phase == .leaving then [Due.crewRetire cid] else [])
    ++ (match c.stop with
      | some .awaitCycle => [Due.awaitCycle cid]
      | some (.evict _ _) => [Due.eviction cid]
      | some (.save r _) => [Due.crewSave r]
      | some (.discard _) => [Due.taskDiscard cid]
      | some (.migrate core) => [Due.thermalMigration cid core]
      | none => if c.discardable && s.outranked c.die c.cls then [Due.taskDiscard cid] else [])
    ++ (match c.await, s.pageOf c with
      | some (j, _, _), some (g, _) => if c.awaiting && (awaitStatus (g.pageAt j).state).isSome then [Due.crewWake cid] else []
      | _, _ => [])

/-! Dies. -/

/-- Events of a die's dispatcher, Sprout engine and fault queue. -/
def State.dieDue (s : State) (die : Nat) : List Due :=
  ifSome (s.victim die) (fun p => Due.eviction p.1) ++ ifSome (s.nextRelanding die) (fun p => Due.reLanding p.1)
    ++ ifSome (s.nextPage die) (fun _ => Due.pageReservation die)
    ++ (if (s.nextCand die).isSome || (s.needsGid die).isSome then [Due.crewPlacement die] else [])
    ++ (if s.msys.posts.any (fun p => p.1 == die) && s.msys.faultRoom die then [Due.faultRecordPost die] else [])
    ++ (if (s.nextPri die).isSome then [Due.pageRequestSend die] else [])

/-- The first block of a grid's page list that a die may read. -/
def Grid.nextBlock (g : Grid) (die : Nat) : Option Nat := findFrom (g.mayRead die) (g.record.count / 8 + 2) 0

/-- Events of a page: its sense and its landing.  Whether a sense corrects is a free value (R55). -/
def State.pageDue (s : State) (g : Grid) (p : Nat × PageSt) : List Due :=
  if p.2.state ≠ 1 then []
  else match p.2.sensed with
    | some _ => [Due.pageLanding g.gid p.1]
    | none => [Due.pageSense g.gid p.1 (!Config.flashFails (freeAt s 43100) p.2.flashPage)]

/-- Events of a grid. -/
def State.gridDue (s : State) (g : Grid) : List Due :=
  (if g.record.paged then dies.flatMap (fun d => ifSome (g.nextBlock d) (fun b => Due.pageListBlockRead d g.gid b)) else [])
    ++ (entries g.pages).flatMap (s.pageDue g)

/-! Queues, tasks and keys. -/

/-- Events of a launch queue. -/
def State.queueDue (s : State) (q : Nat) : List Due :=
  if (s.queueReady q).isSome then [Due.launchRecordRead q, Due.nodeSetup q] else []

/-- Events of a node's bin. -/
def nodeDue (p : Nat × Node) : List Due := if p.2.count ≤ p.2.bin.length then [Due.groupForm p.1] else []

/-- Events of a task. -/
def taskDue (p : Nat × Task) : List Due :=
  match p.2.phase with
  | .want _ => if p.2.gid.isSome then [Due.keyRequest p.1] else []
  | .restart _ _ => [Due.keyAcquisitionRestart p.1]
  | _ => []

/-- The grant of a free key. -/
def KeyEntry.due (e : KeyEntry) : List Due :=
  if e.holder.isNone && !e.waiters.isEmpty then [Due.keyGrant (BitVec.ofNat 64 e.key)] else []

/-! Engines and fabric. -/

/-- Events of an engine operation. -/
def State.opDue (s : State) (o : EngineOp) : List Due :=
  let r : TeamRef := ⟨o.die, o.core, o.slot⟩
  if s.opRuns o then [Due.engineSector r o.id]
  else if o.phase ≠ .sent then []
  else if o.record = 2 then [Due.sendAcknowledge r o.id true]
  else if o.record = 3 then [Due.sendAcknowledge r o.id false]
  else if o.record ≠ 0 then []
  else match s.ringFor (s.localSend o) with
    | some ring => if s.readers.contains (64 + ring) then [] else [Due.sendArrival (s.localSend o)]
    | none => if s.reachable (bitsOf o.w2.toNat 0 8) then [] else [Due.sendAcknowledge r o.id false]

/-! Contexts and firmware. -/

/-- Events of the Acorns. -/
def State.acornDue (s : State) (ctx : Nat) : List Due :=
  match s.ctxAt ctx with
  | none => if s.toEnable ctx then [Due.weightContextEnable ctx] else []
  | some c =>
    (if (s.toDisable ctx).isSome then [Due.weightContextEnable ctx] else [])
      ++ (if (s.acornFails ctx).isSome then [Due.acornFault ctx] else [])
      ++ (match c.loadingSlot with
        | some (k, x) => if x.waiting then [] else [Due.slotLoad ctx k]
        | none =>
          if c.work.isSome then [Due.routeEntry ctx]
          else match s.acornNext ctx with
            | some (_, _, _, e) => [if entryRetire e then Due.retireEntry ctx else Due.routeEntry ctx]
            | none => [])

/-- Events of Germ and Husk. -/
def State.firmDue (s : State) : List Due :=
  (if s.firm.stopping && s.queuesDone then [Due.stopComplete] else [])
    ++ (if s.firm.germ then (entries s.firm.journal).flatMap (fun p => if p.2.state = 1 && !p.2.assisted then [Due.scrubProgress p.1] else [])
        else [])

/-! All of them. -/

/-- The internal events that are due. -/
def State.due (s : State) : List Due :=
  (entries s.teams).flatMap (fun p => p.2.due (refOf p.1)) ++ (entries s.crews).flatMap s.crewDue ++ dies.flatMap s.dieDue
    ++ s.grids.flatMap s.gridDue ++ s.queues.flatMap (fun p => s.queueDue p.1) ++ (entries s.nodes).flatMap nodeDue
    ++ (entries s.tasks).flatMap taskDue
    ++ s.keys.flatMap KeyEntry.due ++ s.ops.flatMap s.opDue ++ s.sends.map (fun w => Due.receiveRingDelivery w.ring)
    ++ (s.msys.reached.filter (fun c => s.msys.canPost c.die)).map (fun c => Due.accessCounterThreshold c.die c.space (c.addr / 65536))
    ++ (List.range 64).flatMap s.acornDue ++ s.firmDue ++ (if s.msys.rung.isEmpty then [] else [Due.doorbell])
    ++ (s.invalidations.filter (fun p => !s.usesHost p.1 p.2)).map (fun p => Due.atsDone p.1 p.2)

/-- The events that are due, in the order in which they happen: those that were due before keep their places, and new ones come
behind them, so that none is passed over for ever (R44, log 2). -/
def State.dueOrder (s : State) : List Due := s.queued.filter (fun e => s.due.contains e) ++ s.due.filter (fun e => !s.queued.contains e)

/-- The event that happens next, with the state in which it does. -/
def State.nextDue (s : State) : Option (Due × State) :=
  match s.dueOrder with
  | [] => none
  | e :: es => some (e, { s with queued := es })

end Sys2Proof.Machine
end

