-- ==== Sys2Proof/Machine/Step.lean ====
section
/-! DEFINITION. One step of the machine, and the placing of an instruction where the next step issues it. -/

namespace Sys2Proof.Machine

/-- A team issues (R46, R311): the instruction at its place is decoded and run. -/
def issueFrom (s : State) (r : TeamRef) : Host.Outcome State Fault Refusal :=
  match s.teamAt r with
  | none => .next s
  | some t =>
    match t.issues r with
    | some i => exec i (s.taken r t)
    | none => .next (s.taken r t).badWord

/-- A core issues, if it holds a team that may. -/
def issueOn (s : State) (core : Nat) : Host.Outcome State Fault Refusal :=
  match s.select core with
  | some r => issueFrom s r
  | none => .next s

/-- The internal event that has been due longest happens, if one is due. -/
def internal (s : State) : Host.Outcome State Fault Refusal :=
  match s.nextDue with
  | some (e, s) => e.run s
  | none => .next s

/-- A step that nothing schedules: an internal event and a team in turn, each where the other has nothing to do (log 2). -/
def unscheduled (s : State) : Host.Outcome State Fault Refusal :=
  let s' := { s with turn := !s.turn }
  match s.selectAny with
  | none => internal s'
  | some r => if s.turn && s.nextDue.isSome then internal s' else issueFrom s' r

/-- An outside input or a timing choice acts: what is no machine event does nothing, and a line that fails its check is poisoned (R326). -/
def Input.act (e : Input) (s : State) : Host.Outcome State Fault Refusal :=
  match e with
  | .event i => if isEvent i then exec i s else .next s
  | .integrity line => .next (s.setMsys (s.msys.setPoison line true))
  | .access r k => .next (s.performAt (freeAt s 61000) r k)
  | .migrate die index page frame => .next (s.migratePage die index page frame)

/-- What happens in a step (log 2): the next input of the agenda, else what the interleaving names, else either. -/
def happen (s : State) : Host.Outcome State Fault Refusal :=
  match s.agenda with
  | e :: rest => e.act { s with agenda := rest }
  | [] =>
    match s.sched with
    | 0 :: rest => internal { s with sched := rest }
    | (k + 1) :: rest => issueOn { s with sched := rest } k
    | [] => unscheduled s

/-- One step. -/
def step (s : State) : Host.Outcome State Fault Refusal := tickOutcome (happen s)

/-! Placing an instruction (log 15). -/

/-- The team that holds an instruction placed in a machine where none may issue: crew 0 of a grid of its own, one word of 32 lanes at
level 2. -/
def loaderTeam : Team := launchTeam 0 0 2 ⟨32, 0⟩ 0 []

/-- Its crew, which holds a whole core but its service share. -/
def loaderCrew : Crew where
  gid := 1
  index := 0
  phase := .resident
  die := 0
  core := 0
  slots := [0]
  world := 0
  cls := 3
  group := 0
  coop := false
  fuse := false
  task := none
  committed := false
  page := none
  alloc := ⟨256, 32, 8, 8, 262144, 1⟩
  scratch := []
  tiles := []
  metadata := []
  pps := []
  channels := []
  teams := []
  await := none
  woken := none
  landWait := false
  faulted := false
  doubleTrap := false
  stop := none
  placedAt := 0
  parkedAt := 0

/-- The machine with a team that may issue: itself where it has one, else with the loader's team at die 0, core 0, slot 0. -/
def State.withRunner (s : State) : State × TeamRef :=
  match s.selectAny with
  | some r => (s, r)
  | none => ((s.setCrew 0 loaderCrew).setTeam ⟨0, 0, 0⟩ loaderTeam, ⟨0, 0, 0⟩)

/-- A clause of the words given, at the team's pc. -/
def Team.withWords (t : Team) (ws : List Word) : Team :=
  { t with clause := some ⟨t.pc, BitVec.ofNat 32 (0xFF000000 + 0xFF0 + (ws.length - 1)), 0, ws, 0, []⟩, pc := t.pc + 8, replay := none, wait := none }

/-- `s` with the instruction whose bits are `w` where `step` issues its next instruction: in the clause of the team that issues next. -/
def State.withFetchWord (s : State) (nbits w : Nat) : State :=
  let x := w % 2 ^ nbits
  let ws : List Word := [BitVec.ofNat 32 x, BitVec.ofNat 32 (x / 2 ^ 32)]
  let p := s.withRunner
  match p.1.teamAt p.2 with
  | some t => { p.1.setTeam p.2 (t.withWords ws) with agenda := [], sched := [slotKey p.2 / 16 + 1] }
  | none => p.1

end Sys2Proof.Machine
end

