-- ==== Sys2Proof/Safety.lean ====
section
/-! DEFINITION. The terms in which claims are stated: what a register holds, what an instruction leaves alone, the
shapes that results take, and the invariants of the machine. -/

namespace Sys2Proof.Machine

/-! Registers. -/

/-- What vector register `r` of a lane holds (R74). -/
def Team.vreg (t : Team) (lane r : Nat) : Word := Sparse.get 0 t.vregs (regKey lane r)

/-- What uniform register `r` holds (R74). -/
def Team.sreg (t : Team) (r : Nat) : Word := Sparse.get 0 t.sregs r

/-- The writes of instructions in flight that are still to come, with their values (R149). -/
def Team.stillPending (t : Team) : List (Nat × Option Nat × List (Nat × Option Word)) :=
  t.inflight.map (fun o => (o.id, o.flag, o.writes.map (fun p => (p.1, p.2.map PendWrite.val))))

/-- The word of a result that register `r` takes: the low word, or the high word of a pair (R88). -/
def destWord (d : Reg) (x r : Nat) : Word := BitVec.ofNat 32 (if r = d.toNat then x else x / 2 ^ 32)

/-! What an instruction leaves alone. -/

/-- Apart from the vector file, the sticky bits, the latches, the marks of pending writes and the place of the next
instruction, the team is as it was. -/
def Team.FrameV (t u : Team) : Prop :=
  u.stillPending = t.stillPending ∧
  u = { t with vregs := u.vregs, stat := u.stat, hold := u.hold, reuse := u.reuse, inflight := u.inflight
               pc := u.pc, clause := u.clause, replay := none, yielded := u.yielded }

/-- The same for the uniform file. -/
def Team.FrameS (t u : Team) : Prop :=
  u.stillPending = t.stillPending ∧
  u = { t with sregs := u.sregs, stat := u.stat, hold := u.hold, inflight := u.inflight
               pc := u.pc, clause := u.clause, replay := none, yielded := u.yielded }

/-- Apart from the place of the next instruction and the hold latch, the team is as it was. -/
def Team.FrameP (t u : Team) : Prop :=
  u = { t with hold := u.hold, pc := u.pc, clause := u.clause, replay := none, yielded := u.yielded }

/-- Where the team stands after an instruction of `n` words that is no branch (R146). -/
def Team.nextPc (t : Team) (n : Nat) : VAddr :=
  match t.clause with
  | some k => if k.pos + n < headerCount k.h0 then t.pc + BitVec.ofNat 57 (4 * n) else k.next
  | none => t.pc + BitVec.ofNat 57 (4 * n)

/-! The shapes of a completed instruction. -/

/-- The instruction completes: nothing but the issuing team changes, and the team becomes one of which `P` holds. -/
def Completes (i : Instr) (s : State) (c : Issuer) (P : Team → Prop) : Prop :=
  ∃ u, exec i s = .next (s.setTeam c.ref u) ∧ P u

/-- `u` holds the results `val` in the destination `d` of the active lanes, and what `t` held in every other register. -/
def Team.HoldsV (t u : Team) (free : Nat) (wide : Bool) (d : Reg) (val : Nat → Result) : Prop :=
  (∀ l r, r < 256 → u.vreg l r =
    if t.isActive free l = true ∧ r ∈ destRegs wide d then destWord d (val l).1 r else t.vreg l r) ∧
  u.stat = if (t.active free).any (fun l => (val l).2) then t.stat ||| 4 else t.stat

/-- `u` holds the result `x` in the uniform destination `d`, and what `t` held in every other register. -/
def Team.HoldsS (t u : Team) (wide : Bool) (d : Reg) (x : Result) : Prop :=
  (∀ r, u.sreg r = if r ∈ destRegs wide d then destWord d x.1 r else t.sreg r) ∧
  u.stat = if x.2 then t.stat ||| 4 else t.stat

/-- An instruction of `n` words with one result in each active lane. -/
def VectorResult (i : Instr) (s : State) (c : Issuer) (n : Nat) (wide : Bool) (d : Reg) (val : Nat → Result) : Prop :=
  Completes i s c fun u => c.team.FrameV u ∧ c.team.HoldsV u s.rf wide d val ∧ u.pc = c.team.nextPc n

/-- An instruction of `n` words with one result in the uniform file. -/
def UniformResult (i : Instr) (s : State) (c : Issuer) (n : Nat) (wide : Bool) (d : Reg) (x : Result) : Prop :=
  Completes i s c fun u => c.team.FrameS u ∧ c.team.HoldsS u wide d x ∧ u.pc = c.team.nextPc n

/-- `u` holds the results `val` in the `k` registers from `d` on of the active lanes, and what `t` held in every other
register. -/
def Team.HoldsRun (t u : Team) (free : Nat) (d : Reg) (k : Nat) (val : Nat → Nat → Word) : Prop :=
  ∀ l r, r < 256 → u.vreg l r =
    if t.isActive free l = true ∧ d.toNat ≤ r ∧ r < d.toNat + k then val l (r - d.toNat) else t.vreg l r

/-- An instruction of `n` words that writes `k` registers in each active lane. -/
def VectorRun (i : Instr) (s : State) (c : Issuer) (n : Nat) (d : Reg) (k : Nat) (val : Nat → Nat → Word) : Prop :=
  Completes i s c fun u =>
    c.team.FrameV u ∧ c.team.HoldsRun u s.rf d k val ∧ u.stat = c.team.stat ∧ u.pc = c.team.nextPc n

/-- The instruction's effect is to raise a trap with the given `c.tva` and nothing else (R283, R285). -/
def Raises (i : Instr) (s : State) (c : Issuer) (trap : Trap) (tva : Nat) : Prop := exec i s = .next (s.raise c trap 0 tva 0)

/-- A branch: the team goes to `target` and is `t` otherwise. -/
def BranchTo (i : Instr) (s : State) (c : Issuer) (t : Team) (target : VAddr) : Prop :=
  Completes i s c fun u => t.FrameP u ∧ u.pc = target ∧ u.clause = none

/-- An instruction of `n` words that makes the team `t` and goes on. -/
def GoesOn (i : Instr) (s : State) (c : Issuer) (n : Nat) (t : Team) : Prop :=
  Completes i s c fun u => t.FrameP u ∧ u.pc = c.team.nextPc n

/-- The instruction waits: it is issued again once `w` is over, and nothing else happens (R46). -/
def Waits (i : Instr) (s : State) (c : Issuer) (w : Wait) : Prop :=
  exec i s = .next (s.setTeam c.ref { c.team with wait := some w })

/-! Instructions that access memory lane by lane (R237 to R240). -/

/-- Apart from the instructions in flight, the completion flags, the accesses still to be performed, the hold latch and the place of the next
instruction, the team is as it was. -/
def Team.FrameL (t u : Team) : Prop :=
  u = { t with inflight := u.inflight, flags := u.flags, late := u.late, hold := u.hold, pc := u.pc, clause := u.clause, replay := none
               yielded := u.yielded }

/-- The long-latency instruction of a completed issue: its flag is set and its register writes are pending, those of `unready` without a
value yet (R149). -/
def Team.Launched (t u : Team) (id : Nat) (unready : List Nat) (ws : List (Nat × Word)) : Prop :=
  (u.inflight = if t.flagSlot = none ∧ ws = [] then t.inflight else t.inflight ++ [⟨id, t.flagSlot, pendWrites unready ws⟩]) ∧
  u.flags = match t.flagSlot with
    | some f => t.flags ||| BitVec.ofNat 12 (2 ^ f)
    | none => t.flags

/-- The flag that the instruction would set is free (R80). -/
def Team.flagFree (t : Team) : Prop := ∀ f, t.flagSlot = some f → t.flags.getLsbD f = false

/-- What the lanes of an access start from (R239, R240). -/
def Issuer.start (c : Issuer) (s : State) : LaneSeq := c.seq s s.msys (c.team.todo s.rf).2

/-- The lanes of an access as they run. -/
def Issuer.runs (c : Issuer) (s : State) (lane : LaneSeq → Nat → Except LaneFail LaneSeq) : LaneSeq × Option (Nat × LaneFail) :=
  runLanes lane (c.team.todo s.rf).1 (c.start s)

/-- The issuing team where one of its lanes was not accepted: the others before it are in flight, and those left are to be replayed (R239, R240). -/
def Issuer.stopped (c : Issuer) (s : State) (q : LaneSeq) : Issuer :=
  { c with
    team := { c.team.launch s.fresh c.team.flagSlot (q.unready s.fresh) q.writes with
                late := q.late, replay := some (laneSetOf (c.team.todo s.rf).1 &&& ~~~q.done, q.done) }
    crew := q.crew }

/-- An access instruction of `n` words: it waits for its flag, and for earlier accesses where one of its own may not stand behind them; it performs
`lane` for its lanes in ascending order, and completes when all are accepted; at the first that is not it traps, or waits for the host, with the
lanes before it done. -/
def RunsLanes (i : Instr) (s : State) (c : Issuer) (n : Nat) (write : Bool) (fin : MemSys → MemSys)
    (lane : LaneSeq → Nat → Except LaneFail LaneSeq) : Prop :=
  (∀ f, c.team.flagSlot = some f → c.team.flags.getLsbD f = true → Waits i s c (.flag f)) ∧
  (c.team.flagFree →
    (∀ w, (c.runs s lane).1.blocked = some w → Waits i s c w) ∧
    ((c.runs s lane).1.blocked = none →
      ((c.runs s lane).2 = none → ∃ u, exec i s = .next ((s.afterLanes c fin (c.runs s lane).1).setTeam c.ref u) ∧ c.team.FrameL u ∧
        c.team.Launched u s.fresh ((c.runs s lane).1.unready s.fresh) (c.runs s lane).1.writes ∧ u.late = (c.runs s lane).1.late ∧
        u.pc = c.team.nextPc n) ∧
      (∀ l f, (c.runs s lane).2 = some (l, f) → exec i s = .next ((s.afterLanes c fin (c.runs s lane).1).accessFails
        (c.stopped s (c.runs s lane).1) 1 write l (c.runs s lane).1.done (0, 0) f))))

/-- What translating and counting an access may change of the memory system `m`, and nothing else does. -/
def MemSys.Used (m m' : MemSys) : Prop :=
  m' = { m with tlb := m'.tlb, walks := m'.walks, counters := m'.counters, reached := m'.reached }

/-- Where a whole access of `len` bytes at `va` goes no further: at a range lock, at the wait for the team's accesses where it is to follow them
(`waits`), and at its translation, before anything is performed (R128, R130, R329); `code` is that of the fault record. -/
def WholeStops (i : Instr) (s : State) (c : Issuer) (code : Nat) (write needMsd waits : Bool) (va len : Nat) : Prop :=
  let locked := s.msys.conflict c.ref.die c.ref.core [] false write va len
  (locked = true → Raises i s c .rangeConflict va) ∧
  (locked = false → waits = true → c.team.late ≠ [] → Waits i s c .accesses) ∧
  ∀ f, locked = false → (waits = true → c.team.late = []) → c.pieces s.msys (freeAt s 1) write needMsd (linePieces (len + 1) va len) = .error f →
    exec i s = .next (s.accessFails c code write 0 0 (0, 0) f)

/-- Where the access of one lane to `len` bytes at `va` goes no further, and what it has made of the memory system where it does: the range locks, the
translation and, for a write, the held lines (R51, R128, R239, R325). -/
def LaneAccess (c : Issuer) (s : State) (q : LaneSeq) (l : Nat) (write : Bool) (va len : Nat) (r : Except LaneFail LaneSeq)
    (P : MemSys → Nat → Dword → Prop) : Prop :=
  let locked := q.m.conflict c.ref.die c.ref.core [] false write va len
  let x := q.m.translate (laneFree s l 0) (c.access write false) va
  (locked = true → r = .error (.trap .rangeConflict va)) ∧
  (locked = false →
    (∀ cause, x = .fail cause → r = .error (.xlate cause va)) ∧ (x = .world → r = .error (.trap .worldViolation va)) ∧
    (x = .ats → r = .error (.ats va)) ∧
    (∀ pa leaf lvl, x = .ok pa leaf lvl →
      (write = true → q.m.isHeld pa = true → r = .error (.trap .worldViolation va)) ∧
      (write = false ∨ q.m.isHeld pa = false → ∃ m : MemSys, q.m.Used m ∧ P m pa leaf)))

/-- A whole read of `len` bytes at `va` is accepted: it gives the bytes `bs` and leaves the memory system `m` (R128, R329). -/
def Issuer.Reads (c : Issuer) (s : State) (va len : Nat) (bs : List Byte) (m : MemSys) : Prop :=
  s.msys.conflict c.ref.die c.ref.core [] false false va len = false ∧ c.team.late = [] ∧
  ∃ m1 ps, c.pieces s.msys (freeAt s 1) false false (linePieces (len + 1) va len) = .ok (m1, ps) ∧
    c.readPieces m1 (freeAt s 30000) ps = (bs, m)

/-- The bytes of 8-byte units, from unit `i` on, as the team reads them one after another where nothing is late (R129, R131), and the memory system
after that. -/
def Issuer.readUnits (c : Issuer) (s : State) : Nat → List Target → MemSys → List Byte × MemSys
  | _, [], m => ([], m)
  | i, p :: ps, m =>
    let x := p.read (freeAt s (10000 + i)) c.ref c.crew.world false m c.crew
    let y := c.readUnits s (i + 1) ps x.2
    ((List.range 8).map (x.1.getD · 0) ++ y.1, y.2)

/-- The instruction, of one word, makes the state `s1` but for its team, which writes `x` to the uniform register `d` and goes on. -/
def Answers (i : Instr) (s s1 : State) (c : Issuer) (d : Reg) (x : Word) : Prop :=
  ∃ u, exec i s = .next (s1.setTeam c.ref u) ∧ c.team.FrameS u ∧ u.pc = c.team.nextPc 1 ∧ u.stat = c.team.stat ∧
    ∀ r, u.sreg r = if r = d.toNat then x else c.team.sreg r

/-- The instruction, of one word, makes the state `s1` but for its team, which becomes `t` and goes on. -/
def Makes (i : Instr) (s s1 : State) (c : Issuer) (t : Team) : Prop :=
  ∃ u, exec i s = .next (s1.setTeam c.ref u) ∧ t.FrameP u ∧ u.pc = c.team.nextPc 1

/-- The instruction is no legal one here: its effect is to raise `ILLEGAL_OP` and nothing else (R283, R285). -/
def RaisesIllegal (i : Instr) (s : State) (c : Issuer) : Prop := exec i s = .next (s.illegal c)

/-- The instance `b` of a barrier as an arrival or a retirement has left it: where every member has arrived it is over, and counted for each name of
its members; else it stays open (R252). -/
def State.Settled (s s' : State) (b : BarState) : Prop :=
  (s.barComplete b = true → s'.barriers = s.barriers.filter (fun x => x.id != b.id) ∧
    ∀ n o, s'.barCount n o = if n = b.number ∧ o ∈ b.names then max (s.barCount n o) (b.inst + 1) else s.barCount n o) ∧
  (s.barComplete b = false → s'.barriers = b :: s.barriers.filter (fun x => x.id != b.id) ∧ s'.barCounts = s.barCounts)

/-! Encodings of the IEEE formats as numbers (R90, R192 to R195). -/

/-- The encoding without its sign bit. -/
def FloatFmt.mag (f : FloatFmt) (x : Nat) : Nat := x % 2 ^ (f.width - 1)

/-- An encoding of NaN: above that of infinity. -/
def FloatFmt.nanEnc (f : FloatFmt) (x : Nat) : Bool := decide (f.infBits < f.mag x)

/-- The order of the encodings that are not NaN: that of their values. -/
def FloatFmt.place (f : FloatFmt) (x : Nat) : Int := if x < 2 ^ (f.width - 1) then (f.mag x : Int) else -(f.mag x : Int)

/-- The same with −0 below +0. -/
def FloatFmt.place0 (f : FloatFmt) (x : Nat) : Int := if x < 2 ^ (f.width - 1) then (f.mag x : Int) else -(f.mag x : Int) - 1

/-- IEEE 754-2019 minimumNumber and maximumNumber as R192 tells them: the operand that `first` picks, unless one is NaN. -/
def FloatFmt.pick (f : FloatFmt) (first : Int → Int → Bool) (x y : Nat) : Nat :=
  if f.nanEnc x then (if f.nanEnc y then f.nanBits else y)
  else if f.nanEnc y then x
  else if first (f.place0 x) (f.place0 y) then x else y

/-- A compare of R194: with a NaN it gives `un`, else what `rel` says of the values. -/
def FloatFmt.test (f : FloatFmt) (un : Bool) (rel : Int → Int → Bool) (x y : Nat) : Nat :=
  if f.nanEnc x || f.nanEnc y then un.toNat else (rel (f.place x) (f.place y)).toNat

/-- The class bits of R195, by the sign and the magnitude. -/
def FloatFmt.classOf (f : FloatFmt) (x : Nat) : Nat :=
  let pos := decide (x < 2 ^ (f.width - 1))
  if f.nanEnc x then 0x100
  else if f.mag x = f.infBits then (if pos then 0x80 else 0x01)
  else if f.mag x = 0 then (if pos then 0x10 else 0x08)
  else if f.mag x < 2 ^ f.mbits then (if pos then 0x20 else 0x04)
  else if pos then 0x40 else 0x02

/-! Rounding as R95 tells it, over the reals. -/

/-- The real value of a finite exact value. -/
def Val.Is (v : Val) (x : ℝ) : Prop := ∃ (neg : Bool) (m : Nat) (e : Int), v = .fin neg m e ∧ x = (if neg then -1 else 1) * m * (2 : ℝ) ^ e

/-- The sign bit of an encoding. -/
def FloatFmt.negEnc (f : FloatFmt) (x : Nat) : Bool := x.testBit (f.ebits + f.mbits)

/-- Whether a magnitude `x` between the neighbours `lo` and `hi` goes to `hi`; `odd` says that the encoding of `lo` is odd (R95). -/
def GoesUp (mode : RMode) (neg : Bool) (odd : Prop) (lo x hi : ℝ) : Prop :=
  match mode with
  | .rne => lo + hi < 2 * x ∨ (lo + hi = 2 * x ∧ odd)
  | .rna => lo + hi ≤ 2 * x
  | .rtz => False
  | .rup => neg = false ∧ lo < x
  | .rdn => neg = true ∧ lo < x

/-- `n` is the index of what `x` is rounded to among the magnitudes `v 0 < v 1 < …` (R95). -/
def RoundsAmong (v : Nat → ℝ) (mode : RMode) (x : ℝ) (neg : Bool) (n : Nat) : Prop :=
  (neg = true ↔ x < 0) ∧ ∃ k, v k ≤ |x| ∧ |x| < v (k + 1) ∧
    (GoesUp mode neg (k % 2 = 1) (v k) |x| (v (k + 1)) → n = k + 1) ∧ (¬ GoesUp mode neg (k % 2 = 1) (v k) |x| (v (k + 1)) → n = k)

/-- The encoding `r` is `x`, not zero, rounded once: among the magnitudes that the format would have without an upper end, and above its own
greatest by the mode (R95). -/
def FloatFmt.Rounds (f : FloatFmt) (mode : RMode) (x : ℝ) (r : Nat) : Prop :=
  ∃ neg n, RoundsAmong (fun k => if k < 2 ^ f.mbits then k * (2 : ℝ) ^ f.minExp
      else ((2 ^ f.mbits + k % 2 ^ f.mbits : Nat) : ℝ) * (2 : ℝ) ^ (f.minExp + (k / 2 ^ f.mbits : Nat) - 1)) mode x neg n ∧
    r = f.signBits neg + if n ≤ f.maxBits then n
      else if f.special = .ieee ∧ (mode = .rne ∨ mode = .rna ∨ (mode = .rup ∧ neg = false) ∨ (mode = .rdn ∧ neg = true)) then f.infBits
      else f.maxBits

/-- The integer `n` is `x` rounded to an integer (R95). -/
def RoundsToInt (mode : RMode) (x : ℝ) (n : Int) : Prop :=
  ∃ neg k, RoundsAmong (fun i => (i : ℝ)) mode x neg k ∧ n = if neg then -(k : Int) else k

/-- The range of an integer type of `w` bits (R88). -/
def Fits (w : Nat) (sgn : Bool) (z : Int) : Prop :=
  if sgn then -(2 ^ (w - 1) : Int) ≤ z ∧ z < 2 ^ (w - 1) else 0 ≤ z ∧ z < 2 ^ w

/-- `B` is the bound of a conversion to the format: its greatest value that does not exceed the magnitude of `bound`, where that is finite and not
zero (R97). -/
def FloatFmt.BoundIs (f : FloatFmt) (bound : Val) (B : ℝ) : Prop :=
  (∃ k ≤ f.maxBits, (decodeVal f k).Is B) ∧ (∀ z, bound.Is z → z ≠ 0 → B ≤ |z|) ∧
    ∀ k ≤ f.maxBits, ∀ y, (decodeVal f k).Is y → y ≤ B ∨ ∃ z, bound.Is z ∧ z ≠ 0 ∧ |z| < y

/-! Coefficients of a polynomial accumulator, over the reals (R106 to R110). -/

/-- The coefficient is neither a NaN nor an infinity. -/
def CoefFinite (x : Nat) : Prop := ∃ z, (decodeVal ff64 x).Is z

/-- The coefficient `r` is the exact sum `x`, rounded once; a zero sum is +0 (log 18). -/
def CoefSum (x : ℝ) (r : Nat) : Prop := (x ≠ 0 → ff64.Rounds .rne x r) ∧ (x = 0 → r = 0)

/-- The coefficient `r` is the product of `a` and `b`, rounded once; a zero takes the sign of the product (R93). -/
def CoefProduct (a b r : Nat) : Prop :=
  ∀ x y, (decodeVal ff64 a).Is x → (decodeVal ff64 b).Is y →
    (x * y ≠ 0 → ff64.Rounds .rne (x * y) r) ∧ (x * y = 0 → r = ff64.signBits (ff64.negEnc a != ff64.negEnc b))

/-- One step of a recurrence of R109: `r` is (c − b·q), rounded, divided by `a` and rounded; what is not finite stays so. -/
def CoefQuotient (c b q a r : Nat) : Prop :=
  ∃ t, (∀ x y z, (decodeVal ff64 c).Is x → (decodeVal ff64 b).Is y → (decodeVal ff64 q).Is z → CoefSum (x - y * z) t) ∧
    (∀ z w, (decodeVal ff64 t).Is z → (decodeVal ff64 a).Is w → w ≠ 0 →
      (z ≠ 0 → ff64.Rounds .rne (z / w) r) ∧ (z = 0 → r = ff64.signBits (ff64.negEnc t != ff64.negEnc a))) ∧
    (¬ CoefFinite c ∨ ¬ CoefFinite q → ¬ CoefFinite t) ∧ (¬ CoefFinite t → ¬ CoefFinite r)

/-- The accumulator `q` takes the coefficients `cs` with the exponent `e`: it is poisoned where one is not finite (R108); else it is rescaled by
the greatest power of two in the greatest magnitude, where that is outside [2^−512, 2^512] (R107). -/
def PolyAcc.Takes (q : PolyAcc) (e : Int) (cs : Nat → Nat) : Prop :=
  (¬ (∀ k ≤ q.deg, CoefFinite (cs k)) → q.poison = true) ∧
  ∀ m : ℝ, (∃ k ≤ q.deg, ∃ x, (decodeVal ff64 (cs k)).Is x ∧ |x| = m) → (∀ k ≤ q.deg, ∃ x, (decodeVal ff64 (cs k)).Is x ∧ |x| ≤ m) →
    let fits := m = 0 ∨ ((2 : ℝ) ^ (-512 : Int) ≤ m ∧ m ≤ 2 ^ 512)
    (fits → q.poison = false ∧ q.e = e ∧ ∀ k ≤ q.deg, q.at k = cs k) ∧
    ∀ s : Int, ¬ fits → (2 : ℝ) ^ s ≤ m → m < (2 : ℝ) ^ (s + 1) →
      let inRange := -(2 ^ 31 : Int) ≤ e + s ∧ e + s < 2 ^ 31
      (¬ inRange → q.poison = true) ∧
      (inRange → q.poison = false ∧ q.e = e + s ∧ ∀ k ≤ q.deg, ∀ x, (decodeVal ff64 (cs k)).Is x →
        (x ≠ 0 → ff64.Rounds .rne (x * (2 : ℝ) ^ (-s)) (q.at k)) ∧ (x = 0 → q.at k = cs k))

/-- A poisoned accumulator holds the canonical NaN in every coefficient up to D, and E = 0 (R108). -/
def PolyAcc.PoisonOk (q : PolyAcc) : Prop := q.poison = true → q.e = 0 ∧ ∀ k ≤ q.deg, q.at k = ff64.nanBits

/-! Invariants. -/

/-- The dirty host lines are whole lines of host memory, each once (R17, R354). -/
def MemSys.dirtyOk (m : MemSys) : Prop :=
  (∀ d ∈ m.dirty, d.data.length = 128 ∧ inHost (d.line * 128) = true) ∧ (m.dirty.map DirtyLine.line).Nodup

/-- The invariant: memory is canonical, and the dirty host lines are whole. -/
def State.Inv (s : State) : Prop := Memory.wf s.msys.mem = true ∧ s.msys.dirtyOk

/-! Rows: the instructions of one shape with what tells them apart. -/

/-- Three-operand integer instructions on vector registers (R179). -/
def intV3Rows : List ((Reg → Reg → Reg → Instr) × IntV3) :=
  [(.add, .add), (.sub, .sub), (.mul, .mul), (.mulhi, .mulhi), (.min, .min), (.max, .max), (.and, .and), (.or, .or), (.xor, .xor),
   (.andn, .andn), (.shl, .shl), (.shr, .shr), (.sar, .sar), (.rot, .rot), (.cmpeq, .cmpeq), (.cmpne, .cmpne), (.cmplt, .cmplt),
   (.cmple, .cmple)]

/-- Their uniform forms (R186). -/
def uniV3Rows : List ((Reg → Reg → Reg → Instr) × IntV3) :=
  [(.sadd, .add), (.ssub, .sub), (.smul, .mul), (.smulhi, .mulhi), (.smin, .min), (.smax, .max), (.sand, .and), (.sor, .or),
   (.sxor, .xor), (.sandn, .andn), (.sshl, .shl), (.sshr, .shr), (.ssar, .sar), (.srot, .rot), (.scmpeq, .cmpeq),
   (.scmpne, .cmpne), (.scmplt, .cmplt), (.scmple, .cmple)]

/-- Two-operand integer instructions (R181), vector and uniform (R186). -/
def intV2Rows : List ((Reg → Reg → Instr) × IntV2) :=
  [(.neg, .neg), (.abs, .abs), (.not, .not), (.popc, .popc), (.clz, .clz), (.ctz, .ctz), (.brev, .brev), (.mov, .mov)]
def uniV2Rows : List ((Reg → Reg → Instr) × IntV2) :=
  [(.sneg, .neg), (.sabs, .abs), (.snot, .not), (.spopc, .popc), (.sclz, .clz), (.sctz, .ctz), (.sbrev, .brev), (.smov, .mov)]

/-- Four-operand integer instructions (R180), vector and uniform (R186). -/
def intV4Rows : List ((Reg → Reg → Reg → Reg → Bool → Bool → Instr) × IntV4) :=
  [(.mad, .mad), (.madhi, .madhi), (.sel, .sel)]
def uniV4Rows : List ((Reg → Reg → Reg → Reg → Instr) × IntV4) := [(.smad, .mad), (.smadhi, .madhi), (.ssel, .sel)]

/-- Immediate integer instructions (R183), vector and uniform (R186): with 16 bits of immediate, and with a shift amount. -/
def intImmRows : List ((Reg → BitVec 16 → Instr) × IntImm) :=
  [(.addi, .addi), (.muli, .muli), (.andi, .andi), (.ori, .ori), (.xori, .xori)]
def uniImmRows : List ((Reg → BitVec 16 → Instr) × IntImm) :=
  [(.saddi, .addi), (.smuli, .muli), (.sandi, .andi), (.sori, .ori), (.sxori, .xori)]
def intShiftRows : List ((Reg → BitVec 6 → Instr) × IntImm) := [(.shli, .shli), (.shri, .shri), (.sari, .sari)]
def uniShiftRows : List ((Reg → BitVec 6 → Instr) × IntImm) := [(.sshli, .shli), (.sshri, .shri), (.ssari, .sari)]

/-- Three-operand and two-operand floating-point instructions (R191 to R197). -/
def fltV3Rows : List ((Reg → Reg → Reg → Instr) × FltV3) :=
  [(.fadd, .add), (.fsub, .sub), (.fmul, .mul), (.fmin, .min), (.fmax, .max), (.fcmpeq, .cmpeq), (.fcmpne, .cmpne),
   (.fcmplt, .cmplt), (.fcmple, .cmple), (.fcmpun, .cmpun)]
def fltV2Rows : List ((Reg → Reg → Instr) × FltV2) :=
  [(.fneg, .neg), (.fabs, .abs), (.fclass, .cls), (.frnd, .rnd), (.rcp, .special .rcp), (.rsq, .special .rsq),
   (.sqrt, .special .sqrt), (.exp2, .special .exp2), (.log2, .special .log2), (.sin, .special .sin), (.cos, .special .cos),
   (.tanh, .special .tanh)]

/-- Places that hold a run of bytes of a space, in order: in global memory, where the pages that the operation has translated put them
(R125, R336). -/
def EngineOp.Covers (o : EngineOp) (write : Bool) (space addr len : Nat) (ls : List EngLoc) : Prop :=
  ls.flatMap (fun l => (List.range l.len).map (fun i => (l.va + i) % 2 ^ 57)) = (List.range len).map (fun i => (addr + i) % 2 ^ 57) ∧
  ∀ l ∈ ls, match space with
    | 0 => l.space = 0 ∧ ∃ lvl, (⟨l.va / 4096, write, l.leaf, lvl⟩ : WalkedPage) ∈ o.walked ∧ l.addr = leafPa l.leaf + l.va % pageBytes lvl
    | 1 => l.space = 1 ∧ l.addr = l.va
    | _ => l.space = 2 ∧ l.addr = l.va

/-- Addresses of the bytes at places, in order. -/
def cellsOf (ls : List EngLoc) : List Nat := ls.flatMap (fun l => (List.range l.len).map (fun i => l.addr + i))

/-- The bytes at places: of global memory, of the crew's scratchpad or of flash. -/
def State.bytesAt (s : State) (c : Crew) (ls : List EngLoc) : List Byte :=
  ls.flatMap (fun l => (List.range l.len).map (fun i => match l.space with
    | 0 => s.msys.readB (l.addr + i)
    | 1 => Sparse.get 0 c.scratch (l.addr + i)
    | _ => Sparse.get 0 s.flash (l.addr + i)))

/-- Packed groups of floating-point and of integer elements (R91, R199): format, elements of a group, and place of element 0. -/
def floatPacks : List (Fmt × FloatFmt × Nat × Nat) :=
  [(.f32, ff32, 1, 0), (.fp19, ff19, 1, 13), (.bf16, ffbf16, 2, 0), (.f16, ff16, 2, 0), (.e4m3, ⟨4, 3, .topNaN⟩, 4, 0), (.e5m2, ⟨5, 2, .ieee⟩, 4, 0),
   (.e3m2, ⟨3, 2, .finite⟩, 4, 0), (.e2m3, ⟨2, 3, .finite⟩, 4, 0), (.e2m1, ⟨2, 1, .finite⟩, 8, 0)]
def intPacks : List (Fmt × Nat × Bool × Nat) := [(.int8, 8, true, 4), (.nat8, 8, false, 4), (.int4, 4, true, 8), (.nat4, 4, false, 8)]

/-- Global loads of fixed width (R238): bytes, registers, and whether the destination is an even register. -/
def loadRows : List ((Reg → Reg → Reg → BitVec 16 → Instr) × Nat × Nat × Bool) :=
  [(.ld8, 1, 1, false), (.ld16, 2, 1, false), (.ld32, 4, 1, false), (.ld64, 8, 2, true), (.ldq, 16, 4, true)]

/-- Global stores of fixed width (R246): bytes and registers. -/
def storeRows : List ((Reg → Reg → Reg → BitVec 16 → Instr) × Nat × Nat) :=
  [(.st8, 1, 1), (.st16, 2, 1), (.st32, 4, 1), (.st64, 8, 2)]

/-- Atomics (R247). -/
def atomicRows : List ((Reg → Reg → Reg → Reg → Scope → Order → BitVec 16 → Instr) × AtomOp) :=
  [(.aadd, .add), (.amin, .min), (.amax, .max), (.aand, .and), (.aor, .or), (.axor, .xor), (.axchg, .xchg), (.acas, .cas),
   (.ainc, .inc), (.afadd, .fadd)]

/-- The pull permutes (R207): the instruction, its checks, and the position that a lane reads. -/
def pullRows : List ((Reg → Reg → Reg → BitVec 8 → Instr) × (Issuer → Reg → Bool) × (Team → Nat → Nat → Reg → BitVec 8 → Nat)) :=
  [(fun d a f k => .lget d a k f, fun c k => c.vOk false k, fun t free l b _ => (t.v free l b.toNat).toNat),
   (fun d a f k => .lgetRot d a k f, fun c k => c.vOk false k, fun t free l b _ => t.tilePos l + (t.v free l b.toNat).toNat),
   (fun d a f k => .lbcast d a f k, fun _ _ => true, fun _ _ _ _ k => k.toNat),
   (fun d a f k => .lxor d a f k, fun _ _ => true, fun t _ l _ k => t.tilePos l ^^^ (k.toNat % t.tileSize))]

end Sys2Proof.Machine
end

