-- ==== Sys2Proof/Certificates/Slice0/Obligations.lean ====
section
/-! DEFINITION. The statements of the model. -/

open Sys2Proof Sys2Proof.Machine

/-! Integer instructions. -/

/-- R179, R163, R75: a three-operand integer instruction writes, in each active lane, the result of its operation on the
operands as they stood before, sets sat_hit when a result clamped, and changes no other register; an operand out of
range or an odd pair makes it illegal. -/
def Obligations.VectorIntThree : Prop :=
  ∀ p ∈ intV3Rows, ∀ (s : State) (c : Issuer) (d a b : Reg), s.issuer = some c →
    let t := c.team
    let w := t.et.wide
    if c.vOk (w && !p.2.isCompare) d && c.vOk w a && c.vOk (w && !p.2.isShift) b then
      VectorResult (p.1 d a b) s c 1 (w && !p.2.isCompare) d fun l =>
        p.2.eval t.et.width t.et.signed t.sat (t.read s.rf l w (.v a)) (t.read s.rf l (w && !p.2.isShift) (.v b))
    else RaisesIllegal (p.1 d a b) s c

/-- R181, R163, R75: the same for a two-operand integer instruction. -/
def Obligations.VectorIntTwo : Prop :=
  ∀ p ∈ intV2Rows, ∀ (s : State) (c : Issuer) (d a : Reg), s.issuer = some c →
    let t := c.team
    let w := t.et.wide
    if c.vOk (w && !p.2.isCount) d && c.vOk w a then
      VectorResult (p.1 d a) s c 1 (w && !p.2.isCount) d fun l => p.2.eval t.et.width t.et.signed t.sat (t.read s.rf l w (.v a))
    else RaisesIllegal (p.1 d a) s c

/-- R180, R183, R163, R75: four operands, b and c in either file; and immediates, whose register is both source and
destination. R182 to R185, R187, R75: the bit-field instructions, `movi`, `movh`, `cvti`, `lea` and `stov`.  That `movi` to an odd
register writes one register under a 64-bit view is the model's choice (log 14). -/
def Obligations.VectorIntFourImmediateAndOther : Prop :=
  ((∀ p ∈ intV4Rows, ∀ (s : State) (c : Issuer) (d a b e : Reg) (ub uc : Bool), s.issuer = some c →
    let t := c.team
    let w := t.et.wide
    if c.vOk w d && c.vOk w a && c.srcOk w (srcOf ub b) && c.srcOk (w && p.2 != .sel) (srcOf uc e) then
      VectorResult (p.1 d a b e ub uc) s c 2 w d fun l => p.2.eval t.et.width t.et.signed t.sat (t.read s.rf l w (.v a))
        (t.read s.rf l w (srcOf ub b)) (t.read s.rf l (w && p.2 != .sel) (srcOf uc e))
    else RaisesIllegal (p.1 d a b e ub uc) s c) ∧
  (∀ p ∈ intImmRows, ∀ (s : State) (c : Issuer) (d : Reg) (x : BitVec 16), s.issuer = some c →
    let t := c.team
    if c.vOk t.et.wide d then
      VectorResult (p.1 d x) s c 1 t.et.wide d fun l =>
        p.2.eval t.et.width t.et.signed t.sat (t.read s.rf l t.et.wide (.v d)) x.toNat
    else RaisesIllegal (p.1 d x) s c) ∧
  (∀ p ∈ intShiftRows, ∀ (s : State) (c : Issuer) (d : Reg) (x : BitVec 6), s.issuer = some c →
    let t := c.team
    if c.vOk t.et.wide d then
      VectorResult (p.1 d x) s c 1 t.et.wide d fun l =>
        p.2.eval t.et.width t.et.signed t.sat (t.read s.rf l t.et.wide (.v d)) x.toNat
    else RaisesIllegal (p.1 d x) s c)) ∧
  (∀ (s : State) (c : Issuer), s.issuer = some c →
    let t := c.team
    let w := t.et.wide
    let n := t.et.width
    (∀ d a pos width, if c.vOk w d && c.vOk w a && width != 0 && decide (pos.toNat + width.toNat ≤ n) then
      VectorResult (.bfx d a pos width) s c 2 w d fun l =>
        (bfxBits n t.et.signed (t.read s.rf l w (.v a)) pos.toNat width.toNat, false)
      else RaisesIllegal (.bfx d a pos width) s c) ∧
    (∀ d a b pos width, if c.vOk w d && c.vOk w a && c.vOk w b && width != 0 && decide (pos.toNat + width.toNat ≤ n) then
      VectorResult (.bfi d a b pos width) s c 2 w d fun l =>
        (bfiBits (t.read s.rf l w (.v a)) (t.read s.rf l w (.v b)) pos.toNat width.toNat, false)
      else RaisesIllegal (.bfi d a b pos width) s c) ∧
    (∀ d x, if c.vOk (w && evenReg d) d then
      VectorResult (.movi d x) s c 1 (w && evenReg d) d fun _ => (moviBits 64 x.toNat, false)
      else RaisesIllegal (.movi d x) s c) ∧
    (∀ d x, if c.vOk false d then
      VectorResult (.movh d x) s c 1 false d fun l => ((movhBits (t.v s.rf l d.toNat) x).toNat, false)
      else RaisesIllegal (.movh d x) s c) ∧
    (∀ d a dt st, if dt.isInt && st.isInt && c.vOk dt.wide d && c.vOk st.wide a then
      VectorResult (.cvti d a dt st) s c 1 dt.wide d fun l => cvtiBits dt st t.sat (t.read s.rf l st.wide (.v a))
      else RaisesIllegal (.cvti d a dt st) s c) ∧
    (∀ d a b, if c.vOk true d && evenReg a && c.vOk false b then
      VectorResult (.lea d a b) s c 1 true d fun l =>
        (leaBits t.et.signed (t.sIn64 s.rf l a.toNat) (t.v s.rf l b.toNat).toNat, false)
      else RaisesIllegal (.lea d a b) s c) ∧
    (∀ d a, if c.vOk false d then
      VectorResult (.stov d a) s c 1 false d fun l => ((t.sIn s.rf l a.toNat).toNat, false)
      else RaisesIllegal (.stov d a) s c))

/-- R186: each s-prefixed instruction of R179 to R183 acts once per team on uniform registers, whatever the mask and the
guard, with the same operation, narrowing and sat_hit. R186, R187, R75: the uniform forms of R182 to R185, an odd pair being illegal,
and `vtos`, which takes the value of the lane that `sb` names, or 0 where that lane is not active.  That `smovi` to an odd
register writes one register under a 64-bit view is the model's choice (log 14). -/
def Obligations.UniformInteger : Prop :=
  (∀ (s : State) (c : Issuer), s.issuer = some c →
    let t := c.team
    let w := t.et.wide
    let u := fun wide r => t.read s.rf 0 wide (.s r)
    (∀ p ∈ uniV3Rows, ∀ d a b, if sOk (w && !p.2.isCompare) d && sOk w a && sOk (w && !p.2.isShift) b then
      UniformResult (p.1 d a b) s c 1 (w && !p.2.isCompare) d
        (p.2.eval t.et.width t.et.signed t.sat (u w a) (u (w && !p.2.isShift) b))
      else RaisesIllegal (p.1 d a b) s c) ∧
    (∀ p ∈ uniV2Rows, ∀ d a, if sOk (w && !p.2.isCount) d && sOk w a then
      UniformResult (p.1 d a) s c 1 (w && !p.2.isCount) d (p.2.eval t.et.width t.et.signed t.sat (u w a))
      else RaisesIllegal (p.1 d a) s c) ∧
    (∀ p ∈ uniV4Rows, ∀ d a b e, if sOk w d && sOk w a && sOk w b && sOk (w && p.2 != .sel) e then
      UniformResult (p.1 d a b e) s c 2 w d (p.2.eval t.et.width t.et.signed t.sat (u w a) (u w b) (u (w && p.2 != .sel) e))
      else RaisesIllegal (p.1 d a b e) s c) ∧
    (∀ p ∈ uniImmRows, ∀ d x, if sOk w d then
      UniformResult (p.1 d x) s c 1 w d (p.2.eval t.et.width t.et.signed t.sat (u w d) x.toNat)
      else RaisesIllegal (p.1 d x) s c) ∧
    (∀ p ∈ uniShiftRows, ∀ d x, if sOk w d then
      UniformResult (p.1 d x) s c 1 w d (p.2.eval t.et.width t.et.signed t.sat (u w d) x.toNat)
      else RaisesIllegal (p.1 d x) s c)) ∧
  (∀ (s : State) (c : Issuer), s.issuer = some c →
    let t := c.team
    let w := t.et.wide
    let n := t.et.width
    let u := fun wide r => t.read s.rf 0 wide (.s r)
    (∀ d a pos width, if sOk w d && sOk w a && width != 0 && decide (pos.toNat + width.toNat ≤ n) then
      UniformResult (.sbfx d a pos width) s c 2 w d (bfxBits n t.et.signed (u w a) pos.toNat width.toNat, false)
      else RaisesIllegal (.sbfx d a pos width) s c) ∧
    (∀ d a b pos width, if sOk w d && sOk w a && sOk w b && width != 0 && decide (pos.toNat + width.toNat ≤ n) then
      UniformResult (.sbfi d a b pos width) s c 2 w d (bfiBits (u w a) (u w b) pos.toNat width.toNat, false)
      else RaisesIllegal (.sbfi d a b pos width) s c) ∧
    (∀ d x, UniformResult (.smovi d x) s c 1 (w && evenReg d) d (moviBits 64 x.toNat, false)) ∧
    (∀ d x, UniformResult (.smovh d x) s c 1 false d ((movhBits (t.s s.rf d.toNat) x).toNat, false)) ∧
    (∀ d a dt st, if dt.isInt && st.isInt && sOk dt.wide d && sOk st.wide a then
      UniformResult (.scvti d a dt st) s c 1 dt.wide d (cvtiBits dt st t.sat (u st.wide a))
      else RaisesIllegal (.scvti d a dt st) s c) ∧
    (∀ d a b, if evenReg d && evenReg a then
      UniformResult (.slea d a b) s c 1 true d (leaBits t.et.signed (t.s64 s.rf a.toNat) (t.s s.rf b.toNat).toNat, false)
      else RaisesIllegal (.slea d a b) s c) ∧
    (∀ d a b, if c.vOk false a then
      UniformResult (.vtos d a b) s c 1 false d
        (let lane := (t.s s.rf b.toNat).toNat
         if lane < 1024 ∧ t.isActive s.rf lane = true then (t.v s.rf lane a.toNat).toNat else 0, false)
      else RaisesIllegal (.vtos d a b) s c))

/-! Floating-point instructions. -/

/-- R189 to R197: floating-point instructions with three, two and four operands, element by element under the float view; they
never set sat_hit. R198, R203 to R205: `cvt`, the dot products and `sacc`. R93, R95, R98, R190, R191, R196, R197: the value of an element:
the exact sum, product, quotient or root of the operands, or the integer of `frnd` and `cvt`, rounded once; the sign of a zero; and the special
values. -/
def Obligations.VectorFloatingPoint : Prop :=
  (∀ (s : State) (c : Issuer), s.issuer = some c →
    let t := c.team
    let w := t.et.wide
    (∀ p ∈ fltV3Rows, ∀ d a b, if c.vOk (w && !p.2.isCompare) d && c.vOk w a && c.vOk w b then
      VectorResult (p.1 d a b) s c 1 (w && !p.2.isCompare) d fun l =>
        (mapElems2 t.et (p.2.elem t.et.fmt t.rmode) (t.read s.rf l w (.v a)) (t.read s.rf l w (.v b)), false)
      else RaisesIllegal (p.1 d a b) s c) ∧
    (∀ p ∈ fltV2Rows, ∀ d a, if c.vOk (w && !p.2.isClass) d && c.vOk w a then
      VectorResult (p.1 d a) s c 1 (w && !p.2.isClass) d fun l =>
        (mapElems t.et (p.2.elem t.et.fmt t.rmode) (t.read s.rf l w (.v a)), false)
      else RaisesIllegal (p.1 d a) s c) ∧
    (∀ d a b e ub uc, if c.vOk w d && c.vOk w a && c.srcOk w (srcOf ub b) && c.srcOk w (srcOf uc e) then
      VectorResult (.ffma d a b e ub uc) s c 2 w d fun l =>
        (joinElems (List.zipWith (fun xy z => fmaBits t.et.fmt t.rmode xy.1 xy.2 z)
          (List.zip (elems t.et (t.read s.rf l w (.v a))) (elems t.et (t.read s.rf l w (srcOf ub b))))
          (elems t.et (t.read s.rf l w (srcOf uc e)))), false)
      else RaisesIllegal (.ffma d a b e ub uc) s c)) ∧
  (∀ (s : State) (c : Issuer), s.issuer = some c →
    let t := c.team
    let x := fun l (r : Src) => t.read s.rf l false r
    (∀ d a dt st, if cvtOk dt st && c.vOk (cvtPairDst dt st) d && c.vOk (cvtPairSrc dt st) a then
      VectorResult (.cvt d a dt st) s c 1 (cvtPairDst dt st) d fun l =>
        cvtBits dt st t.rmode t.sat (t.read s.rf l (cvtPairSrc dt st) (.v a))
      else RaisesIllegal (.cvt d a dt st) s c) ∧
    (∀ (p : (Reg → Reg → Reg → Reg → Bool → Bool → Instr) × Nat × Nat), p ∈ [(Instr.dp4, 8, 4), (Instr.dp8, 4, 8)] →
      ∀ d a b e ub uc, if (t.et == .i32 || t.et == .n32) && c.vOk false d && c.vOk false a && c.srcOk false (srcOf ub b)
          && c.srcOk false (srcOf uc e) then
        VectorResult (p.1 d a b e ub uc) s c 2 false d fun l =>
          narrowInt t.sat 32 t.et.signed (viewInt 32 t.et.signed (x l (srcOf uc e))
            + dotInt p.2.1 p.2.2 t.et.signed (x l (.v a)) (x l (srcOf ub b)))
        else RaisesIllegal (p.1 d a b e ub uc) s c) ∧
    (∀ (p : (Reg → Reg → Reg → Reg → Bool → Bool → Instr) × FloatFmt × Nat × Nat),
      p ∈ [(Instr.dpf4, (⟨4, 3, .topNaN⟩ : FloatFmt), 8, 4), (Instr.dpf8, (⟨2, 1, .finite⟩ : FloatFmt), 4, 8)] →
      ∀ d a b e ub uc, if c.vOk false d && c.vOk false a && c.srcOk false (srcOf ub b) && c.srcOk false (srcOf uc e) then
        VectorResult (p.1 d a b e ub uc) s c 2 false d fun l =>
          (sumRound ff32 t.rmode (decodeVal ff32 (x l (srcOf uc e))
            :: dotVals p.2.1 p.2.2.1 p.2.2.2 (x l (.v a)) (x l (srcOf ub b))), false)
        else RaisesIllegal (p.1 d a b e ub uc) s c) ∧
    (∀ d a b e ub uc, if c.vOk false d && c.vOk false a && c.srcOk false (srcOf ub b) && c.srcOk false (srcOf uc e) then
      VectorResult (.sacc d a b e ub uc) s c 2 false d fun l =>
        (saccBits (x l (.v a)) (x l (srcOf ub b)) (x l (srcOf uc e)), false)
      else RaisesIllegal (.sacc d a b e ub uc) s c)) ∧
  (∀ f ∈ [ff16, ffbf16, ff32, ff64], ∀ (mode : RMode) (a b e : Nat), a < 2 ^ f.width → b < 2 ^ f.width → e < 2 ^ f.width →
    let two := fun (o : FltV3) => o.elem f mode a b
    let fn := fun (o : SpecialFn) => FltV2.elem (.special o) f mode a
    let zero := f.signBits
    (∀ x y z : ℝ, (decodeVal f a).Is x → (decodeVal f b).Is y → (decodeVal f e).Is z →
      (x + y ≠ 0 → f.Rounds mode (x + y) (two .add)) ∧ (x - y ≠ 0 → f.Rounds mode (x - y) (two .sub)) ∧
      (x * y ≠ 0 → f.Rounds mode (x * y) (two .mul)) ∧ (x * y + z ≠ 0 → f.Rounds mode (x * y + z) (fmaBits f mode a b e)) ∧
      (x * y = 0 → two .mul = zero (f.negEnc a != f.negEnc b)) ∧
      (x + y = 0 → two .add = zero (if x = 0 ∧ f.negEnc a = f.negEnc b then f.negEnc a else decide (mode = .rdn))) ∧
      (x ≠ 0 → ∃ n, RoundsToInt mode x n ∧ (decodeVal f (FltV2.elem .rnd f mode a)).Is n ∧ f.negEnc (FltV2.elem .rnd f mode a) = f.negEnc a) ∧
      (x ≠ 0 → f.Rounds mode (1 / x) (fn .rcp)) ∧ (0 < x → f.Rounds mode (√x) (fn .sqrt) ∧ f.Rounds mode (1 / √x) (fn .rsq)) ∧
      (x < 0 → fn .sqrt = f.nanBits ∧ fn .rsq = f.nanBits ∧ fn .log2 = f.nanBits) ∧
      (x = 0 → fn .rcp = zero (f.negEnc a) + f.infBits ∧ fn .rsq = zero (f.negEnc a) + f.infBits ∧ fn .sqrt = a ∧ fn .sin = a ∧ fn .tanh = a ∧
        fn .log2 = zero true + f.infBits ∧ f.Rounds mode 1 (fn .exp2) ∧ f.Rounds mode 1 (fn .cos))) ∧
    (decodeVal f a = .nan → two .add = f.nanBits ∧ two .sub = f.nanBits ∧ two .mul = f.nanBits ∧ FltV2.elem .rnd f mode a = f.nanBits ∧
      ∀ o, fn o = f.nanBits) ∧
    (decodeVal f b = .nan → two .add = f.nanBits ∧ two .sub = f.nanBits ∧ two .mul = f.nanBits) ∧
    (∀ s, decodeVal f a = .inf s →
      (decodeVal f b = .inf s → two .sub = f.nanBits) ∧ (decodeVal f b = .inf (!s) → two .add = f.nanBits) ∧
      ((decodeVal f b).Is 0 → two .mul = f.nanBits) ∧
      (∀ y, (decodeVal f b).Is y → two .add = a ∧ two .sub = a ∧ (y ≠ 0 → two .mul = zero (s != f.negEnc b) + f.infBits)) ∧
      FltV2.elem .rnd f mode a = a ∧ fn .rcp = zero s ∧ fn .sin = f.nanBits ∧ fn .cos = f.nanBits ∧ (s = true → fn .exp2 = zero false ∧
        fn .sqrt = f.nanBits ∧ fn .rsq = f.nanBits ∧ fn .log2 = f.nanBits ∧ f.Rounds mode (-1) (fn .tanh)) ∧
      (s = false → fn .exp2 = a ∧ fn .sqrt = a ∧ fn .rsq = zero false ∧ fn .log2 = a ∧ f.Rounds mode 1 (fn .tanh)))) ∧
  (∀ (mode : RMode) (sat : Bool) (a : Nat) (dt st : EType), cvtOk dt st = true →
    let r := cvtBits dt st mode sat a
    (st.isInt = true → viewInt st.width st.signed a ≠ 0 → r.2 = false ∧ dt.fmt.Rounds mode (viewInt st.width st.signed a) r.1) ∧
    (dt.isInt = true →
      let lo : Int := if dt.signed then -2 ^ (dt.width - 1) else 0
      let hi : Int := if dt.signed then 2 ^ (dt.width - 1) - 1 else 2 ^ dt.width - 1
      (∀ x, (decodeVal st.fmt a).Is x → ∃ n, RoundsToInt mode x n ∧ viewInt dt.width dt.signed r.1 = max lo (min hi n) ∧
        (r.2 = true ↔ sat = true ∧ ¬ Fits dt.width dt.signed n)) ∧
      (decodeVal st.fmt a = .nan → r = (0, sat)) ∧
      ∀ s, decodeVal st.fmt a = .inf s → viewInt dt.width dt.signed r.1 = (if s then lo else hi) ∧ r.2 = sat) ∧
    (dt = .f64 → st = .f32 → r.2 = false ∧ ∀ x, (decodeVal ff32 a).Is x → (decodeVal ff64 r.1).Is x) ∧
    (dt = .f32 → st = .f64 → ∀ x, (decodeVal ff64 a).Is x →
      (|x| ≤ (2 - 2 ^ (-23 : Int)) * 2 ^ 127 → r.2 = false ∧ (x ≠ 0 → ff32.Rounds mode x r.1)) ∧
      ((2 - 2 ^ (-23 : Int)) * 2 ^ 127 < |x| → r = (ff32.signBits (ff64.negEnc a) + ff32.maxBits, sat))))

/-- R199 to R202: `cvtw` writes the elements of a packed register to consecutive registers; `cvtn` packs a group under the bound
that a 16-byte record of the scratchpad holds, after the team's earlier accesses to it, and traps where the record is misaligned, outside the
scratchpad, in the range of an engine operation, or has reserved words that are not zero.  R90 to R92, R97 to R99: where the elements stand, the
value that widening keeps, and the value rounded once within the bound, with what counts as a clamp.  The sign of a widened integer 0 is log 16, and
of a value clamped to a bound of 0 log 17, the model's choices. -/
def Obligations.VectorPacked : Prop :=
  (∀ (s : State) (c : Issuer), s.issuer = some c →
    let t := c.team
    (∀ d a fmt op, let n := groupSize fmt * (if op == 1 then 2 else 1)
      if cvtwOk fmt op && c.vRun d n && c.vOk false a && (op != 1 || evenReg d) then
        VectorRun (.cvtw d a fmt op) s c 2 d n fun l j => BitVec.ofNat 32 (cvtwReg fmt t.rmode op.toNat (t.v s.rf l a.toNat).toNat j)
      else RaisesIllegal (.cvtw d a fmt op) s c) ∧
    (∀ d a b fmt op,
      let pair := op == 1
      let g := groupSize fmt
      let off := (t.s s.rf b.toNat).toNat
      let i := Instr.cvtn d a b fmt op
      let late := ∃ x ∈ t.late, ∃ y ∈ x.places, y.scratch = true ∧ y.addr < off + 16 ∧ off < y.addr + y.len
      if !(cvtnOk fmt op && c.vOk false d && c.vRun a (if pair then 2 * g else g) && (!pair || evenReg a)) then RaisesIllegal i s c
      else if off % 16 ≠ 0 then Raises i s c .misaligned off
      else if c.crew.alloc.scratch < off + 16 then Raises i s c .worldViolation off
      else if c.scratchConflict s.msys false off 16 then Raises i s c .rangeConflict off
      else (late → Waits i s c (.bytes [⟨true, false, off, 16⟩])) ∧ (¬ late →
        if bitsOf (c.crew.scratchNat off 16) 32 96 ≠ 0 then RaisesIllegal i s c
        else VectorResult i s c 2 false d fun l =>
          cvtnGroup fmt t.rmode t.sat (decodeVal ff32 (bitsOf (c.crew.scratchNat off 16) 0 32))
            ((List.range g).map (t.cvtnSource s.rf l a pair))))) ∧
  (∀ (mode : RMode) (x i : Nat), x < 2 ^ 32 →
    let to32 := fun fmt => cvtwReg fmt mode 0 x i
    let to64 := fun fmt => cvtwReg fmt mode 1 x (2 * i) + 2 ^ 32 * cvtwReg fmt mode 1 x (2 * i + 1)
    (∀ p ∈ floatPacks, i < p.2.2.1 → groupSize p.1 = p.2.2.1 ∧
      let f := p.2.1
      let e := x / 2 ^ (p.2.2.2 + 32 / p.2.2.1 * i) % 2 ^ f.width
      (∀ v, (decodeVal f e).Is v → (decodeVal ff32 (to32 p.1)).Is v ∧ ff32.negEnc (to32 p.1) = f.negEnc e ∧
        (decodeVal ff64 (to64 p.1)).Is v ∧ ff64.negEnc (to64 p.1) = f.negEnc e) ∧
      (decodeVal f e = .nan → to32 p.1 = ff32.nanBits ∧ to64 p.1 = ff64.nanBits) ∧
      (∀ s, decodeVal f e = .inf s → to32 p.1 = ff32.signBits s + ff32.infBits ∧ to64 p.1 = ff64.signBits s + ff64.infBits)) ∧
    (i < 4 → groupSize .e8m0 = 4 ∧
      let e := x / 2 ^ (8 * i) % 256
      (e = 255 → to32 .e8m0 = ff32.nanBits ∧ to64 .e8m0 = ff64.nanBits) ∧
      (e ≠ 255 → (decodeVal ff32 (to32 .e8m0)).Is ((2 : ℝ) ^ ((e : Int) - 127)) ∧ (decodeVal ff64 (to64 .e8m0)).Is ((2 : ℝ) ^ ((e : Int) - 127)))) ∧
    (∀ p ∈ intPacks, i < p.2.2.2 → groupSize p.1 = p.2.2.2 ∧
      let v := viewInt p.2.1 p.2.2.1 (x / 2 ^ (p.2.1 * i) % 2 ^ p.2.1)
      (decodeVal ff32 (to32 p.1)).Is v ∧ (decodeVal ff64 (to64 p.1)).Is v ∧
      (v = 0 → ff32.negEnc (to32 p.1) = decide (mode = .rdn) ∧ ff64.negEnc (to64 p.1) = decide (mode = .rdn)) ∧
      cvtwReg p.1 mode 2 x i < 2 ^ 32 ∧ (2 ^ 32 : Int) ∣ v - cvtwReg p.1 mode 2 x i)) ∧
  (∀ (mode : RMode) (sat : Bool) (bound : Val) (vs : List Val),
    (∀ p ∈ floatPacks, vs.length = p.2.2.1 → ∃ B : ℝ, p.2.1.BoundIs bound B ∧
      let f := p.2.1
      let r := cvtnGroup p.1 mode sat bound vs
      let place := fun i => p.2.2.2 + 32 / p.2.2.1 * i
      let e := fun i => r.1 / 2 ^ place i % 2 ^ f.width
      let clamped := fun neg i => (decodeVal f (e i)).Is (if neg then -B else B) ∧ f.negEnc (e i) = neg
      (∀ i, vs[i]? = some .nan → e i = f.nanBits) ∧ (∀ i neg, vs[i]? = some (.inf neg) → clamped neg i) ∧
      (∀ (i : Nat) (neg : Bool) (m : Nat) (k : Int), vs[i]? = some (.fin neg m k) → let y : ℝ := m * (2 : ℝ) ^ k
        (B < y → clamped neg i) ∧ (y ≤ B → m = 0 → e i = f.signBits neg) ∧
        (y ≤ B → m ≠ 0 → f.Rounds mode (if neg then -y else y) (e i))) ∧
      (∀ j, r.1.testBit j = true → ∃ i < p.2.2.1, place i ≤ j ∧ j < place i + f.width) ∧
      (r.2 = true ↔ sat = true ∧ ∃ v ∈ vs, (v = .nan ∧ f.special = .finite) ∨ (∃ neg, v = .inf neg) ∨
        ∃ (neg : Bool) (m : Nat) (k : Int), v = .fin neg m k ∧ B < m * (2 : ℝ) ^ k)) ∧
    (∀ p ∈ intPacks, vs.length = p.2.2.2 →
      let w := p.2.1
      let r := cvtnGroup p.1 mode sat bound vs
      let v := fun i => viewInt w p.2.2.1 (r.1 / 2 ^ (w * i) % 2 ^ w)
      let lo : Int := if p.2.2.1 then -2 ^ (w - 1) else 0
      let hi : Int := if p.2.2.1 then 2 ^ (w - 1) - 1 else 2 ^ w - 1
      r.1 < 2 ^ 32 ∧ (∀ i, vs[i]? = some .nan → v i = 0) ∧ (∀ i neg, vs[i]? = some (.inf neg) → v i = if neg then lo else hi) ∧
      (∀ i a y, vs[i]? = some a → a.Is y → ∃ n, RoundsToInt mode y n ∧ v i = max lo (min hi n)) ∧
      (r.2 = true ↔ sat = true ∧ ∃ a ∈ vs, a = .nan ∨ (∃ neg, a = .inf neg) ∨ ∃ y n, a.Is y ∧ RoundsToInt mode y n ∧ ¬ Fits w p.2.2.1 n)))

/-! Cross-lane instructions. -/

/-- R207: a pull permute gives each active lane the register of the lane at a position of its tile, or the fill where that lane is
not active. R208: `lput` writes in each active lane the value of the highest active lane of its tile that names its position; a lane that
none names keeps its value; two lanes with one destination set `collision`. -/
def Obligations.CrossLanePermutes : Prop :=
  (∀ (d a b f k : Reg), encode (.lget d a b f) = [word4 0xA0 d a b, extS f 0 0 0] ∧ encode (.lgetRot d a b f) = [word4 0xA0 d a b, extS f 0 1 0] ∧
    encode (.lbcast d a f k) = [word4 0xA2 d a 0, extS f 0 0 k] ∧ encode (.lxor d a f k) = [word4 0xA3 d a 0, extS f 0 0 k]) ∧
  (∀ p ∈ pullRows, ∀ (s : State) (c : Issuer) (d a f k : Reg), s.issuer = some c →
    let t := c.team
    if c.vOk false d && c.vOk false a && p.2.1 c k then
      VectorResult (p.1 d a f k) s c 2 false d fun l =>
        let src := t.tileBase l + p.2.2 t s.rf l k k % t.tileSize
        (if t.isActive s.rf src then (t.v s.rf src a.toNat).toNat else (t.sIn s.rf l f.toNat).toNat, false)
    else RaisesIllegal (p.1 d a f k) s c) ∧
  (∀ (s : State) (c : Issuer) (d a b : Reg), s.issuer = some c →
    let t := c.team
    let sends := fun x l => t.isActive s.rf x = true ∧ t.tileBase x = t.tileBase l ∧
      (t.v s.rf x b.toNat).toNat % t.tileSize = t.tilePos l
    if c.vOk false d && c.vOk false a && c.vOk false b then
      Completes (.lput d a b) s c fun u => t.FrameV u ∧ u.pc = t.nextPc 1 ∧
        (∀ l r, r < 256 → ¬(t.isActive s.rf l = true ∧ r = d.toNat) → u.vreg l r = t.vreg l r) ∧
        (∀ l, t.isActive s.rf l = true → (∀ x, ¬ sends x l) → u.vreg l d.toNat = t.vreg l d.toNat) ∧
        (∀ l x, t.isActive s.rf l = true → sends x l → (∀ y, sends y l → y ≤ x) → u.vreg l d.toNat = t.v s.rf x a.toNat) ∧
        ((∃ x y l, x ≠ y ∧ sends x l ∧ sends y l) → u.stat = t.stat ||| 1) ∧
        ((∀ x y l, sends x l → sends y l → x = y) → u.stat = t.stat)
    else RaisesIllegal (.lput d a b) s c)

/-- R206, R209 to R211: the votes, `vred` and `vscan` over the active lanes of a lane's tile, in ascending order. -/
def Obligations.CrossLaneVotesAndScans : Prop :=
  (∀ (d a : Reg), encode (.vany d a) = [word4 0xA4 d a 0] ∧ encode (.vall d a) = [word4 0xA5 d a 0] ∧
    encode (.vballot d a) = [word4 0xA6 d a 0]) ∧
  ∀ (s : State) (c : Issuer), s.issuer = some c →
    let t := c.team
    let w := t.et.wide
    let on := fun (a : Reg) x => t.v s.rf x a.toNat != 0
    (∀ d a, if c.vOk false d && c.vOk false a then
      VectorResult (.vany d a) s c 1 false d (fun l => (boolNat ((t.tileActive s.rf l).any (on a)), false)) ∧
      VectorResult (.vall d a) s c 1 false d (fun l => (boolNat ((t.tileActive s.rf l).all (on a)), false)) ∧
      VectorResult (.vballot d a) s c 1 false d
        (fun l => ((((t.tileActive s.rf l).filter (on a)).map (fun x => 2 ^ t.tilePos x)).sum, false))
      else RaisesIllegal (.vany d a) s c ∧ RaisesIllegal (.vall d a) s c ∧ RaisesIllegal (.vballot d a) s c) ∧
    (∀ d a op, if redOk t.et op && c.vOk w d && c.vOk w a then
      VectorResult (.vred d a op) s c 2 w d fun l =>
        reduceList t.et t.rmode t.sat op ((t.tileActive s.rf l).map (fun x => t.read s.rf x w (.v a)))
      else RaisesIllegal (.vred d a op) s c) ∧
    (∀ d a e op ex, if redOk t.et op && c.vOk w d && c.vOk w a && sOk w e then
      VectorResult (.vscan d a e op ex) s c 2 w d fun l =>
        reduce t.et t.rmode t.sat op (t.read s.rf l w (.s e))
          (((t.tileActive s.rf l).filter (fun x => decide (x < l) || (!ex && x == l))).map (fun x => t.read s.rf x w (.v a)))
      else RaisesIllegal (.vscan d a e op ex) s c)

/-- R212, R213: the team-wide reduction and tests, over every active lane, once per team. R210, R212: what the reductions of integers are: the exact sum, narrowed once; the least or the greatest by the view; and the
identities over no lane. -/
def Obligations.TeamWideAndReductions : Prop :=
  (∀ (d a : Reg), encode (.tany d a) = [word4 0xAA d a 0] ∧ encode (.tall d a) = [word4 0xAB d a 0] ∧
    encode (.tcount d a) = [word4 0xAC d a 0]) ∧
  (∀ (s : State) (c : Issuer), s.issuer = some c →
    let t := c.team
    let w := t.et.wide
    let bits := fun (a : Reg) => (t.active s.rf).map (fun l => t.v s.rf l a.toNat != 0)
    (∀ d a op, if redOk t.et op && sOk w d && c.vOk w a then
      UniformResult (.tred d a op) s c 2 w d
        (reduceList t.et t.rmode t.sat op ((t.active s.rf).map (fun x => t.read s.rf x w (.v a))))
      else RaisesIllegal (.tred d a op) s c) ∧
    (∀ d a, if c.vOk false a then
      UniformResult (.tany d a) s c 1 false d (if true ∈ bits a then 1 else 0, false) ∧
      UniformResult (.tall d a) s c 1 false d (if bits a ≠ [] ∧ false ∉ bits a then 1 else 0, false) ∧
      UniformResult (.tcount d a) s c 1 false d ((bits a).count true, false)
      else RaisesIllegal (.tany d a) s c ∧ RaisesIllegal (.tall d a) s c ∧ RaisesIllegal (.tcount d a) s c)) ∧
  (∀ (et : EType) (mode : RMode) (sat : Bool), et.isInt = true →
    let v := viewInt et.width et.signed
    let back := fun (r : Result) => v r.1
    (∀ xs, xs ≠ [] → reduceList et mode sat .add xs = narrowInt sat et.width et.signed (xs.map v).sum) ∧
    (∀ xs, xs ≠ [] → (∃ x ∈ xs, back (reduceList et mode sat .min xs) = v x) ∧
      ∀ x ∈ xs, back (reduceList et mode sat .min xs) ≤ v x) ∧
    (∀ xs, xs ≠ [] → (∃ x ∈ xs, back (reduceList et mode sat .max xs) = v x) ∧
      ∀ x ∈ xs, v x ≤ back (reduceList et mode sat .max xs)) ∧
    (∀ xs i, xs ≠ [] → ((reduceList et mode sat .and xs).1.testBit i = true ↔ ∀ x ∈ xs, x.testBit i = true)) ∧
    (∀ xs i, (reduceList et mode sat .or xs).1.testBit i = true ↔ ∃ x ∈ xs, x.testBit i = true) ∧
    (∀ xs i, (reduceList et mode sat .xor xs).1.testBit i = true ↔ xs.countP (fun x => x.testBit i) % 2 = 1) ∧
    (∀ x, back (reduceList et mode sat .add []) = 0 ∧ v x ≤ back (reduceList et mode sat .min []) ∧
      back (reduceList et mode sat .max []) ≤ v x) ∧
    (∀ i, i < et.width → (reduceList et mode sat .and []).1.testBit i = true))

/-- R155: `escape` has the effect of the V3 or V2 instruction whose opcode it names, with uniform registers for the operands that
ua and ub mark; any other opcode is illegal. R208: an escaped `lput` sets `collision` as `lput` does. -/
def Obligations.EscapeForms : Prop :=
  ∀ (s : State) (c : Issuer) (op d a b : Reg) (ua ub : Bool), s.issuer = some c →
    let t := c.team
    let w := t.et.wide
    let x := srcOf ua a
    let y := srcOf ub b
    let i := Instr.escape op d a b ua ub
    let sends := fun z l => t.isActive s.rf z = true ∧ t.tileBase z = t.tileBase l ∧ t.read s.rf z false y % t.tileSize = t.tilePos l
    (escapeOk op.toNat b ua ub = false → RaisesIllegal i s c) ∧
    (escapeOk op.toNat b ua ub = true →
      (∀ f, intV3Of op.toNat = some f → if c.vOk (w && !f.isCompare) d && c.srcOk w x && c.srcOk (w && !f.isShift) y then
        VectorResult i s c 2 (w && !f.isCompare) d fun l =>
          f.eval t.et.width t.et.signed t.sat (t.read s.rf l w x) (t.read s.rf l (w && !f.isShift) y)
        else RaisesIllegal i s c) ∧
      (∀ f, intV2Of op.toNat = some f → if c.vOk (w && !f.isCount) d && c.srcOk w x then
        VectorResult i s c 2 (w && !f.isCount) d fun l => f.eval t.et.width t.et.signed t.sat (t.read s.rf l w x)
        else RaisesIllegal i s c) ∧
      (∀ f, fltV3Of op.toNat = some f → if c.vOk (w && !f.isCompare) d && c.srcOk w x && c.srcOk w y then
        VectorResult i s c 2 (w && !f.isCompare) d fun l => (f.eval t.et t.rmode (t.read s.rf l w x) (t.read s.rf l w y), false)
        else RaisesIllegal i s c) ∧
      (∀ f, fltV2Of op.toNat = some f → if c.vOk (w && !f.isClass) d && c.srcOk w x then
        VectorResult i s c 2 (w && !f.isClass) d fun l => (f.eval t.et t.rmode (t.read s.rf l w x), false)
        else RaisesIllegal i s c) ∧
      (∀ f, voteOf op.toNat = some f → if c.vOk false d && c.srcOk false x then
        VectorResult i s c 2 false d fun l => (f.eval t s.rf x l, false)
        else RaisesIllegal i s c) ∧
      (op = 0xA1 → if c.vOk false d && c.srcOk false x && c.srcOk false y then
        Completes i s c fun u => t.FrameV u ∧ u.pc = t.nextPc 2 ∧
          (∀ l r, r < 256 → u.vreg l r =
            if t.isActive s.rf l = true ∧ r = d.toNat then
              (match (t.pushers s.rf y l (t.tilePos l)).getLast? with
               | some z => BitVec.ofNat 32 (t.read s.rf z false x)
               | none => t.vreg l r)
            else t.vreg l r) ∧
          ((∃ z z' l, z ≠ z' ∧ sends z l ∧ sends z' l) → u.stat = t.stat ||| 1) ∧
          ((∀ z z' l, sends z l → sends z' l → z = z') → u.stat = t.stat)
        else RaisesIllegal i s c))

/-! Control. -/

/-- R151, R165 to R167, R46: `nop`, `yield`, the branches, `call` and `ret`, with the return stack of 16 entries. -/
def Obligations.BranchesAndCalls : Prop :=
  ∀ (s : State) (c : Issuer), s.issuer = some c →
    let t := c.team
    GoesOn .nop s c 1 t ∧
    (Completes .yield s c fun u => t.FrameP u ∧ u.pc = t.nextPc 1 ∧ u.yielded = true) ∧
    (∀ off, BranchTo (.bra off) s c t (t.pc + 4 * off.signExtend 57)) ∧
    (∀ a, let x := t.s64 s.rf a.toNat
      if evenReg a = false ∨ 2 ^ 57 ≤ x then RaisesIllegal (.brx a) s c
      else if x % 4 ≠ 0 then Raises (.brx a) s c .misaligned x
      else BranchTo (.brx a) s c t (BitVec.ofNat 57 x)) ∧
    (∀ off, if t.ret.length < 16 then
        BranchTo (.call off) s c { t with ret := ⟨t.div.length, t.after⟩ :: t.ret } (t.pc + 4 * off.signExtend 57)
      else RaisesIllegal (.call off) s c) ∧
    (t.ret = [] → RaisesIllegal .ret s c) ∧
    (∀ e rest, t.ret = e :: rest →
      if e.depth = t.div.length then BranchTo .ret s c { t with ret := rest } e.addr else RaisesIllegal .ret s c)

/-- R169 to R171: the if-group narrows the mask to the lanes whose condition holds, swaps to the waiting lanes, and restores the
outer mask, all within the present set. -/
def Obligations.IfGroup : Prop :=
  ∀ (s : State) (c : Issuer), s.issuer = some c →
    let t := c.team
    (∀ r l, (t.taken s.rf r).getLsbD l = (t.isActive s.rf l && (t.v s.rf l r.toNat != 0))) ∧
    (∀ r off, if c.vOk false r = true ∧ t.div.length < 32 then
        (let m := t.taken s.rf r
         BranchTo (.mif r off) s c { t with div := ⟨.ifPath, t.mask, t.mask &&& ~~~m, 0⟩ :: t.div, mask := m }
           (if m = 0 then t.target off else t.after))
      else RaisesIllegal (.mif r off) s c) ∧
    (t.frameSize = 0 → RaisesIllegal .mend s c ∧ ∀ off, RaisesIllegal (.melse off) s c) ∧
    (∀ e rest off, t.div = e :: rest → t.frameSize ≠ 0 →
      if e.kind = .ifPath then
        (let m := e.pend &&& t.present
         BranchTo (.melse off) s c { t with div := { e with pend := 0, kind := .elsePath } :: rest, mask := m }
           (if m = 0 then t.target off else t.after))
      else RaisesIllegal (.melse off) s c) ∧
    (∀ e rest, t.div = e :: rest → t.frameSize ≠ 0 →
      if e.kind = .loop then RaisesIllegal .mend s c
      else BranchTo .mend s c { t with div := rest, mask := e.outer &&& t.present } t.after)

/-- R172, R173: the loop-group instructions, and the branches on a condition of the active lanes. -/
def Obligations.LoopGroup : Prop :=
  ∀ (s : State) (c : Issuer), s.issuer = some c →
    let t := c.team
    (∀ off, if t.div.length < 32 then BranchTo (.mloop off) s c { t with div := ⟨.loop, t.mask, 0, t.target off⟩ :: t.div } t.after
      else RaisesIllegal (.mloop off) s c) ∧
    (∀ r, (c.vOk false r = false ∨ splitLoop t.frameSize t.div = none) → RaisesIllegal (.mbrk r) s c ∧ RaisesIllegal (.mcont r) s c) ∧
    (∀ r above e below, c.vOk false r = true → splitLoop t.frameSize t.div = some (above, e, below) →
      let b := t.taken s.rf r
      let m := t.mask &&& ~~~b
      let above' := above.map (fun x => { x with outer := x.outer &&& ~~~b, pend := x.pend &&& ~~~b : DivEntry })
      let none_left := m = 0 ∧ ∀ x ∈ above', x.outer = 0 ∧ x.pend = 0
      (none_left → BranchTo (.mbrk r) s c { t with mask := m, div := e :: below } e.target ∧
        BranchTo (.mcont r) s c { t with mask := m, div := { e with pend := e.pend ||| b } :: below } e.target) ∧
      (¬ none_left → BranchTo (.mbrk r) s c { t with mask := m, div := above' ++ e :: below } t.after ∧
        BranchTo (.mcont r) s c { t with mask := m, div := above' ++ { e with pend := e.pend ||| b } :: below } t.after)) ∧
    (∀ off, t.frameSize = 0 → RaisesIllegal (.mnext off) s c) ∧
    (∀ e rest off, t.div = e :: rest → t.frameSize ≠ 0 →
      if e.kind = .loop then
        (let m := (t.mask ||| e.pend) &&& t.present
         if m ≠ 0 then BranchTo (.mnext off) s c { t with mask := m, div := { e with pend := 0 } :: rest } (t.target off)
         else BranchTo (.mnext off) s c { t with mask := e.outer &&& t.present, div := rest } t.after)
      else RaisesIllegal (.mnext off) s c) ∧
    (∀ r off, c.vOk false r = false → RaisesIllegal (.many r off) s c ∧ RaisesIllegal (.mall r off) s c) ∧
    (∀ r off, c.vOk false r = true →
      let on := fun l => t.isActive s.rf l = true ∧ t.v s.rf l r.toNat ≠ 0
      let off_ := fun l => t.isActive s.rf l = true ∧ t.v s.rf l r.toNat = 0
      ((∃ l, on l) → BranchTo (.many r off) s c t (t.target off)) ∧
      ((¬ ∃ l, on l) → BranchTo (.many r off) s c t t.after) ∧
      ((∃ l, on l) ∧ (¬ ∃ l, off_ l) → BranchTo (.mall r off) s c t (t.target off)) ∧
      ((¬ ∃ l, on l) ∨ (∃ l, off_ l) → BranchTo (.mall r off) s c t t.after))

/-! Mode, special registers, `exit` and the handover of registers. -/

/-- R76 to R79, R175 to R177: `setm`, `getm`, `part`, and `rdsp` of each of the 18 special registers; a read of `x.stat` delivers the
sticky bits and clears them. -/
def Obligations.ModeAndSpecialRegisters : Prop :=
  ∀ (s : State) (c : Issuer), s.issuer = some c →
    let t := c.team
    let page := c.crew.page
    (∀ a, let x := t.s s.rf a.toNat &&& 0x000FE3FF#32
      if 5 ≤ bitsOf x.toNat 16 3 ∨ (x.getLsbD 8 = true ∧ c.crew.alloc.regs ≤ bitsOf x.toNat 0 8) then RaisesIllegal (.setm a) s c
      else GoesOn (.setm a) s c 1 { t with mode := x }) ∧
    (∀ d, UniformResult (.getm d 0) s c 1 false d (t.mode.toNat, false) ∧
      UniformResult (.getm d 1) s c 1 false d (t.part.toNat, false) ∧
      ∀ k : BitVec 8, 2 ≤ k.toNat → RaisesIllegal (.getm d k) s c) ∧
    (∀ k : BitVec 3, if 1 ≤ k.toNat ∧ k.toNat ≤ 5 then GoesOn (.part k) s c 1 { t with part := k } else RaisesIllegal (.part k) s c) ∧
    (∀ d, if c.vOk false d then VectorResult (.rdsp d 0) s c 1 false d (fun l => (l % 32, false)) ∧
        VectorResult (.rdsp d 1) s c 1 false d (fun l => (l / 32, false))
      else RaisesIllegal (.rdsp d 0) s c ∧ RaisesIllegal (.rdsp d 1) s c) ∧
    (∀ d, if evenReg d then UniformResult (.rdsp d 11) s c 1 true d (page.elim 0 PageInfo.paddr, false)
      else RaisesIllegal (.rdsp d 11) s c) ∧
    (∀ d, ∀ p ∈ ([(2, t.index), (3, c.crew.index.toNat), (4, t.role), (5, c.ref.core), (6, c.ref.core / 4), (7, c.ref.die),
        (8, s.msys.pkg), (9, c.crew.gid.toNat), (10, page.elim 0xFFFFFFFF PageInfo.index), (12, page.elim 0 PageInfo.arrival),
        (13, page.elim 0 PageInfo.retry), (14, page.elim 0 PageInfo.pstat), (15, page.elim 0 PageInfo.pwin), (17, c.crew.world)] :
        List (BitVec 8 × Nat)), UniformResult (.rdsp d p.1) s c 1 false d (p.2, false)) ∧
    (∀ d, Completes (.rdsp d 16) s c fun u => t.FrameS u ∧ u.pc = t.nextPc 1 ∧ u.stat = 0 ∧
      ∀ r, u.sreg r = if r = d.toNat then t.stat.zeroExtend 32 else t.sreg r) ∧
    (∀ d, Completes (.xstatRead d) s c fun u => u.stat = 0 ∧ (∀ r, u.sreg r = if r = d.toNat then t.stat.zeroExtend 32 else t.sreg r) ∧
      u = { t with sregs := u.sregs, inflight := u.inflight, stat := 0 } ∧ u.stillPending = t.stillPending) ∧
    (∀ (d : Reg) (n : BitVec 8), 18 ≤ n.toNat → RaisesIllegal (.rdsp d n) s c)

/-- R168, R23, R41, R34: `exit` takes the active lanes out of the present set, the mask and every divergence entry, and their registers read
zero; a team left without lanes retires once its accesses are performed: the gives it made are discarded, and the crew leaves once all its teams
have retired.  Where it has arrived at a barrier, the retirement counts as arrival (R252). -/
def Obligations.ExitRemovesLanes : Prop :=
  ∀ (s : State) (c : Issuer), s.issuer = some c →
    let t := c.team
    let gone := laneSetOf (t.active s.rf)
    (∀ l, gone.getLsbD l = t.isActive s.rf l) ∧
    (t.present &&& ~~~gone = 0 → t.late ≠ [] → Waits .exit s c .accesses) ∧
    (t.present &&& ~~~gone ≠ 0 ∨ t.late = [] → ∃ s' u, exec .exit s = .next s' ∧ s'.teamAt c.ref = some u ∧ u.pc = t.after ∧
      ({ t with present := t.present &&& ~~~gone, mask := t.mask &&& ~~~gone, vregs := u.vregs, inflight := u.inflight
                div := t.div.map (fun e => { e with outer := e.outer &&& ~~~gone, pend := e.pend &&& ~~~gone }) } : Team).FrameP u ∧
      (∀ l r, r < 256 → u.vreg l r = if gone.getLsbD l = true then 0 else t.vreg l r) ∧
      u.inflight.map (fun o => (o.id, o.flag)) = t.inflight.map (fun o => (o.id, o.flag)) ∧
      ((∀ x ∈ s.teamsOf c.crew, x.arrivals = []) → s'.msys = s.msys) ∧
      (∀ r, slotKey r ≠ slotKey c.ref → s'.teamAt r = s.teamAt r) ∧
      (u.present ≠ 0 → s' = s.setTeam c.ref u) ∧
      (u.present = 0 → ∃ c', s'.crewAt c.cid = some c' ∧
        (∀ taker, taker < 4 → Sparse.get none c'.channels (channelKey t.index taker) = none) ∧
        ((s.setTeam c.ref u).allRetired c.crew = true → c'.phase = .leaving) ∧
        ((s.setTeam c.ref u).allRetired c.crew = false → c'.phase = c.crew.phase)))

/-- R34, R178: `give` copies n registers of every present lane into the empty channel to a live team, waits while the channel is
full, and completes without effect where the taker has retired. R34, R178, R79: `claim` writes the values of a pending give in the active lanes and empties the channel, waits for a give, and
writes zeros and sets give_lost where the giver has retired; counts that differ are illegal and leave the give. -/
def Obligations.GiveAndClaim : Prop :=
  (∀ (s : State) (c : Issuer) (k : BitVec 8) (v : Reg) (n : BitVec 8), s.issuer = some c →
    let t := c.team
    let i := Instr.give k v n
    let key := channelKey t.index k.toNat
    (c.handOk k v n = false → RaisesIllegal i s c) ∧
    (c.handOk k v n = true → s.teamRetired c.crew k.toNat = true → GoesOn i s c 1 t) ∧
    (c.handOk k v n = true → s.teamRetired c.crew k.toNat = false → Sparse.get none c.crew.channels key ≠ none →
      Waits i s c (.give k.toNat)) ∧
    (c.handOk k v n = true → s.teamRetired c.crew k.toNat = false → Sparse.get none c.crew.channels key = none →
      ∃ g u, exec i s = .next ((s.setCrew c.cid { c.crew with channels := Sparse.set none c.crew.channels key (some g) }).setTeam c.ref u) ∧
        t.FrameP u ∧ u.pc = t.nextPc 1 ∧ g.count = n.toNat ∧
        ∀ l j, j < n.toNat → g.at l j = if l < t.lanes ∧ t.present.getLsbD l = true then t.v s.rf l (v.toNat + j) else 0)) ∧
  (∀ (s : State) (c : Issuer) (k : BitVec 8) (v : Reg) (n : BitVec 8), s.issuer = some c →
    let t := c.team
    let i := Instr.claim k v n
    let key := channelKey k.toNat t.index
    (c.handOk k v n = false → RaisesIllegal i s c) ∧
    (∀ g, c.handOk k v n = true → Sparse.get none c.crew.channels key = some g → g.count ≠ n.toNat → RaisesIllegal i s c) ∧
    (∀ g, c.handOk k v n = true → Sparse.get none c.crew.channels key = some g → g.count = n.toNat →
      ∃ u, exec i s = .next ((s.setCrew c.cid { c.crew with channels := Sparse.set none c.crew.channels key none }).setTeam c.ref u) ∧
        t.FrameV u ∧ u.pc = t.nextPc 1 ∧ u.stat = t.stat ∧ t.HoldsRun u s.rf v n.toNat fun l j => g.at l j) ∧
    (c.handOk k v n = true → Sparse.get none c.crew.channels key = none → s.teamRetired c.crew k.toNat = true →
      Completes i s c fun u => t.FrameV u ∧ u.pc = t.nextPc 1 ∧ u.stat = t.stat ||| 2 ∧ t.HoldsRun u s.rf v n.toNat fun _ _ => 0) ∧
    (c.handOk k v n = true → Sparse.get none c.crew.channels key = none → s.teamRetired c.crew k.toNat = false →
      Waits i s c (.claim k.toNat)))

/-! Memory. -/

/-- R237 to R243, R80: the loads, with what makes each illegal; a lane's failure to be translated leads to a record and a trap, or to a wait for
the host (R285, R329, R333).  An access may be performed later than it is accepted (log 4, the model's choice). -/
def Obligations.LoadsRunTheirLanes : Prop :=
  ∀ (s : State) (c : Issuer), s.issuer = some c →
    let w := c.team.et.wide
    (∀ p ∈ loadRows, ∀ d a b off, if c.vRun d p.2.2.1 && (!p.2.2.2 || evenReg d) && evenReg a && c.vOk false b then
        RunsLanes (p.1 d a b off) s c 2 false (fun m => m) (c.loadLane s d a b off p.2.1 p.2.2.1 false false)
      else RaisesIllegal (p.1 d a b off) s c) ∧
    (∀ d a b sc off, if c.vOk w d && evenReg a && c.vOk false b then
        RunsLanes (.lda d a b sc off) s c 2 false (fun m => m.acquire c.ref.die c.ref.core sc)
          (c.loadLane s d a b off (if w then 8 else 4) (if w then 2 else 1) true (sc != .core))
      else RaisesIllegal (.lda d a b sc off) s c) ∧
    (∀ d a b off, if c.vOk w d && c.vOk false b then RunsLanes (.lds d a b off) s c 2 false (fun m => m) (c.ldsLane s d a b off)
      else RaisesIllegal (.lds d a b off) s c) ∧
    (∀ d a b off, if c.vRun d (mxLen off / 4 + 1) && evenReg a && c.vOk false b then
        RunsLanes (.ldmx d a b off) s c 2 false (fun m => m) (c.ldmxLane s d a b off)
      else RaisesIllegal (.ldmx d a b off) s c) ∧
    (∀ d a off f, c.team.flagSlot = some f → c.team.flags.getLsbD f = true → Waits (.sld d a off) s c (.flag f)) ∧
    (∀ d a off, c.team.flagFree → let o := truncBits ((c.team.s s.rf a.toNat).toNat + toSigned 16 off.toNat) 32
      (o % 4 ≠ 0 → Raises (.sld d a off) s c .misaligned o) ∧
      (o % 4 = 0 → c.crew.alloc.scratch < o + 4 → Raises (.sld d a off) s c .worldViolation o) ∧
      (o % 4 = 0 → o + 4 ≤ c.crew.alloc.scratch → c.scratchConflict s.msys false o 4 = true → Raises (.sld d a off) s c .rangeConflict o) ∧
      (o % 4 = 0 → o + 4 ≤ c.crew.alloc.scratch → c.scratchConflict s.msys false o 4 = false →
        let q := c.put s 0 false [⟨true, false, o, 4⟩] false (.load [regKey 1024 d.toNat] none false) (c.seq s s.msys 0)
        (∃ u, exec (.sld d a off) s = .next ((s.afterLanes c (fun m => m) q).setTeam c.ref u) ∧ c.team.FrameL u ∧ u.late = q.late ∧
          u.pc = c.team.nextPc 2 ∧ c.team.Launched u s.fresh (q.unready s.fresh) q.writes) ∧
        (c.team.late = [] → s.late.head? ≠ some true →
          q.late = [] ∧ q.m = s.msys ∧ q.crew = c.crew ∧ q.writes = [(regKey 1024 d.toNat, BitVec.ofNat 32 (c.crew.scratchNat o 4))])))

/-- R237 to R239, R244, R246, R264: the stores, with what makes each illegal: a task crew that has not committed may not store.  A store may be
performed later than it is accepted; `stl` is performed after every earlier access of the team (R132; log 4, the model's choice). -/
def Obligations.StoresRunTheirLanes : Prop :=
  ∀ (s : State) (c : Issuer), s.issuer = some c →
    let w := c.team.et.wide
    (∀ p ∈ storeRows, ∀ d a b off, if c.vRun d p.2.2 && (p.2.2 == 1 || evenReg d) && evenReg a && c.vOk false b && !c.uncommitted then
        RunsLanes (p.1 d a b off) s c 2 true (fun m => m) (c.storeLane s d a b off p.2.1 p.2.2 false)
      else RaisesIllegal (p.1 d a b off) s c) ∧
    (∀ d a b sc off, if c.vOk w d && evenReg a && c.vOk false b && !c.uncommitted then
        RunsLanes (.stl d a b sc off) s c 2 true (fun m => m) (c.storeLane s d a b off (if w then 8 else 4) (if w then 2 else 1) true)
      else RaisesIllegal (.stl d a b sc off) s c) ∧
    (∀ d a b off, if c.vOk w d && c.vOk false b then RunsLanes (.sts d a b off) s c 2 true (fun m => m) (c.stsLane s d a b off)
      else RaisesIllegal (.sts d a b off) s c) ∧
    (∀ d a b off, if c.vRun d (mxLen off / 4 + 1) && evenReg a && c.vOk false b && !c.uncommitted then
        RunsLanes (.stmx d a b off) s c 2 true (fun m => m) (c.stmxLane s d a b off)
      else RaisesIllegal (.stmx d a b off) s c)

/-- R247, R132, R133, R264: the atomics; one that acquires discards the core's copies once its lanes are accepted, and is performed at once; one
that releases is performed after every earlier access of the team, and any other may be performed later (log 4, the model's choice). -/
def Obligations.AtomicsRunTheirLanes : Prop :=
  ∀ (s : State) (c : Issuer), s.issuer = some c →
    let w := c.team.et.wide
    ∀ p ∈ atomicRows, ∀ d a b x sc o off, if c.vOk w d && c.vOk w x && evenReg a && c.vOk false b && !c.uncommitted then
        RunsLanes (p.1 d a b x sc o off) s c 2 true
          (fun m => if o = .acq ∨ o = .ar then m.acquire c.ref.die c.ref.core sc else m) (c.atomicLane s p.2 d a b x o off)
      else RaisesIllegal (p.1 d a b x sc o off) s c

/-- R129 to R131, R128, R239, R242, R325: what a load of one lane does: it is aligned, meets no range lock, is translated, and is accepted: two
loads of 8 bytes for 16, one load otherwise.  R99, R101, R244: the same for a block and its scale, whose places do not overlap and which are read
at home where they lie in two lines (log 31).  R130, R132: an accepted access is performed at once, or stands behind those of the team that come
before it, which are those that share bytes with it and, before a release, all; a timing choice may make it late too (log 4, the model's choice).
A load delivers the bytes at the home slice, or, where it is relaxed, those of a copy that the core's L1 holds; memory does not change. -/
def Obligations.LoadLane : Prop :=
  (∀ (s : State) (c : Issuer) (d a b : Reg) (off : BitVec 16) (len regs : Nat) (acq home : Bool) (q : LaneSeq) (l : Nat),
    let va := c.team.globalAddr s.rf l a b off
    let r := c.loadLane s d a b off len regs acq home q l
    (va % len ≠ 0 → r = .error (.trap .misaligned va)) ∧
    (va % len = 0 → LaneAccess c s q l false va len r fun m pa leaf =>
      let at_ := fun (k n : Nat) => (⟨false, leafMsd leaf, q.m.norm (pa + k), n⟩ : Target)
      let ext := if len < 4 then some c.team.et.signed else none
      (len ≠ 16 → r = .ok (c.put s l acq [at_ 0 len] false (.load (laneKeys l d.toNat regs) ext home) { q with m := m })) ∧
      (len = 16 → r = .ok (c.put s l acq [at_ 8 8] false (.load (laneKeys l (d.toNat + 2) 2) none home)
        (c.put s l acq [at_ 0 8] false (.load (laneKeys l d.toNat 2) none home) { q with m := m }))))) ∧
  (∀ (s : State) (c : Issuer) (d a b : Reg) (off : BitVec 16) (q : LaneSeq) (l : Nat),
    let len := mxLen off
    let base := truncBits ((c.team.sIn64 s.rf l a.toNat : Nat) + toSigned 32 (c.team.v s.rf l b.toNat).toNat) 57
    let sc := truncBits ((base : Int) + toSigned 15 off.toNat) 57
    let bs := (c.team.regBytes s.rf l d.toNat (len / 4 + 1)).take (len + 1)
    ∀ (write : Bool), let r := if write then c.stmxLane s d a b off q l else c.ldmxLane s d a b off q l
      let locked := fun va n => q.m.conflict c.ref.die c.ref.core [] false write va n
      let x := q.m.translate (laneFree s l 0) (c.access write false) base
      (base % len ≠ 0 ∨ (base ≤ sc ∧ sc < base + len) → r = .error (.trap .misaligned base)) ∧
      (base % len = 0 → ¬ (base ≤ sc ∧ sc < base + len) →
        (locked base len = true → r = .error (.trap .rangeConflict base)) ∧
        (locked base len = false → locked sc 1 = true → r = .error (.trap .rangeConflict sc)) ∧
        (locked base len = false → locked sc 1 = false →
          (∀ cause, x = .fail cause → r = .error (.xlate cause base)) ∧ (x = .world → r = .error (.trap .worldViolation base)) ∧
          (x = .ats → r = .error (.ats base)) ∧
          (∀ pa leaf lvl, x = .ok pa leaf lvl →
            let x' := (c.usePiece q.m write false base leaf lvl).translate (laneFree s l 0 + 1) (c.access write false) sc
            (∀ cause, x' = .fail cause → r = .error (.xlate cause sc)) ∧ (x' = .world → r = .error (.trap .worldViolation sc)) ∧
            (x' = .ats → r = .error (.ats sc)) ∧
            (∀ pa' leaf' lvl', x' = .ok pa' leaf' lvl' →
              (write = true → q.m.isHeld pa = true → r = .error (.trap .worldViolation base)) ∧
              (write = true → q.m.isHeld pa = false → q.m.isHeld pa' = true → r = .error (.trap .worldViolation sc)) ∧
              (write = false ∨ (q.m.isHeld pa = false ∧ q.m.isHeld pa' = false) → ∃ m : MemSys,
                q.m.Used m ∧
                let ps : List Target := [⟨false, leafMsd leaf, q.m.norm pa, len⟩, ⟨false, leafMsd leaf', q.m.norm pa', 1⟩]
                let any_ := fun (p : Nat → Bool) => p (q.m.norm pa) || p (q.m.norm pa')
                let apart := decide (q.m.norm pa / 128 ≠ q.m.norm pa' / 128)
                r = .ok (if write then c.put s l (any_ m.isBell) ps (any_ m.isReply) (.store bs) { q with m := m }
                  else c.put s l false ps false (.load (laneKeys l d.toNat (len / 4 + 1)) none apart) { q with m := m }))))))) ∧
  (∀ (s : State) (c : Issuer) (l : Nat) (now rel : Bool) (ps : List Target) (k : LateKind) (q : LaneSeq),
    let a : LateAcc := ⟨s.fresh, ps, rel, k⟩
    let q' := c.put s l now ps rel k q
    let p := k.perform (laneFree s l 1) c.ref c.crew.world ps k.bytes q.m q.crew
    let left := if now then q.choices else q.choices.drop 1
    let waits := (∃ b ∈ q.late, a.behind b = true) ∨ ∃ u ∈ q.busy, a.unit = some u
    (waits → now = true → q' = { q with blocked := some (if rel then .accesses else .bytes ps) }) ∧
    (waits ∨ q.choices.head? = some true → now = false →
      q' = { q with late := q.late ++ [a], choices := left, writes := q.writes ++ a.keys.map fun x => (x, 0) }) ∧
    (¬ waits → now = true ∨ q.choices.head? ≠ some true →
      q' = { q with m := p.2.1, crew := p.2.2, got := k.gives p.1 q.got, choices := left, writes := q.writes ++ a.results p.1 })) ∧
  (∀ a b : LateAcc, (a.rel = true → a.id ≠ b.id → b.places ≠ [] → a.behind b = true) ∧
    (∀ x ∈ a.places, ∀ y ∈ b.places, x.scratch = y.scratch → x.addr < y.addr + y.len → y.addr < x.addr + x.len → a.behind b = true)) ∧
  (∀ (k : LateKind) (free world : Nat) (r : TeamRef) (ps : List Target) (p : Target) (bs : List Byte) (m : MemSys) (crew : Crew),
    k.perform free r world [] bs m crew = ([], m, k.taken crew) ∧
    (let one := k.act free r world p (bs.take p.len) m crew
     let rest := k.perform free r world ps (bs.drop p.len) one.2.1 one.2.2
     k.perform free r world (p :: ps) bs m crew = (one.1 ++ rest.1, rest.2))) ∧
  (∀ (keys : List Nat) (ext : Option Bool) (home : Bool) (free world : Nat) (r : TeamRef) (p : Target) (m : MemSys) (crew : Crew),
    let got := (LateKind.load keys ext home).act free r world p [] m crew
    got.2.2 = crew ∧ (LateKind.load keys ext home).taken crew = crew ∧
    (p.scratch = true → got.1 = Sparse.run 0 crew.scratch p.addr p.len ∧ got.2.1 = m) ∧
    (p.scratch = false → got.2.1 = { m with l1 := got.2.1.l1, seq := got.2.1.seq } ∧
      (home = true ∨ p.msd = true → got.1 = m.readN (m.norm p.addr) p.len) ∧
      (got.1 = m.readN (m.norm p.addr) p.len ∨
        ∃ y, m.l1Find (m.l1Of r.die r.core (m.norm p.addr)) (lineOf (m.norm p.addr)) world = some y ∧
          got.1 = (y.data.drop (m.norm p.addr % 128)).take p.len)))

/-- R113, R118, R128, R239, R246, R247, R51, R253: what a store and an atomic of one lane do: each is aligned, meets no range lock, is translated,
does not touch a held line, and is accepted: a store of the register's low bytes, an atomic with its operands as they stand; R296, R328: a store that rings a doorbell is performed at once, and
one that rings the reply doorbell after the team's earlier accesses.  Performed, a store and an atomic write at the home, and an atomic gives the
old value to its destination. -/
def Obligations.StoreAndAtomicLane : Prop :=
  (∀ (s : State) (c : Issuer) (op : AtomOp) (d a b e : Reg) (o : Order) (off : BitVec 16) (len regs : Nat) (rel : Bool) (q : LaneSeq) (l : Nat),
    let t := c.team
    let va := t.globalAddr s.rf l a b off
    let acts := fun (r : Except LaneFail LaneSeq) (len : Nat) (accepted : MemSys → Nat → Dword → LaneSeq) =>
      (va % len ≠ 0 → r = .error (.trap .misaligned va)) ∧
      (va % len = 0 → LaneAccess c s q l true va len r fun m pa leaf => r = .ok (accepted m pa leaf))
    acts (c.storeLane s d a b off len regs rel q l) len (fun m pa leaf =>
      c.put s l (m.isBell (q.m.norm pa)) [⟨false, leafMsd leaf, q.m.norm pa, len⟩] (rel || m.isReply (q.m.norm pa))
        (.store ((t.regBytes s.rf l d.toNat regs).take len)) { q with m := m }) ∧
    acts (c.atomicLane s op d a b e o off q l) t.viewLen (fun m pa leaf =>
      c.put s l (decide (o = .acq ∨ o = .ar)) [⟨false, leafMsd leaf, q.m.norm pa, t.viewLen⟩] (decide (o = .rel ∨ o = .ar))
        (.atomic (laneKeys l d.toNat (t.viewLen / 4)) op t.mode (t.read s.rf l t.et.wide (.v e)) (t.read s.rf l t.et.wide (.v d)))
        { q with m := m })) ∧
  (∀ (free world : Nat) (r : TeamRef) (p : Target) (bs : List Byte) (m : MemSys) (crew : Crew) (keys : List Nat) (op : AtomOp)
      (mode : Word) (x cmp id : Nat) (rel : Bool), p.scratch = false →
    (LateKind.store bs).perform free r world [p] bs m crew = ([], m.store r.die r.core world p.msd p.addr (bs.take p.len), crew) ∧
    (let a : LateAcc := ⟨id, [p], rel, .atomic keys op mode x cmp⟩
     let got := a.kind.perform free r world [p] [] m crew
     let old := m.readNat (m.norm p.addr) p.len
     got.2.2 = crew ∧ got.2.1 = (m.atomic r.die r.core world p.msd p.addr p.len (op.eval (etypeOf mode) x cmp)).2 ∧
     ∀ k, k < keys.length → (a.results got.1)[k]? = some (keys.getD k 0, BitVec.ofNat 32 (leNat (((leBytes old p.len).drop (4 * k)).take 4)))))

/-- R5, R7, R17, R118, R119, R354: which bytes a store and an atomic within one line change, in HBM, in the pod windows and in host memory
whose lines the home slices hold: those stored to, to what is stored, and no others; a store to a doorbell changes none, and a byte of a read-only
field of a record that the device keeps does not change.  A store reaches its home slice whole when it is performed (log 33, the model's choice). -/
def Obligations.StoredBytes : Prop :=
  ∀ (m : MemSys) (die core world : Nat) (msd : Bool) (pa : Nat), m.dirtyOk →
    let q := m.norm pa
    (∀ bs, m.isBell q = true → ∀ p, (m.store die core world msd pa bs).readB p = m.readB p) ∧
    (∀ bs, m.isBell q = false → q % 128 + bs.length ≤ 128 → ∀ p, (m.store die core world msd pa bs).readB p =
      if q ≤ m.norm p ∧ m.norm p < q + bs.length ∧ m.readOnly (m.norm p) = false then bs.getD (m.norm p - q) 0 else m.readB p) ∧
    (∀ n f, q % 128 + n ≤ 128 →
      let old := m.readNat q n
      (m.atomic die core world msd pa n f).1 = old ∧
      ∀ p, (m.atomic die core world msd pa n f).2.readB p =
        if q ≤ m.norm p ∧ m.norm p < q + n ∧ m.readOnly (m.norm p) = false then (leBytes (f old) n).getD (m.norm p - q) 0 else m.readB p)

/-- R112, R128, R238, R246: the scratchpad accesses of one lane; performed, a store changes the bytes stored to, and no others. -/
def Obligations.ScratchpadLane : Prop :=
  (∀ (s : State) (c : Issuer) (d a b : Reg) (off : BitVec 16) (q : LaneSeq) (l : Nat),
    let t := c.team
    let n := t.viewLen
    let o := t.scratchAddr s.rf l a b off
    let ld := c.ldsLane s d a b off q l
    let st := c.stsLane s d a b off q l
    (o % n ≠ 0 → ld = .error (.trap .misaligned o) ∧ st = .error (.trap .misaligned o)) ∧
    (o % n = 0 → c.crew.alloc.scratch < o + n → ld = .error (.trap .worldViolation o) ∧ st = .error (.trap .worldViolation o)) ∧
    (o % n = 0 → o + n ≤ c.crew.alloc.scratch →
      (c.scratchConflict q.m false o n = true → ld = .error (.trap .rangeConflict o)) ∧
      (c.scratchConflict q.m true o n = true → st = .error (.trap .rangeConflict o)) ∧
      (c.scratchConflict q.m false o n = false →
        ld = .ok (c.put s l false [⟨true, false, o, n⟩] false (.load (laneKeys l d.toNat (n / 4)) none false) q)) ∧
      (c.scratchConflict q.m true o n = false →
        st = .ok (c.put s l false [⟨true, false, o, n⟩] false (.store (t.regBytes s.rf l d.toNat (n / 4))) q)))) ∧
  (∀ (free world : Nat) (r : TeamRef) (p : Target) (bs : List Byte) (m : MemSys) (crew : Crew), p.scratch = true → bs.length = p.len →
    let got := (LateKind.store bs).perform free r world [p] bs m crew
    got.1 = [] ∧ got.2.1 = m ∧ got.2.2 = { crew with scratch := got.2.2.scratch } ∧
    ∀ i, Sparse.get 0 got.2.2.scratch i = if p.addr ≤ i ∧ i < p.addr + p.len then bs.getD (i - p.addr) 0 else Sparse.get 0 crew.scratch i)

/-- R149, R150, R80: the completion of a long-latency instruction writes its registers, of which one that a later instruction has
written too takes either value, and clears its flag; the accesses that are still to be performed are performed before it, in their order (log 4,
the model's choice), and give values to the registers that wait for them. -/
def Obligations.LongLatencyCompletes : Prop :=
  (∀ (s : State) (r : TeamRef) (t : Team) (o : InFlight), s.teamAt r = some t →
    t.inflight.find? (fun x => x.id == o.id) = some o → Sparse.wf none o.writes = true → (∀ a ∈ t.late, a.id ≠ o.id) →
    ∃ u, exec (.longLatencyCompletion r o.id) s = .next (s.setTeam r u) ∧
      u.inflight.map InFlight.id = (t.inflight.map InFlight.id).filter (fun k => k != o.id) ∧
      (u.flags = match o.flag with
        | some f => t.flags &&& ~~~(BitVec.ofNat 12 (2 ^ f))
        | none => t.flags) ∧
      (∀ l x, l < 1024 → x < 256 → match Sparse.get none o.writes (regKey l x) with
        | some w => u.vreg l x = w.val ∨ (w.contested = true ∧ u.vreg l x = t.vreg l x)
        | none => u.vreg l x = t.vreg l x) ∧
      (∀ x, x < 256 → match Sparse.get none o.writes (regKey 1024 x) with
        | some w => u.sreg x = w.val ∨ (w.contested = true ∧ u.sreg x = t.sreg x)
        | none => u.sreg x = t.sreg x) ∧
      u = { t with vregs := u.vregs, sregs := u.sregs, inflight := u.inflight, flags := u.flags, hold := u.hold, reuse := u.reuse }) ∧
  (∀ (s : State) (r : TeamRef) (t : Team) (id : Nat), s.teamAt r = some t → exec (.longLatencyCompletion r id) s =
    exec (.longLatencyCompletion r id) (s.performFirst r (lateUpTo id t.late))) ∧
  (∀ (s : State) (r : TeamRef) (t : Team) (c : Crew) (a : LateAcc) (rest : List LateAcc), s.teamAt r = some t → t.late = a :: rest →
    s.crewAt t.crew = some c →
    let p := a.kind.perform (freeAt s 61000) r c.world a.places a.kind.bytes s.msys c
    (∀ u, a.unit = some u → s.stepFirst r c.cls a.id u = false) →
    ∃ u, s.performFirst r 1 = ((s.setMsys p.2.1).setCrew t.crew p.2.2).setTeam r u ∧
      u = { t with late := rest.map (a.fed p.1), inflight := u.inflight } ∧ u.inflight.length = t.inflight.length ∧
      ∀ (k : Nat) (o o' : InFlight), t.inflight[k]? = some o → u.inflight[k]? = some o' → o'.id = o.id ∧ o'.flag = o.flag ∧
        ∀ key, Sparse.get none o'.writes key = (Sparse.get none o.writes key).map fun x =>
          match (if o.id = a.id then (a.results p.1).find? (fun w => w.1 == key) else none) with
          | some w => { x with val := w.2, ready := true }
          | none => x)

/-! Fences, barriers and the prefetch. -/

/-- R132, R133, R135, R250, R245, R75: `fence.acq` waits until the team's earlier reads are performed, and `fence.rel` and `fence.ar` until all its
earlier accesses are; then they go on, and one that acquires discards the lines of the core's own L1, or of its fused quad, at a scope wider than the
L1 itself.  `pref` is illegal with an operand out of range or an odd pair, and changes no value: it fills the L1 with the line of a lane whose
address is aligned to a line and whose access would be accepted (log 29 tells which caches are state, the model's choice). -/
def Obligations.FencesAndPrefetch : Prop :=
  ∀ (s : State) (c : Issuer), s.issuer = some c →
    let t := c.team
    let fused := s.msys.quadFused c.ref.die c.ref.core
    let own := fun (l : L1Line) => if fused then l.cache / 4 = (c.ref.die * 64 + c.ref.core) / 4 else l.cache = c.ref.die * 64 + c.ref.core
    let acquires := fun i sc => ∃ m u, exec i s = .next ((s.setMsys m).setTeam c.ref u) ∧ t.FrameP u ∧ u.pc = t.nextPc 1 ∧
      m = { s.msys with l1 := m.l1 } ∧ ∀ l, l ∈ m.l1 ↔ l ∈ s.msys.l1 ∧ (sc = .core ∨ (sc = .quad ∧ fused = true) ∨ ¬ own l)
    let reads := ∃ a ∈ t.late, (∀ bs, a.kind ≠ .store bs) ∧ ∀ l data x, a.kind ≠ .take l data x
    (∀ sc, (reads → Waits (.fenceAcq sc) s c .reads) ∧ (¬ reads → acquires (.fenceAcq sc) sc)) ∧
    (∀ sc, (t.late ≠ [] → Waits (.fenceAr sc) s c .accesses) ∧ (t.late = [] → acquires (.fenceAr sc) sc)) ∧
    (∀ sc, (t.late ≠ [] → Waits (.fenceRel sc) s c .accesses) ∧ (t.late = [] → GoesOn (.fenceRel sc) s c 1 t)) ∧
    (∀ a b off, evenReg a = false ∨ c.vOk false b = false → RaisesIllegal (.pref a b off) s c) ∧
    (∀ a b off, evenReg a = true → c.vOk false b = true →
      ∃ m u, exec (.pref a b off) s = .next ((s.setMsys m).setTeam c.ref u) ∧ t.FrameP u ∧ u.pc = t.nextPc 2 ∧
      ({ s.msys with l1 := m.l1 } : MemSys).Used m ∧
      (∀ x ∈ m.l1, x ∈ s.msys.l1 ∨ x.data = s.msys.readN (x.line * 128) 128) ∧
      ((∀ l ∈ t.active s.rf, t.globalAddr s.rf l a b off % 128 ≠ 0) → m = s.msys) ∧
      (∀ l pa leaf lvl, t.active s.rf = [l] →
        let va := t.globalAddr s.rf l a b off
        va % 128 = 0 → s.msys.conflict c.ref.die c.ref.core [] false false va 128 = false →
        s.msys.translate (laneFree s l 0) (c.access false false) va = .ok pa leaf lvl → leafMsd leaf = false →
        m.l1Find (m.l1Of c.ref.die c.ref.core (m.norm pa)) (lineOf (m.norm pa)) c.crew.world =
          some ⟨m.l1Of c.ref.die c.ref.core (m.norm pa), lineOf (m.norm pa), c.crew.world, s.msys.readN (lineOf (m.norm pa) * 128) 128⟩))

/-- R251 to R254, R138: `barr` and a `bar` that has not begun record the team's arrival in the current instance, as a release that waits for the
team's accesses; the last team of a crew to arrive gives the crew a rank and, where its grid names a log, writes the straggler entry: the run of late
arrivals and whether it marks a straggler; an arrival that completes the instance ends it, and the next one opens another. `barr` goes on; `bar`
departs from a complete instance with an acquire at the scope, and waits for any other. R252, R138, R253, R315, R357: `barw`, and a `bar` whose
arrival stands, depart once the instance of the arrival is over, wherever the crew has moved since, with an acquire at the scope, and wait until then;
each is illegal out of turn. A crew of another module arrives once and takes a rank, and ends its module's silence.  Which members a set has, and
what the retirement of a crew's last team logs, is log 20, the model's choice. -/
def Obligations.Barriers : Prop :=
  (∀ (s : State) (c : Issuer) (scope : Scope) (n : BitVec 13), s.issuer = some c →
    let t := c.team
    let k := n.toNat
    let b := s.barAt (c.crew.barOwner c.cid scope) (s.barSame c.cid c.crew scope) k
    let b1 := { b with arrived := (c.cid, t.index) :: b.arrived }
    let last := s.crewIn b1 c.cid c.crew
    let rank := b.ranked.length + b.remote.length
    let b2 := if last then { b1 with ranked := c.cid :: b.ranked } else b1
    let open_ := scope = .core ∨ c.crew.coop = true
    let legal := open_ ∧ t.arrivalAt k = none ∧ t.arrivals.length < 4
    let logs := fun (s' : State) =>
      let wide := last = true ∧ scope ≠ .core ∧ scope ≠ .quad ∧ k < 8
      (¬ wide → s'.grids = s.grids) ∧
      ∀ g, s.gridAt c.crew.gid = some g → (g.record.logBase = 0 → s'.grids = s.grids) ∧
        (wide → g.record.logBase ≠ 0 → ∃ g', s'.gridAt c.crew.gid = some g' ∧
          let m := s.memberCount b.owner
          let run := if m ≤ rank + (m + 7) / 8 then Nat.min 255 ((g.logAt k c.crew.index.toNat).late + 1) else 0
          g'.logAt k c.crew.index.toNat =
            ⟨rank, run, b.inst % 2 ^ 24, decide (g.record.threshold ≤ run) && decide (0 < g.record.threshold)⟩ ∧
          ∀ x, x < 2 ^ 32 → x ≠ c.crew.index.toNat → g'.logAt k x = g.logAt k x)
    (c.crew.barOwner c.cid scope ∈ b.names ∧ b.number = k) ∧
    (¬ legal → RaisesIllegal (.barr scope n) s c) ∧
    (¬ open_ ∨ (¬ legal ∧ ∀ a, t.arrivalAt k = some a → a.bar = false) → RaisesIllegal (.bar scope n) s c) ∧
    (legal → t.late ≠ [] → Waits (.barr scope n) s c .accesses ∧ Waits (.bar scope n) s c .accesses) ∧
    (legal → t.late = [] → ∃ s' u, exec (.barr scope n) s = .next s' ∧ s'.teamAt c.ref = some u ∧ u.pc = t.nextPc 1 ∧ s.Settled s' b2 ∧
      ({ t with arrivals := t.arrivals ++ [⟨scope, k, b.id, false⟩] } : Team).FrameP u ∧ s'.crews = s.crews ∧ logs s' ∧
      (∀ r, slotKey r ≠ slotKey c.ref → s'.teamAt r = s.teamAt r)) ∧
    (legal → t.late = [] → s.barComplete b2 = true → ∃ s' u, exec (.bar scope n) s = .next s' ∧ s'.teamAt c.ref = some u ∧ u.pc = t.nextPc 1 ∧
      t.FrameP u ∧ s.Settled s' b2 ∧ s'.crews = s.crews ∧ logs s' ∧ (∀ l ∈ s'.msys.l1, l ∈ (c.acquire scope s.msys).l1)) ∧
    (legal → t.late = [] → s.barComplete b2 = false → ∃ s' u, exec (.bar scope n) s = .next s' ∧ s'.teamAt c.ref = some u ∧
      s.Settled s' b2 ∧ logs s' ∧ u = { t with arrivals := t.arrivals ++ [⟨scope, k, b.id, true⟩], wait := some (.barrier k) } ∧
      s'.crews = s.crews)) ∧
  (∀ (s : State) (o : BarOwner) (same : List BarOwner) (n : Nat),
    (∀ b ∈ s.barriers, b.number = n → ∀ x ∈ o :: same, x ∉ b.names) →
      s.barAt o same n = ⟨s.fresh, [o], n, (same.map (s.barCount n)).foldl Nat.max 0, [], [], []⟩) ∧
  ((∀ (s : State) (c : Issuer) (scope : Scope) (n : BitVec 13) (i : Instr), s.issuer = some c →
    let t := c.team
    (t.arrivalAt n.toNat = none ∨ (scope ≠ .core ∧ c.crew.coop = false) → RaisesIllegal (.barw scope n) s c) ∧
    (∀ a, scope = .core ∨ c.crew.coop = true → t.arrivalAt n.toNat = some a → i = .barw scope n ∨ (i = .bar scope n ∧ a.bar = true) →
      let gone := ∀ b ∈ s.barriers, b.id ≠ a.inst
      (gone → ∃ u, exec i s = .next ((s.setMsys (s.msys.acquire c.ref.die c.ref.core scope)).setTeam c.ref u) ∧ u.pc = t.nextPc 1 ∧
        ({ t with arrivals := t.arrivals.filter (fun x => x.barrier != n.toNat) } : Team).FrameP u) ∧
      (¬ gone → Waits i s c (.barrier n.toNat)))) ∧
  (∀ (s : State) (r : RemoteArrival),
    let b := s.barAt (.pod r.group) [.pod r.group] r.barrier
    let heard := fun (s' : State) => ∀ k, Sparse.get 0 s'.silence k = if k = r.module then 0 else Sparse.get 0 s.silence k
    s.msys.bring.inPod = true → s.msys.podDown = false → r.module ∉ s.msys.fenced → r.module ≠ s.msys.pkg →
    ∃ s', exec (.podBarrierArrival r) s = .next s' ∧ heard s' ∧
      s' = { s with barriers := s'.barriers, barCounts := s'.barCounts, fresh := s'.fresh, silence := s'.silence } ∧
      (r.group = 0 ∨ (r.module, r.crew) ∈ b.remote → s'.barriers = s.barriers ∧ s'.barCounts = s.barCounts) ∧
      (r.group ≠ 0 → (r.module, r.crew) ∉ b.remote → s.Settled s' { b with remote := (r.module, r.crew) :: b.remote })))

/-! Traps, returns, system registers, service calls, `await`. -/

/-- R283 to R285, R266, R329, R330, R334: a trap of a drained team without an active frame writes the frame of its slot line by line through the space of
the crew's world at level 2, saves the team in it, and goes to `c.tvec` at level 2 with every present lane; `trap` raises the software trap with its
argument.  A team that has not drained, one that runs `trap` too, takes the trap later, by TRAP_ENTRY; one whose fault record is still to be
written waits until its accesses are performed and the fault queue has a slot, and the index of the record is its argument.  A trap that finds a frame active, or cannot write its frame, removes the crew. -/
def Obligations.TrapEntryAndDoubleTrap : Prop :=
  ∀ (s : State) (c : Issuer) (k : BitVec 16) (p : PendTrap),
    let t := c.team
    let regs := s.coreAt c.ref.die c.ref.core
    let va := (regs.tframe.toNat + 512 * c.ref.slot) % 2 ^ 57
    let a : Access := ⟨c.ref.die, c.crew.world, 2, true, false, false, some c.ref.core⟩
    let event := Instr.trapEntry c.ref
    let pends := fun (s1 : State) (p1 : PendTrap) => s1.setTeam c.ref { t with pending := some p1 }
    (s.issuer = some c → t.drained = true → exec (.trap k) s = .next (s.enterTrap c ⟨.software, k.toNat, 0, 0, none, (0, 0)⟩)) ∧
    (s.issuer = some c → t.drained = false → exec (.trap k) s = .next (pends s ⟨.software, k.toNat, 0, 0, none, (0, 0)⟩)) ∧
    (t.drained = true ↔ t.inflight = [] ∧ t.flags = 0 ∧ t.late = []) ∧
    (t.drained = false → ∀ trap arg tva done, s.raise c trap arg tva done = pends s ⟨trap, arg, tva, done, none, (0, 0)⟩) ∧
    (s.issuerAt c.ref = some c → t.pending = some p →
      (p.post = none → t.drained = true → exec event s = .next (s.enterTrap c p)) ∧
      (p.post = none → t.drained = false → exec event s = .next (pends s p)) ∧
      (∀ q, p.post = some q →
        let s1 := s.setMsys (s.msys.faultWrite q .none)
        let p1 := { p with post := none, arg := (Sparse.get 0 s.msys.faultNext q.die).toNat }
        (t.late ≠ [] ∨ s.msys.faultRoom q.die = false → exec event s = .next (pends s p)) ∧
        (t.late = [] → s.msys.faultRoom q.die = true → t.drained = true → exec event s = .next (s1.enterTrap c p1)) ∧
        (t.late = [] → s.msys.faultRoom q.die = true → t.drained = false → exec event s = .next (pends s1 p1)))) ∧
    (∀ x, t.frame = none → s.msys.linesOk (freeAt s 60000) a va 4 = some x →
      (x = .ats → s.enterTrap c p = (pends s p).setMsys (s.msys.atsAsk c.ref.die c.crew.world va true)) ∧
      (x ≠ .ats → s.enterTrap c p =
        (if x = .fail 10 then s.setMsys (s.msys.atsForget c.ref.die c.crew.world va) else s).doubleTrap c t.pc)) ∧
    (∀ pa leaf lvl, t.frame = none → s.msys.linesOk (freeAt s 60000) a va 4 = none →
      s.msys.translate (freeAt s 60000) a va = .ok pa leaf lvl → ∃ f u,
        s.enterTrap c p = (s.setTeam c.ref u).setMsys (((lineParts 512 pa (frameBytes f p.done)).foldl
          (fun m x => m.store c.ref.die c.ref.core c.crew.world (leafMsd leaf) x.1 x.2) s.msys).tlbFill a va leaf lvl
            |>.count c.ref.die c.crew.world c.crew.world va leaf) ∧
        u = { t with frame := some f, level := 2, mode := 0, part := 5, mask := t.present, sregs := u.sregs, pc := regs.tvec, clause := none
                     hold := [], reuse := [], replay := none, pending := none, wait := none, yielded := false } ∧
        (∀ r, u.sreg r = if r = 248 then BitVec.ofNat 32 va else if r = 249 then BitVec.ofNat 32 (va / 2 ^ 32)
          else if r = 250 then BitVec.ofNat 32 p.trap.code else if r = 251 then BitVec.ofNat 32 p.arg else t.sreg r) ∧
        f.phys = pa ∧ f.msd = leafMsd leaf ∧ f.pc = t.pc ∧ f.cause = p.trap.code ∧ f.arg = BitVec.ofNat 32 p.arg ∧ f.tva = BitVec.ofNat 57 p.tva ∧ f.level = t.level ∧
        f.mode = t.mode ∧ f.part = t.part ∧ f.mask = t.mask ∧ f.retDepth = t.ret.length ∧ f.divDepth = t.div.length ∧
        f.saved = (List.range 8).map (fun i => t.sreg (248 + i)) ∧
        (∀ x, t.clause = some x → f.h0 = x.h0 ∧ f.h1 = x.h1 ∧ f.slot = x.pos ∧ f.inClause = true ∧ (x.words ≠ [] → f.seen = x.words)) ∧
        (t.clause = none → f.h0 = p.head.1 ∧ f.h1 = p.head.2 ∧ f.slot = 0 ∧ f.inClause = false)) ∧
    (∀ (f : Frame) (done : LaneSet), f.saved.length = 8 → f.cause < 2 ^ 32 → f.level < 2 ^ 32 → f.slot < 2 ^ 32 → f.retDepth < 32 → f.divDepth < 256 →
      let bs := frameBytes f done
      let field := fun (o n : Nat) => leNat ((bs.drop o).take n)
      bs.length = 512 ∧ field 0 8 = f.pc.toNat ∧ field 0x08 4 = f.cause ∧ field 0x0C 4 = f.arg.toNat ∧ field 0x10 8 = f.tva.toNat ∧
      field 0x18 4 = 0 ∧ field 0x1C 4 = f.level ∧ field 0x20 4 = f.h0.toNat ∧ field 0x24 4 = f.h1.toNat ∧ field 0x28 4 = f.slot ∧
      field 0x40 4 = f.retDepth * 256 + f.divDepth ∧ field 0x44 4 = f.mode.toNat ∧ field 0x48 4 = f.part.toNat ∧
      field 0x4C 4 = (wordLive f.mask).toNat ∧ field 0x80 128 = done.toNat ∧ field 0x100 128 = f.mask.toNat ∧
      ∀ i, i < 8 → field (0x180 + 4 * i) 4 = (f.saved.getD i 0).toNat) ∧
    (∀ f, t.frame = some f → s.enterTrap c p = s.doubleTrap c t.pc) ∧
    (∀ s1 : State, ∃ s', s1.doubleTrap c t.pc = s' ∧ s' = { s1 with teams := s'.teams, crews := s'.crews, msys := s'.msys } ∧
      s'.crewAt c.cid = some { c.crew with phase := .leaving, doubleTrap := true, stop := none } ∧
      s'.msys = s1.msys.faultPost ⟨0xFF, 0, false, false, c.crew.world, c.crew.world, c.ref.die, c.ref.core, c.ref.slot, 0, 0, t.pc.toNat,
        s1.msys.assistFaults⟩ .none ∧
      s'.teamAt c.ref = some { t with pending := none, wait := none } ∧
      (∀ r, slotKey r ≠ slotKey c.ref → s'.teamAt r = s1.teamAt r) ∧ ∀ x, x ≠ c.cid → s'.crewAt x = s1.crewAt x)

/-- R286, R287, R266, R240, R281: the return from a trap, by the action that the handler left in the frame, once the handler's accesses are performed;
below level 2 `eret` is illegal.  R283, R326: a line of the frame that cannot be accessed is a trap in the handler, so a double trap. -/
def Obligations.TrapReturn : Prop :=
  ∀ (s : State) (c : Issuer) (f : Frame), s.issuer = some c →
    let t := c.team
    let action := s.msys.readNat (f.phys + 0x18) 4
    let done : LaneSet := BitVec.ofNat 1024 (s.msys.readNat (f.phys + 0x80) 128)
    let numbered := fun (off : Nat) (s : State) => s.setMsys (s.msys.number f.msd (s.msys.norm (f.phys + off)))
    let s1 := numbered 0x18 s
    let back := fun (u : Team) =>
      (∀ r, r < 248 → u.sreg r = t.sreg r) ∧ (∀ k, k < 8 → u.sreg (248 + k) = f.saved.getD k 0) ∧
      u = { t with sregs := u.sregs, mode := f.mode, part := f.part, mask := f.mask &&& t.present, level := f.level, frame := none
                   pc := u.pc, clause := u.clause, hold := u.hold, replay := u.replay, yielded := u.yielded }
    let returns := fun (s2 : State) (P : Team → Prop) => ∃ u, exec .eret s = .next (s2.setTeam c.ref u) ∧ P u
    let depths := t.level = 2 ∧ t.late = [] ∧ t.frame = some f ∧ t.ret.length = f.retDepth ∧ t.div.length = f.divDepth
    let open_ := depths ∧ s.msys.broken (f.phys + 0x18) = false
    (t.level < 2 → RaisesIllegal .eret s c) ∧
    (t.level = 2 → t.late ≠ [] → Waits .eret s c .accesses) ∧
    (open_ → f.saved.length = 8 → action = 0 → f.cause ≠ 9 → s1.msys.broken (f.phys + 0x80) = false →
      returns (numbered 0x80 s1) fun u => back u ∧ u.pc = f.pc ∧ u.clause = f.clauseAt ∧
        u.replay = if f.inClause = true then some (f.lanes &&& ~~~done, done) else none) ∧
    (open_ → f.saved.length = 8 → (action = 0 ∧ f.cause = 9) ∨ (action = 1 ∧ f.inClause = true) →
      returns s1 fun u => back u ∧ u.replay = none ∧
        let first := match f.seen.drop f.slot with
          | w :: _ => (opcodeMap (opOf w)).any Shape.extended
          | [] => false
        u.pc = ({ t with pc := f.pc, clause := f.clauseAt } : Team).nextPc (if first then 2 else 1)) ∧
    (open_ → f.saved.length = 8 → action = 2 → ∃ s' u, exec .eret s = .next s' ∧ s'.teamAt c.ref = some u ∧
      u.present = 0 ∧ u.mask = 0 ∧ u.frame = none ∧ u.level = f.level ∧ u.mode = f.mode ∧
      ((∀ x ∈ s.teamsOf c.crew, x.arrivals = []) → s'.msys = s1.msys)) ∧
    (t.level = 2 → t.late = [] → t.frame = none ∨ (t.frame = some f ∧ (t.ret.length ≠ f.retDepth ∨ t.div.length ≠ f.divDepth)) →
      exec .eret s = .next (s.doubleTrap c t.pc)) ∧
    (depths → s.msys.broken (f.phys + 0x18) = true → exec .eret s = .next (s.doubleTrap c t.pc)) ∧
    (open_ → 3 ≤ action ∨ (action = 1 ∧ f.inClause = false) ∨ (action = 0 ∧ f.cause ≠ 9 ∧ s1.msys.broken (f.phys + 0x80) = true) →
      exec .eret s = .next (s1.doubleTrap c t.pc))

/-- R282, R288, R6, R7: a read of a system register the team may name; one it may not name, and a number that names none, are illegal. R282, R284, R288,
R6, R113: a write of a system register; a register that stands in the frame in memory is read and written there once the team's accesses are
performed, and with no active frame none is written.  R289, R327, R328: an invalidation follows the team's own accesses, takes the entries of its form
out of every TLB and every walker, and completes once no running engine operation has used one of them; a space that does not exist has none (R320).
That it waits for every late access is log 44, the model's choice. -/
def Obligations.SystemRegisters : Prop :=
  (∀ (s : State) (c : Issuer) (d : Reg) (i : BitVec 16), s.issuer = some c →
    let t := c.team
    let n := i.toNat
    let regs := s.coreAt c.ref.die c.ref.core
    let base := s.msys.bring.svcBase.getD c.ref.die 0
    let legal := ((n = 0 ∨ (0x10 ≤ n ∧ n ≤ 0x13)) ∧ 1 ≤ t.level) ∨ (((1 ≤ n ∧ n ≤ 0xF) ∨ (0x20 ≤ n ∧ n ≤ 0x3F)) ∧ 2 ≤ t.level)
    let ofFrame := (1 ≤ n ∧ n ≤ 7) ∨ 0x20 ≤ n
    let gives := fun (x : Word) => Completes (.sysrd d i) s c fun u =>
      t.FrameS u ∧ u.pc = t.nextPc 1 ∧ u.stat = t.stat ∧ ∀ r, u.sreg r = if r = d.toNat then x else t.sreg r
    (¬ legal → RaisesIllegal (.sysrd d i) s c) ∧
    (legal →
      (n = 0x00 → gives (BitVec.ofNat 32 t.level)) ∧ (n = 0x08 → gives (BitVec.ofNat 32 regs.tvec.toNat)) ∧
      (n = 0x09 → gives (BitVec.ofNat 32 (regs.tvec.toNat / 2 ^ 32))) ∧ (n = 0x0A → gives (BitVec.ofNat 32 regs.tframe.toNat)) ∧
      (n = 0x0B → gives (BitVec.ofNat 32 (regs.tframe.toNat / 2 ^ 32))) ∧ (n = 0x0C → gives (BitVec.ofNat 32 c.crew.world)) ∧
      (n = 0x0D → gives t.ctxcrew) ∧ (n = 0x0E → gives t.ctxstat) ∧ (n = 0x0F → gives t.tlbspace) ∧ (n = 0x11 → gives 0) ∧
      (n = 0x12 → gives (BitVec.ofNat 32 base)) ∧ (n = 0x13 → gives (BitVec.ofNat 32 (base / 2 ^ 32))) ∧
      (ofFrame → t.late ≠ [] → Waits (.sysrd d i) s c .accesses) ∧
      (∀ f, t.late = [] → t.frame = some f → (n = 0x01 → gives (BitVec.ofNat 32 f.cause)) ∧ (n = 0x02 → gives f.arg) ∧
        (n = 0x03 → gives (BitVec.ofNat 32 f.pc.toNat)) ∧ (n = 0x04 → gives (BitVec.ofNat 32 (f.pc.toNat / 2 ^ 32))) ∧
        (n = 0x05 → gives (BitVec.ofNat 32 f.tva.toNat)) ∧ (n = 0x06 → gives (BitVec.ofNat 32 (f.tva.toNat / 2 ^ 32))) ∧
        ∀ pa, (n = 0x07 ∧ pa = f.phys + 0x18) ∨ (0x20 ≤ n ∧ pa = f.phys + 0x80 + 4 * (n - 0x20)) →
          (s.msys.broken pa = true → exec (.sysrd d i) s = .next (s.doubleTrap c t.pc)) ∧
          (s.msys.broken pa = false → Answers (.sysrd d i) s (s.setMsys (s.msys.number f.msd (s.msys.norm pa))) c d
            (BitVec.ofNat 32 (s.msys.readNat pa 4)))) ∧
      (t.late = [] → t.frame = none → ofFrame → gives 0))) ∧
  (∀ (s : State) (c : Issuer) (d : Reg) (i : BitVec 16) (k : BitVec 8), s.issuer = some c →
    let t := c.team
    let n := i.toNat
    let w := t.s s.rf d.toNat
    let old := s.coreAt c.ref.die c.ref.core
    let sets := fun (r : CoreRegs) => ∃ (s' : State) (u : Team), exec (.syswr d i) s = .next (s'.setTeam c.ref u) ∧ t.FrameP u ∧ u.pc = t.nextPc 1 ∧
      s' = { s with cores := s'.cores } ∧ s'.coreAt c.ref.die c.ref.core = r ∧
      ∀ die core, die * 64 + core ≠ c.ref.die * 64 + c.ref.core → s'.coreAt die core = s.coreAt die core
    let puts := fun (off : Nat) =>
      (t.late ≠ [] → Waits (.syswr d i) s c .accesses) ∧
      (t.late = [] → t.frame = none → RaisesIllegal (.syswr d i) s c) ∧
      ∀ f, t.late = [] → t.frame = some f →
        (s.msys.broken (f.phys + off) = true → exec (.syswr d i) s = .next (s.doubleTrap c t.pc)) ∧
        (s.msys.broken (f.phys + off) = false → Makes (.syswr d i) s
          (s.setMsys (s.msys.store c.ref.die c.ref.core c.crew.world f.msd (f.phys + off) (leBytes w.toNat 4))) c t)
    (t.level < 2 ∧ n ≠ 0x11 → RaisesIllegal (.syswr d i) s c) ∧
    (t.level = 0 → RaisesIllegal (.syswr d i) s c) ∧
    (n < 7 ∨ n = 0x0C ∨ n = 0x0E ∨ n = 0x10 ∨ (0x12 ≤ n ∧ n ≤ 0x1F) ∨ 0x40 ≤ n → RaisesIllegal (.syswr d i) s c) ∧
    (t.level = 2 →
      (n = 0x07 → puts 0x18) ∧ (0x20 ≤ n → n ≤ 0x3F → puts (0x80 + 4 * (n - 0x20))) ∧
      (n = 0x08 → sets { old with tvec := BitVec.ofNat 57 (old.tvec.toNat / 2 ^ 32 * 2 ^ 32 + (w &&& 0xFFFFFFFC).toNat) }) ∧
      (n = 0x09 → sets { old with tvec := BitVec.ofNat 57 (old.tvec.toNat % 2 ^ 32 + 2 ^ 32 * (w &&& 0x01FFFFFF).toNat) }) ∧
      (n = 0x0A → sets { old with tframe := BitVec.ofNat 57 (old.tframe.toNat / 2 ^ 32 * 2 ^ 32 + (w &&& 0xFFFFF000).toNat) }) ∧
      (n = 0x0B → sets { old with tframe := BitVec.ofNat 57 (old.tframe.toNat % 2 ^ 32 + 2 ^ 32 * (w &&& 0x01FFFFFF).toNat) }) ∧
      (n = 0x0D → GoesOn (.syswr d i) s c 1 { t with ctxcrew := w &&& 0x00073F0F }) ∧
      (n = 0x0F → GoesOn (.syswr d i) s c 1 { t with tlbspace := w &&& 0x0000FFFF })) ∧
    (let x := t.s64 s.rf d.toNat
     let legal := t.level = 2 ∧ evenReg d = true ∧ ((k = 0 ∧ x < 2 ^ 57 ∧ x % 4096 = 0) ∨ ((k = 1 ∨ k = 2) ∧ x = 0))
     (t.level < 2 ∨ (t.level = 2 ∧ ¬ legal) → RaisesIllegal (.tlbinv d k) s c) ∧
     let space := t.tlbspace.toNat % 2 ^ 16
     let page := x / 4096
     let uses := fun (o : EngineOp) => o.phase = .running ∧ ∃ w ∈ o.walked, k = 2 ∨ (o.world = space ∧ (k = 1 ∨ w.page / w.span = page / w.span))
     let absent := k ≠ 2 ∧ 255 ≤ space
     let begun := ∃ t0 ids, s.teamAt c.ref = some t0 ∧ t0.wait = some (.tlbinv ids)
     (legal → begun ∨ absent → GoesOn (.tlbinv d k) s c 1 t) ∧
     (legal → ¬ begun → ¬ absent → t.late ≠ [] → Waits (.tlbinv d k) s c .accesses) ∧
     (legal → ¬ begun → ¬ absent → t.late = [] → ∃ m : MemSys, m = { s.msys with tlb := m.tlb, walks := m.walks } ∧
       (∀ e, e ∈ m.tlb ↔ e ∈ s.msys.tlb ∧ k ≠ 2 ∧ ¬ (e.space = space ∧ (k = 1 ∨ (e.page ≤ page ∧ page < e.page + e.span)))) ∧
       (∀ e, e ∈ m.walks ↔ e ∈ s.msys.walks ∧ k ≠ 2 ∧ ¬ (e.space = space ∧ (k = 1 ∨ e.index = x / 2 ^ (21 + 9 * e.level)))) ∧
       let free := (∀ o ∈ s.ops, ¬ uses o) ∧ ∀ p ∈ s.teams, ∀ t', p.2 = some t' → t'.late = []
       (free → ∃ u, exec (.tlbinv d k) s = .next ((s.setMsys m).setTeam c.ref u) ∧ t.FrameP u ∧ u.pc = t.nextPc 1) ∧
       (¬ free → ∃ ids, (∀ n, n ∈ ids ↔ ∃ o ∈ s.ops, o.id = n ∧ uses o) ∧
         exec (.tlbinv d k) s = .next ((s.setMsys m).setTeam c.ref { t with wait := some (.tlbinv ids) })))))

/-- R265, R294, R25, R23, R51, R139: `svc` hands each non-empty word over as a batch, of its active lanes with their arguments, and waits; it waits first for
the team's accesses, and for room in the service area; a batch's 512 bytes tell the calling lanes, the service, the word, the world, the caller and the
arguments. Each batch is written through the space of world 0 at its place in the area, where held lines are left alone.
A read of `c.svcnext` takes the next batch; which of several is log 85, the model's choice. -/
def Obligations.ServiceCalls : Prop :=
  ∀ (s : State) (c : Issuer) (d a : Reg) (k : BitVec 8) (i : Instr), s.issuer = some c →
    let t := c.team
    let lanes := laneSetOf (t.todo s.rf).1
    let done := (t.todo s.rf).2
    let words := t.liveWords
    let known := k.toNat ∈ s.msys.bring.services
    let free := s.svcFree c.ref.die
    let legal := c.vOk false d = true ∧ c.vOk false a = true ∧ c.crew.gid ≠ 0 ∧ c.uncommitted = false
    (¬ legal → RaisesIllegal (.svc d a k) s c) ∧
    (∀ w, w ∈ words ↔ w < 32 ∧ ∃ l, l < 1024 ∧ l / 32 = w ∧ t.mask.getLsbD l = true) ∧
    (legal → ¬ known → exec (.svc d a k) s =
      .next (s.raise { c with team := { t with replay := some (lanes, done) } } .svcFault k.toNat 0 done)) ∧
    (legal → known → words = [] → GoesOn (.svc d a k) s c 1 t) ∧
    (legal → known → words ≠ [] → t.late ≠ [] → Waits (.svc d a k) s c .accesses) ∧
    (legal → known → words ≠ [] → t.late = [] → free.length < words.length → Waits (.svc d a k) s c (.svcRoom words.length)) ∧
    (legal → known → words ≠ [] → t.late = [] → words.length ≤ free.length → ∃ s', exec (.svc d a k) s = .next s' ∧
      s'.teamAt c.ref = some { t with svc := some ⟨words.length, lanes, done⟩, wait := some .svc } ∧ s'.crews = s.crews ∧
      (∀ j, j < words.length → Sparse.get none s'.svc (c.ref.die * 256 + free.getD j 0) =
        some ⟨c.ref, c.cid, t.index, wordMask lanes (words.getD j 0), words.getD j 0, false⟩) ∧
      (∀ x, x ∉ (free.take words.length).map (fun y => c.ref.die * 256 + y) → Sparse.get none s'.svc x = Sparse.get none s.svc x) ∧
      (∀ ms : Nat → MemSys, s.agents = [] → ms 0 = s.msys →
        (∀ j, j < words.length → ∃ m ps, (ms j).agentPieces (freeAt s 40000) (agentAccess c.ref.die 0 true false)
          (linePieces 513 (s.svcAddr c.ref.die (free.getD j 0)) 512) = .ok (m, ps) ∧
          ms (j + 1) = m.agentPut true true 0 ps (svcBytes c s.rf k.toNat (words.getD j 0) (wordMask lanes (words.getD j 0)) a)) →
        s'.msys = ms words.length ∧ s'.agents = [])) ∧
    (∀ (w : Nat) (mask : Word), w < 32 → c.crew.world < 256 → c.ref.die < 8 → c.ref.core < 64 → c.ref.slot < 16 →
      let bs := svcBytes c s.rf k.toNat w mask a
      let field := fun (o n : Nat) => leNat ((bs.drop o).take n)
      bs.length = 512 ∧ field 0 4 = mask.toNat ∧ field 4 4 = k.toNat + 256 * w ∧ field 8 4 = c.crew.world ∧
      field 0xC 4 = c.ref.slot + 2 ^ 8 * c.ref.core + 2 ^ 16 * c.ref.die ∧ field 0x10 48 = 0 ∧ field 0x140 192 = 0 ∧
      ∀ l, l < 32 → field (0x44 + 8 * l) 4 = 0 ∧
        field (0x40 + 8 * l) 4 = if mask.getLsbD l = true then (t.v s.rf (32 * w + l) a.toNat).toNat else 0) ∧
    (i = .sysrd d 0x10 ∨ i = .svcnextRead d →
      (t.level = 0 → RaisesIllegal i s c) ∧
      (1 ≤ t.level → s.svcPending c.ref.die = none → Waits i s c .svcnext) ∧
      (∀ slot b, 1 ≤ t.level → t.level ≤ 2 → s.svcPending c.ref.die = some slot → Sparse.get none s.svc (c.ref.die * 256 + slot) = some b →
        ∃ (s' : State) (u : Team), exec i s = .next (s'.setTeam c.ref u) ∧ s' = { s with svc := s'.svc } ∧ t.FrameS u ∧ u.pc = t.nextPc 1 ∧ u.stat = t.stat ∧
          (∀ r, u.sreg r = if r = d.toNat then BitVec.ofNat 32 (512 * slot) else t.sreg r) ∧
          ∀ x, Sparse.get none s'.svc x = if x = c.ref.die * 256 + slot then some { b with taken := true } else Sparse.get none s.svc x))

/-- R265, R294, R240, R139: a write of `c.svcdone` with the offset of a batch taken waits for the team's accesses, frees the batch and delivers the results
of its successful lanes to the caller, which goes on once every batch is back and every lane has succeeded, and raises `SVC_FAULT` for the others
otherwise; a value that names no batch taken returns nothing (log 43, the model's choice). -/
def Obligations.ServiceResults : Prop :=
  (∀ (s : State) (c : Issuer) (d : Reg) (i : Instr), s.issuer = some c → i = .syswr d 0x11 ∨ i = .svcdoneWrite d → 1 ≤ c.team.level →
    let off := (c.team.s s.rf d.toNat).toNat
    let at_ := Sparse.get none s.svc (c.ref.die * 256 + off / 512)
    (off % 512 ≠ 0 ∨ 256 ≤ off / 512 ∨ at_ = none ∨ (∃ b, at_ = some b ∧ b.taken = false) → GoesOn i s c 1 c.team) ∧
    (∀ b, off % 512 = 0 → off / 512 < 256 → at_ = some b → b.taken = true →
      (c.team.late ≠ [] → Waits i s c .accesses) ∧
      (∀ cause va, c.team.late = [] → s.msys.agentRead (freeAt s 42600) c.ref.die 0 (s.svcAddr c.ref.die (off / 512)) 512 = .error (cause, va) →
        (cause = 0 → exec i s = .next ((s.stall c (.ats 0 (va / 4096))).setMsys (s.msys.atsAsk c.ref.die 0 va false))) ∧
        (cause = 7 → Raises i s c .worldViolation va) ∧
        (cause ≠ 0 → cause ≠ 7 → exec i s = .next
          ((if cause = 10 then s.setMsys (s.msys.atsForget c.ref.die 0 va) else s).xlateTrap c 7 cause false false 0 va 0 (0, 0)))))) ∧
  ∀ (s : State) (c : Issuer) (d : Reg) (i : Instr) (slot : Nat) (b : SvcBatch) (bs : List Byte) (m : MemSys) (v a' : Reg) (k : BitVec 8) (t' : Team)
    (call : SvcCall) (cr : Crew),
    s.issuer = some c → i = .syswr d 0x11 ∨ i = .svcdoneWrite d → 1 ≤ c.team.level → slot < 256 → c.team.s s.rf d.toNat = BitVec.ofNat 32 (512 * slot) →
    Sparse.get none s.svc (c.ref.die * 256 + slot) = some b → b.taken = true → c.team.late = [] →
    s.msys.agentRead (freeAt s 42600) c.ref.die 0 (s.svcAddr c.ref.die slot) 512 = .ok (bs, m) →
    slotKey b.caller ≠ slotKey c.ref → s.teamAt b.caller = some t' → t'.crew = b.crew → t'.index = b.team → s.crewAt t'.crew = some cr →
    t'.svc = some call → t'.current = some (.svc v a' k) →
    let success : Word := BitVec.ofNat 32 (leNat ((bs.drop 0x10).take 4))
    let all := call.success ||| wordLanes b.word (b.mask &&& success)
    ∃ s' u u', exec i s = .next s' ∧ Sparse.get none s'.svc (c.ref.die * 256 + slot) = none ∧ s'.teamAt c.ref = some u ∧ c.team.FrameP u ∧
      u.pc = c.team.nextPc 1 ∧ s'.teamAt b.caller = some u' ∧
      (∀ l r, r < 256 → u'.vreg l r = if r = v.toNat ∧ l / 32 = b.word ∧ (b.mask &&& success).getLsbD (l % 32) = true
        then BitVec.ofNat 32 (leNat ((bs.drop (0x44 + 8 * (l % 32))).take 4)) else t'.vreg l r) ∧
      (2 ≤ call.out → u'.svc = some ⟨call.out - 1, call.lanes, all⟩ ∧ u'.pc = t'.pc ∧ u'.wait = t'.wait ∧ s'.msys = m) ∧
      (call.out = 1 → call.lanes &&& ~~~all = 0 → u'.svc = none ∧ u'.wait = none ∧ u'.pc = t'.nextPc 1 ∧
        s'.msys = m.acquire b.caller.die b.caller.core .die) ∧
      (call.out = 1 → call.lanes &&& ~~~all ≠ 0 → t'.drained = false → u'.svc = none ∧ u'.wait = none ∧ u'.pc = t'.pc ∧
        u'.pending = some ⟨.svcFault, k.toNat, 0, all, none, (0, 0)⟩ ∧ u'.replay = some (call.lanes &&& ~~~all, all))

/-- R64 to R68, R84, R120, R255: `await` on a page out of range, retired or abandoned ends at once with its status; one that closes a cycle leads the
crew to its fault entry once its teams have come to rest; any other parks the crew until the page has retired or been abandoned; one that is being evicted then is to be re-landed. Meanwhile no team of the
crew issues, so a later `await` of the crew is not registered before the earlier one has ended. -/
def Obligations.AwaitParksAndWakes : Prop :=
  (∀ (s : State) (c : Issuer) (d a : Reg), s.issuer = some c →
    let t := c.team
    let j := (t.s s.rf a.toNat).toNat
    (s.pageOf c.crew = none → RaisesIllegal (.await d a) s c) ∧
    (∀ g i, s.pageOf c.crew = some (g, i) →
      let cycle := i = j ∨ (awaitStatus (g.pageAt j).state = none ∧ g.closes i j = true)
      (g.record.faultEntry = 0 ∨ g.record.parkBase = 0 → RaisesIllegal (.await d a) s c) ∧
      (g.record.faultEntry ≠ 0 → g.record.parkBase ≠ 0 →
        (∀ st, (g.record.count ≤ j ∧ st = 3) ∨ (j < g.record.count ∧ i ≠ j ∧ awaitStatus (g.pageAt j).state = some st) →
          ∃ m u, exec (.await d a) s = .next ((s.setMsys m).setTeam c.ref u) ∧ t.FrameS u ∧ u.pc = t.after ∧ u.stat = t.stat ∧
            (∀ r, u.sreg r = if r = d.toNat then BitVec.ofNat 32 st else t.sreg r) ∧ m = { s.msys with seq := m.seq, l1 := m.l1 } ∧
            (st < 2 → ∀ l ∈ m.l1, l ∈ (s.msys.acquire c.ref.die c.ref.core .pkg).l1)) ∧
        (j < g.record.count → cycle → ∃ s' g', exec (.await d a) s = .next s' ∧ s'.gridAt g.gid = some g' ∧
          g'.pageAt i = { g.pageAt i with state := 3, fault := true } ∧ s'.teamAt c.ref = some { t with wait := some .await } ∧
          s'.crewAt c.cid = some { c.crew with faulted := true, stop := some .awaitCycle, await := some (j, t.index, d) }) ∧
        (j < g.record.count → ¬ cycle → awaitStatus (g.pageAt j).state = none → ∃ s' g' cr, exec (.await d a) s = .next s' ∧
          s'.gridAt g.gid = some g' ∧ g'.pageAt i = { g.pageAt i with state := 4, awaited := some j } ∧
          s'.crewAt c.cid = some cr ∧ cr.phase = .parked ∧ cr.await = some (j, t.index, d) ∧ cr.parkedAt = s.clock)))) ∧
  (∀ (s : State) (cid : Nat) (c : Crew) (g : Grid) (i j : Nat) (team : Nat) (d : Reg), s.crewAt cid = some c → s.pageOf c = some (g, i) →
    c.await = some (j, team, d) → c.onCore = true → c.slots.Nodup →
    (c.stop = some .awaitCycle → (s.teamsOf c).all Team.atRest = true → ∃ s', exec (.awaitCycle cid) s = .next s' ∧
      s'.crewAt cid = some { c with stop := none, await := none } ∧
      ∀ k t, k < c.slots.length → s.teamAt (c.refAt k) = some t → t.present ≠ 0 → ∃ u, s'.teamAt (c.refAt k) = some u ∧
        u.pc = g.record.faultEntry ∧ u.clause = none ∧ u.mask = t.present ∧ u.div = [] ∧ u.ret = [] ∧ u.part = 5 ∧ u.mode = 0 ∧ u.wait = none ∧
        (∀ r, u.sreg r = if r = 2 then 2 else if r = 3 then BitVec.ofNat 32 j else t.sreg r) ∧ u.port = ⟨0, 0, 0, 0, 0⟩ ∧ u.hold = [] ∧
        u.reuse = [] ∧ u.flags = 0 ∧ u.arrivals = t.arrivals.map (fun a => { a with bar := false }) ∧
        u = { t with pc := u.pc, clause := none, mask := u.mask, div := [], ret := [], part := 5, mode := 0, sregs := u.sregs, port := u.port
                     hold := [], reuse := [], replay := none, wait := none, yielded := false, arrivals := u.arrivals }) ∧
    (∀ st, c.phase = .parked → awaitStatus (g.pageAt j).state = some st → ∃ s' g' cr,
      exec (.crewWake cid) s = .next s' ∧ s'.crewAt cid = some cr ∧ cr.await = none ∧ s'.gridAt g.gid = some g' ∧
      g'.pageAt i = { g.pageAt i with state := if (g.pageAt i).fault = true then 3 else 2, awaited := none } ∧
      let leaves := ∃ x y, c.stop = some (.evict x y)
      (leaves → cr.phase = .parked ∧ cr.woken = some (team, d, st)) ∧
      (¬ leaves → cr.phase = .resident ∧
        ∀ k t, k < c.slots.length → s.teamAt (c.refAt k) = some t → t.index = team → ∃ u, s'.teamAt (c.refAt k) = some u ∧
          u.sreg d.toNat = BitVec.ofNat 32 st ∧ u.pc = t.after ∧ u.wait = none))) ∧
  (∀ (s : State) (r : TeamRef) (t : Team) (c : Crew), c.phase = .parked ∨ c.stop = some .awaitCycle → s.mayIssue r t c = false)

/-! Matrix instructions. -/

/-- R216 to R220, R223 to R225, R227, R150: `mma` and `mmas` read B in units of 8 bytes and run one K-step for each word and octet with an active lane,
in the tiles of the word; the units and the K-steps may be late, each K-step behind its B and the other writes of its unit's tiles (log 4, the
model's choice).  Where nothing is late, each element of an active lane's row becomes that of the K-step on its row of A and its column of B, for
`mmas` at the positions that the metadata names, and no other element changes.  The reuse-A latch of a unit that ran keeps A where the hint says so;
the latches that others lose are those of R224.  R102, R103, R219: the value of a K-step: fused steps in order for `f64` and `f32`, one rounding of the
exact sum for the other formats, with the special values, and the exact sum modulo 2^32 for integers.  A trap of the read of B changes no tile
(R83); that a read of B which meets a range lock reports its base is log 34, the model's choice. -/
def Obligations.MatrixSteps : Prop :=
  (∀ (s : State) (c : Issuer) (n : BitVec 8) (a b : Reg) (fa fb : Fmt) (slot : BitVec 3) (spad : Bool) (us : List Target) (m : MemSys),
    s.issuer = some c → c.crew.alloc.accs ≤ 32 →
    let t := c.team
    let off := (t.s s.rf b.toNat).toNat
    let va := t.s64 s.rf b.toNat % 2 ^ 57
    let got := fun (len : Nat) =>
      (spad = true ∧ off % len = 0 ∧ off + len ≤ c.crew.alloc.scratch ∧ c.scratchConflict s.msys false off len = false ∧
        us = (List.range (len / 8)).map (fun i => ⟨true, false, off + 8 * i, 8⟩) ∧ m = s.msys) ∨
      (spad = false ∧ evenReg b = true ∧ va % len = 0 ∧ s.msys.conflict c.ref.die c.ref.core [] false false va len = false ∧
        ∃ ps, c.pieces s.msys (freeAt s 1) false false (linePieces (len + 1) va len) = .ok (m, ps) ∧ us = m.units ps)
    let stops := fun (i : Instr) (len : Nat) =>
      let free := c.scratchConflict s.msys false off len = false
      let in_ := off + len ≤ c.crew.alloc.scratch
      (spad = true → (off % len ≠ 0 → Raises i s c .misaligned off) ∧ (off % len = 0 → ¬ in_ → Raises i s c .worldViolation off) ∧
        (off % len = 0 → in_ → ¬ free → Raises i s c .rangeConflict off)) ∧
      (spad = false → (va % len ≠ 0 → Raises i s c .misaligned va) ∧ (va % len = 0 → WholeStops i s c 3 false false false va len))
    let steps := fun (i : Instr) (w : Nat) (f g : Fmt) (row : Nat → Nat × Option Nat) (pairs : List Byte → Nat → Nat → List (Nat × Nat)) =>
      let ks := kSteps f g w n.toNat row (t.active s.rf)
      let q := c.matrixSeq s m us ks
      let s1 := s.takeUnits c
      ∃ u : Team, exec i s = .next ((s1.afterLanes c (fun m => m) q).setTeam c.ref u) ∧
      u = { t with inflight := u.inflight, flags := u.flags, reuse := u.reuse, hold := u.hold, pc := u.pc, clause := u.clause, replay := none
                   yielded := u.yielded, late := q.late } ∧
      t.Launched u s.fresh [] [] ∧ u.pc = t.nextPc 2 ∧
      (∃ rest, q.late = t.late ++ rest ∧ ∀ x ∈ rest, x.id = s.fresh ∧ x.rel = false ∧
        ((∃ k p, x.kind = .part 0 (8 * k) ∧ us[k]? = some p ∧ x.places = [p]) ∨ (∃ data, ∃ k ∈ ks, x.kind = .take 0 data (.step k) ∧ x.places = []))) ∧
      s1 = { s with teams := s1.teams } ∧ (∃ k, q.choices = s.late.drop k) ∧
      (∀ r, slotKey r ≠ slotKey c.ref →
        (slotKey r / 16 ≠ slotKey c.ref / 16 → s1.teamAt r = s.teamAt r) ∧ (s.teamAt r = none → s1.teamAt r = none) ∧
        ∀ t', s.teamAt r = some t' → ∃ t1, s1.teamAt r = some t1 ∧ t1 = { t' with reuse := t1.reuse } ∧
          (slotKey r / 16 = slotKey c.ref / 16 → ∀ x, x ∈ t1.reuse ↔ x ∈ t'.reuse ∧ ¬ ((∃ l, t.isActive s.rf l = true ∧ laneUnit l = x.1) ∧
            (t.reuseHint = true ∨ ∃ y, s.crewAt t'.crew = some y ∧ (y.cls < c.crew.cls ∨ y.world ≠ c.crew.world))))) ∧
      (∀ q, q < 4 →
        ((∀ l, t.isActive s.rf l = true → laneUnit l ≠ q) → Sparse.get none u.reuse q = Sparse.get none t.reuse q) ∧
        (∀ l, t.isActive s.rf l = true → laneUnit l = q → (∀ l', t.isActive s.rf l' = true → laneUnit l' = q → laneWord l' ≤ laneWord l) →
          Sparse.get none u.reuse q = if t.reuseHint = true then
            some ⟨a, laneWord l, (List.range 8).map fun i => t.rowA s.rf (32 * laneWord l + 8 * q + i) a⟩ else none)) ∧
      (t.late = [] → (∀ x ∈ s.late, x = false) → (∀ y, y < 4 → s.stepFirst c.ref c.crew.cls s.fresh y = false) →
        let bs := (c.readUnits s 0 us m).1
        q.late = [] ∧ q.m = (c.readUnits s 0 us m).2 ∧ q.crew = { c.crew with tiles := q.crew.tiles } ∧
        (∀ l j, t.isActive s.rf l = true → j < 8 → tileGet q.crew.tiles w (laneUnit l) (n.toNat + w * laneWord l) (laneRow l) j =
          kStep f g (tileGet c.crew.tiles w (laneUnit l) (n.toNat + w * laneWord l) (laneRow l) j) (pairs bs l j) % 2 ^ (32 * w)) ∧
        (∀ x, (∀ l j, t.isActive s.rf l = true → j < 8 → ∀ h, h < w →
            x ≠ tileElem w (laneUnit l) (n.toNat + w * laneWord l) (laneRow l) j + h) → Sparse.get 0 q.crew.tiles x = Sparse.get 0 c.crew.tiles x))
    let w := if fa = .f64 then 2 else 1
    let ok := mmaPair fa fb = true ∧ c.vRun a 8 = true ∧ (fa = .f64 → evenReg a = true) ∧ (spad = true ∨ evenReg b = true) ∧ c.tilesOk n w = true
    let oks := mmasFmt fa = true ∧ c.vRun a 8 = true ∧ (spad = true ∨ evenReg b = true) ∧ c.tilesOk n 1 = true ∧
      slot.toNat + (t.words - 1) / 4 < c.crew.alloc.granules
    let locked := ∃ x ∈ t.late, ∃ l data k, x.kind = .take l data (.granule k)
    (¬ ok → RaisesIllegal (.mma n a b fa fb spad) s c) ∧ (¬ oks → RaisesIllegal (.mmas n a b fa slot spad) s c) ∧
    (oks → locked → Waits (.mmas n a b fa slot spad) s c (.interlock .granules)) ∧
    (∀ f, t.flagSlot = some f → t.flags.getLsbD f = true →
      (ok → Waits (.mma n a b fa fb spad) s c (.flag f)) ∧ (oks → ¬ locked → Waits (.mmas n a b fa slot spad) s c (.flag f))) ∧
    (t.flagFree → (ok → stops (.mma n a b fa fb spad) 256) ∧ (oks → ¬ locked → stops (.mmas n a b fa slot spad) 512)) ∧
    (ok → t.flagFree → got 256 → steps (.mma n a b fa fb spad) w fa fb (fun l => (t.rowA s.rf l a, none)) fun bs l j =>
      (List.range (fmtK fa)).map fun k => (rowElem fa (t.rowA s.rf l a) k, rowElem fb (columnB bs 32 j) k)) ∧
    (oks → ¬ locked → t.flagFree → got 512 →
      let idx := fun l => c.crew.metaRow (laneUnit l) slot.toNat (laneWord l) (laneRow l)
      steps (.mmas n a b fa slot spad) 1 fa fa (fun l => (t.rowA s.rf l a, some (idx l))) fun bs l j =>
        (List.range (fmtK fa)).map fun k => (rowElem fa (t.rowA s.rf l a) k, rowElem fa (columnB bs 64 j) (4 * (k / 2) + bitsOf (idx l) (2 * k) 2)))) ∧
  (∀ (a b : LateAcc) (l off : Nat) (data : List (Nat × Byte)) (x : Taker) (bs : List Byte), a.kind = .part l off → b.kind = .take l data x →
    a.id = b.id → b.behind a = true ∧ a.fed bs b = { b with kind := .take l (Sparse.setRun 0 data off bs) x }) ∧
  (∀ (a b : LateAcc) (l l' : Nat) (data data' : List (Nat × Byte)) (k k' : KStep), a.kind = .take l data (.step k) →
    b.kind = .take l' data' (.step k') → k.unit = k'.unit → a.behind b = true) ∧
  (∀ (l : Nat) (data : List (Nat × Byte)) (k : KStep) (c : Crew), k.width = 1 ∨ k.width = 2 → (k.rows.map KRow.row).Nodup → (∀ x ∈ k.rows, x.row < 8) →
    let b := Sparse.run 0 data 0 (if k.rows.any (fun x => x.idx.isSome) then 512 else 256)
    let c' := (LateKind.take l data (.step k)).taken c
    c' = { c with tiles := c'.tiles } ∧
    (∀ x ∈ k.rows, ∀ j, j < 8 → tileGet c'.tiles k.width k.unit k.tile x.row j =
      kStep k.fa k.fb (tileGet c.tiles k.width k.unit k.tile x.row j) (k.pairs b x j) % 2 ^ (32 * k.width)) ∧
    ∀ y, (∀ x ∈ k.rows, ∀ j h, j < 8 → h < k.width → y ≠ tileElem k.width k.unit k.tile x.row j + h) → Sparse.get 0 c'.tiles y = Sparse.get 0 c.tiles y) ∧
  (∀ (x k : Nat),
    (∀ p ∈ floatPacks, fmtK p.1 = 8 * p.2.2.1 ∧ rowElem p.1 x k = x / 2 ^ (32 / p.2.2.1 * k + p.2.2.2) % 2 ^ p.2.1.width) ∧
    (∀ p ∈ intPacks, fmtK p.1 = 8 * p.2.2.2 ∧ rowElem p.1 x k = x / 2 ^ (p.2.1 * k) % 2 ^ p.2.1) ∧
    fmtK .f64 = 4 ∧ rowElem .f64 x k = x / 2 ^ (64 * k) % 2 ^ 64) ∧
  (∀ (c : Nat) (ps : List (Nat × Nat)),
    (∀ p : Fmt × FloatFmt, p ∈ [(Fmt.f64, ff64), (.f32, ff32)] → kStep p.1 p.1 c [] = c ∧
      ∀ x, kStep p.1 p.1 c (x :: ps) = kStep p.1 p.1 (fmaBits p.2 .rne x.1 x.2 c) ps) ∧
    (∀ p ∈ floatPacks, ∀ p' ∈ floatPacks, p.1 ≠ .f32 →
      let r := kStep p.1 p'.1 c ps
      let a := fun (x : Nat × Nat) => decodeVal p.2.1 x.1
      let b := fun (x : Nat × Nat) => decodeVal p'.2.1 x.2
      let neg := fun (x : Nat × Nat) => p.2.1.negEnc x.1 != p'.2.1.negEnc x.2
      let odd := decodeVal ff32 c = .nan ∨ ∃ x ∈ ps, a x = .nan ∨ b x = .nan ∨ (∃ s, a x = .inf s ∧ (b x).Is 0) ∨ ∃ s, b x = .inf s ∧ (a x).Is 0
      let inf := fun (s : Bool) => decodeVal ff32 c = .inf s ∨ ∃ x ∈ ps, neg x = s ∧ ∃ s', a x = .inf s' ∨ b x = .inf s'
      (odd ∨ (inf false ∧ inf true) → r = ff32.nanBits) ∧ (∀ s, ¬ odd → inf s → ¬ inf (!s) → r = ff32.signBits s + ff32.infBits) ∧
      (∀ (z : ℝ) (x y : Nat × Nat → ℝ), (decodeVal ff32 c).Is z → (∀ e ∈ ps, (a e).Is (x e) ∧ (b e).Is (y e)) →
        let sum := z + (ps.map fun e => x e * y e).sum
        let below := z = 0 ∧ ff32.negEnc c = true ∧ ∀ e ∈ ps, x e * y e = 0 ∧ neg e = true
        (sum ≠ 0 → ff32.Rounds .rne sum r) ∧ (sum = 0 → below → r = 2 ^ 31) ∧ (sum = 0 → ¬ below → r = 0))) ∧
    (∀ p ∈ intPacks, ∀ p' ∈ intPacks, kStep p.1 p'.1 c ps < 2 ^ 32 ∧ (2 ^ 32 : Int) ∣
      c + (ps.map fun x => viewInt p.2.1 p.2.2.1 x.1 * viewInt p'.2.1 p'.2.2.1 x.2).sum - kStep p.1 p'.1 c ps))

/-- R218, R225, R226, R228, R129, R150: the tile moves and the load of metadata; each waits on the interlock of what a late instruction of the team is
still to write.  `acld` reads a row of 32 or 64 bytes in each lane, and `acst` stores one, in units of 8 bytes, of which some may be late (log 4, the
model's choice); `ldmeta` reads its 1024 bytes so too.  A `ldmeta` that meets a range lock reports its base (log 34, the model's choice). -/
def Obligations.TileMoves : Prop :=
  ∀ (s : State) (c : Issuer) (n : BitVec 8) (a d : Reg), s.issuer = some c → c.crew.alloc.accs ≤ 32 →
    let t := c.team
    let w := t.tileWidth
    let base := t.s64 s.rf a.toNat % 2 ^ 57
    let off := (t.s s.rf a.toNat).toNat
    let rows := fun (tiles : List (Nat × Word)) (row : Nat → Nat → Nat) =>
      (∀ l j, t.isActive s.rf l = true → j < 8 →
        tileGet tiles w (laneUnit l) (n.toNat + w * laneWord l) (laneRow l) j = row l j % 2 ^ (32 * w)) ∧
      (∀ x, (∀ l j, t.isActive s.rf l = true → j < 8 → ∀ h, h < w →
          x ≠ tileElem w (laneUnit l) (n.toNat + w * laneWord l) (laneRow l) j + h) → Sparse.get 0 tiles x = Sparse.get 0 c.crew.tiles x)
    (c.tilesOk n w = false → RaisesIllegal (.accz n) s c ∧ RaisesIllegal (.acrd d n) s c ∧ RaisesIllegal (.acwr n a) s c ∧
      RaisesIllegal (.acld n a) s c ∧ RaisesIllegal (.acst n a) s c) ∧
    let locked := ∃ x ∈ t.late, ∃ l data, (∃ k, x.kind = .take l data (.step k)) ∨ ∃ v y z, x.kind = .take l data (.row v y z)
    let waits := fun i => Waits i s c (.interlock .tiles)
    (c.tilesOk n w = true → locked →
      waits (.accz n) ∧ (c.vRun a (8 * w) = true → (w = 1 ∨ evenReg a = true) → waits (.acwr n a)) ∧
      (c.vRun d (8 * w) = true → (w = 1 ∨ evenReg d = true) → waits (.acrd d n)) ∧
      (evenReg a = true → waits (.acld n a) ∧ (c.uncommitted = false → waits (.acst n a)))) ∧
    (c.tilesOk n w = true → ¬ (c.vRun a (8 * w) = true ∧ (w = 1 ∨ evenReg a = true)) → RaisesIllegal (.acwr n a) s c) ∧
    (c.tilesOk n w = true → ¬ (c.vRun d (8 * w) = true ∧ (w = 1 ∨ evenReg d = true)) → RaisesIllegal (.acrd d n) s c) ∧
    (evenReg a = false → RaisesIllegal (.acld n a) s c) ∧ (evenReg a = false ∨ c.uncommitted = true → RaisesIllegal (.acst n a) s c) ∧
    (c.tilesOk n w = true → ¬ locked →
      (∃ tiles, Makes (.accz n) s (s.setCrew c.cid { c.crew with tiles := tiles }) c t ∧ rows tiles fun _ _ => 0) ∧
      (c.vRun a (8 * w) = true → (w = 1 ∨ evenReg a = true) → ∃ tiles, Makes (.acwr n a) s (s.setCrew c.cid { c.crew with tiles := tiles }) c t ∧
        rows tiles fun l j => t.read s.rf l (w == 2) (.v (a + BitVec.ofNat 8 (w * j)))) ∧
      (c.vRun d (8 * w) = true → (w = 1 ∨ evenReg d = true) → VectorRun (.acrd d n) s c 1 d (8 * w) fun l k =>
        BitVec.ofNat 32 (tileGet c.crew.tiles w (laneUnit l) (n.toNat + w * laneWord l) (laneRow l) (k / w) / 2 ^ (32 * (k % w)))) ∧
      (evenReg a = true →
        (base % (256 * w) ≠ 0 → Raises (.acld n a) s c .misaligned base ∧ (c.uncommitted = false → Raises (.acst n a) s c .misaligned base)) ∧
        (base % (256 * w) = 0 → RunsLanes (.acld n a) s c 1 false (fun m => m) (c.acldLane s n.toNat w base) ∧
          (c.uncommitted = false → RunsLanes (.acst n a) s c 1 true (fun m => m) (c.acstLane s n.toNat w base))))) ∧
    (∀ (q : LaneSeq) (l base : Nat),
      let va := (base + 256 * w * (4 * laneWord l + laneUnit l) + 32 * w * laneRow l) % 2 ^ 57
      let tile := n.toNat + w * laneWord l
      let ld := c.acldLane s n.toNat w base q l
      let st := c.acstLane s n.toNat w base q l
      let units := fun (pa : Nat) (leaf : Dword) => (List.range (4 * w)).map fun i => (⟨false, leafMsd leaf, q.m.norm (pa + 8 * i), 8⟩ : Target)
      let isRow := fun (bs : List Byte) (before after : List (Nat × Word)) =>
        (∀ j, j < 8 → tileGet after w (laneUnit l) tile (laneRow l) j = leNat ((bs.drop (4 * w * j)).take (4 * w)) % 2 ^ (32 * w)) ∧
        ∀ x, (∀ j h, j < 8 → h < w → x ≠ tileElem w (laneUnit l) tile (laneRow l) j + h) → Sparse.get 0 after x = Sparse.get 0 before x
      LaneAccess c s q l false va (32 * w) ld (fun m pa leaf =>
        ld = .ok (c.putTaker s l (.row w n.toNat l) (c.putParts s l 0 (units pa leaf) { q with m := m, got := [] })) ∧
        (q.late = [] → (∀ x ∈ q.choices, x = false) →
          let x := c.readUnits s (8 * l) (units pa leaf) m
          ∃ q', ld = .ok q' ∧ q'.late = [] ∧ q'.m = x.2 ∧ q'.crew = { q.crew with tiles := q'.crew.tiles } ∧ isRow x.1 q.crew.tiles q'.crew.tiles)) ∧
      (∀ (data : List (Nat × Byte)) (cr : Crew), let cr' := (LateKind.take l data (.row w n.toNat l)).taken cr
        cr' = { cr with tiles := cr'.tiles } ∧ isRow (Sparse.run 0 data 0 (32 * w)) cr.tiles cr'.tiles) ∧
      LaneAccess c s q l true va (32 * w) st (fun m pa leaf =>
        let row := (List.range 8).flatMap fun j => leBytes (tileGet q.crew.tiles w (laneUnit l) tile (laneRow l) j) (4 * w)
        st = .ok ((List.range (4 * w)).foldl (fun q' i =>
          let p := q.m.norm (pa + 8 * i)
          c.put s l (m.isBell p) [⟨false, leafMsd leaf, p, 8⟩] (m.isReply p) (.store ((row.drop (8 * i)).take 8)) q') { q with m := m }))) ∧
    (c.crew.alloc.granules ≤ n.toNat → RaisesIllegal (.ldmeta n a) s c) ∧
    (n.toNat < c.crew.alloc.granules → c.crew.alloc.granules ≤ 8 →
      let taking := ∃ x ∈ t.late, ∃ l data k, x.kind = .take l data (.granule k)
      let isGranule := fun (byte : Nat → Byte) (before after : List (Nat × Byte)) =>
        (∀ q x, q < 4 → x < 256 → Sparse.get 0 after ((q * 8 + n.toNat) * 256 + x) = byte (256 * q + x)) ∧
        ∀ y, (∀ q x, q < 4 → x < 256 → y ≠ (q * 8 + n.toNat) * 256 + x) → Sparse.get 0 after y = Sparse.get 0 before y
      (taking → Waits (.ldmeta n a) s c (.interlock .granules)) ∧
      (∀ f, ¬ taking → t.flagSlot = some f → t.flags.getLsbD f = true → Waits (.ldmeta n a) s c (.flag f)) ∧
      (∀ (l : Nat) (data : List (Nat × Byte)) (cr : Crew), let cr' := (LateKind.take l data (.granule n.toNat)).taken cr
        cr' = { cr with metadata := cr'.metadata } ∧ isGranule (Sparse.get 0 data) cr.metadata cr'.metadata) ∧
      (¬ taking → t.flagFree →
        (off % 256 ≠ 0 → Raises (.ldmeta n a) s c .misaligned off) ∧
        (off % 256 = 0 → c.crew.alloc.scratch < off + 1024 → Raises (.ldmeta n a) s c .worldViolation off) ∧
        (off % 256 = 0 → off + 1024 ≤ c.crew.alloc.scratch → c.scratchConflict s.msys false off 1024 = true →
          Raises (.ldmeta n a) s c .rangeConflict off) ∧
        (off % 256 = 0 → off + 1024 ≤ c.crew.alloc.scratch → c.scratchConflict s.msys false off 1024 = false →
          let units := (List.range 128).map fun i => (⟨true, false, off + 8 * i, 8⟩ : Target)
          let q := c.putTaker s 0 (.granule n.toNat) (c.putParts s 0 0 units (c.seq s s.msys 0))
          (∃ u, exec (.ldmeta n a) s = .next ((s.afterLanes c (fun m => m) q).setTeam c.ref u) ∧ t.FrameL u ∧ u.late = q.late ∧
            t.Launched u s.fresh [] [] ∧ u.pc = t.nextPc 1) ∧
          (t.late = [] → (∀ x ∈ s.late, x = false) → q.late = [] ∧ q.m = s.msys ∧ q.crew = { c.crew with metadata := q.crew.metadata } ∧
            isGranule (fun x => Sparse.get 0 c.crew.scratch (off + x)) c.crew.metadata q.crew.metadata))))

/-! Polynomial accumulators. -/

/-- R230 to R235, R150: the instructions on polynomial accumulators, which read no memory and wait on the interlock of an accumulator that a late `ppld`
of the team is still to write.  R106 to R110: the coefficients after a factor, a removal and a merge, over the reals: exact sums and products rounded
once, the two recurrences, the rescale, and what poisons; the factor count and trunc.  That an exact sum of zero is +0 is log 18, the model's
choice. -/
def Obligations.PolynomialOperations : Prop :=
  ∀ (s : State) (c : Issuer) (n k : BitVec 8) (a b d : Reg), s.issuer = some c →
    let t := c.team
    let p := c.crew.poly n.toNat
    let fs := t.factors s.rf a b
    let becomes := fun (i : Instr) (q : PolyAcc) => ∃ pps, Makes i s (s.setCrew c.cid { c.crew with pps := pps }) c t ∧
      ∀ x, ({ c.crew with pps := pps } : Crew).poly x = if x = n.toNat then q else c.crew.poly x
    let i32 := toSigned 32 (t.s s.rf a.toNat).toNat
    (c.crew.alloc.pp ≤ n.toNat → RaisesIllegal (.ppdeg n a) s c ∧ RaisesIllegal (.ppclr n) s c ∧ RaisesIllegal (.ppfac n a b) s c ∧
      RaisesIllegal (.ppdiv n a b) s c ∧ RaisesIllegal (.ppmul n k) s c ∧ RaisesIllegal (.ppscl n a) s c ∧ RaisesIllegal (.pprd d n k) s c ∧
      RaisesIllegal (.ppinfo d n) s c) ∧
    let locked := fun (k : Nat) => ∃ x ∈ t.late, ∃ l data, x.kind = .take l data (.poly k)
    let waits := fun i => Waits i s c (.interlock (.poly n.toNat))
    (n.toNat < c.crew.alloc.pp → locked n.toNat → waits (.ppdeg n a) ∧ waits (.ppclr n) ∧ waits (.ppfac n a b) ∧ waits (.ppdiv n a b) ∧
      (k.toNat < c.crew.alloc.pp → waits (.ppmul n k)) ∧ waits (.ppscl n a) ∧ (evenReg d = true → k.toNat ≤ 63 → waits (.pprd d n k)) ∧
      waits (.ppinfo d n)) ∧
    (n.toNat < c.crew.alloc.pp → k.toNat < c.crew.alloc.pp → ¬ locked n.toNat → locked k.toNat →
      Waits (.ppmul n k) s c (.interlock (.poly k.toNat))) ∧
    (evenReg d = false ∨ 63 < k.toNat → RaisesIllegal (.pprd d n k) s c) ∧ (c.crew.alloc.pp ≤ k.toNat → RaisesIllegal (.ppmul n k) s c) ∧
    (n.toNat < c.crew.alloc.pp → ¬ locked n.toNat →
      (63 < (t.s s.rf a.toNat).toNat → RaisesIllegal (.ppdeg n a) s c) ∧
      ((t.s s.rf a.toNat).toNat ≤ 63 → ∃ q, becomes (.ppdeg n a) q ∧ q.deg = (t.s s.rf a.toNat).toNat ∧ q.n = p.n ∧ q.poison = p.poison ∧
        (p.poison = false → q.e = p.e ∧ ∀ x, q.at x = if x ≤ q.deg ∧ x ≤ p.deg then p.at x else 0) ∧
        (p.poison = true → ∀ x, x ≤ q.deg → q.at x = ff64.nanBits) ∧
        (q.trunc = true ↔ p.trunc = true ∨ (p.poison = false ∧ ∃ x, q.deg < x ∧ x ≤ p.deg ∧ p.at x % 2 ^ 63 ≠ 0))) ∧
      becomes (.ppclr n) ⟨[(0, 0x3FF0000000000000#64)], p.deg, 0, 0, false, false⟩ ∧
      (if c.vOk true a && c.vOk true b then becomes (.ppfac n a b) (fs.foldl PolyAcc.mulFactor p) else RaisesIllegal (.ppfac n a b) s c) ∧
      (if c.vOk true a && c.vOk true b && p.removable p.n fs then becomes (.ppdiv n a b) (fs.foldl PolyAcc.remove p)
        else RaisesIllegal (.ppdiv n a b) s c) ∧
      (k.toNat < c.crew.alloc.pp → ¬ locked k.toNat → becomes (.ppmul n k) (p.merge (c.crew.poly k.toNat))) ∧
      (p.poison = true → becomes (.ppscl n a) p) ∧
      (p.poison = false → -(2 ^ 31 : Int) ≤ p.e + i32 → p.e + i32 < (2 ^ 31 : Int) → becomes (.ppscl n a) { p with e := p.e + i32 }) ∧
      (p.poison = false → p.e + i32 < -(2 ^ 31 : Int) ∨ (2 ^ 31 : Int) ≤ p.e + i32 →
        ∃ q, becomes (.ppscl n a) q ∧ q.poison = true ∧ ∀ x, x ≤ p.deg → q.at x = ff64.nanBits) ∧
      (evenReg d = true → k.toNat ≤ 63 → UniformResult (.pprd d n k) s c 1 true d (if k.toNat ≤ p.deg then p.at k.toNat else 0, false)) ∧
      UniformResult (.ppinfo d n) s c 1 false d (p.info, false)) ∧
    (∀ (q : PolyAcc) (f : Nat × Nat), q.n ≤ 2 ^ 32 - 1 → (q.mulFactor f).n = Nat.min (q.n + 1) (2 ^ 32 - 1)) ∧
    (∀ (q : PolyAcc) (f : Nat × Nat), let r := q.mulFactor f
      r.deg = q.deg ∧ r.PoisonOk ∧
      (r.trunc = true ↔ q.trunc = true ∨ q.n = 2 ^ 32 - 1 ∨ (q.poison = false ∧ f.2 % 2 ^ 63 ≠ 0 ∧ q.at q.deg % 2 ^ 63 ≠ 0)) ∧
      (q.poison = true ∨ ¬ CoefFinite f.1 ∨ ¬ CoefFinite f.2 ∨ (∃ i ≤ q.deg, ¬ CoefFinite (q.at i)) → r.poison = true) ∧
      (q.poison = false → CoefFinite f.1 → CoefFinite f.2 → (∀ i ≤ q.deg, CoefFinite (q.at i)) → ∃ cs, r.Takes q.e cs ∧
        CoefProduct f.1 (q.at 0) (cs 0) ∧
        ∀ i x y z w, 1 ≤ i → i ≤ q.deg → (decodeVal ff64 f.1).Is x → (decodeVal ff64 (q.at i)).Is y → (decodeVal ff64 f.2).Is z →
          (decodeVal ff64 (q.at (i - 1))).Is w → CoefSum (x * y + z * w) (cs i))) ∧
    (∀ (q : PolyAcc) (f : Nat × Nat), let r := q.remove f
      let odd := ¬ CoefFinite f.1 ∨ ¬ CoefFinite f.2 ∨ (f.1 % 2 ^ 63 = 0 ∧ f.2 % 2 ^ 63 = 0)
      let forward := ∃ x y, (decodeVal ff64 f.1).Is x ∧ (decodeVal ff64 f.2).Is y ∧ |y| ≤ |x|
      r.deg = q.deg ∧ r.trunc = q.trunc ∧ r.PoisonOk ∧ r.n = (if q.n = 2 ^ 32 - 1 then q.n else q.n - 1) ∧ (q.poison = true ∨ odd → r.poison = true) ∧
      (q.poison = false → ¬ odd → forward → ∃ cs, r.Takes q.e cs ∧
        ∀ i ≤ q.deg, CoefQuotient (q.at i) f.2 (if i = 0 then 0 else cs (i - 1)) f.1 (cs i)) ∧
      (q.poison = false → ¬ odd → ¬ forward → q.n ≤ q.deg → ∃ cs, r.Takes q.e cs ∧ (∀ i, q.n ≤ i → cs i = 0) ∧
        ∀ i, 1 ≤ i → i ≤ q.n → CoefQuotient (q.at i) f.1 (cs i) f.2 (cs (i - 1))) ∧
      ∀ (m : Nat) (fs : List (Nat × Nat)), q.removable m [] = true ∧ (q.removable m (f :: fs) = true ↔
        m ≠ 0 ∧ (odd ∨ forward ∨ (q.trunc = false ∧ m ≤ q.deg)) ∧ q.removable (if m = 2 ^ 32 - 1 then m else m - 1) fs = true)) ∧
    (∀ (q r : PolyAcc), let x := q.merge r
      let d := Nat.min q.deg r.deg
      let inRange := -(2 ^ 31 : Int) ≤ q.e + r.e ∧ q.e + r.e < 2 ^ 31
      x.PoisonOk ∧ (q.poison = true ∨ r.poison = true ∨ ¬ inRange ∨ (∃ i ≤ d, ¬ CoefFinite (q.at i) ∨ ¬ CoefFinite (r.at i)) → x.poison = true) ∧
      (q.poison = false → r.poison = false → inRange → ∀ (a b : Nat → ℝ),
        (∀ i ≤ d, (decodeVal ff64 (q.at i)).Is (a i) ∧ (decodeVal ff64 (r.at i)).Is (b i)) → ∃ cs, x.Takes (q.e + r.e) cs ∧
          CoefProduct (q.at 0) (r.at 0) (cs 0) ∧
          ∀ k, 1 ≤ k → k ≤ d → CoefSum ((List.range (k + 1)).map fun i => a i * b (k - i)).sum (cs k))) ∧
    (∀ (q r : PolyAcc), (q.merge r).n = Nat.min (q.n + r.n) (2 ^ 32 - 1) ∧ (q.merge r).deg = Nat.min q.deg r.deg ∧
      (q.poison = true ∨ r.poison = true → (q.merge r).poison = true) ∧
      let d := Nat.min q.deg r.deg
      let full := 2 ^ 32 - 1 < q.n + r.n
      let nz := fun (x : PolyAcc) (i : Nat) => x.at i % 2 ^ 63 ≠ 0
      (q.poison = true → ((q.merge r).trunc = true ↔ q.trunc = true ∨ full)) ∧
      (q.poison = false → ((q.merge r).trunc = true ↔ q.trunc = true ∨ r.trunc = true ∨ full ∨
        (∃ i j, i ≤ q.deg ∧ j ≤ r.deg ∧ d < i + j ∧ ((nz q i ∧ nz r j) ∨ r.poison = true)) ∨
        (∃ i, d < i ∧ i ≤ q.deg ∧ nz q i) ∨ ∃ i, d < i ∧ i ≤ r.deg ∧ nz r i)))

/-- R234, R248, R105, R128, R129, R150, R329: `ppld` and `ppst` move the image of an accumulator in units of 8 bytes, of which all but the first that `ppld`
reads may be late (log 4, the model's choice); a reserved bit is illegal.  `apmul` merges the accumulator into a memory-side record as one operation.
Each waits on the interlock of its accumulator, and is stopped by a range lock, of which it reports its base (log 34, the model's choice), and by a
translation that fails, before anything is performed. -/
def Obligations.PolynomialMemory : Prop :=
  ∀ (s : State) (c : Issuer) (n : BitVec 8) (a : Reg) (sc : Scope) (o : Order), s.issuer = some c →
    let t := c.team
    let p := c.crew.poly n.toNat
    let va := t.s64 s.rf a.toNat % 2 ^ 57
    let legal := n.toNat < c.crew.alloc.pp ∧ evenReg a = true
    let locked := ∃ x ∈ t.late, ∃ l data, x.kind = .take l data (.poly n.toNat)
    let runs := fun (i : Instr) (words : Nat) (fin : MemSys → MemSys) (q : LaneSeq) =>
      ∃ u, exec i s = .next ((s.afterLanes c fin q).setTeam c.ref u) ∧ t.FrameL u ∧ u.late = q.late ∧ t.Launched u s.fresh [] [] ∧
        u.pc = t.nextPc words
    let polyIs := fun (bs : List Byte) (before after : Crew) =>
      after = { before with pps := after.pps } ∧ ∀ x, after.poly x = if x = n.toNat then (PolyAcc.ofBytes bs).rescale else before.poly x
    (¬ legal → RaisesIllegal (.ppld n a) s c) ∧ (¬ legal ∨ c.uncommitted = true → RaisesIllegal (.ppst n a) s c ∧ RaisesIllegal (.apmul n a sc o) s c) ∧
    (legal → locked → let waits := fun i => Waits i s c (.interlock (.poly n.toNat))
      waits (.ppld n a) ∧ (c.uncommitted = false → waits (.ppst n a) ∧ waits (.apmul n a sc o))) ∧
    (∀ f, legal → ¬ locked → t.flagSlot = some f → t.flags.getLsbD f = true → let waits := fun i => Waits i s c (.flag f)
      waits (.ppld n a) ∧ (c.uncommitted = false → waits (.ppst n a) ∧ waits (.apmul n a sc o))) ∧
    (legal → ¬ locked → t.flagFree →
      (va % 16 ≠ 0 → Raises (.ppld n a) s c .misaligned va ∧ (c.uncommitted = false → Raises (.ppst n a) s c .misaligned va)) ∧
      (va % 1024 ≠ 0 → c.uncommitted = false → Raises (.apmul n a sc o) s c .misaligned va) ∧
      (va % 16 = 0 → WholeStops (.ppld n a) s c 1 false false false va 528 ∧
        (c.uncommitted = false → WholeStops (.ppst n a) s c 1 true false false va 528)) ∧
      (va % 1024 = 0 → c.uncommitted = false → WholeStops (.apmul n a sc o) s c 1 true true false va 528) ∧
      (∀ m ps u0 us, va % 16 = 0 → s.msys.conflict c.ref.die c.ref.core [] false false va 528 = false →
        c.pieces s.msys (freeAt s 1) false false (linePieces 529 va 528) = .ok (m, ps) → m.units ps = u0 :: us →
        let x := u0.read (freeAt s 10000) c.ref c.crew.world false m c.crew
        let q0 : LaneSeq := { c.seq s m 0 with m := x.2, got := Sparse.setRun 0 [] 0 x.1 }
        let head := Sparse.run 0 q0.got 0 8
        let waits := ∃ y ∈ t.late, ∃ z ∈ y.places, u0.overlaps z = true
        let q := c.putTaker s 0 (.poly n.toNat) (c.putParts s 0 1 us q0)
        (waits → Waits (.ppld n a) s c (.bytes [u0])) ∧
        (¬ waits → imageReserved head = true → exec (.ppld n a) s = .next ((s.afterLanes c (fun m => m) q0).illegal c)) ∧
        (¬ waits → imageReserved head = false → runs (.ppld n a) 1 (fun m => m) q) ∧
        (t.late = [] → (∀ x ∈ s.late, x = false) → let all := c.readUnits s 0 (u0 :: us) m
          head = all.1.take 8 ∧ q.late = [] ∧ q.m = all.2 ∧ polyIs (all.1.take 528) c.crew q.crew)) ∧
      (∀ m ps, va % 16 = 0 → c.uncommitted = false → s.msys.conflict c.ref.die c.ref.core [] false true va 528 = false →
        c.pieces s.msys (freeAt s 1) true false (linePieces 529 va 528) = .ok (m, ps) →
        runs (.ppst n a) 1 (fun m => m) (c.putUnits s 0 (m.units ps) p.bytes (c.seq s m 0))) ∧
      (∀ m pa len leaf ps, va % 1024 = 0 → c.uncommitted = false → s.msys.conflict c.ref.die c.ref.core [] false true va 528 = false →
        c.pieces s.msys (freeAt s 1) true true (linePieces 529 va 528) = .ok (m, (pa, len, leaf) :: ps) →
        let acquires := decide (o = .acq ∨ o = .ar)
        let q := c.put s 0 acquires [⟨false, leafMsd leaf, m.norm pa, 528⟩] (decide (o = .rel ∨ o = .ar)) (.merge p) (c.seq s m 0)
        (∀ w, q.blocked = some w → Waits (.apmul n a sc o) s c w) ∧
        (q.blocked = none → runs (.apmul n a sc o) 2 (fun m => if acquires then m.acquire c.ref.die c.ref.core sc else m) q))) ∧
    p.bytes.length = 528 ∧
    (∀ (l : Nat) (data : List (Nat × Byte)) (cr : Crew),
      polyIs (Sparse.run 0 data 0 528) cr ((LateKind.take l data (.poly n.toNat)).taken cr)) ∧
    (∀ (q : LaneSeq) (ps : List Target) (y : Target) (bs : List Byte), c.putUnits s 0 [] bs q = q ∧ c.putUnits s 0 (y :: ps) bs q =
      let bell := fun (f : Nat → Bool) => !y.scratch && f y.addr
      c.putUnits s 0 ps (bs.drop y.len) (c.put s 0 (bell q.m.isBell) [y] (bell q.m.isReply) (.store (bs.take y.len)) q)) ∧
    (∀ (x : PolyAcc) (free world : Nat) (r : TeamRef) (y : Target) (m : MemSys) (cr : Crew), (LateKind.merge x).act free r world y [] m cr =
      ([], (m.number true y.addr).softWrite world y.addr ((PolyAcc.ofRecord (m.readN y.addr 528)).merge x).bytes, cr))

/-! The engine port and batches. -/

/-- R120 to R122, R126, R127, R256, R264, R139: words of the command port; a go word checks the staged command in the order of the rules, waits for room
in the range-lock table and for the team's accesses, and enters the operation in the team's open batch, whose scope it widens; a trap at a word up to the
go empties the staged command; ENGINE_OPERATION_START carries out a go that waited (one that can no
longer be met waits on: log 78, the model's choice; of several cases the first in the order stated is raised, and `c.tva` of `MISALIGNED` is w2: log 90,
the model's choices); the operation keeps the level and the world that its team has at the go (log 23, the model's choice). -/
def Obligations.EnginePort : Prop :=
  ∀ (s : State) (c : Issuer) (k : BitVec 8) (a : Reg), s.issuerAt c.ref = some c →
    let t := c.team
    let v := t.s64 s.rf a.toNat
    let i := Instr.stp k a
    let empty := { c with team := t.dropPort }
    let cmd := t.port.cmd
    let need := cmd.locks.length
    let runs := fun (s' : State) => (s.issuer = some c → exec (.stp 4 a) s = .next s') ∧
      (∀ t0 k0 n, s.teamAt c.ref = some t0 → t0.wait = some (.rangeLock n) → t0.current = some (.stp k0 a) → c.crew.phase = .resident →
        c.crew.stop = none → (s.locksOn c.ref.die c.ref.core).length + n ≤ 32 → exec (.engineOperationStart c.ref) s = .next s')
    (s.issuer = some c →
      (4 < k.toNat → RaisesIllegal i s c) ∧ (evenReg a = false → k.toNat ≤ 4 → exec i s = .next (s.illegal empty)) ∧
      (evenReg a = true → k.toNat < 4 → t.port.written.getLsbD k.toNat = true → exec i s = .next (s.raise empty .portSequence k.toNat 0 0)) ∧
      (evenReg a = true → k.toNat < 4 → t.port.written.getLsbD k.toNat = false →
        GoesOn i s c 1 { t with port := t.port.word k.toNat (BitVec.ofNat 64 v) })) ∧
    (evenReg a = true →
      (t.port.written ≠ 15 ∨ 2 ≤ v → runs (s.raise empty .portSequence 4 0 0)) ∧
      (t.port.written = 15 → v < 2 →
        (cmd.legal false = false ∨ c.goForbidden cmd = true → runs (s.illegal empty)) ∧
        (cmd.legal false = true → c.goForbidden cmd = false →
          (cmd.misaligned = true → runs (s.raise empty .misaligned 0 cmd.w2 0)) ∧
          (cmd.misaligned = false →
            (∀ off, cmd.outside c.crew.alloc.scratch = some off → runs (s.raise empty .worldViolation 0 off 0)) ∧
            (cmd.outside c.crew.alloc.scratch = none →
              (32 < (s.openLocks c.ref.die c.ref.core).length + need → runs (s.raise empty .portSequence 4 0 0)) ∧
              ((s.openLocks c.ref.die c.ref.core).length + need ≤ 32 → 32 < (s.locksOn c.ref.die c.ref.core).length + need →
                runs (s.setTeam c.ref { t with wait := some (.rangeLock need) })) ∧
              ((s.locksOn c.ref.die c.ref.core).length + need ≤ 32 → t.late ≠ [] → runs (s.setTeam c.ref { t with wait := some .accesses })) ∧
              ((s.locksOn c.ref.die c.ref.core).length + need ≤ 32 → t.late = [] → ∃ (s' : State) (u : Team) (o : EngineOp),
                runs (s'.setTeam c.ref u) ∧
                ({ t.dropPort with batches := t.batches.widen (t.batches.last + 1) (bitsOf t.port.w0.toNat 53 3) } : Team).FrameP u ∧ u.pc = t.nextPc 1 ∧
                s' = { s with ops := s.ops ++ [o], ids := s.ids + 1, msys := { s.msys with locks := s'.msys.locks } } ∧
                s'.msys.locks = s.msys.locks ++ cmd.locks.map (fun r => ⟨c.ref.die, c.ref.core, c.ref.slot, s.ids, r.1 == 1, r.2.1,
                  if r.1 = 1 then r.2.2.1.toNat else truncBits r.2.2.1 57, r.2.2.2⟩) ∧
                o.id = s.ids ∧ o.crew = c.cid ∧ o.team = t.index ∧ o.world = c.crew.world ∧ o.level = t.level ∧ o.batch = none ∧
                o.number = t.batches.last + 1 ∧ o.w0 = t.port.w0 ∧ o.w1 = t.port.w1 ∧ o.w2 = t.port.w2 ∧ o.w3 = t.port.w3 ∧
                o.phase = (if cmd.count = 0 then .ended else .running) ∧ o.next = 0 ∧ o.missing = [] ∧ o.done = 0 ∧
                o.redo = [] ∧ o.fails = [] ∧ o.walked = [] ∧ o.xfer = none ∧ o.failing = none ∧ o.failed = false ∧
                o.prev = if v = 1 then ((s.ops.filter (fun x => x.crew == c.cid && x.team == t.index && x.batch == none)).getLast?).map EngineOp.id
                  else none))))))

/-- R124, R139, R257 to R259: a batch is closed and takes the next number; `bwait` waits for the batches up to a number and acquires at the widest scope
that their operations have had, however old they are; `bcnt` reads the bytes done of a closed batch. -/
def Obligations.Batches : Prop :=
  ∀ (s : State) (c : Issuer) (d a : Reg), s.issuer = some c →
    let t := c.team
    let n := (t.s s.rf a.toNat).toNat
    let next := t.batches.last + 1
    let mine := fun (o : EngineOp) => o.crew == c.cid && o.team == t.index && o.batch == none
    let open_ := s.openBatches c.cid t.index
    (next = 2 ^ 32 → RaisesIllegal (.bclose d) s c) ∧
    (next ≠ 2 ^ 32 → 64 ≤ open_.length → Waits (.bclose d) s c .bclose) ∧
    (next ≠ 2 ^ 32 → open_.length < 64 → c.crew.onCore = true → c.crew.slots.Nodup → (∃ k, k < c.crew.slots.length ∧ c.crew.refAt k = c.ref) →
      ∃ s' u, exec (.bclose d) s = .next s' ∧ s'.teamAt c.ref = some u ∧ u.pc = t.nextPc 1 ∧ u.batches.last = next ∧
        (∀ r, u.sreg r = if r = d.toNat then BitVec.ofNat 32 next else t.sreg r) ∧
        (∀ o ∈ s'.ops, mine o = false) ∧
        (∀ o ∈ s.ops, mine o = true → o.phase ≠ .ended → s'.ops = s.ops.map (fun x => if mine x then { x with batch := some next } else x) ∧
          s'.msys = s.msys ∧ u.batches.counts = (⟨next, t.batches.openDone, (s.ops.filter mine).foldl (fun x o => Nat.max x (ctlScope o.w0))
            t.batches.openScope⟩ :: t.batches.counts).take 64 ∧ u.batches.widest = t.batches.widest) ∧
        ((∀ o ∈ s.ops, o.crew = c.cid → o.team = t.index → o.phase = .ended) → ∀ o ∈ s.ops, mine o = true → ∀ l ∈ s'.msys.locks, l.op ≠ o.id)) ∧
    (t.batches.last < n → RaisesIllegal (.bwait a) s c) ∧
    (n ≤ t.batches.last → (∃ b ∈ open_, b ≤ n) → Waits (.bwait a) s c (.batch n)) ∧
    (n ≤ t.batches.last → (∀ b ∈ open_, n < b) →
      Makes (.bwait a) s (s.setMsys (s.msys.acquire c.ref.die c.ref.core (t.batches.scopeTo n))) c t) ∧
    (evenReg d = false ∨ n = 0 ∨ t.batches.last < n → RaisesIllegal (.bcnt d a) s c) ∧
    (evenReg d = true → n ≠ 0 → n ≤ t.batches.last →
      (∀ p, t.batches.counts.find? (fun x => x.number == n) = some p → UniformResult (.bcnt d a) s c 1 true d
        (p.bytes + ((s.ops.filter (fun o => o.crew == c.cid && o.team == t.index && o.batch == some n)).map EngineOp.done).foldl (· + ·) 0, false)) ∧
      (t.batches.counts.find? (fun x => x.number == n) = none → UniformResult (.bcnt d a) s c 1 true d (2 ^ 64 - 1, false))) ∧
    (∀ (b : BatchLog) (m scope k : Nat), b.scopeCode k ≤ (b.widen m scope).scopeCode k ∧ (m ≤ k → scope ≤ (b.widen m scope).scopeCode k) ∧
      (b.widen m scope).scopeCode k ≤ Nat.max (b.scopeCode k) (if m ≤ k then scope else 0)) ∧
    (∀ (b : BatchLog) (k : Nat), b.scopeCode k < 6 → (b.scopeTo k).code.toNat = b.scopeCode k)

/-! Device-side launch. -/

/-- R260, R261, R263, R264, R301: `tsub` and `glaunch` read their records whole, answer the status of the first check that fails, and enter the task or
the grid where none does; the order of the checks of `tsub` is log 22, that a grid_addr is read where it stands is log 90, and that the room in the launch queue is a free value is
log 84, each the model's choice;
`tcommit` commits the task crew. -/
def Obligations.DeviceLaunch : Prop :=
  ∀ (s : State) (c : Issuer) (d a : Reg), s.issuer = some c →
    let t := c.team
    let va := t.s64 s.rf a.toNat % 2 ^ 57
    let full := Config.launchFull (freeAt s 45900)
    (evenReg a = false ∨ c.uncommitted = true → RaisesIllegal (.tsub d a) s c ∧ RaisesIllegal (.glaunch d a) s c) ∧
    (evenReg a = true → c.uncommitted = false → va % 64 ≠ 0 → Raises (.tsub d a) s c .misaligned va ∧ Raises (.glaunch d a) s c .misaligned va) ∧
    (∀ bs m, evenReg a = true → c.uncommitted = false → va % 64 = 0 → c.Reads s va 64 bs m →
      let s1 := s.setMsys m
      let count := bitsOf (fieldAt bs 16 1) 0 3
      let keys := recordKeys bs 24
      let st := if taskReservedOk bs = true then keyStatus count keys else 4
      (st ≠ 0 → Answers (.tsub d a) s s1 c d (BitVec.ofNat 32 st)) ∧
      (∀ grid m2, st = 0 → c.Reads s1 (fieldAt bs 0 8) 128 grid m2 →
        let s2 := s.setMsys m2
        let st2 := if taskKindOk grid = true then s2.gridStatusOf grid c.crew.world else 4
        (st2 ≠ 0 → Answers (.tsub d a) s s2 c d (BitVec.ofNat 32 st2)) ∧
        (st2 = 0 → full = true → Answers (.tsub d a) s s2 c d 3) ∧
        (st2 = 0 → full = false → s2.freeGid = none → exec (.tsub d a) s = .next (s2.setTeam c.ref { t with wait := some .gridId })) ∧
        (∀ gid, st2 = 0 → full = false → s2.freeGid = some gid → ∃ (s3 : State) (g : Grid), Answers (.tsub d a) s s3 c d 0 ∧
          s3.grids = s.grids ++ [g] ∧ g.gid = gid ∧ g.record = parseGrid grid ∧ g.world = c.crew.world ∧ g.level = 0 ∧ g.task = some s.ids ∧
          s3.taskAt s.ids = some ⟨parseGrid grid, some gid, c.crew.world, c.ref.die, fieldAt bs 8 8, keyOrder (keys.take count),
            Sparse.get 0 s.taskSeq c.ref.die, s.orders, [], firstPhase (keyOrder (keys.take count)), grid⟩ ∧
          Sparse.get 0 s3.taskSeq c.ref.die = Sparse.get 0 s.taskSeq c.ref.die + 1 ∧ s3.crews = s.crews ∧ s3.teams = s.teams))) ∧
    (∀ grid m, evenReg a = true → c.uncommitted = false → va % 64 = 0 → c.Reads s va 128 grid m →
      let s1 := s.setMsys m
      let st := s1.gridStatusOf grid c.crew.world
      (st ≠ 0 → Answers (.glaunch d a) s s1 c d (BitVec.ofNat 32 st)) ∧
      (st = 0 → full = true → Answers (.glaunch d a) s s1 c d 3) ∧
      (st = 0 → full = false → s1.freeGid = none → exec (.glaunch d a) s = .next (s1.setTeam c.ref { t with wait := some .gridId })) ∧
      (∀ gid, st = 0 → full = false → s1.freeGid = some gid → ∃ (s2 : State) (g : Grid), Answers (.glaunch d a) s s2 c d 0 ∧ s2.grids = s.grids ++ [g] ∧
        g.gid = gid ∧ g.record = parseGrid grid ∧ g.world = c.crew.world ∧ g.level = 0 ∧ g.task = none ∧ g.origin = .device ∧ g.launched = 0 ∧
        s2.crews = s.crews ∧ s2.teams = s.teams)) ∧
    (c.crew.task = none → RaisesIllegal .tcommit s c) ∧
    (c.crew.task ≠ none → Makes .tcommit s (s.setCrew c.cid { c.crew with committed := true }) c t)

/-- R262, R277, R302, R303, R305: `nrec` reads its record whole and answers the status of the first check that fails, or appends the record to the
node's bin; a bin that holds its count, or whose timer expires, gives the first records that may stand together to a task, once the launch queue has room
for it, which is a free value (log 84, the model's choice); a bin of 256 records takes no more. -/
def Obligations.NodeRecords : Prop :=
  (∀ (s : State) (c : Issuer) (d a b : Reg), s.issuer = some c →
    let t := c.team
    let va := t.s64 s.rf a.toNat % 2 ^ 57
    let n := (t.s s.rf b.toNat).toNat
    let i := Instr.nrec d a b
    let full := Config.launchFull (freeAt s 45900)
    (evenReg a = false ∨ c.uncommitted = true → RaisesIllegal i s c) ∧
    (evenReg a = true → c.uncommitted = false → va % 64 ≠ 0 → Raises i s c .misaligned va) ∧
    (∀ bs m, evenReg a = true → c.uncommitted = false → va % 64 = 0 → c.Reads s va 64 bs m →
      let s1 := s.setMsys m
      let st := if fieldAt bs 1 7 = 0 ∧ bitsOf (fieldAt bs 0 1) 3 5 = 0 then keyStatus (bitsOf (fieldAt bs 0 1) 0 3) (recordKeys bs 8) else 4
      (st ≠ 0 → Answers i s s1 c d (BitVec.ofNat 32 st)) ∧
      (st = 0 → s.nodeAt n = none → Answers i s s1 c d 5) ∧
      (∀ x, st = 0 → s.nodeAt n = some x → x.world ≠ c.crew.world → Answers i s s1 c d 10) ∧
      (∀ x, st = 0 → s.nodeAt n = some x → x.world = c.crew.world → 256 ≤ x.bin.length → Answers i s s1 c d 3) ∧
      (∀ x, st = 0 → s.nodeAt n = some x → x.world = c.crew.world → x.bin.length < 256 → x.bin.length + 1 < x.count ∨ full = true →
        Answers i s (s1.setNode n { x with bin := x.bin ++ [bs] }) c d 0) ∧
      (∀ x, st = 0 → s.nodeAt n = some x → x.world = c.crew.world → x.bin.length < 256 → x.count ≤ x.bin.length + 1 → full = false →
        Answers i s (s1.formGroup n { x with bin := x.bin ++ [bs] }) c d 0))) ∧
  (∀ (s : State) (n : Nat) (x : Node), s.nodeAt n = some x → x.timer ≠ 0 → x.bin ≠ [] →
    exec (.binTimerExpiry n) s = .next (if Config.launchFull (freeAt s 45900) = true then s else s.formGroup n x)) ∧
  (∀ (s : State) (n : Nat) (x : Node),
    let s' := s.formGroup n x
    let group := (takeGroup x.count [] x.bin).1
    ∃ k, s'.taskAt s.ids = some k ∧ s'.nodeAt n = some { x with bin := (takeGroup x.count [] x.bin).2 } ∧ k.records = group ∧
      group ++ (takeGroup x.count [] x.bin).2 = x.bin ∧ group.length ≤ x.count ∧ (uniq (group.flatMap nodeKeys)).length ≤ 4 ∧
      k.world = x.world ∧ k.die = n % 8 ∧ k.arg = x.record.arg ∧ k.keys = keyOrder (group.flatMap nodeKeys) ∧ k.gid = s.freeGid ∧ k.raw = x.raw)

/-! Context save and load; the fetch of a clause. -/

/-- R290 to R293, R51, R118, R330: what a save and a load answer, and what each does; a save stops the crew, and CREW_SAVE writes its image once it is drained,
and seals it; an image with a reserved bit set, in its header, a team block, a copy of a trap frame or an accumulator, is status 6.  The record of a
failure waits for the team's accesses, and a load does.  The places that the image gives its fields, and what the device keeps beside the seal, are log 12, the model's choice; which status comes
first, whose die gives the seal, and what becomes of a crew that is stopped already are log 42, the model's choice. -/
def Obligations.ContextSaveAndLoad : Prop :=
  (∀ (s : State) (c : Issuer) (a : Reg), s.issuer = some c →
    let t := c.team
    let va := t.s64 s.rf a.toNat % 2 ^ 57
    let h := handleOf t.ctxcrew
    let ends := fun (i : Instr) (st : Nat) => GoesOn i s c 1 { t with ctxstat := BitVec.ofNat 32 st }
    let stops := fun (cid : Nat) (x : Crew) (y : Stop) =>
      exec (.ctxsv a) s = .next ((s.setTeam c.ref { t with wait := some .ctxsv }).setCrew cid { x with stop := some y })
    let fails := fun (i : Instr) (s1 : State) (write : Bool) (r : ImageRes) =>
      (∀ v, r = .ats v → exec i s = .next ((s1.stall c (.ats c.crew.world (v / 4096))).setMsys (s1.msys.atsAsk c.ref.die c.crew.world v write))) ∧
      ∀ cause v, r = .fail cause v →
        let k := Sparse.get 0 s1.msys.faultNext c.ref.die
        (t.late ≠ [] → exec i s = .next (s1.stall c .accesses)) ∧
        (t.late = [] → s1.msys.canPost c.ref.die = false → exec i s = .next (s1.stall c .faultSlot)) ∧
        (t.late = [] → s1.msys.canPost c.ref.die = true → ∃ u, exec i s = .next ((s1.setMsys
            ((if cause = 10 then s1.msys.atsForget c.ref.die c.crew.world v else s1.msys).faultWrite
              ⟨1, cause, write, false, c.crew.world, c.crew.world, c.ref.die, c.ref.core, c.ref.slot, 0, v, 0,
                s1.msys.assistFaults⟩ .none)).setTeam c.ref u) ∧
          ({ t with ctxstat := BitVec.ofNat 32 (8 + 256 * (k.toNat % 2 ^ 24)) } : Team).FrameP u ∧ u.pc = t.nextPc 1)
    (t.level < 2 ∨ evenReg a = false → RaisesIllegal (.ctxsv a) s c ∧ RaisesIllegal (.ctxld a) s c) ∧
    (2 ≤ t.level → evenReg a = true → va % 64 ≠ 0 → Raises (.ctxsv a) s c .misaligned va ∧ Raises (.ctxld a) s c .misaligned va) ∧
    (2 ≤ t.level → evenReg a = true → va % 64 = 0 →
      (s.crewAtHandle h = none → ends (.ctxsv a) 3) ∧
      (∀ cid x, s.crewAtHandle h = some (cid, x) →
        (x.stop ≠ none → Waits (.ctxsv a) s c .ctxsv) ∧
        (x.stop = none → s.batchStopped cid = true → ends (.ctxsv a) 4) ∧
        (x.stop = none → s.batchStopped cid = false →
          (x.phase = .parked → stops cid x (.evict false (some c.ref))) ∧
          (x.phase ≠ .parked → x.discardable = true → stops cid x (.discard (some c.ref))) ∧
          (x.phase ≠ .parked → x.discardable = false →
            let r := s.imageAt c x.world true va (x.imageSize (s.teamsOf x))
            (∀ m ps, r = .ok m ps → stops cid x (.save c.ref va)) ∧ (r = .world → ends (.ctxsv a) 7) ∧ fails (.ctxsv a) s true r))) ∧
      (t.late ≠ [] → Waits (.ctxld a) s c .accesses) ∧
      (∀ cause v, t.late = [] → s.imageWorld c va = .error (cause, v) → fails (.ctxld a) s false (.fail cause v)) ∧
      (∀ world, t.late = [] → s.imageWorld c va = .ok world →
        let r := s.imageAt c world false va 256
        (r = .world → ends (.ctxld a) 7) ∧ fails (.ctxld a) s false r ∧
        ∀ m ps, r = .ok m ps →
          let hs := m.pieceBytes ps
          let s1 := s.setMsys (m.numberAll ps)
          let ends1 := fun (s2 : State) (st : Nat) => ∃ u, exec (.ctxld a) s = .next (s2.setTeam c.ref u) ∧
            ({ t with ctxstat := BitVec.ofNat 32 st } : Team).FrameP u ∧ u.pc = t.nextPc 1
          (imageHeaderOk hs = false ∨ s.sealed hs = none → ends1 s1 6) ∧
          (∀ cid x, imageHeaderOk hs = true → s.sealed hs = some (cid, x) →
            let r1 := s1.imageAt c world false va (headerSize hs)
            (r1 = .world → ends1 s1 7) ∧ fails (.ctxld a) s1 false r1 ∧
            ∀ m1 qs, r1 = .ok m1 qs →
              let bs := m1.pieceBytes qs
              let s2 := s1.setMsys (m1.numberAll qs)
              let y := x.ofImage cid bs
              let slots := s2.freeSlots h.die h.core
              let room := s2.hasRoom h.die h.core y.fuse y.use = true ∧ y.teams.length ≤ slots.length
              let h0 := leNat (bs.take 256)
              let sect := fun (xs : List Byte) (lo n : Nat) => (xs.drop lo).take n
              let num := fun (xs : List Byte) (lo n : Nat) => leNat (sect xs lo n)
              let zero := fun (xs : List Byte) (lo hi : Nat) => ∀ b ∈ sect xs lo (hi - lo), b = 0
              let modeOk := fun (x : Nat) => BitVec.ofNat 32 x &&& 0xFFF01C00#32 = 0
              let frameOk := fun (f : List Byte) => zero f 0x2C 0x40 ∧ zero f 0x50 0x80 ∧ zero f 0x1A0 0x200 ∧ num f 0 8 < 2 ^ 57 ∧
                num f 8 4 < 2 ^ 16 ∧ num f 0x10 8 < 2 ^ 57 ∧ num f 0x1C 4 < 4 ∧ num f 0x28 4 < 8 ∧ num f 0x40 4 / 2 ^ 13 = 0 ∧
                num f 0x40 4 / 2 ^ 6 % 4 = 0 ∧ modeOk (num f 0x44 4) ∧ num f 0x48 4 < 8
              let clean := (∀ i, i < (headerWords h0).length → let block := sect bs (256 + 12288 * i) 12288
                  zero block 0x2D40 0x3000 ∧ modeOk (num block 0x60C 4) ∧ frameOk (sect block 0x400 512)) ∧
                ∀ k, k < (headerAlloc h0).pp → let x := num bs ((headerAlloc h0).polyOff (headerWords h0) k) 8
                  x / 2 ^ 10 = 0 ∧ x / 2 ^ 6 % 4 = 0
              (¬ clean → ends1 s2 6) ∧ (clean → y.world ≠ world → ends1 s2 7) ∧ (clean → y.world = world → ¬ room → ends1 s2 5) ∧
              (clean → y.world = world → room → ∃ s' u,
                exec (.ctxld a) s = .next s' ∧ s'.teamAt c.ref = some u ∧ ({ t with ctxstat := 0 } : Team).FrameP u ∧ u.pc = t.nextPc 1 ∧
                s'.crewAt cid = some { y with phase := .resident, die := h.die, core := h.core, slots := slots.take y.teams.length
                                              teams := [], stop := none, placedAt := s.clock } ∧
                (∀ k, k < y.teams.length → s'.teamAt ⟨h.die, h.core, slots.getD k 0⟩ = y.teams[k]?) ∧
                (∀ e ∈ s'.seals, e.2.2 ≠ cid)))))) ∧
  (∀ (s : State) (i : Issuer) (cid : Nat) (c : Crew) (va : Nat) (m : MemSys) (ps : List Piece), s.issuerAt i.ref = some i →
    s.savedBy i.ref = some (cid, c, va) → c.phase ≠ .leaving → s.drained cid c = true → (s.teamsOf c).all Team.atRest = true → s.sealCount i.ref.die < 4096 → i.cid ≠ cid →
    s.crewAt cid = some c → (∀ k ∈ c.slots, slotKey ⟨c.die, c.core, k⟩ ≠ slotKey i.ref) →
    s.imageAt i c.world true va (c.imageSize (s.teamsOf c)) = .ok m ps →
    let s1 := (s.setMsys m).foldOps cid
    ∃ s' cr u n, exec (.crewSave i.ref) s = .next s' ∧
      n = Sparse.get 0 s.sealNext i.ref.die ∧
      s'.msys = s1.msys.agentPut true true c.world ps (c.image (s1.teamsOf c) s1.msys (s1.imageKeys c) i.ref.die n) ∧ s'.seals = s.seals ++ [(i.ref.die, n, cid)] ∧ Sparse.get 0 s'.sealNext i.ref.die = n + 1 ∧
      s'.crewAt cid = some cr ∧ cr = { c with phase := .saved, slots := [], teams := cr.teams, stop := none } ∧
      (∀ k ∈ c.slots, s'.teamAt ⟨c.die, c.core, k⟩ = none) ∧ s'.teamAt i.ref = some u ∧
      (∀ t, s.teamAt i.ref = some t → t.wait = some .ctxsv → u.ctxstat = 0 ∧ u.wait = none ∧ u.pc = t.nextPc 1))

/-- R143, R148, R281, R284, R287, R329: CLAUSE_FETCH reads the header and the words of the clause at the pc; a clause that fails a check is illegal at its
header, which its trap keeps, as one does whose words cannot be read, and one that passes is issued from its first word.  A fetch that is not translated traps, with the lanes that an instruction
to be resumed has done.  That the reads are made at the home slices, and the header is checked before the words are read, is log 37, the model's choice. -/
def Obligations.ClauseFetching : Prop :=
  ∀ (s : State) (c : Issuer) (m1 m2 : MemSys) (ps1 ps2 : List (Nat × Nat)), s.issuerAt c.ref = some c → c.crew.runs c.team = true → c.team.present ≠ 0 →
    c.team.pending = none →
    let t := c.team
    let va := t.pc.toNat
    let hs := wordsOfBytes (ps1.flatMap (fun p => m1.readN p.1 p.2))
    let h0 := hs.getD 0 0
    let h1 := hs.getD 1 0
    let n := headerCount h0
    let ws := wordsOfBytes (ps2.flatMap (fun p => m2.readN p.1 p.2))
    let done := (t.replay.map Prod.snd).getD 0
    let fails := fun (s1 : State) (head : Word × Word) (x : LaneFail) => exec (.clauseFetch c.ref) s = .next (s1.accessFails c 2 false 0 done head x)
    let wrong := fun (s1 : State) (k : Trap) => s1.tryEnter c ⟨k, 0, 0, 0, none, (h0, h1)⟩
    (∀ x, t.clause = none → c.fetchPieces s.msys (freeAt s 1) (linePieces 9 va 8) = .error x → fails s (0, 0) x) ∧
    (t.clause = none → c.fetchPieces s.msys (freeAt s 1) (linePieces 9 va 8) = .ok (m1, ps1) →
      (headerOk h0 h1 = false → exec (.clauseFetch c.ref) s = .next (wrong (s.setMsys m1) .illegalOp)) ∧
      (∀ x, headerOk h0 h1 = true →
        c.fetchPieces m1 (freeAt s 1) (linePieces (4 * n + 1) ((va + 8) % 2 ^ 57) (4 * n)) = .error x → fails (s.setMsys m1) (h0, h1) x) ∧
      (headerOk h0 h1 = true → c.fetchPieces m1 (freeAt s 1) (linePieces (4 * n + 1) ((va + 8) % 2 ^ 57) (4 * n)) = .ok (m2, ps2) →
        (clauseOk t.level h0 h1 ws = false → exec (.clauseFetch c.ref) s = .next (wrong (s.setMsys m2) .illegalOp)) ∧
        (clauseOk t.level h0 h1 ws = true → exec (.clauseFetch c.ref) s =
          .next ((s.setMsys m2).setTeam c.ref { t with clause := some ⟨t.pc, h0, h1, ws, 0, []⟩, pc := t.pc + 8 })))) ∧
    (c.crew.runs t = true ↔ c.crew.phase = .resident ∧ (c.crew.stop = none ∨ t.replay ≠ none)) ∧
    (∀ k, t.clause = some k → k.words = [] →
      let r := c.fetchPieces s.msys (freeAt s 1) (linePieces (4 * headerCount k.h0 + 1) ((k.addr.toNat + 8) % 2 ^ 57) (4 * headerCount k.h0))
      (∀ x, r = .error x → fails s (k.h0, k.h1) x) ∧
      (r = .ok (m2, ps2) → exec (.clauseFetch c.ref) s = .next ((s.setMsys m2).setTeam c.ref { t with clause := some { k with words := ws } })))

/-! Machine events. -/

/-- R330 to R334, R337, R365: posts, replies, page requests and their responses, ATS answers and invalidations, and access counters.  An invalidation
request stands until the accesses and the engine operations that may have used what it removes are complete.  A refusal stands until
an access fails by it: here no agent's write is about to.  That page requests go oldest first, and that a grant takes a permission away and gives none, is
log 46, the model's choice. -/
def Obligations.FaultQueueEvents : Prop :=
  ∀ (s : State) (die : Nat) (index : Word),
    (∀ p o, s.msys.posts.find? (fun x => x.1 == die) = some (die, p, o) → p.die = die → s.msys.faultRoom die = true → ∃ m,
      let k := Sparse.get 0 s.msys.faultNext die
      exec (.faultRecordPost die) s = .next (s.setMsys m) ∧ m.faultAt die (k.toNat % 4096) =
        some ⟨k, p, o, none⟩ ∧
      Sparse.get 0 m.faultNext die = k + 1 ∧ m.posts = dropPost die s.msys.posts ∧
      m.mem = (({ s.msys with posts := dropPost die s.msys.posts } : MemSys).writeFree 0 (s.msys.faultSlotAddr die k) (recordBytes p k)).mem) ∧
    (∀ r retry i, s.msys.unanswered die index = some r →
      (i = .faultReplyRetry die index ∧ retry = true) ∨ (i = .faultReplyEnd die index ∧ retry = false) →
      let m := s.msys.writeFree 0 (s.msys.faultSlotAddr die index + 0x1C) (leBytes (if retry = true then 1 else 2) 4)
      let s1 : State := { s with
        msys := { m with faults := m.faults.map (fun x => if x.1 = die ∧ x.2.index = index then (x.1, { x.2 with answer := some retry }) else x) }
        pri := s.pri.filter (fun g => !(g.die == die && g.index == index)) }
      (r.owner = .none → exec i s = .next s1) ∧
      (∀ id p w, r.owner = .engine id p w → exec i s = .next (s1.answerOp id index retry)) ∧
      (∀ id, r.owner = .agent id → exec i s = .next (s1.answerAgent id)) ∧
      (∀ cid c, r.owner = .landing cid → s.crewAt cid = some c → exec i s = .next (s1.setCrew cid { c with landWait := false })) ∧
      (∀ key, r.owner = .reader key → exec i s = .next { s1 with readers := s.readers.filter (fun k => k != key) }) ∧
      (∀ ctx k, r.owner = .slot ctx k → exec i s = .next (s1.answerSlot ctx k retry)) ∧
      (∀ gid key g, r.owner = .listBlock gid key → s.gridAt gid = some g → ∃ (s' : State) (g' : Grid), exec i s = .next s' ∧
        s'.gridAt gid = some g' ∧ Sparse.get 0 g'.blocks key = if retry = true then 0 else 1) ∧
      (∀ id t k, r.owner = .keys id → s.taskAt id = some t → t.phase = .overflow k → ∃ s' : State, exec i s = .next s' ∧
        s'.taskAt id = some { t with phase := .want (if retry = true then k else 0) })) ∧
    (∀ r, s.nextPri die = some r → exec (.pageRequestSend die) s = .next { s with pri := s.pri ++
      [⟨die, r.index, spacePasid (s.msys.spaceEntry r.post.space), r.post.addr / 4096, !r.post.write, r.post.write, true⟩] }) ∧
    (s.nextPri die = none → exec (.pageRequestSend die) s = .next s) ∧
    (∀ r, s.nextPri die = some r → (die, r) ∈ s.msys.faults ∧ r.post.cause = 10 ∧ r.answer = none ∧ r.post.assisted = false ∧
      (s.pri.filter (fun g => g.die == die)).length < 512 ∧ ∀ g ∈ s.pri, g.die = die → g.index.toNat % 512 ≠ r.index.toNat % 512) ∧
    (∀ group success, (∀ g ∈ s.pri, ¬ (g.die = die ∧ g.index.toNat % 512 = group)) → exec (.prgResponse die group success) s = .next s) ∧
    (∀ group g success, s.pri.find? (fun g => g.die == die && groupIndex g.index == group) = some g →
      ∃ t, exec (.prgResponse die group success) s = .next t ∧
        exec (if success then .faultReplyRetry die g.index else .faultReplyEnd die g.index)
          { s with pri := s.pri.filter (fun x => !(x.die == die && x.index == g.index)) } = .next t) ∧
    (∀ (a : AtsAnswer) r, s.msys.atsFor die a = some r → a.granted = false ∨ (a.read = false ∧ a.write = false ∧ a.exec = false) →
      (∀ w ∈ s.agents, w.waiting = true) → ∃ s' : State, exec (.atsCompletion die a) s = .next s' ∧ { r with denied := true } ∈ s'.msys.ats) ∧
    (∀ (a : AtsAnswer) r leaf lvl, s.msys.atsFor die a = some r → a.granted = true → a.read = true ∨ a.write = true ∨ a.exec = true →
      s.msys.walk r.space (a.page * 4096) = .ok (leaf, lvl) → leafHost leaf = true → inHost (a.frame * 4096) = true →
      pinnedIn s.msys.tlb die ≤ 1024 → (∀ w ∈ s.agents, w.waiting = true) → ∃ (s' : State) (e : TlbEntry), exec (.atsCompletion die a) s = .next s' ∧
        s'.msys.tlbFind die none r.space a.page = some e ∧ (leafPin leaf = false → e.leafAt a.page = grantLeaf leaf a)) ∧
    (∀ (a : AtsAnswer) (leaf : Dword), a.frame < 2 ^ 40 →
      let l := grantLeaf leaf a
      leafPa l = a.frame * 4096 ∧ leafWrite l = (leafWrite leaf && a.write) ∧ leafExec l = (leafExec leaf && a.exec) ∧ leafNoRead l = !a.read ∧
      leafUser l = leafUser leaf ∧ leafHost l = leafHost leaf ∧ leafPin l = leafPin leaf ∧ leafCnt l = leafCnt leaf) ∧
    (∀ pasid page, ∃ m ps, exec (.atsInvalidation pasid page) s = .next { s with msys := m, invalidations := ps } ∧ m = { s.msys with tlb := m.tlb } ∧
      (∀ p, p ∈ ps ↔ p = (pasid, page) ∨ p ∈ s.invalidations) ∧
      ∀ e, e ∈ m.tlb ↔ e ∈ s.msys.tlb ∧ ¬ (leafHost e.leaf = true ∧ e.page ≤ page ∧ page < e.page + e.span ∧
        spacePasid (s.msys.spaceEntry e.space) = pasid)) ∧
    (∀ pasid page, let t := s.endInvalidation pasid page
      t = { s with invalidations := t.invalidations } ∧
      ((pasid, page) ∈ s.invalidations → ((pasid, page) ∈ t.invalidations ↔
        (∃ p ∈ s.teams, ∃ u, p.2 = some u ∧ ∃ a ∈ u.late, ∃ q ∈ a.places, q.scratch = false ∧ inHost q.addr = true) ∨
        ∃ o ∈ s.ops, spacePasid (s.msys.spaceEntry o.world) = pasid ∧ o.usesHit 0 o.world (page * 4096) = true))) ∧
    (∀ space region p, let here := fun (p : FaultPost) => p.die == die && p.space == space && p.addr == region * 65536
      s.msys.reached.find? here = some p →
      (s.msys.canPost die = false → exec (.accessCounterThreshold die space region) s = .next s) ∧
      (s.msys.canPost die = true → exec (.accessCounterThreshold die space region) s =
        .next (s.setMsys (({ s.msys with reached := dropReached here s.msys.reached } : MemSys).faultWrite p .none)))) ∧
    (∀ (m : MemSys) (c : Counter), m.counterPost c = ⟨9, 0, false, false, c.space, c.world, c.die, 0, 0, 0, c.region * 65536, c.count, m.assistMigration⟩)

/-- R7, R51, R319, R325, R352, R354, R355, R357, R361, R364: the data link, host requests, and the links of the pod; a flit of another module, be its
access refused or not, ends that module's silence.  That accesses to host memory which have been accepted are performed before the link leaves its active
state is log 91, the model's choice.  What the model takes an access of another module to be is log 25, what it takes a host access to be is log 54, that link failures lead
to ERROR from RUN only is log 49, and that the values kept over a power failure begin at 0 is log 10: each the model's choice. -/
def Obligations.LinksAndPod : Prop :=
  ∀ (s : State),
    (let r := s.settleHost
     s.msys.linkUp = true → ((∀ p ∈ s.teams, ∀ t, p.2 = some t → ∀ a ∈ t.late, ∀ q ∈ a.places, q.scratch = true ∨ inHost q.addr = false) → r = s) ∧
      ∃ s', exec .dataLinkDown s = .next s' ∧ s'.msys.linkUp = false ∧ s'.msys.dirty = [] ∧ s'.msys.mem = r.msys.mem ∧
      (∀ d ∈ r.msys.dirty, Sparse.get false s'.msys.poison d.line = true ∧ (∀ l ∈ s'.msys.l1, l.line ≠ d.line) ∧
        ∃ k, Sparse.get none s'.quarantine k = some ⟨d.data, d.line * 128, d.seq, d.world, 1⟩) ∧
      (∀ k e, Sparse.get none r.quarantine k = some e → Sparse.get none s'.quarantine k = some e) ∧
      s'.firm.responses = r.firm.responses ++ [.quarantine s'.quarantineCounts] ∧
      (r.firm.iface = .run → s'.firm.iface = .error ∧ s'.msys.hostOk = false) ∧ (r.firm.iface ≠ .run → s'.firm.iface = r.firm.iface)) ∧
    (s.firm.phase = .ready → exec .dataLinkActive s = .next (s.setMsys { s.msys with linkUp := true })) ∧
    (∀ i, i = .ideFailure ∨ i = .configAccessOutsideMessage → exec i s =
      .next (if s.firm.iface = .run then { s with firm := { s.firm with iface := .error }, msys := { s.msys with hostOk := false } } else s)) ∧
    (∀ pa bs, s.msys.hostMay pa bs.length = true → s.msys.isHeld pa = false → ∃ m, exec (.cxlMemRequest pa (some bs)) s = .next (s.setMsys m) ∧
      m = { s.msys with mem := m.mem, seq := m.seq, replays := m.replays } ∧ ∀ q, Sparse.get Memory.unwritten m.mem q =
        if pa ≤ q ∧ q < pa + bs.length ∧ s.msys.readOnly q = false then bs.getD (q - pa) 0 else Sparse.get Memory.unwritten s.msys.mem q) ∧
    (∀ pa bs, s.msys.hostMay pa bs.length = false ∨ s.msys.isHeld pa = true → exec (.cxlMemRequest pa (some bs)) s = .next s) ∧
    (∀ pa, ∃ m, exec (.cxlMemRequest pa none) s = .next (s.setMsys m) ∧ m = { s.msys with seq := m.seq }) ∧
    (∀ line (ws : List (Nat × Byte)), inHost (line * 128) = true → s.msys.dirtyOk → ∃ m, exec (.hostSnoop line ws) s = .next (s.setMsys m) ∧
      m = { s.msys with mem := m.mem, dirty := m.dirty } ∧ (∀ d ∈ m.dirty, d.line ≠ line) ∧
      ∀ q, Sparse.get Memory.unwritten m.mem q = if q / 128 = line
        then (match ws.reverse.find? (fun w => w.1 % 128 == q % 128) with
          | some w => if s.msys.readOnly q = true then s.msys.readB q else w.2
          | none => s.msys.readB q)
        else Sparse.get Memory.unwritten s.msys.mem q) ∧
    (∀ a, s.podOk a = true → ∃ m sl, exec (.podWindowAccess a) s = .next { s with msys := m, silence := sl } ∧
      (∀ k, Sparse.get 0 sl k = if k = a.module then 0 else Sparse.get 0 s.silence k) ∧
      m = { s.msys with mem := m.mem, seq := m.seq, replays := m.replays } ∧
      (let old := s.msys.readNat a.offset
       let puts := fun (bs : List Byte) => ∀ q, Sparse.get Memory.unwritten m.mem q =
         if a.offset ≤ q ∧ q < a.offset + bs.length ∧ s.msys.readOnly q = false then bs.getD (q - a.offset) 0 else Sparse.get Memory.unwritten s.msys.mem q
       (∀ n, a.op = .load n → m.mem = s.msys.mem) ∧
       (∀ bs, a.op = .store bs → puts bs) ∧
       (∀ w x, a.op = .add w x → puts (leBytes (old w + x.toNat) w)) ∧
       (∀ w x, a.op = .swap w x → puts (leBytes x.toNat w)) ∧
       (∀ w e x, a.op = .cas w e x → puts (leBytes (if old w = e.toNat % 2 ^ (8 * w) then x.toNat else old w) w)))) ∧
    (∀ a, s.podOk a = false → ∃ sl, exec (.podWindowAccess a) s = .next { s with silence := sl } ∧ ∀ k, Sparse.get 0 sl k =
      if k = a.module ∧ s.msys.bring.inPod = true ∧ s.msys.podDown = false ∧ a.module ≠ s.msys.pkg then 0 else Sparse.get 0 s.silence k) ∧
    (∀ port, exec (.linkLevelRetry port) s = .next s) ∧
    (s.msys.bring.inPod = true → s.msys.podDown = false → s.liveNeighbours.Nodup → ∃ s', exec .heartbeatInterval s = .next s' ∧
      ∀ m ∈ s.liveNeighbours, let n := Sparse.get 0 s.silence m + 1
        (n < s.msys.bring.silence → Sparse.get 0 s'.silence m = n ∧ m ∉ s'.msys.fenced) ∧
        (s.msys.bring.silence ≤ n → Sparse.get 0 s'.silence m = 0 ∧ m ∈ s'.msys.fenced)) ∧
    (∀ m ∈ s.liveNeighbours, ∃ t, exec (.heartbeatReceive m) s = .next { s with silence := t } ∧
      ∀ k, Sparse.get 0 t k = if k = m then 0 else Sparse.get 0 s.silence k) ∧
    (s.msys.bring.inPod = true → exec .fenceFlit s = .next { s with msys := { s.msys with podDown := true }, silence := [] }) ∧
    (∀ part, s.firm.phase = .starting → ∃ w, exec (.trainingFailure part) s = .next { s with firm := { s.firm with phase := .failed, status := w } } ∧
      statusCause w = (match part with
        | .hbm => 2
        | .controlLink => 3
        | .dataLink => 4) ∧ statusFailed w = Nat.min 3 (statusFailed s.firm.status + 1) ∧ statusVersion w = statusVersion s.firm.status) ∧
    (∃ m, exec .powerFailure s = .next { State.reset with
        firm := { Firm.initial with status := s.firm.status, journal := s.firm.journal, image := s.firm.image }
        msys := { MemSys.initial with mem := m }, flash := s.flash, agenda := s.agenda, late := s.late, sched := s.sched, turn := s.turn, clock := s.clock
        fresh := s.fresh } ∧
      ∀ p, p ∈ m ↔ inHost p.1 = true ∧ p ∈ s.msys.mem)

/-- R358 to R361, R364, R365: the session, the interface states, the modes, and the starts of the device.  An image is genuine where its key has the
fused digest and its signature holds over the SHA-256 of its body, whatever a message or a start claims (R358; SHA-256 as FIPS 180-4 has it, and that the report
is given as a session begins, are log 92, the model's choice).  A change of mode is also what new fault
records and the read-only fields of the weight contexts go by (R340, R7).  When Germ discards a message (log 49), the form of the service
crews (log 55), what a start resumes (log 56), and the ranges that the parameters of bring-up are held to and the values kept over a start
(logs 10, 11) are the model's choices. -/
def Obligations.SessionAndStart : Prop :=
  ∀ (s : State) (m : Msg) (fn : DevFn) (on : Bool) (off total : Nat) (bytes : List Byte) (signed : Bool),
    let f := s.firm
    let genuine := fun (image : List Byte) => sha256 (Config.imageKey image) = Config.fusedDigest ∧
      Config.pssHolds (Config.imageKey image) (sha256 (Config.imageBody image)) (Config.imageSignature image) = true
    let resumed := f.journal.map (fun p => (p.1, p.2.map (fun e => if e.state = 1 then { e with assisted := f.scrub } else e)))
    let full := f.phase = .starting ∨ f.phase = .ready
    let takes := m.macOk = true ∧ f.session = some m.session ∧ ∀ n, f.lastSeq = some n → n < m.seq
    let messages : List Instr := [.lock m, .start m, .stop m, .modeSet m fn on, .status m, .huskUpdate m off total bytes signed]
    let error := fun (i : Instr) => exec i s = .next { s with firm := { f with lastSeq := some m.seq, responses := f.responses ++ [.error] } }
    let reply := fun (i : Instr) (g : Firm) (data : List Nat) =>
      exec i s = .next { s with firm := { g with lastSeq := some m.seq, responses := f.responses ++ [.ok data] } }
    (∀ i ∈ messages, f.phase = .off → exec i s = .next s) ∧
    (∀ i ∈ messages, f.phase ≠ .off → ¬ takes → exec i s = .next { s with firm := { f with discarded := f.discarded + 1 } }) ∧
    (f.phase ≠ .off → takes →
      (full → f.iface = .unlocked → reply (.lock m) { f with iface := .locked } []) ∧ (¬ full ∨ f.iface ≠ .unlocked → error (.lock m)) ∧
      (full → f.iface = .locked → exec (.start m) s = .next { s with
        firm := { f with lastSeq := some m.seq, iface := .run, responses := f.responses ++ [.ok []] }, msys := { s.msys with hostOk := true } }) ∧
      (¬ full ∨ f.iface ≠ .locked → error (.start m)) ∧
      (full → f.iface ≠ .unlocked → ∃ s', exec (.stop m) s = .next s' ∧ s'.firm = { f with lastSeq := some m.seq, stopping := true, responses := f.responses ++ [.ok []] } ∧
        ∀ q x, s.queueAt q = some x → ∃ x', s'.queueAt q = some x' ∧ 2 ≤ x'.status ∧ x'.head = x.head) ∧
      (¬ full ∨ f.iface = .unlocked → error (.stop m)) ∧
      (full → f.iface = .unlocked ∨ f.iface = .locked →
        let g : Firm := match fn with
          | .faults => { f with faults := on }
          | .migration => { f with migration := on }
          | .keys => { f with keys := on }
          | .routing => { f with routing := on }
          | .scrub => { f with scrub := on }
        exec (.modeSet m fn on) s = .next { s with
          firm := { g with lastSeq := some m.seq, responses := f.responses ++ [.ok []] }
          msys := { s.msys with assistFaults := g.faults, assistMigration := g.migration, assistRouting := g.routing } }) ∧
      (¬ full ∨ f.iface = .run ∨ f.iface = .error → error (.modeSet m fn on)) ∧
      reply (.status m) f [f.status.toNat] ∧
      (let i := Instr.huskUpdate m off total bytes signed
       let whole := off + bytes.length = total
       (f.partOk off total bytes = false ∨ (whole ∧ ¬ genuine (f.parts ++ bytes)) →
         exec i s = .next { s with firm := { f with lastSeq := some m.seq, parts := [], partTotal := 0, responses := f.responses ++ [.error] } }) ∧
       (f.partOk off total bytes = true → ¬ whole → reply i { f with parts := f.parts ++ bytes, partTotal := total } []) ∧
       (f.partOk off total bytes = true → whole → genuine (f.parts ++ bytes) →
         reply i { f with image := f.parts ++ bytes, parts := [], partTotal := 0, status := f.status &&& ~~~3#32 } []))) ∧
    (f.stopping = true → s.queuesDone = true → exec .stopComplete s =
      .next { s with firm := { f with iface := .unlocked, stopping := false }, msys := { s.msys with hostOk := false } }) ∧
    (∀ id, f.phase ≠ .off → exec (.spdmSession id) s = .next { s with firm :=
      { f with session := some id, lastSeq := none, report := some (f.measured, Config.germSigns f.measured) } }) ∧
    (∀ tail, f.phase ≠ .off → exec (.sessionDoorbell tail) s = .next { s with firm := { f with ringTail := tail % 256 } }) ∧
    (¬ full → ∃ frames g, exec (.deviceStart signed) s = .next { s with msys := { s.msys with frames := frames }, firm := g } ∧
      (∀ i e, (i, some e) ∈ f.journal → e.state = 1 → ∀ k, k < e.count → frameState (Sparse.get 0 frames (e.first + k)) = 2) ∧
      (statusFailed f.status = 3 → g = { f with phase := .bare, status := g.status, journal := resumed } ∧ g.status.getLsbD 31 = true) ∧
      (statusFailed f.status ≠ 3 → genuine f.image → g =
        { f with phase := .starting, measured := sha256 (Config.imageBody f.image) :: f.measured, status := g.status, journal := resumed }) ∧
      (statusFailed f.status ≠ 3 → ¬ genuine f.image → g = { f with phase := .failed, status := g.status, journal := resumed } ∧
        statusCause g.status = 1 ∧ statusFailed g.status = statusFailed f.status + 1)) ∧
    (∀ (version : BitVec 8) params, f.phase = .starting → ∃ s', exec (.huskReady version params) s = .next s' ∧
      s'.firm = { f with phase := .ready, status := s'.firm.status } ∧ statusFailed s'.firm.status = 0 ∧ statusVersion s'.firm.status = version.toNat ∧
      s'.msys = { s.msys with bring := params.fit, linkUp := true } ∧
      (let b := params.fit
       b.retryTable.length = 7 ∧ 2 ^ 16 ≤ b.minResidency ∧ b.minResidency ≤ 2 ^ 30 ∧ 8 ≤ b.counterLog2 ∧ b.counterLog2 ≤ 24 ∧ 2 ≤ b.silence ∧ b.silence ≤ 255 ∧
       2 ^ 10 ≤ b.quarantine ∧ b.quarantine ≤ 2 ^ 20 ∧ 2 ^ 16 ≤ b.heartbeat ∧ b.heartbeat ≤ 2 ^ 24) ∧
      ∀ die k, die < 8 → k < 4 → ∃ u, s'.teamAt ⟨die, 63, 12 + k⟩ = some u ∧ u.level = 1 ∧ u.lanes = 32 ∧ u.role = k ∧
        u.pc = BitVec.ofNat 57 params.svcEntry) ∧
    (f.phase = .starting → ∃ w, exec .huskReadyTimeout s = .next { s with firm := { f with phase := .failed, status := w } } ∧ statusCause w = 5 ∧
      statusFailed w = Nat.min 3 (statusFailed f.status + 1))

/-- R7, R296, R298, R324, R326, R341, R350, R354, R356, R359 to R363: the messages and events on queues, worlds, the scrub, flash, the
quarantine and the registers that the host writes.  That a descriptor and a doorbell are physical (log 33), how queue messages, world messages,
FLASH_WRITE and the quarantine answer (logs 50 to 53), and what REGISTER_WRITE reaches (log 59), are the model's choices. -/
def Obligations.FirmwareResources : Prop :=
  ∀ (s : State) (m : Msg), s.firm.phase = .starting ∨ s.firm.phase = .ready → m.macOk = true → s.firm.session = some m.session →
    (∀ n, s.firm.lastSeq = some n → n < m.seq) →
    let f := { s.firm with lastSeq := some m.seq }
    let reply := fun (r : Response) => { f with responses := f.responses ++ [r] }
    let fails := fun (i : Instr) (r : Response) => exec i s = .next { s with firm := reply r }
    (s.firm.iface ≠ .run → ∀ q desc bell w first n at_ msd stack block data, ∀ i ∈ [Instr.queueCreate m q desc bell, .queueDestroy m q,
      .worldAssign m w first n at_ msd, .worldRelease m w, .flashWrite m stack block data], fails i .error) ∧
    (s.firm.iface = .run →
      (∀ q desc bell x, s.queueFree q = true → bell % 4096 = 0 → desc % 64 = 0 → s.msys.huskMay desc 64 = true →
        parseQueue desc bell (s.msys.readN desc 64) = some x → ∃ s', exec (.queueCreate m q desc bell) s = .next s' ∧ s'.firm = reply (.ok []) ∧
        s'.queueAt q = some x ∧ x.status = 0 ∧ x.head = 0 ∧ x.tail = 0 ∧ s'.msys.bells = bell :: s.otherBells q ∧
        (s.msys.norm desc + 0x13, 0x2D) ∈ s'.msys.fixed ∧
        ∀ p, p ≠ q → s'.queueAt p = s.queueAt p) ∧
      (∀ q desc bell, s.queueFree q = false ∨ parseQueue desc bell (s.msys.readN desc 64) = none → fails (.queueCreate m q desc bell) .error) ∧
      (∀ q desc bell, let bs := s.msys.readN desc 64
        fieldAt bs 0x13 1 ≠ 0 ∨ fieldAt bs 0x20 32 ≠ 0 ∨ 254 < fieldAt bs 0x12 1 ∨ fieldAt bs 0x10 1 = 0 ∨ 15 < fieldAt bs 0x10 1 ∨
          (fieldAt bs 0x11 1 ≠ 0 ∧ fieldAt bs 0x11 1 ≠ 2) ∨ fieldAt bs 0 8 % 4096 ≠ 0 ∨ fieldAt bs 8 8 % 4096 ≠ 0 →
        fails (.queueCreate m q desc bell) .error) ∧
      (∀ q x, s.queueAt q = some x → ∃ s' x', exec (.queueDestroy m q) s = .next s' ∧ s'.firm = reply (.ok []) ∧ s'.queueAt q = some x' ∧
        (2 ≤ x.status → x' = x) ∧ (x.status < 2 → x' = { x with status :=
          if (s.agentBusy (queueChan q) || s.grids.any fun g => match g.origin with
            | .queue p _ => p == q
            | .device => false) = true then 2 else 3 })) ∧
      (∀ w first n at_ msd, w < 256 → at_ < 3 → s.msys.framesFree first n = true → ∃ s', exec (.worldAssign m w first n at_ msd) s = .next s' ∧
        s'.msys = { s.msys with frames := s'.msys.frames } ∧ s'.firm = { (reply (.ok [])) with worldKeys := s'.firm.worldKeys } ∧ w ∈ s'.firm.worldKeys ∧
        ∀ k, Sparse.get 0 s'.msys.frames k = if first ≤ k ∧ k < first + n then frameEntry w at_ msd else Sparse.get 0 s.msys.frames k) ∧
      (∀ w first n at_ msd, 256 ≤ w ∨ 3 ≤ at_ ∨ s.msys.framesFree first n = false → fails (.worldAssign m w first n at_ msd) .error) ∧
      (∀ w, w < 255 → let runs := frameRuns (s.msys.framesOf w)
        (s.worldBusy w = true ∨ s.firm.journalFree.length < runs.length → fails (.worldRelease m w) .busy) ∧
        (s.worldBusy w = false → runs.length ≤ s.firm.journalFree.length → ∃ s', exec (.worldRelease m w) s = .next s' ∧ w ∉ s'.firm.worldKeys ∧
          (∀ j, j < runs.length → Sparse.get none s'.firm.journal (s.firm.journalFree.getD j 0) =
            some ⟨w, 1, (runs.getD j (0, 0)).1, (runs.getD j (0, 0)).2, 0, s.firm.scrub⟩) ∧
          (∀ k ∈ s.msys.framesOf w, ∃ x, (k, x) ∈ s'.msys.frames ∧ frameState x = 2) ∧
          (∀ k x, (k, x) ∈ s.msys.frames → frameState x ≠ 1 ∨ frameWorld x ≠ w → (k, x) ∈ s'.msys.frames))) ∧
      (∀ stack block data, stack < 8 → block < 2 ^ 19 → (∀ p ∈ data, p.1 < 256 * 16384) →
        ((stack, block) ∈ s.flashBusy → fails (.flashWrite m stack block data) .busy) ∧
        ((stack, block) ∉ s.flashBusy → ∃ fl,
          exec (.flashWrite m stack block data) s = .next { s with flash := fl, flashBusy := (stack, block) :: s.flashBusy, firm := reply (.ok []) } ∧
          let base := blockBase stack block
          (∀ a, ¬ (base ≤ a ∧ a < base + blockBytes) → Sparse.get 0 fl a = Sparse.get 0 s.flash a) ∧
          (∀ p ∈ data, (∀ r ∈ data, r.1 = p.1 → r.2 = p.2) → Sparse.get 0 fl (base + p.1) = p.2) ∧
          (∀ a, base ≤ a → a < base + blockBytes → (∀ p ∈ data, base + p.1 ≠ a) → Sparse.get 0 fl a = 0))) ∧
      (∀ stack block data, 8 ≤ stack ∨ 2 ^ 19 ≤ block ∨ (∃ p ∈ data, 256 * 16384 ≤ p.1) → fails (.flashWrite m stack block data) .error)) ∧
    (∀ slice entry, s.qEntry slice entry = none → fails (.qread m slice entry) .error ∧ fails (.qfree m slice entry) .error) ∧
    (∀ slice entry e, s.qEntry slice entry = some e →
      (∃ q, exec (.qread m slice entry) s = .next { s with quarantine := q, firm := reply (.ok [leNat e.data, e.pa, e.seq, e.world, 2]) } ∧
        ∀ k, Sparse.get none q k = if k = qKey slice entry then some { e with status := 2 } else Sparse.get none s.quarantine k) ∧
      (e.status ≠ 2 → fails (.qfree m slice entry) .error) ∧
      (e.status = 2 → ∃ s', exec (.qfree m slice entry) s = .next s' ∧ s'.firm = reply (.ok []) ∧
        (∀ k, Sparse.get none s'.quarantine k = if k = qKey slice entry then none else Sparse.get none s.quarantine k) ∧
        ((∀ k x, (k, some x) ∈ s'.quarantine → x.pa ≠ e.pa) → Sparse.get false s'.msys.poison (lineOf e.pa) = false))) ∧
    (∀ i e k, s.scrubbing i = some e → 0 < k →
      let n := Nat.min k (e.count - e.low)
      let scrubbed := fun (s' : State) (j : JEntry) => j = { e with low := e.low + n, state := if e.count ≤ e.low + n then 2 else 1 } ∧
        Sparse.get none s'.firm.journal i = some j ∧
        (∀ p, Sparse.get 0 s'.msys.mem p = if (e.first + e.low) * 4096 ≤ p ∧ p < (e.first + e.low + n) * 4096 then 0 else Sparse.get 0 s.msys.mem p) ∧
        (∀ l, Sparse.get 0 s'.msys.replays l = if (e.first + e.low) * 32 ≤ l ∧ l < (e.first + e.low + n) * 32 then 0 else Sparse.get 0 s.msys.replays l) ∧
        (j.state = 2 → ∀ x, x < e.count → Sparse.get 0 s'.msys.frames (e.first + x) = 0)
      (e.assisted = false → k ≤ 4096 → ∃ s' j, exec (.scrubProgress i k) s = .next s' ∧ scrubbed s' j) ∧
      (e.assisted = true → k = 4096 → ∃ s' j, exec (.scrubStep m i) s = .next s' ∧ scrubbed s' j ∧
        s'.firm.responses = s.firm.responses ++ [.ok [j.low, j.state]])) ∧
    (∀ i, s.scrubbing i = none ∨ (∃ e, s.scrubbing i = some e ∧ e.assisted = false) → fails (.scrubStep m i) .error) ∧
    (∀ stack block, exec (.eraseOrProgramEnd stack block) s = .next { s with flashBusy := s.flashBusy.filter (fun p => p != (stack, block)) }) ∧
    (∀ die core (v : Dword), ∃ s', exec (.registerWrite (.tvec die core) v) s = .next s' ∧ s' = { s with cores := s'.cores } ∧
      (s'.coreAt die core).tvec = BitVec.ofNat 57 ((v.toNat % 2 ^ 57) / 4 * 4) ∧ (s'.coreAt die core).tframe = (s.coreAt die core).tframe) ∧
    (∀ die core (v : Dword), ∃ s', exec (.registerWrite (.tframe die core) v) s = .next s' ∧ s' = { s with cores := s'.cores } ∧
      (s'.coreAt die core).tframe = BitVec.ofNat 57 ((v.toNat % 2 ^ 57) / 4096 * 4096) ∧ (s'.coreAt die core).tvec = (s.coreAt die core).tvec) ∧
    (∀ die index (v : Dword), exec (.registerWrite (.faultStatus die index) v) s =
      .next (s.setMsys (s.msys.writeFree 0 (s.msys.faultSlotAddr die index + 0x1C) (leBytes v.toNat 4)))) ∧
    (∀ ctx ring (v : Dword), exec (.registerWrite (.ctxCtl ctx) v) s = .next (s.writeZero (s.descAddr ctx + 0x48) (leBytes v.toNat 4)) ∧
      exec (.registerWrite (.ctxCurrent ctx) v) s = .next (s.writeZero (s.descAddr ctx) (leBytes (v.toNat % 2) 4)) ∧
      exec (.registerWrite (.ringHead ring) v) s = .next (s.writeZero (s.msys.bring.ringTable + 32 * ring + 20) (leBytes v.toNat 4))) ∧
    (let sets := fun (r : DevReg) (v : Dword) (b : BringUp) => exec (.registerWrite r v) s = .next (s.setMsys { s.msys with bring := b })
     let old := s.msys.bring.fit
     (∀ i (v : Dword), i < 7 → ∃ t, sets (.retryShift i) v { old with retryTable := t } ∧ t.length = 7 ∧
       ∀ k, t.getD k 0 = if k = i then v.toNat else old.retryTable.getD k 0) ∧
     (∀ v : Dword, sets .minResidency v { old with minResidency := clamp (2 ^ 16) (2 ^ 30) v.toNat }) ∧
     (∀ v : Dword, sets .migration v { old with migration := v.getLsbD 0 }))

/-- R296 to R299, R301, R302: commands of a launch queue, the read of its records, and node setups; a read that fails waits while its record has no
slot (R330).  The statuses of a setup that is refused, and what RESUME writes, are the model's choice (log 47). -/
def Obligations.LaunchQueues : Prop :=
  ∀ (s : State) (q : Nat) (x : Queue), s.queueAt q = some x →
    let becomes := fun (i : Instr) (y : Queue) => ∃ s', exec i s = .next s' ∧ s'.queueAt q = some y ∧ s'.crews = s.crews ∧ s'.teams = s.teams
    let slot := x.head.toNat % 2 ^ x.log2
    let read := s.msys.agentRead (freeAt s 43000) 0 x.world ((x.ringBase + 128 * slot) % 2 ^ 57) 128
    let ready := x.status = 0 ∧ x.head ≠ x.tail ∧ s.firm.iface ≠ .error
    let done := fun (i : Instr) (st : Nat) => ∃ s0 : State, exec i s = .next (s0.queueDone q x.head st 0 0xFFFFFFFF) ∧
      s0.queueAt q = some { x with head := x.head + 1 } ∧ s0.grids = s.grids
    (∀ tail, (x.status < 2 ∧ (tail - x.head).toNat ≤ 2 ^ x.log2 → becomes (.tailWrite q tail) { x with tail := tail }) ∧
      (2 ≤ x.status ∨ 2 ^ x.log2 < (tail - x.head).toNat → exec (.tailWrite q tail) s = .next s)) ∧
    (x.status = 1 → becomes (.resumeCommand q) { x with status := 0 }) ∧ (x.status ≠ 1 → exec (.resumeCommand q) s = .next s) ∧
    (x.status < 2 → ∃ st, becomes (.destroyCommand q) { x with status := st } ∧ (st = 2 ∨ st = 3) ∧
      (st = 3 ↔ s.agentBusy (queueChan q) = false ∧ ∀ g ∈ s.grids, ∀ k, g.origin ≠ .queue q k)) ∧
    (2 ≤ x.status → exec (.destroyCommand q) s = .next s) ∧
    (∀ i ∈ [Instr.launchRecordRead q, .nodeSetup q],
      (¬ ready → exec i s = .next s) ∧
      (∀ cause va, ready → read = .error (cause, va) →
        (cause ≠ 0 → s.msys.canPost 0 = true → becomes i { x with status := 1, errorOffset := BitVec.ofNat 32 (128 * slot) }) ∧
        (cause ≠ 0 → s.msys.canPost 0 = false → exec i s = .next s) ∧
        (cause = 0 → ∃ m, exec i s = .next (s.setMsys m) ∧ m = { s.msys with ats := m.ats }))) ∧
    (∀ bs m, ready → read = .ok (bs, m) →
      let s1 := s.setMsys m
      (x.level = 2 ∧ recKind bs = 2 → exec (.launchRecordRead q) s = .next s) ∧ (x.level ≠ 2 ∨ recKind bs ≠ 2 → exec (.nodeSetup q) s = .next s) ∧
      (x.level ≠ 2 ∨ recKind bs ≠ 2 →
        (s1.gridStatusOf bs x.world ≠ 0 → done (.launchRecordRead q) (s1.gridStatusOf bs x.world)) ∧
        (s1.gridStatusOf bs x.world = 0 → s.freeGid = none → exec (.launchRecordRead q) s = .next s1) ∧
        (∀ gid, s1.gridStatusOf bs x.world = 0 → s.freeGid = some gid → ∃ s' g, exec (.launchRecordRead q) s = .next s' ∧
          s'.queueAt q = some { x with head := x.head + 1 } ∧ s'.grids = s.grids ++ [g] ∧ g.gid = gid ∧ g.record = parseGrid bs ∧ g.world = x.world ∧
          g.level = x.level ∧ g.origin = .queue q x.head ∧ g.launched = 0 ∧ g.retired = 0 ∧ s'.crews = s.crews)) ∧
      (x.level = 2 → recKind bs = 2 →
        (setupReservedOk bs = false → done (.nodeSetup q) 4) ∧
        (∀ cause va, setupReservedOk bs = true → m.agentRead (freeAt s 44000) 0 x.world (fieldAt bs 0 8) 128 = .error (cause, va) → cause ≠ 0 →
          (m.canPost 0 = true → becomes (.nodeSetup q) { x with status := 1, errorOffset := BitVec.ofNat 32 (128 * slot) }) ∧
          (m.canPost 0 = false → exec (.nodeSetup q) s = .next s1)) ∧
        (∀ grid m', setupReservedOk bs = true → m.agentRead (freeAt s 44000) 0 x.world (fieldAt bs 0 8) 128 = .ok (grid, m') →
          let n := bitsOf (fieldAt bs 0x40 4) 0 12
          let status := (s.setMsys m').setupStatus bs grid x.world
          (status ≠ 0 → done (.nodeSetup q) 9) ∧
          (status = 0 → done (.nodeSetup q) 0 ∧ ∃ s', exec (.nodeSetup q) s = .next s' ∧
            s'.nodeAt n = some ⟨parseGrid grid, x.world, bitsOf (fieldAt bs 0x44 4) 0 6, fieldAt bs 0x48 8, [], grid⟩))))

/-- R36 to R41, R78, R264, R304 to R309, R312, R313, R315: crews are placed, retire, are discarded and moved; lock keys are requested and granted.  A
moved crew finds no stale line in the L1 of its new core (R130, R134).  The identifier that a task gets (log 70), the form of the overflow record's
entry (log 72) and the new place of a discarded task in the order (log 76) are the model's choices. -/
def Obligations.CrewsAndKeys : Prop :=
  (∀ (s : State) (die : Nat), s.firm.iface ≠ .error → s.nextRelanding die = none → s.needsGid die = none →
    let placed := fun (g : Grid) (i core : Nat) (task : Option Nat) (entry : VAddr) (arg : Nat) => ∃ s' cr g', exec (.crewPlacement die) s = .next s' ∧
      s'.crewAt s.ids = some cr ∧ cr.gid = g.gid ∧ cr.index = BitVec.ofNat 32 i ∧ cr.die = die ∧ cr.core = core ∧ cr.phase = .resident ∧
      cr.world = g.world ∧ cr.task = task ∧ cr.alloc = g.record.alloc ∧ cr.slots = (s.freeSlots die core).take g.record.teams.length ∧
      s'.gridAt g.gid = some g' ∧ g'.launched = g.launched + 1 ∧ Sparse.get false g'.placed i = true ∧
      ∀ k, k < g.record.teams.length → k < (s.freeSlots die core).length → ∃ u, s'.teamAt ⟨die, core, (s.freeSlots die core).getD k 0⟩ = some u ∧
        u.crew = s.ids ∧ u.index = k ∧ u.lanes = (g.record.teams.getD k ⟨1, k⟩).lanes ∧ u.mask = firstLanes u.lanes ∧ u.present = u.mask ∧
        u.pc = entry ∧ u.level = g.level ∧ u.sreg 0 = BitVec.ofNat 32 arg ∧ u.sreg 1 = BitVec.ofNat 32 (arg / 2 ^ 32) ∧ u.vregs = []
    (∀ g tk i r pl core, s.nextCand die = some ⟨some g, tk, i, r, pl⟩ → r.coop = false → s.gridAt g.gid = some g →
      s.findRoom die r.fuse r.use (r.coreOrder i) = some core → placed g i core g.task g.record.entry g.record.arg) ∧
    (∀ g tk i r pl t, s.nextCand die = some ⟨some g, tk, i, r, pl⟩ → r.coop = true → s.coopFirst g = true → s.placeCoop g = some t →
      exec (.crewPlacement die) s = .next t) ∧
    (∀ id t i r pl g core, s.nextCand die = some ⟨none, some (id, t), i, r, pl⟩ → t.die = die → t.gid = some g.gid → s.gridAt g.gid = some g →
      s.findRoom die r.fuse r.use (List.range 64) = some core → placed g 0 core g.task g.record.entry t.arg)) ∧
  (∀ (s : State) (die id : Nat) (t : Task), s.firm.iface ≠ .error → s.nextRelanding die = none → s.needsGid die = some (id, t) →
    exec (.crewPlacement die) s = .next (s.giveGid id t)) ∧
  (∀ (s : State) (cid : Nat) (c : Crew), s.crewAt cid = some c → c.phase = .leaving → (s.closeAll cid c).drained cid c = true →
    ∃ s', exec (.crewRetire cid) s = .next s' ∧ s'.crewAt cid = none ∧ (∀ k ∈ c.slots, s'.teamAt ⟨c.die, c.core, k⟩ = none) ∧
      (∀ id, c.task = some id → s'.taskAt id = none ∧ ∀ e ∈ s'.keys, e.holder ≠ some id ∧ id ∉ e.waiters) ∧
      (∀ g, s.gridAt c.gid = some g → s'.gridAt c.gid = none ∨ ∃ g', s'.gridAt c.gid = some g' ∧ g'.retired = g.retired + 1)) ∧
  (∀ (s : State) (cid id : Nat) (c : Crew), s.crewAt cid = some c → c.task = some id →
    (c.stop = none → c.discardable = true → s.outranked c.die c.cls = true →
      exec (.taskDiscard cid) s = .next (s.setCrew cid { c with stop := some (.discard none) })) ∧
    (∀ by_ t, c.stop = some (.discard by_) → s.drained cid c = true → s.taskAt id = some t →
      let freed := (s.removeCrew cid c).forgetGrid c.gid
      ∃ s', exec (.taskDiscard cid) s = .next s' ∧ s'.crewAt cid = none ∧ (∀ k ∈ c.slots, s'.teamAt ⟨c.die, c.core, k⟩ = none) ∧
        (∀ e ∈ s'.keys, e.holder ≠ some id ∧ id ∉ e.waiters) ∧
        (freed.freeGid ≠ none → freed.gridStatusOf t.raw t.world ≠ 0 → s'.taskAt id = none) ∧
        (freed.freeGid = none ∨ freed.gridStatusOf t.raw t.world = 0 →
          s'.taskAt id = some { t with gid := freed.freeGid, order := s.orders, phase := firstPhase t.keys }))) ∧
  (∀ (s : State) (cid core elapsed : Nat) (c : Crew), s.crewAt cid = some c →
    (c.stop = none → s.msys.bring.migration = true → s.msys.bring.minResidency ≤ elapsed → c.phase = .resident → c.gid ≠ 0 → s.mayMove c core = true →
      exec (.thermalMigration cid core elapsed) s = .next (s.setCrew cid { c with stop := some (.migrate core) })) ∧
    (∀ k, c.stop = some (.migrate k) → s.drained cid c = true → (s.teamsOf c).all Team.atRest = true → s.mayMove c k = true → ∃ s' cr,
      exec (.thermalMigration cid core elapsed) s = .next s' ∧ s'.crewAt cid = some cr ∧ cr.die = c.die ∧ cr.core = k ∧ cr.phase = .resident ∧
      cr.stop = none ∧ cr.placedAt = s.clock ∧ cr.alloc = c.alloc ∧ cr.scratch = c.scratch ∧ cr.tiles = c.tiles ∧ cr.pps = c.pps ∧
      s'.msys.acquire c.die k .pkg = s'.msys)) ∧
  (∀ (s : State) (id i : Nat) (t : Task), s.taskAt id = some t → t.phase = .want i → t.gid = none → exec (.keyRequest id) s = .next s) ∧
  (∀ (s : State) (id i : Nat) (t : Task), s.taskAt id = some t → t.phase = .want i → t.gid ≠ none →
    let key := t.keys.getD i 0
    (∀ e, s.keyAt key = some e → ∃ s', exec (.keyRequest id) s = .next s' ∧ s'.taskAt id = some { t with phase := .wait i } ∧
      s'.keyAt key = some { e with waiters := e.waiters ++ [id] }) ∧
    (s.keyAt key = none → s.keyCount (keyHome key) < 8192 → ∃ s', exec (.keyRequest id) s = .next s' ∧
      s'.taskAt id = some { t with phase := .wait i } ∧ s'.keyAt key = some ⟨keyHome key, key, none, [id]⟩) ∧
    (s.keyAt key = none → 8192 ≤ s.keyCount (keyHome key) → s.firm.keys = false → ∃ s', exec (.keyRequest id) s = .next s' ∧
      s'.taskAt id = some { t with phase := .restart (keyHome key) (Sparse.get 0 s'.keyReleases (keyHome key)) } ∧
      ∀ e ∈ s'.keys, e.holder ≠ some id ∧ id ∉ e.waiters) ∧
    (s.keyAt key = none → 8192 ≤ s.keyCount (keyHome key) → s.firm.keys = true → ∃ s', exec (.keyRequest id) s = .next s' ∧
      s'.taskAt id = some { t with phase := .overflow i } ∧ s'.keys = s.keys ∧
      s'.msys = s.msys.faultPost ⟨10, 0, false, false, t.world, t.world, keyHome key, 0, 0, 0, key, 2 ^ 63 + 2 ^ 11, s.msys.assistFaults⟩ (.keys id))) ∧
  (∀ (s : State) (key : Dword) (e : KeyEntry) (id i : Nat) (rest : List Nat) (t : Task), s.keyAt key.toNat = some e → e.holder = none →
    e.waiters = id :: rest → s.taskAt id = some t → t.phase = .wait i → ∃ s', exec (.keyGrant key) s = .next s' ∧
      s'.keyAt key.toNat = some { e with holder := some id, waiters := rest } ∧
      s'.taskAt id = some { t with phase := if i + 1 < t.keys.length then .want (i + 1) else .ready }) ∧
  (∀ (s : State) (id die n : Nat) (t : Task), s.taskAt id = some t → t.phase = .restart die n → n < Sparse.get 0 s.keyReleases die →
    ∃ s', exec (.keyAcquisitionRestart id) s = .next s' ∧ s'.taskAt id = some { t with phase := .want 0 })

/-- R49 to R59, R61, R62, R71, R72, R350: the page list, and the pages of a page-bound grid until their crews run; eviction and re-landing.  A sense
that corrects yields the bytes that land; a grid without a fault entry is abandoned at its first uncorrectable page (R59); the crews of a cooperative
grid land together (R38); no page is reserved and none lands in ERROR (R361), nor is one of a block that its die has not read (R50, R53); a landed crew
finds no stale line.  A crew woken while it was being evicted keeps the state of its wake (log 87).  `x.paddr` of an entry that could not be
read (log 73), the parts of a crew that its image does not bring back (log 12) and the order of free park slots (log 75) are the model's choices. -/
def Obligations.PageEvents : Prop :=
  (∀ (s : State) (die b : Nat) (gid : Word) (g : Grid), s.gridAt gid = some g → g.mayRead die b = true →
    let i := Instr.pageListBlockRead die gid b
    let read := s.msys.agentRead (freeAt s 42000) die g.world ((g.record.listAddr / 64 + b) * 64 % 2 ^ 57) 64
    let fails := fun (cause va : Nat) (o : FaultOwner) => s.msys.agentFail 5 die g.world false (cause, va) o
    (∀ bs m, read = .ok (bs, m) → ∃ s' g', exec i s = .next s' ∧ s'.msys = m ∧ s'.gridAt gid = some g' ∧ Sparse.get 0 g'.blocks (blockKey die b) = 1 ∧
      ∀ k, let e := fieldAt bs ((g.record.listAddr + 8 * k) % 64) 8
        g'.pageAt k = if k ∈ g.record.blockPages b ∧ entryDie k e (entryValid e) = die ∧ g.isTaken k = false then
          { PageSt.initial with entry := BitVec.ofNat 64 e, valid := entryValid e, die := die } else g.pageAt k) ∧
    (∀ cause va, read = .error (cause, va) →
      (cause ≠ 0 → s.msys.canPost die = false → exec i s = .next s) ∧
      (cause = 7 → s.msys.canPost die = true → ∃ s' g', exec i s = .next s' ∧ s'.msys = fails cause va .none ∧ s'.gridAt gid = some g' ∧
        Sparse.get 0 g'.blocks (blockKey die b) = 1 ∧ ∀ k, g'.pageAt k =
          if k ∈ g.record.blockPages b ∧ g.isTaken k = false then { PageSt.initial with valid := false, die := k % 8 } else g.pageAt k) ∧
      (cause ≠ 7 → cause = 0 ∨ s.msys.canPost die = true → ∃ s' g', exec i s = .next s' ∧
        s'.msys = fails cause va (.listBlock gid (blockKey die b)) ∧ s'.gridAt gid = some g' ∧ (∀ k, g'.pageAt k = g.pageAt k) ∧
        Sparse.get 0 g'.blocks (blockKey die b) = if cause = 0 then Sparse.get 0 g.blocks (blockKey die b) else 2))) ∧
  (∀ (s : State) (die : Nat), s.firm.iface = .error → exec (.pageReservation die) s = .next s) ∧
  (∀ (g : Grid) (die i : Nat), g.nextPage die = some i → Sparse.get 0 g.blocks (blockKey die ((g.record.listAddr % 64 + 8 * i) / 64)) = 1 ∧
    ∃ q, (i, some q) ∈ g.pages ∧ q.state = 0 ∧ q.die = die) ∧
  (∀ (s : State) (die core i : Nat) (g : Grid), s.firm.iface ≠ .error → s.nextRelanding die = none → s.sensing die < 256 → s.nextPage die = some (g, i) →
    s.gridAt g.gid = some g → s.findRoom die g.record.fuse g.record.use (List.range 64) = some core → ∃ s' g',
      exec (.pageReservation die) s = .next s' ∧ s'.gridAt g.gid = some g' ∧ g'.pageAt i = { g.pageAt i with state := 1, core := core } ∧
      ∀ j, j ≠ i → g'.pageAt j = g.pageAt j) ∧
  (∀ (s : State) (gid : Word) (i : Nat) (g : Grid), s.gridAt gid = some g → (g.pageAt i).state = 1 →
    let p := g.pageAt i
    let becomes := fun (ok : Bool) (q : PageSt) => ∃ s' g', exec (.pageSense gid i ok) s = .next s' ∧ s'.gridAt gid = some g' ∧ g'.pageAt i = q ∧
      ∀ k, k ≠ i → g'.pageAt k = g.pageAt k
    let lost := (List.range g.record.count).filter (fun k => decide ((g.pageAt k).state ≤ 1))
    let abandons := fun (ok : Bool) => ∃ s', exec (.pageSense gid i ok) s = .next s' ∧
      (g.record.count ≤ g.retired + lost.length → s.crewsOfGrid gid = [] → s'.gridAt gid = none) ∧
      (g.retired + lost.length < g.record.count ∨ s.crewsOfGrid gid ≠ [] → ∃ g', s'.gridAt gid = some g' ∧ g'.abort = some i ∧
        g'.retired = g.retired + lost.length ∧ (∀ k ∈ lost, (g'.pageAt k).state = 8) ∧ ∀ k, k ≠ i → k ∉ lost → g'.pageAt k = g.pageAt k)
    (p.sensed = none →
      (∀ ok, p.valid = true → flashBlock p.flashPage ∈ s.flashBusy → exec (.pageSense gid i ok) s = .next s) ∧
      (p.valid = true → flashBlock p.flashPage ∉ s.flashBusy →
        becomes true { p with data := s.flashWindow p.flashPage, sensed := some (if p.retry = 0 then 0 else 1) } ∧
        (p.retry < 7 → becomes false { p with retry := p.retry + 1, shift := s.msys.bring.retryTable.getD p.retry 0 })) ∧
      (∀ ok, p.valid = false ∨ (ok = false ∧ flashBlock p.flashPage ∉ s.flashBusy ∧ 7 ≤ p.retry) →
        (g.record.faultEntry ≠ 0 → becomes ok { p with sensed := some 2 }) ∧ (g.record.faultEntry = 0 → i < g.record.count → abandons ok))) ∧
    (∀ st, p.sensed = some st →
      (s.firm.iface = .error → exec (.pageLanding gid i) s = .next s) ∧
      (g.record.coop = true → g.allSensed = false → exec (.pageLanding gid i) s = .next s) ∧
      (g.record.coop = true → g.allSensed = true → s.firm.iface ≠ .error → ∃ s' g', exec (.pageLanding gid i) s = .next s' ∧ s'.gridAt gid = some g' ∧
        g'.launched = g.launched + g.record.count ∧ ∀ k, k < g.record.count → (g'.pageAt k).state = if (g.pageAt k).sensed = some 2 then 3 else 2) ∧
      (g.record.coop = false → s.firm.iface ≠ .error → ∃ s' g' cid cr, exec (.pageLanding gid i) s = .next s' ∧ s'.gridAt gid = some g' ∧
        g'.pageAt i = { p with state := if st = 2 then 3 else 2, fault := decide (st = 2), rank := g.launched, data := [] } ∧
        g'.launched = g.launched + 1 ∧ s.ids ≤ cid ∧ s'.crewAt cid = some cr ∧ cr.gid = gid ∧ cr.index = BitVec.ofNat 32 i ∧ cr.phase = .resident ∧
        cr.die = p.die ∧ cr.core = p.core ∧ cr.page = some ⟨i, bitsOf p.entry.toNat 0 48, g.launched, p.retry, st, g.record.pwin⟩ ∧
        cr.scratch = (if st = 2 then [] else p.data.map (fun x => (x.1 + g.record.pwin, x.2))) ∧ s'.msys.acquire p.die p.core .pkg = s'.msys ∧
        ∀ k, k < g.record.teams.length → k < (s.freeSlots p.die p.core).length → ∃ u,
          s'.teamAt ⟨p.die, p.core, (s.freeSlots p.die p.core).getD k 0⟩ = some u ∧ u.crew = cid ∧
          u.pc = (if st = 2 then g.record.faultEntry else g.record.entry) ∧
          (st = 2 → u.sreg 2 = (if p.valid = true then 1 else 3) ∧ u.sreg 3 = 0)))) ∧
  (∀ (s : State) (cid : Nat) (c : Crew) (g : Grid) (i : Nat), s.crewAt cid = some c → s.pageOf c = some (g, i) →
    let park := fun (slot : Nat) => (g.record.parkBase + slot * g.record.imageSize) % 2 ^ 57
    (c.stop = none → (s.victim c.die).any (fun p => p.1 == cid) = true →
      exec (.eviction cid) s = .next (s.setCrew cid { c with stop := some (.evict false none) })) ∧
    (∀ by_ slot, c.stop = some (.evict false by_) → s.drained cid c = true → (s.teamsOf c).all Team.atRest = true → g.freePark = some slot →
      let folded := s.foldOps cid
      ∃ (s0 : State) (g' : Grid), exec (.eviction cid) s = .next (s0.agentWrite (crewChan cid) c.die g.world (park slot) (c.image (folded.teamsOf c) folded.msys [] 0 0) false) ∧
        s0.crewAt cid = some { c with stop := some (.evict true by_) } ∧ s0.gridAt g.gid = some g' ∧ Sparse.get none g'.park slot = some cid) ∧
    (c.stop = some (.evict true none) → s.agentBusy (crewChan cid) = false → ∃ s' cr g', exec (.eviction cid) s = .next s' ∧
      s'.crewAt cid = some cr ∧ cr = { c with phase := .evicted, slots := [], teams := cr.teams, stop := none } ∧
      (∀ k ∈ c.slots, s'.teamAt ⟨c.die, c.core, k⟩ = none) ∧ s'.gridAt g.gid = some g' ∧
      (c.woken = none → (g'.pageAt i).state = 5) ∧ (c.woken ≠ none → g'.pageAt i = g.pageAt i)) ∧
    (∀ core slot, (s.nextRelanding c.die).any (fun p => p.1 == cid) = true → s.findRoom c.die c.fuse c.use (List.range 64) = some core →
      g.parkOf cid = some slot →
      let read := s.msys.agentRead (freeAt s 42200) c.die g.world (park slot) g.record.imageSize
      (∀ bs m, read = .ok (bs, m) →
        let l := c.landed cid bs
        let slots := (s.freeSlots c.die core).take l.teams.length
        ∃ s' cr g', exec (.reLanding cid) s = .next s' ∧ s'.crewAt cid = some cr ∧
          cr = { l with phase := .resident, die := c.die, core := core, slots := slots, teams := [], stop := none, placedAt := s.clock } ∧
          s'.gridAt g.gid = some g' ∧ (g'.pageAt i).core = core ∧ (g'.pageAt i).die = c.die ∧ (∀ k, Sparse.get none g'.park k ≠ some cid) ∧
          s'.msys.acquire c.die core .pkg = s'.msys ∧
          ∀ k t, l.teams[k]? = some t → k < (s.freeSlots c.die core).length → s'.teamAt ⟨c.die, core, (s.freeSlots c.die core).getD k 0⟩ = some (match c.woken with
            | some (team, d, status) => if t.index = team then t.awaited d status else t
            | none => t)) ∧
      (∀ cause va, read = .error (cause, va) →
        (cause ≠ 0 → s.msys.canPost c.die = false → exec (.reLanding cid) s = .next s) ∧
        (cause ≠ 0 → s.msys.canPost c.die = true → exec (.reLanding cid) s = .next ((s.setCrew cid { c with landWait := true }).setMsys
          (s.msys.agentFail 7 c.die g.world false (cause, va) (.landing cid)))))))

/-- R120 to R125, R129, R141, R329, R330, R356: an engine operation performs its units one by one: where the bytes of a copy, an MX copy, a gather, a scatter or a send lie, what each part reads
and writes, and what a whole unit leaves in the scratchpad or in memory; a failure that finds no slot stays with the operation; and a send arrives, is
delivered and is acknowledged.
The parts of a unit that the timing choices leave to later events (log 4), which bytes a sector of a send is (log 80), where an operation goes on after
its record finds no slot (log 41), and the reader of a receive-ring entry that cannot be read (log 39) are the model's choices. -/
def Obligations.EnginesAndSends : Prop :=
  (∀ (s : State) (id : Nat) (o : EngineOp), s.opAt id = some o → o.phase = .running → s.opBlocked o = false →
    let i := Instr.engineSector ⟨o.die, o.core, o.slot⟩ id
    (o.unit = none → exec i s = .next (s.endUnits o)) ∧
    (∀ u f a, o.unit = some u → o.failing = some (f, a) → exec i s = .next (s.unitFailed o u f)) ∧
    (∀ u x, o.unit = some u → o.failing = none → o.xfer = some x → exec i s = .next (s.moveUnit o u x)) ∧
    (∀ u p m, o.unit = some u → o.failing = none → o.xfer = none →
      (∀ x, s.unitStart o u = (.ok x, p, m) → exec i s = .next ((s.setMsys m).moveUnit p u x)) ∧
      (∀ f, s.unitStart o u = (.error f, p, m) → exec i s = .next ((s.setMsys m).unitFailed p u f)) ∧
      (∀ code cause write addr, s.unitStart o u = (.error (.stop code cause write addr), p, m) →
        (m.canPost o.die = false → exec i s = .next ((s.setMsys m).setOp
          { p with xfer := none, failing := some (.stop code cause write addr, m.assistFaults) })) ∧
        (m.canPost o.die = true → ∃ s', exec i s = .next s' ∧ ∀ x ∈ s'.ops, x.id = id → x.phase = .ended ∧ x.failed = true)) ∧
      (∀ write cause va, s.unitStart o u = (.error (.miss write cause va), p, m) →
        (m.canPost o.die = false → ∃ s' x, exec i s = .next s' ∧ s'.msys = m ∧ s'.opAt id = some x ∧ x.phase = .running ∧ x.fails = o.fails ∧
          x.failing = some (.miss write cause va, m.assistFaults)) ∧
        (m.canPost o.die = true → ∃ s' x, exec i s = .next s' ∧ s'.opAt id = some x ∧ (x.phase = .running ∨ x.phase = .stopped) ∧
          x.fails = o.fails ++ [⟨va / 4096, write, Sparse.get 0 m.faultNext o.die, none⟩]))) ∧
    (∀ u x p m c, o.reading = false → o.unit = some u → o.failing = none → o.xfer = none → s.late = [] → s.unitStart o u = (.ok x, p, m) →
      s.crewAt o.crew = some c → (∀ l ∈ x.reads.flatten, m.engLate false l = none) → (∀ l ∈ x.writes.flatten, m.engLate true l = none) →
      let bytes := s.bytesAt c x.reads.flatten
      let cells := cellsOf x.writes.flatten
      (cells.Nodup → cells.length ≤ bytes.length → (∀ l ∈ x.writes.flatten, l.space = 1) → ∃ s' cr, exec i s = .next s' ∧ s'.crewAt o.crew = some cr ∧
        (∀ k, k < cells.length → Sparse.get 0 cr.scratch (cells.getD k 0) = bytes.getD k 0) ∧
        ∀ a, a ∉ cells → Sparse.get 0 cr.scratch a = Sparse.get 0 c.scratch a) ∧
      (cells.Nodup → cells.length ≤ bytes.length → (∀ l ∈ x.writes.flatten, l.space = 0) → o.cmd.op < 3 → o.words.op ≠ 4 →
        (∀ q ∈ cells, m.norm q = q ∧ inHbm q = true ∧ ∀ m' : MemSys, m'.fixed = m.fixed → m'.completions = m.completions → m'.bring = m.bring →
          m'.assistRouting = m.assistRouting → m'.readOnly q = false) → ∃ s', exec i s = .next s' ∧
        (∀ k, k < cells.length → s'.msys.readB (cells.getD k 0) = bytes.getD k 0) ∧
        ∀ q, m.norm q ∉ cells → s'.msys.readB q = s.msys.readB q) ∧
      (o.cmd.op = 4 → ∃ s', exec i s = .next s' ∧ ∀ y ∈ s'.ops, y.id = id → (u, bytes) ∈ y.payload)) ∧
    (∀ u c, o.reading = false → o.head = some u → o.failing = none → o.xfer = none → s.late = [] → o.cmd.op = 0 → o.cmd.mx = false → o.cmd.src = 1 → o.cmd.dst = 1 →
      s.crewAt o.crew = some c →
      let off := (o.cmd.part u).1
      let len := (o.cmd.part u).2
      ∃ s' cr, exec i s = .next s' ∧ s'.crewAt o.crew = some cr ∧ ∀ a, Sparse.get 0 cr.scratch a =
        if o.cmd.w2 + off ≤ a ∧ a < o.cmd.w2 + off + len then Sparse.get 0 c.scratch (o.cmd.w1 + (a - o.cmd.w2)) else Sparse.get 0 c.scratch a)) ∧
  (∀ (s : State) (o p : EngineOp) (u : Nat) (x : Xfer) (m : MemSys) (c : Crew), o.reading = false → s.unitStart o u = (.ok x, p, m) →
    s.crewAt o.crew = some c →
    let k := o.cmd
    let off := (k.part u).1
    let len := (k.part u).2
    let reads := x.reads.flatten
    let writes := x.writes.flatten
    x.got = [] ∧
    (k.op = 0 → k.mx = false → x.count = len ∧ p.Covers false k.src (k.srcAddr + off) len reads ∧ p.Covers true k.dst (k.w2 + off) len writes) ∧
    (k.op = 0 → k.mx = true → k.misaligned = false →
      let b := off / k.mxBytes
      let n := len / k.mxBytes
      let scales := fun (base : Nat) (at_ : Int) => truncBits ((base : Int) + at_ + b) 57
      x.count = len + n ∧ x.reads.length = n ∧ x.writes.length = n ∧ (∀ ls ∈ x.reads ++ x.writes, ls.length = 2) ∧
      p.Covers false k.src (k.srcAddr + off) len (x.reads.flatMap (fun ls => ls.take 1)) ∧
      p.Covers false k.src (scales k.srcAddr k.srcScale) n (x.reads.flatMap (fun ls => ls.drop 1)) ∧
      p.Covers true k.dst (k.w2 + off) len (x.writes.flatMap (fun ls => ls.take 1)) ∧
      p.Covers true k.dst (scales k.w2 k.dstScale) n (x.writes.flatMap (fun ls => ls.drop 1))) ∧
    (k.op = 1 ∨ k.op = 2 → ∃ ls, p.Covers false (boolNat k.idxScratch) (k.idxAddr + 4 * u) 4 ls ∧
      let i := leNat (s.bytesAt c ls)
      x.count = k.elem ∧
      (k.op = 1 → p.Covers false k.src (k.srcAddr + i * k.elem) k.elem reads ∧ p.Covers true k.dst (k.w2 + u * k.elem) k.elem writes) ∧
      (k.op = 2 → (p.Covers false k.src (k.srcAddr + u * k.elem) k.elem reads ∧ p.Covers true k.dst (k.w2 + i * k.elem) k.elem writes) ∨
        (reads = [] ∧ writes = [] ∧ ∃ j, u < j ∧ j < o.next ∧ j ∉ o.redo))) ∧
    (k.op = 4 → x.count = len ∧ p.Covers false k.src (k.srcAddr + off) len reads ∧ writes = [])) ∧
  (∀ (s s1 : State) (o : EngineOp) (x x1 : Xfer) (c : Crew), s.xferUnit o x = .ok (s1, x1) → s.crewAt o.crew = some c →
    (∀ ls rest, x.reads = ls :: rest → x1 = { x with reads := rest, got := x.got ++ s.bytesAt c ls } ∧
      s1 = { s with msys := { s.msys with seq := s1.msys.seq } }) ∧
    (∀ l rest, x.reads = [] → x.writes = [l] :: rest → l.len ≤ x.got.length → x1 = { x with writes := rest, got := x.got.drop l.len } ∧
      (l.space = 0 → s.msys.dirtyOk → let q := s.msys.norm l.addr
        q % 128 + l.len ≤ 128 → ∀ a, s1.msys.readB a =
          if q ≤ s.msys.norm a ∧ s.msys.norm a < q + l.len ∧ s.msys.readOnly (s.msys.norm a) = false then x.got.getD (s.msys.norm a - q) 0
          else s.msys.readB a) ∧
      (l.space = 1 → ∃ cr, s1.crewAt o.crew = some cr ∧ s1.msys = s.msys ∧ ∀ a, Sparse.get 0 cr.scratch a =
        if l.addr ≤ a ∧ a < l.addr + l.len then x.got.getD (a - l.addr) 0 else Sparse.get 0 c.scratch a))) ∧
  (∀ (s : State) (m : SendMsg) (ring : Nat), s.mayArrive m = true → s.ringFor m = some ring →
    (64 + ring ∈ s.readers → exec (.sendArrival m) s = .next (s.hears m)) ∧
    (∀ r s1, 64 + ring ∉ s.readers → s.ringRead ring = .ok (r, s1) → ∃ s', exec (.sendArrival m) s = .next s' ∧
      s'.sends = (if r.takes m = true then s.sends ++ [⟨ring, m, false⟩] else s.sends) ∧ (m.sender = none → Sparse.get 0 s'.silence m.src = 0)) ∧
    (∀ cause va, 64 + ring ∉ s.readers → s.ringRead ring = .error (cause, va) → cause ≠ 0 → s.msys.canPost 0 = true → ∃ s',
      exec (.sendArrival m) s = .next s' ∧ s'.sends = s.sends ∧ s'.readers = (64 + ring) :: s.readers)) ∧
  (∀ (s : State) (ring : Nat) (w : WaitSend), s.sendFor ring = some w →
    (∀ r s1, w.written = false → 64 + ring ∉ s.readers → s.ringRead ring = .ok (r, s1) → r.room = true → ∃ s', exec (.receiveRingDelivery ring) s = .next s' ∧
      Sparse.get 0 s'.ringTails ring = (r.tail + 1) % 2 ^ 32 ∧
      (s'.sends = changeSend ring (fun _ => []) s.sends ∨ s'.sends = changeSend ring (fun w => [{ w with written := true }]) s.sends)) ∧
    (∀ r s1, w.written = false → s.ringRead ring = .ok (r, s1) → r.room = false → exec (.receiveRingDelivery ring) s = .next s) ∧
    (w.written = false → 64 + ring ∈ s.readers → exec (.receiveRingDelivery ring) s = .next s) ∧
    (∀ cause va, w.written = false → 64 + ring ∉ s.readers → s.ringRead ring = .error (cause, va) → cause ≠ 0 → s.msys.canPost 0 = true → ∃ s',
      exec (.receiveRingDelivery ring) s = .next s' ∧ s'.sends = s.sends ∧ s'.ringTails = s.ringTails ∧ s'.readers = (64 + ring) :: s.readers) ∧
    (w.written = true → s.agentBusy (ringChan ring) = false → ∃ s', exec (.receiveRingDelivery ring) s = .next s' ∧
      s'.sends = changeSend ring (fun _ => []) s.sends)) ∧
  (∀ (s : State) (id : Nat) (o : EngineOp) (accepted : Bool), s.opAt id = some o → o.phase = .sent → s.answered o accepted = true →
    let i := Instr.sendAcknowledge ⟨o.die, o.core, o.slot⟩ id accepted
    (accepted = false → s.msys.canPost o.die = false → ∃ s' x, exec i s = .next s' ∧ s'.msys = s.msys ∧ s'.opAt id = some x ∧
      x = { o with done := 0, failing := x.failing } ∧ x.failing ≠ none) ∧
    (accepted = true ∨ s.msys.canPost o.die = true → ∃ s', exec i s = .next s' ∧ ∀ x ∈ s'.ops, x.id = id →
      x.phase = .ended ∧ (accepted = true → x.done = o.words.count) ∧ (accepted = false → x.failed = true ∧ x.done = 0)))

/-- R341 to R347: a weight context is enabled and disabled; route and retire entries are checked and processed, and slots are loaded, with the records
of the loads that fail (R329 to R332); a copy begins once what used the frames of its slot has drained (R335), and a full bin of another context
holds the Acorn of its die.  When the Acorn reads and what it does at a failed read (logs 39, 58), what a disabled context leaves (log 81), and
that a load's copy is one event that the frames of its slot may stop (log 57) are the model's choices. -/
def Obligations.WeightContexts : Prop :=
  (∀ (s : State) (ctx : Nat), s.toEnable ctx = true →
    let i := Instr.weightContextEnable ctx
    let read := s.msys.agentRead (freeAt s 45000) 0 0 (s.descAddr ctx) 128
    (∀ bs m, read = .ok (bs, m) →
      let c := WCtx.initial bs
      let ok := descReservedOk bs = true ∧ c.inRange = true ∧ s.nodesOk c = true
      (s.acornHeld ctx c.die = true → exec i s = .next s) ∧
      (s.acornHeld ctx c.die = false → ok → ∃ s', exec i s = .next s' ∧ s'.ctxAt ctx = some c ∧ s'.msys = m ∧ ∀ k, k ≠ ctx → s'.ctxAt k = s.ctxAt k) ∧
      (s.acornHeld ctx c.die = false → ¬ ok → exec i s = .next ((s.setMsys m).agentWrite (acornChan ctx) c.die 0
        (((s.setMsys m).descAddr ctx + 0x48) % 2 ^ 57) (leBytes (fieldAt bs 0x48 4 - 1) 4) false))) ∧
    (∀ cause va, read = .error (cause, va) → cause ≠ 0 →
      (s.msys.canPost 0 = false → exec i s = .next s) ∧
      (s.msys.canPost 0 = true → ∃ s', exec i s = .next s' ∧ s'.readers = ctx :: s.readers ∧ s'.contexts = s.contexts))) ∧
  (∀ (s : State) (ctx : Nat) (c : WCtx), s.toDisable ctx = some c → let i := Instr.weightContextEnable ctx
    (s.acornHeld ctx c.die = true → exec i s = .next s) ∧
    (s.acornHeld ctx c.die = false → ∃ s1 : State,
      exec i s = .next (s1.agentWrite (acornChan ctx) c.die 0 ((s1.descAddr ctx + 0x20) % 2 ^ 57) (leBytes 0 16) false) ∧ s1.ctxAt ctx = none ∧
      (∀ k, k ≠ ctx → s1.ctxAt k = s.ctxAt k) ∧ s1.msys = { s.msys with windows := s1.msys.windows, tlb := s1.msys.tlb } ∧
      ∀ w, w ∈ s1.msys.windows ↔ w ∈ s.msys.windows ∧
        ¬ (w.world = c.world ∧ c.windowBase ≤ w.base ∧ w.base < c.windowBase + 2 * c.layers * c.experts * c.slotBytes))) ∧
  (∀ (s s1 : State) (ctx : Nat) (c : WCtx) (ring : Bool) (e : List Byte), s.acornNext ctx = some (s1, c, ring, e) →
    let tag := entryTag e
    let behind := ring = true ∧ c.aside tag = true
    let rejects := fun (i : Instr) => ∃ s' c', exec i s = .next s' ∧ s'.ctxAt ctx = some c' ∧ c'.rejected = (c.rejected + 1) % 2 ^ 32 ∧
      c'.batches = c.batches ∧ c'.slots = c.slots ∧ (ring = true → c'.head = (c.head + 1) % 2 ^ 32)
    let aside := fun (i : Instr) => (256 ≤ c.side.length → rejects i) ∧
      (c.side.length < 256 → ∃ s' c', exec i s = .next s' ∧ s'.ctxAt ctx = some c' ∧ c'.side = c.side ++ [e] ∧
        c'.head = (c.head + 1) % 2 ^ 32 ∧ c'.batches = c.batches)
    let i := Instr.routeEntry ctx
    let j := Instr.retireEntry ctx
    (entryRetire e = false →
      (entryFormOk e = false ∨ c.routeOk e = false → rejects i) ∧
      (entryFormOk e = true → c.routeOk e = true →
        (behind → aside i) ∧
        (c.batch tag = none → ring = true → 256 ≤ c.batches.length → aside i) ∧
        (∀ b, ¬ behind → c.batch tag = some b → c.tooMany tag b.gen (entryLayer e) (c.chosen e) = true → rejects i) ∧
        (∀ b, ¬ behind → (c.batch tag = some b ∧ c.tooMany tag b.gen (entryLayer e) (c.chosen e) = false) ∨
            (c.batch tag = none ∧ b = ⟨tag, c.current, []⟩ ∧ (ring = false ∨ c.batches.length < 256)) →
          ∃ s' c' b', exec i s = .next s' ∧ s'.ctxAt ctx = some c' ∧ c'.layer = entryLayer e ∧ c'.batch tag = some b' ∧ b'.gen = b.gen ∧
            c'.rejected = c.rejected))) ∧
    (entryRetire e = true →
      (entryFormOk e = false ∨ (c.batch tag = none ∧ ¬ behind) → rejects j) ∧
      (entryFormOk e = true → c.batch tag = none → behind → aside j) ∧
      (∀ b, entryFormOk e = true → c.batch tag = some b → ∃ s' c', exec j s = .next s' ∧ s'.ctxAt ctx = some c' ∧ c'.batch tag = none ∧
        c'.rejected = c.rejected ∧ (ring = true → c'.head = (c.head + 1) % 2 ^ 32) ∧
        (b.touched.Nodup → ∀ k x, c.slot k = some x → c'.slot k = some { x with users := x.users - if k ∈ b.touched then 1 else 0 })))) ∧
  (∀ (s : State) (ctx : Nat) (c : WCtx), s.ctxAt ctx = some c → c.work ≠ none → exec (.routeEntry ctx) s = .next (s.routeOn ctx) ∧
    (s.acornHeld ctx c.die = true → exec (.routeEntry ctx) s = .next s)) ∧
  (∀ (s : State) (c : WCtx) (x : WSlot), let m := (s.weights c x).2
    m.mem = s.msys.mem ∧ m.dirty = s.msys.dirty ∧ m.held = s.msys.held ∧ m.bring = s.msys.bring) ∧
  (∀ (s : State) (ctx k : Nat) (ok : Bool) (c : WCtx) (x : WSlot), s.ctxAt ctx = some c → c.loadingSlot = some (k, x) →
    (x.waiting = true ∨ s.inUse (c.slotPa k) c.slotBytes = true → exec (.slotLoad ctx k ok) s = .next s) ∧
    (s.inUse (c.slotPa k) c.slotBytes = true ↔
      (∃ p ∈ s.teams, ∃ t, p.2 = some t ∧ ∃ a ∈ t.late, a.touches [⟨false, false, c.slotPa k, c.slotBytes⟩] = true) ∨
      ∃ o ∈ s.ops, o.phase = .running ∧ ∃ w ∈ o.walked, leafPa w.leaf < c.slotPa k + c.slotBytes ∧ c.slotPa k < leafPa w.leaf + pageBytes w.level)) ∧
  (∀ (s : State) (ctx k : Nat) (ok : Bool) (c : WCtx) (x : WSlot) (m : MemSys), s.ctxAt ctx = some c → c.loadingSlot = some (k, x) →
    x.waiting = false → s.inUse (c.slotPa k) c.slotBytes = false → (s.weights c x).2 = m →
    let i := Instr.slotLoad ctx k ok
    let fails := fun (m' : MemSys) => ∃ (s1 : State) (c1 : WCtx), exec i s = .next (s1.routeOn ctx) ∧ s1.ctxAt ctx = some c1 ∧ c1.slot k = none ∧ s1.msys = m'
    let loses := fun (page : Nat) => (m.canPost c.die = false → exec i s = .next (s.setMsys m)) ∧
      (m.canPost c.die = true → fails (m.faultWrite ⟨8, 0, false, false, c.world, c.world, c.die, 0, 0, 0, page, 0, m.assistFaults⟩ .none))
    let misses := fun (write : Bool) (cause va : Nat) =>
      let post : FaultPost := ⟨4, cause, write, false, c.world, c.world, c.die, 0, 0, 0, va, 0, m.assistFaults⟩
      (cause ≠ 0 → m.canPost c.die = false → exec i s = .next (s.setMsys m)) ∧
      (cause = 7 → m.canPost c.die = true → fails (m.faultPost post .none)) ∧
      (cause ≠ 0 → cause ≠ 7 → m.canPost c.die = true → ∃ s' c', exec i s = .next s' ∧ s'.ctxAt ctx = some c' ∧
        c'.slot k = some { x with waiting := true })
    let w := (s.weights c x).1
    (∀ bs page, w = .bytes bs page →
      (ok = true → s.slotCheck c k x bs.length = none → ∃ (s1 : State) (c1 : WCtx), exec i s = .next (s1.routeOn ctx) ∧ s1.ctxAt ctx = some c1 ∧
        c1.slot k = some { x with loading := false } ∧
        (∃ attr, (⟨c.world, c.window x, c.slotBytes, c.slotPa k, attr⟩ : Window) ∈ s1.msys.windows) ∧
        (c.slotPa k + bs.length ≤ hbmBytes → ∀ q, Sparse.get Memory.unwritten s1.msys.mem q =
          if c.slotPa k ≤ q ∧ q < c.slotPa k + bs.length ∧ m.isHeld q = false then bs.getD (q - c.slotPa k) 0 else Sparse.get Memory.unwritten m.mem q)) ∧
      (∀ cause va, ok = true → s.slotCheck c k x bs.length = some (cause, va) → misses true cause va) ∧
      (∀ p, ok = false → page = some p → loses p) ∧ (ok = false → page = none → exec i s = .next s)) ∧
    (w = .failed → fails m) ∧ (∀ p, w = .lost p → loses p) ∧ (w = .busy → exec i s = .next s) ∧
    (∀ cause va, w = .miss (cause, va) → misses false cause va))

/-! Bit fields, floating-point encodings and integer values. -/

/-- R182: `bfx` and `bfi`, their words and every bit of their results; a field that is empty or leaves the operand, an odd
pair and a register out of range make them illegal. -/
def Obligations.BitFields : Prop :=
  (∀ (d a b : Reg) (pos : BitVec 6) (width : BitVec 7), ∃ e : Word, e.toNat = 128 * width.toNat + pos.toNat ∧
    encode (.bfx d a pos width) = [word4 0x37 d a 0, e] ∧ encode (.bfi d a b pos width) = [word4 0x38 d a b, e] ∧
    ∀ rest, decodeWords (word4 0x37 d a 0 :: e :: rest) = .ok (.bfx d a pos width, 2) ∧
      decodeWords (word4 0x38 d a b :: e :: rest) = .ok (.bfi d a b pos width, 2) ∧
      (b ≠ 0 → decodeWords (word4 0x37 d a b :: e :: rest) = .error .reservedField)) ∧
  (∀ (s : State) (c : Issuer) (d a b : Reg) (pos : BitVec 6) (width : BitVec 7), s.issuer = some c →
    let t := c.team
    let w := t.et.wide
    let n := t.et.width
    let p := pos.toNat
    let k := width.toNat
    let x := fun l => t.read s.rf l w (.v a)
    let y := fun l => t.read s.rf l w (.v b)
    let result := fun (i : Instr) (bit : Nat → Nat → Bool) => ∃ val : Nat → Nat, VectorResult i s c 2 w d (fun l => (val l, false)) ∧
      ∀ l, val l < 2 ^ n ∧ ∀ j < n, (val l).testBit j = bit l j
    (if c.vOk w d = true ∧ c.vOk w a = true ∧ k ≠ 0 ∧ p + k ≤ n then
      result (.bfx d a pos width) fun l j => if j < k then (x l).testBit (p + j) else t.et.signed && (x l).testBit (p + k - 1)
     else RaisesIllegal (.bfx d a pos width) s c) ∧
    (if c.vOk w d = true ∧ c.vOk w a = true ∧ c.vOk w b = true ∧ k ≠ 0 ∧ p + k ≤ n then
      result (.bfi d a b pos width) fun l j => if p ≤ j ∧ j < p + k then (y l).testBit (j - p) else (x l).testBit j
     else RaisesIllegal (.bfi d a b pos width) s c))

/-- R192 to R195 on the bits of each element: `fmin`, `fmax`, `fneg`, `fabs`, the compares and `fclass`; NaN is
canonical, −0 is below +0 for `fmin` and `fmax` and equal to it for the compares. -/
def Obligations.FloatOrderAndSign : Prop :=
  ∀ (s : State) (c : Issuer), s.issuer = some c →
    let t := c.team
    let w := t.et.wide
    let f := t.et.fmt
    let parts := fun l (r : Reg) => elems t.et (t.read s.rf l w (.v r))
    let two := fun (i : Instr) (op : BitVec 8) (wd : Bool) (d a b : Reg) (g : Nat → Nat → Nat) =>
      encode i = [word4 op d a b] ∧
      (if c.vOk wd d && c.vOk w a && c.vOk w b then
        VectorResult i s c 1 wd d fun l => (joinElems (List.zipWith g (parts l a) (parts l b)), false)
       else RaisesIllegal i s c)
    let one := fun (i : Instr) (op : BitVec 8) (wd : Bool) (d a : Reg) (g : Nat → Nat) =>
      encode i = [word4 op d a 0] ∧
      (if c.vOk wd d && c.vOk w a then VectorResult i s c 1 wd d fun l => (joinElems ((parts l a).map g), false)
       else RaisesIllegal i s c)
    ∀ d a b : Reg,
      two (.fmin d a b) 0x84 w d a b (f.pick fun x y => decide (x ≤ y)) ∧
      two (.fmax d a b) 0x85 w d a b (f.pick fun x y => decide (y ≤ x)) ∧
      one (.fneg d a) 0x86 w d a (fun x => if f.nanEnc x then f.nanBits else x ^^^ 2 ^ (f.width - 1)) ∧
      one (.fabs d a) 0x87 w d a (fun x => if f.nanEnc x then f.nanBits else f.mag x) ∧
      two (.fcmpeq d a b) 0x88 false d a b (f.test false fun x y => decide (x = y)) ∧
      two (.fcmpne d a b) 0x89 false d a b (f.test true fun x y => decide (x ≠ y)) ∧
      two (.fcmplt d a b) 0x8A false d a b (f.test false fun x y => decide (x < y)) ∧
      two (.fcmple d a b) 0x8B false d a b (f.test false fun x y => decide (x ≤ y)) ∧
      two (.fcmpun d a b) 0x8C false d a b (f.test true fun _ _ => false) ∧
      one (.fclass d a) 0x8D false d a f.classOf

/-- R88, R89, R163, R179 to R181, R183 to R185, R247: what the integer operations deliver, by value and bit by bit: views, wrapping and
clamping with their sticky bit, sums and products, high products, order, logic, shifts, counts, the choice of `sel`, the immediates (that of `addi`
and `muli` is signed under every view: log 13), `movi`, `movh`, `cvti` and `lea`; and what an integer atomic stores. -/
def Obligations.IntegerValues : Prop :=
  ∀ (w : Nat), w = 32 ∨ w = 64 → ∀ (sgn sat : Bool) (a b e : Nat), a < 2 ^ w → b < 2 ^ w → e < 2 ^ w →
    let v := viewInt w sgn
    let x := v a
    let y := v b
    let bits := fun (r : Result) (bit : Nat → Bool) => r.2 = false ∧ r.1 < 2 ^ w ∧ ∀ j < w, r.1.testBit j = bit j
    let op := fun (o : IntV3) => o.eval w sgn sat a b
    let un := fun (o : IntV2) => o.eval w sgn sat a
    let high := fun (r : Result) (add : Int) => r.2 = false ∧ r.1 < 2 ^ w ∧
      ∃ q : Int, q * 2 ^ w ≤ x * y ∧ x * y < (q + 1) * 2 ^ w ∧ (2 ^ w : Int) ∣ q + add - r.1
    let sh := b % 256
    (Fits w sgn x ∧ (2 ^ w : Int) ∣ x - a) ∧
    (∀ z : Int, let r := narrowInt sat w sgn z
      r.1 < 2 ^ w ∧ (r.2 = true ↔ sat = true ∧ ¬ Fits w sgn z) ∧ (r.2 = false → (2 ^ w : Int) ∣ z - r.1) ∧
      (r.2 = true → v r.1 = if z < 0 then (if sgn then -2 ^ (w - 1) else 0) else (if sgn then 2 ^ (w - 1) - 1 else 2 ^ w - 1))) ∧
    (op .add = narrowInt sat w sgn (x + y) ∧ op .sub = narrowInt sat w sgn (x - y) ∧ op .mul = narrowInt sat w sgn (x * y) ∧
      IntV4.mad.eval w sgn sat a b e = narrowInt sat w sgn (x * y + v e) ∧ un .neg = narrowInt sat w sgn (-x) ∧
      un .abs = narrowInt sat w sgn (if x < 0 then -x else x)) ∧
    (high (op .mulhi) 0 ∧ high (IntV4.madhi.eval w sgn sat a b e) (v e)) ∧
    (v (op .min).1 = min x y ∧ v (op .max).1 = max x y ∧ (op .min).1 ∈ [a, b] ∧ (op .max).1 ∈ [a, b]) ∧
    ((op .cmpeq).1 = (decide (x = y)).toNat ∧ (op .cmpne).1 = (decide (x ≠ y)).toNat ∧ (op .cmplt).1 = (decide (x < y)).toNat ∧
      (op .cmple).1 = (decide (x ≤ y)).toNat) ∧
    (bits (op .and) (fun j => a.testBit j && b.testBit j) ∧ bits (op .or) (fun j => a.testBit j || b.testBit j) ∧
      bits (op .xor) (fun j => a.testBit j != b.testBit j) ∧ bits (op .andn) (fun j => a.testBit j && !b.testBit j) ∧
      bits (un .not) (fun j => !a.testBit j) ∧ bits (un .brev) (fun j => a.testBit (w - 1 - j)) ∧ bits (un .mov) (fun j => a.testBit j)) ∧
    (bits (op .shl) (fun j => decide (sh ≤ j) && a.testBit (j - sh)) ∧ bits (op .shr) (fun j => a.testBit (j + sh)) ∧
      bits (op .sar) (fun j => a.testBit (min (j + sh) (w - 1))) ∧ bits (op .rot) (fun j => a.testBit ((j + (w - sh % w)) % w))) ∧
    ((un .popc).1 = ((List.range w).filter a.testBit).length ∧
      (a = 0 → (un .clz).1 = w ∧ (un .ctz).1 = w) ∧
      (a ≠ 0 → (un .clz).1 = w - 1 - a.log2 ∧ a.testBit (un .ctz).1 = true ∧ ∀ j < (un .ctz).1, a.testBit j = false)) ∧
    (∀ c < 2 ^ 32, IntV4.sel.eval w sgn sat a b c = (if c = 0 then b else a, false)) ∧
    (∀ imm : Nat, imm < 2 ^ 16 →
      let z : Int := if imm < 2 ^ 15 then imm else (imm : Int) - 2 ^ 16
      let im := fun (o : IntImm) => o.eval w sgn sat a imm
      im .addi = narrowInt sat w sgn (x + z) ∧ im .muli = narrowInt sat w sgn (x * z) ∧ bits (im .andi) (fun j => a.testBit j && imm.testBit j) ∧
      bits (im .ori) (fun j => a.testBit j || imm.testBit j) ∧ bits (im .xori) (fun j => a.testBit j != imm.testBit j) ∧
      moviBits w imm < 2 ^ w ∧ (2 ^ w : Int) ∣ z - moviBits w imm) ∧
    (∀ n : Nat, n < 64 → let im := fun (o : IntImm) => o.eval w sgn sat a n
      bits (im .shli) (fun j => decide (n ≤ j) && a.testBit (j - n)) ∧ bits (im .shri) (fun j => a.testBit (j + n)) ∧
      bits (im .sari) (fun j => a.testBit (min (j + n) (w - 1)))) ∧
    (∀ (old : Word) (imm : BitVec 16), ∀ j < 32, (movhBits old imm).getLsbD j = if j < 16 then old.getLsbD j else imm.getLsbD (j - 16)) ∧
    (∀ dt st : EType, st.isInt = true → st.width = w → st.signed = sgn → cvtiBits dt st sat a = narrowInt sat dt.width dt.signed x) ∧
    (∀ k < 2 ^ 32, leaBits sgn e k < 2 ^ 64 ∧
      (2 ^ 64 : Int) ∣ (e : Int) + (if sgn = true ∧ 2 ^ 31 ≤ k then (k : Int) - 2 ^ 32 else (k : Int)) - leaBits sgn e k) ∧
    (∀ et : EType, et.isInt = true → et.width = w → et.signed = sgn →
      let m := fun (o : AtomOp) => o.eval et b e a
      (m .add < 2 ^ w ∧ (2 ^ w : Int) ∣ (a : Int) + b - m .add) ∧ v (m .min) = min x y ∧ v (m .max) = max x y ∧
      m .and = (op .and).1 ∧ m .or = (op .or).1 ∧ m .xor = (op .xor).1 ∧ m .xchg = b ∧ m .cas = (if a = e then b else a) ∧
      m .inc = if a ≥ b then 0 else a + 1)

/-! Encoding. -/

/-- Words that the spec writes out, with the instructions they encode (R158 and the worked examples). -/
def Obligations.EncodingSamples : Prop :=
  ∀ p ∈ ([([0x20040409], .add 4 4 9), ([0xFE040403, 0x20800000], .escape 0x20 4 4 3 false true),
      ([0x8314080C, 0x11000000], .ffma 20 8 12 17 false false), ([0x8F060540], .cvt 6 5 .f32 .i32),
      ([0xC9020403, 0x00480008], .lda 2 4 3 .die 8), ([0xD807080A, 0x0B780000], .aadd 7 8 10 11 .pkg .ar 0),
      ([0xB002200C, 0x55800000], .mma 2 32 12 .e4m3 .e4m3 true), ([0xE4000003], .fenceRel .pkg), ([0xE600002A], .bar .die 5),
      ([0x01FFFFF4], .bra 0xFFFFF4), ([0x07050008], .mif 5 8), ([0x38060102, 0x00000184], .bfi 6 1 2 4 3), ([0x47040003], .shri 4 3),
      ([0x98142809, 0x00910000], .cvtn 20 40 9 .e2m1 1), ([0xA2050100, 0x07000003], .lbcast 5 1 7 3),
      ([0xA8090100, 0x04000001], .vscan 9 1 4 .add true), ([0xB1063014, 0xA0830000], .mmas 6 48 20 .int8 3 true),
      ([0xB7020A00], .ldmeta 2 10), ([0xC0010300], .ppscl 1 3), ([0xBF080001], .pprd 8 0 1),
      ([0xD0020401, 0x0000FFFF], .st8 2 4 1 0xFFFF), ([0xD4060800, 0x00700000], .stl 6 8 0 .pkg 0), ([0xEA041C00], .stp 4 28),
      ([0xEF031409], .nrec 3 20 9)] : List (List Word × Instr)),
    decodeWords p.1 = .ok (p.2, p.1.length) ∧ p.2.wellFormed = true

/-- R143 to R158: whatever follows them, the bytes of an instruction's words decode to that instruction, with every operand
at every value; bytes that decode are the bytes of the instruction that they give, so that no reserved bit is passed over;
every well-formed instruction has words. -/
def Obligations.DecodeAndEncodeAgree : Prop :=
  (∀ (i : Instr) (rest : List Byte), encode i ≠ [] → decode (bytesOfWords (encode i) ++ rest) = .ok (i, (encode i).length)) ∧
  (∀ (bytes : List Byte) (i : Instr) (n : Nat), decode bytes = .ok (i, n) →
    bytes.take (4 * n) = bytesOfWords (encode i) ∧ n = (encode i).length) ∧
  (∀ i : Instr, i.wellFormed = true → encode i ≠ [])

/-! The machine as a whole. -/

/-- R46, R143, R311: the team from which a core issues is one that may issue; where it holds the words of its clause, the step
decodes the words at its place and runs that instruction for it, or raises `ILLEGAL_OP`; else the step fetches its clause.  An input
of the agenda comes first: a machine event, a line that fails its check (R326), an access that a timing choice has left for later, or a page that Husk
moves (R365); a doorbell that a team has rung is due like any event, and commands what R296 and R332 say.  The interleaving, the agenda and the events that are due, the one that has waited longest first, are the model's choice (log 2), as are the
counters that each step advances (log 6), the accesses that are performed later (log 4) and what Husk moves (log 64). -/
def Obligations.StepRunsDecoded : Prop :=
  (∀ (s : State) (core : Nat) (r : TeamRef), s.select core = some r → slotKey r / 16 = core ∧ ∃ t c, s.teamAt r = some t ∧
    s.crewAt t.crew = some c ∧ s.mayIssue r t c = true ∧
    (s.taken r t).issuer = some ⟨r, { t with yielded := false, lastIssue := s.clock + 1, wait := none }, t.crew, c⟩) ∧
  (∀ (s s1 : State) (r : TeamRef) (t : Team), s.agenda = [] → s.teamAt r = some t →
    ((∃ core rest, s.sched = (core + 1) :: rest ∧ s1 = { s with sched := rest } ∧ s.select core = some r) ∨
     (s.sched = [] ∧ s1 = { s with turn := !s.turn } ∧ s.selectAny = some r ∧
      (s.turn = false ∨ s.nextDue = none))) →
    (∀ k, t.clause = some k → k.words ≠ [] →
      (∀ i n, decodeWords (k.words.drop k.pos) = .ok (i, n) → step s = tickOutcome (exec i (s1.taken r t))) ∧
      (∀ x, decodeWords (k.words.drop k.pos) = .error x → step s = .next (s1.taken r t).badWord.tick)) ∧
    ((∀ k, t.clause = some k → k.words = []) → step s = tickOutcome (exec (.clauseFetch r) (s1.taken r t)))) ∧
  (∀ (s : State) (e : Input) (rest : List Input), s.agenda = e :: rest →
    let s1 := { s with agenda := rest }
    (∀ i, e = .event i → isEvent i = true → step s = tickOutcome (exec i s1)) ∧
    (∀ i, e = .event i → isEvent i = false → step s = .next s1.tick) ∧
    (∀ line, e = .integrity line → ∃ m, step s = .next (s1.setMsys m).tick ∧ m = { s.msys with poison := m.poison } ∧
      ∀ k, Sparse.get false m.poison k = if k = line then true else Sparse.get false s.msys.poison k) ∧
    (∀ r k, e = .access r k → step s = .next (s1.performAt (freeAt s 61000) r k).tick) ∧
    (∀ die index page frame, e = .migrate die index page frame → step s = .next (s1.migratePage die index page frame).tick)) ∧
  (∀ (s : State) (rest : List Nat), s.agenda = [] → s.sched = 0 :: rest →
    let s1 := { s with sched := rest }
    (∀ e s2, s1.nextDue = some (e, s2) → step s = tickOutcome (e.run s2) ∧ e ∈ s.due ∧ s.dueOrder = e :: s2.queued) ∧
    (s.due = [] → step s = .next s1.tick)) ∧
  (∀ (s : State) (pa : Nat) (bs : List Byte) (rest : List (Nat × List Byte)), s.msys.rung = (pa, bs) :: rest →
    let s1 := s.setMsys { s.msys with rung := rest }
    let n := leNat bs
    Due.doorbell ∈ s.due ∧ Due.doorbell.run s = s1.rings pa bs ∧
    (∀ q, s1.bellDie pa = none → s1.bellQueue pa = some q → bs.length = 4 →
      (pa % 4096 = 0 → s1.rings pa bs = exec (.tailWrite q (BitVec.ofNat 32 n)) s1) ∧
      (pa % 4096 = 8 → n = 1 → s1.rings pa bs = exec (.resumeCommand q) s1) ∧
      (pa % 4096 = 8 → n = 2 → s1.rings pa bs = exec (.destroyCommand q) s1)) ∧
    (∀ die, s1.bellDie pa = some die → bs.length = 8 →
      (bitsOf n 32 2 = 1 → s1.rings pa bs = exec (.faultReplyRetry die (BitVec.ofNat 32 n)) s1) ∧
      (bitsOf n 32 2 = 2 → s1.rings pa bs = exec (.faultReplyEnd die (BitVec.ofNat 32 n)) s1)))

/-- Every step of every machine goes on: an instruction of a team that issues and an event always have an effect, be it a
trap, a wait or nothing (log 62, the model's choice). -/
def Obligations.StepGoesOn : Prop :=
  (∀ s : State, ∃ t, step s = .next t) ∧
  (∀ (i : Instr) (s : State), s.issuer.isSome = true ∨ isEvent i = true → ∃ t, exec i s = .next t)

/-- R5, R17, R354: every step keeps memory in its canonical form, and the dirty host lines whole lines of host memory, each once. -/
def Obligations.EveryStepKeepsMemory : Prop :=
  ∀ s t : State, s.Inv → step s = .next t → t.Inv

/-- R74, R76, R79, R80, R282: after reset no team is resident, every core register is 0, and the invariant holds; a team is
launched with registers, flags, mode and sticky bits zero but for the argument address in s0:1, and with `part` 0b101.  Memory reads as
zero (log 1), and the interface is UNLOCKED. -/
def Obligations.ResetAndLaunchValues : Prop :=
  (State.reset.Inv ∧ (∀ r, State.reset.teamAt r = none) ∧ (∀ k, State.reset.crewAt k = none) ∧
    (∀ die core, State.reset.coreAt die core = CoreRegs.mk 0 0) ∧ State.reset.firm.iface = .unlocked ∧
    ∀ a, Sparse.get Memory.unwritten State.reset.msys.mem a = 0) ∧
  (∀ (cid i level : Nat) (d : TeamDecl) (pc : VAddr) (arg : Nat),
    let t := launchTeam cid i level d pc (launchRegs arg [])
    (∀ l r, t.vreg l r = 0) ∧ (∀ r, t.sreg r = if r = 0 then BitVec.ofNat 32 arg else if r = 1 then BitVec.ofNat 32 (arg / 2 ^ 32) else 0) ∧
    t.flags = 0 ∧ t.mode = 0 ∧ t.part = 0b101 ∧ t.stat = 0 ∧ t.pc = pc ∧ t.level = level ∧ t.div = [] ∧ t.ret = [] ∧
    ∀ l, l < 1024 → t.mask.getLsbD l = decide (l < d.lanes))
end

