-- ==== Sys2Proof/Laws/Sparse.lean ====
section
/-! SUPPORT. Laws of sparse tables: a read after a write, writes of runs, and the canonical form.  None of the read laws needs the
table to be canonical. -/

namespace Sys2Proof.Machine.Sparse

variable {α : Type}

@[simp] theorem get_nil (d : α) (i : Nat) : get d ([] : List (Nat × α)) i = d := rfl

theorem get_cons (d : α) (k : Nat) (v : α) (m : List (Nat × α)) (i : Nat) :
    get d ((k, v) :: m) i = if i < k then d else if i = k then v else get d m i := rfl

/-- Entries at or below `i` that stand in front are not seen by a read above `i`. -/
theorem get_dropWhile (d : α) (m : List (Nat × α)) {i j : Nat} (h : i < j) :
    get d (m.dropWhile (fun p => decide (p.1 ≤ i))) j = get d m j := by
  induction m with
  | nil => rfl
  | cons p m ih =>
    obtain ⟨k, v⟩ := p
    rw [List.dropWhile_cons]
    by_cases hk : k ≤ i
    · have h1 : ¬ j < k := by omega
      have h2 : j ≠ k := by omega
      simp [hk, get_cons, h1, h2, ih]
    · simp [hk]

/-- After the entries at or below `i` are dropped, `i` reads as the default. -/
theorem get_dropWhile_self (d : α) (m : List (Nat × α)) (i : Nat) :
    get d (m.dropWhile (fun p => decide (p.1 ≤ i))) i = d := by
  induction m with
  | nil => rfl
  | cons p m ih =>
    obtain ⟨k, v⟩ := p
    rw [List.dropWhile_cons]
    by_cases hk : k ≤ i
    · simp [hk, ih]
    · have : i < k := by omega
      simp [hk, get_cons, this]

variable [DecidableEq α]

/-- A read of the key written. -/
@[simp] theorem get_set_self (d : α) (m : List (Nat × α)) (i : Nat) (v : α) : get d (set d m i v) i = v := by
  induction m with
  | nil =>
    by_cases hv : v = d
    · simp [set, hv]
    · simp [set, hv, get_cons]
  | cons p m ih =>
    obtain ⟨k, w⟩ := p
    rw [set]
    by_cases h1 : i < k
    · by_cases hv : v = d
      · simp [h1, hv, get_cons]
      · simp [h1, hv, get_cons]
    · by_cases h2 : i = k
      · subst h2
        by_cases hv : v = d
        · simp [hv, get_dropWhile_self]
        · simp [hv, get_cons]
      · simp [h1, h2, get_cons, ih]

/-- A read of another key. -/
theorem get_set_ne (d : α) (m : List (Nat × α)) {i j : Nat} (v : α) (h : j ≠ i) : get d (set d m i v) j = get d m j := by
  induction m with
  | nil =>
    by_cases hv : v = d
    · simp [set, hv]
    · simp [set, hv, get_cons, h]
  | cons p m ih =>
    obtain ⟨k, w⟩ := p
    rw [set]
    by_cases h1 : i < k
    · by_cases hv : v = d
      · simp [h1, hv]
      · by_cases h3 : j < i
        · have : j < k := by omega
          simp [h1, hv, get_cons, h3, this]
        · simp [h1, hv, get_cons, h3, h]
    · by_cases h2 : i = k
      · subst h2
        by_cases hv : v = d
        · by_cases h3 : j < i
          · have hd : get d (m.dropWhile (fun p => decide (p.1 ≤ i))) j = d := by
              clear ih
              induction m with
              | nil => rfl
              | cons q m ih2 =>
                obtain ⟨k, u⟩ := q
                rw [List.dropWhile_cons]
                by_cases hk : k ≤ i
                · simp [hk, ih2]
                · have : j < k := by omega
                  simp [hk, get_cons, this]
            simp [hv, get_cons, h3, hd]
          · have h4 : i < j := by omega
            simp [hv, get_cons, h3, h, get_dropWhile d m h4]
        · by_cases h3 : j < i
          · simp [hv, get_cons, h3]
          · have h4 : i < j := by omega
            simp [hv, get_cons, h3, h, get_dropWhile d m h4]
      · by_cases h3 : j < k
        · simp [h1, h2, get_cons, h3]
        · by_cases h4 : j = k
          · simp [h1, h2, get_cons, h4]
          · simp [h1, h2, get_cons, h3, h4, ih]

theorem get_set (d : α) (m : List (Nat × α)) (i j : Nat) (v : α) :
    get d (set d m i v) j = if j = i then v else get d m j := by
  by_cases h : j = i
  · subst h; simp
  · simp [h, get_set_ne d m v h]

/-- A read of a key that none of several writes names. -/
theorem get_setAll_of_not_mem (d : α) (ws : List (Nat × α)) : ∀ (m : List (Nat × α)) (j : Nat),
    (∀ p ∈ ws, p.1 ≠ j) → get d (setAll d m ws) j = get d m j := by
  induction ws with
  | nil => intro m j _; rfl
  | cons p ws ih =>
    intro m j h
    obtain ⟨k, v⟩ := p
    have hk : j ≠ k := fun e => h (k, v) (by simp) e.symm
    rw [setAll, ih _ _ (fun p hp => h p (by simp [hp])), get_set_ne d m v hk]

/-- A read of a key that the writes name, where all that name it agree. -/
theorem get_setAll_of_mem (d : α) (ws : List (Nat × α)) : ∀ (m : List (Nat × α)) (j : Nat) (v : α),
    (j, v) ∈ ws → (∀ p ∈ ws, p.1 = j → p.2 = v) → get d (setAll d m ws) j = v := by
  induction ws with
  | nil => intro m j v h; simp at h
  | cons p ws ih =>
    intro m j v h hall
    obtain ⟨k, w⟩ := p
    rw [setAll]
    by_cases hmem : ∃ q ∈ ws, q.1 = j
    · obtain ⟨q, hq, hj⟩ := hmem
      have hv : q.2 = v := hall q (by simp [hq]) hj
      have : (j, v) ∈ ws := by rw [← hj, ← hv]; exact hq
      exact ih _ j v this (fun p hp => hall p (by simp [hp]))
    · have hne : ∀ q ∈ ws, q.1 ≠ j := fun q hq e => hmem ⟨q, hq, e⟩
      rw [get_setAll_of_not_mem d ws _ j hne]
      have hin : (j, v) = (k, w) := by
        rcases List.mem_cons.1 h with h | h
        · exact h
        · exact absurd rfl (hne _ h)
      cases hin
      simp

/-! Runs. -/

/-- A read below or above a run of writes. -/
theorem get_setRun_out (d : α) (vs : List α) : ∀ (m : List (Nat × α)) (i j : Nat),
    (j < i ∨ i + vs.length ≤ j) → get d (setRun d m i vs) j = get d m j := by
  induction vs with
  | nil => intro m i j _; rfl
  | cons v vs ih =>
    intro m i j h
    simp only [List.length_cons] at h
    have h1 : j ≠ i := by omega
    have h2 : j < i + 1 ∨ i + 1 + vs.length ≤ j := by omega
    rw [setRun, ih _ _ _ h2, get_set_ne d m v h1]

/-- A read inside a run of writes. -/
theorem get_setRun_in (d : α) (vs : List α) : ∀ (m : List (Nat × α)) (i k : Nat) (h : k < vs.length),
    get d (setRun d m i vs) (i + k) = vs[k] := by
  induction vs with
  | nil => intro m i k h; simp at h
  | cons v vs ih =>
    intro m i k h
    cases k with
    | zero =>
      rw [setRun, get_setRun_out d vs _ (i + 1) (i + 0) (Or.inl (by omega))]
      simp
    | succ k =>
      have := ih (set d m i v) (i + 1) k (by simpa using h)
      rw [setRun]
      simpa [Nat.add_assoc, Nat.add_comm 1 k] using this

/-! The canonical form. -/

theorem wfFrom_mono {d : α} {m : List (Nat × α)} : ∀ {lo lo' : Nat}, lo' ≤ lo → wfFrom d lo m = true → wfFrom d lo' m = true := by
  intro lo lo' h hm
  cases m with
  | nil => rfl
  | cons p m =>
    obtain ⟨k, v⟩ := p
    simp only [wfFrom, Bool.and_eq_true, decide_eq_true_eq] at hm ⊢
    exact ⟨⟨by omega, hm.1.2⟩, hm.2⟩

/-- In a canonical table from `lo` on, dropping the keys at or below `i` leaves a canonical table from `i + 1` on. -/
theorem wfFrom_dropWhile (d : α) (m : List (Nat × α)) (i : Nat) : ∀ lo, wfFrom d lo m = true →
    wfFrom d (i + 1) (m.dropWhile (fun p => decide (p.1 ≤ i))) = true := by
  induction m with
  | nil => intro lo _; rfl
  | cons p m ih =>
    intro lo h
    obtain ⟨k, v⟩ := p
    rw [List.dropWhile_cons]
    have h' := h
    simp only [wfFrom, Bool.and_eq_true, decide_eq_true_eq] at h
    by_cases hk : k ≤ i
    · simp [hk, ih (k + 1) h.2]
    · simp only [hk, decide_false, Bool.false_eq_true, if_false]
      simp only [wfFrom, Bool.and_eq_true, decide_eq_true_eq]
      exact ⟨⟨by omega, h.1.2⟩, h.2⟩

theorem wfFrom_set (d : α) (m : List (Nat × α)) (i : Nat) (v : α) : ∀ lo, lo ≤ i → wfFrom d lo m = true →
    wfFrom d lo (set d m i v) = true := by
  induction m with
  | nil =>
    intro lo hi _
    by_cases hv : v = d
    · simp [set, hv, wfFrom]
    · simp [set, hv, wfFrom, hi]
  | cons p m ih =>
    intro lo hi h
    obtain ⟨k, w⟩ := p
    have h' := h
    simp only [wfFrom, Bool.and_eq_true, decide_eq_true_eq] at h
    rw [set]
    by_cases h1 : i < k
    · by_cases hv : v = d
      · simp only [h1, hv, if_true]; exact h'
      · simp only [h1, hv, if_true, if_false, wfFrom, Bool.and_eq_true, decide_eq_true_eq]
        exact ⟨⟨hi, hv⟩, ⟨⟨by omega, h.1.2⟩, h.2⟩⟩
    · by_cases h2 : i = k
      · subst h2
        have hd := wfFrom_dropWhile d m i (i + 1) h.2
        by_cases hv : v = d
        · simp only [h1, hv, if_true, if_false]
          exact wfFrom_mono (by omega) hd
        · simp only [h1, hv, if_true, if_false, wfFrom, Bool.and_eq_true, decide_eq_true_eq]
          exact ⟨⟨hi, hv⟩, hd⟩
      · simp only [h1, h2, if_false, wfFrom, Bool.and_eq_true, decide_eq_true_eq]
        exact ⟨h.1, ih (k + 1) (by omega) h.2⟩

/-- A write keeps the canonical form. -/
theorem wf_set {d : α} {m : List (Nat × α)} (i : Nat) (v : α) (h : wf d m = true) : wf d (set d m i v) = true :=
  wfFrom_set d m i v 0 (Nat.zero_le i) h

theorem wf_setAll {d : α} (ws : List (Nat × α)) : ∀ {m : List (Nat × α)}, wf d m = true → wf d (setAll d m ws) = true := by
  induction ws with
  | nil => intro m h; exact h
  | cons p ws ih => intro m h; exact ih (wf_set p.1 p.2 h)

theorem wf_setRun {d : α} (vs : List α) : ∀ {m : List (Nat × α)} (i : Nat), wf d m = true → wf d (setRun d m i vs) = true := by
  induction vs with
  | nil => intro m i h; exact h
  | cons v vs ih => intro m i h; exact ih (i + 1) (wf_set i v h)

theorem wfFrom_filter (d : α) (f : Nat × α → Bool) (m : List (Nat × α)) : ∀ lo, wfFrom d lo m = true → wfFrom d lo (m.filter f) = true := by
  induction m with
  | nil => intro lo _; rfl
  | cons p m ih =>
    intro lo h
    obtain ⟨k, v⟩ := p
    simp only [wfFrom, Bool.and_eq_true, decide_eq_true_eq] at h
    have hm := ih (k + 1) h.2
    by_cases hf : f (k, v) = true
    · simp only [List.filter_cons, hf, if_true, wfFrom, Bool.and_eq_true, decide_eq_true_eq]
      exact ⟨h.1, hm⟩
    · simp only [List.filter_cons, hf]
      exact wfFrom_mono (by omega) hm

/-- Leaving entries out keeps the canonical form. -/
theorem wf_filter {d : α} {m : List (Nat × α)} (f : Nat × α → Bool) (h : wf d m = true) : wf d (m.filter f) = true := wfFrom_filter d f m 0 h

theorem get_clearFrom (d : α) (lo n : Nat) (m : List (Nat × α)) : ∀ b i,
    get d (clearFrom lo n b m) i = if i < b ∨ (lo ≤ i ∧ i < lo + n) then d else get d m i := by
  induction m with
  | nil => intro b i; simp [clearFrom]
  | cons p m ih =>
    intro b i
    obtain ⟨k, v⟩ := p
    rw [clearFrom]
    by_cases h1 : k < b
    · rw [if_pos h1, ih, get_cons]
      (repeat' split) <;> first | rfl | (exfalso; omega)
    · rw [if_neg h1]
      by_cases h2 : lo ≤ k ∧ k < lo + n
      · rw [if_pos h2, ih, get_cons]
        (repeat' split) <;> first | rfl | (exfalso; omega)
      · rw [if_neg h2, get_cons, get_cons, ih]
        (repeat' split) <;> first | rfl | (exfalso; omega)

/-- A read after a run is cleared: the default within it, and what was there outside it. -/
theorem get_clearRun (d : α) (m : List (Nat × α)) (lo n i : Nat) :
    get d (clearRun m lo n) i = if lo ≤ i ∧ i < lo + n then d else get d m i := by
  simp [clearRun, get_clearFrom]

theorem wfFrom_clearFrom (d : α) (lo n : Nat) (m : List (Nat × α)) : ∀ b, wfFrom d b m = true → wfFrom d b (clearFrom lo n b m) = true := by
  induction m with
  | nil => intro b _; rfl
  | cons p m ih =>
    intro b h
    obtain ⟨k, v⟩ := p
    simp only [wfFrom, Bool.and_eq_true, decide_eq_true_eq] at h
    have hm := ih (k + 1) h.2
    have h1 : ¬ k < b := by omega
    by_cases h2 : lo ≤ k ∧ k < lo + n
    · rw [clearFrom, if_neg h1, if_pos h2]
      exact wfFrom_mono (by omega) hm
    · rw [clearFrom, if_neg h1, if_neg h2]
      simp only [wfFrom, Bool.and_eq_true, decide_eq_true_eq]
      exact ⟨h.1, hm⟩

theorem wf_clearRun {d : α} {m : List (Nat × α)} (lo n : Nat) (h : wf d m = true) : wf d (clearRun m lo n) = true :=
  wfFrom_clearFrom d lo n m 0 h

end Sys2Proof.Machine.Sparse
end

