-- ==== Sys2Proof/Laws/Memory.lean ====
section
/-! SUPPORT. Memory keeps its canonical form under every operation, and reads after writes. -/

namespace Sys2Proof.Machine

/-- The canonical form of the memory of a memory system. -/
abbrev MemSys.canon (m : MemSys) : Prop := Memory.wf m.mem = true

theorem MemSys.canon_initial : MemSys.initial.canon := rfl

theorem MemSys.canon_pokeB {m : MemSys} (h : m.canon) (pa : Nat) (b : Byte) : (m.pokeB pa b).canon := Sparse.wf_set pa b h
theorem MemSys.canon_pokeN {m : MemSys} (h : m.canon) (pa : Nat) (bs : List Byte) : (m.pokeN pa bs).canon := Sparse.wf_setRun bs pa h
theorem MemSys.canon_writeBack {m : MemSys} (h : m.canon) (d : DirtyLine) : (m.writeBack d).canon := MemSys.canon_pokeN h _ _

@[simp] theorem MemSys.nextSeq_mem (m : MemSys) (k : Nat) : (m.nextSeq k).2.mem = m.mem := rfl

@[simp] theorem MemSys.number_mem (m : MemSys) (b : Bool) (pa : Nat) : (m.number b pa).mem = m.mem := by cases b <;> rfl

theorem MemSys.canon_makeRoom {m : MemSys} (h : m.canon) (k : Nat) : (m.makeRoom k).canon := by
  unfold MemSys.makeRoom
  split
  · split
    · exact MemSys.canon_writeBack h _
    · exact h
  · exact h

theorem MemSys.canon_takeDirty {m : MemSys} (h : m.canon) (line k : Nat) : (m.takeDirty line k).canon := by
  unfold MemSys.takeDirty
  split
  · exact h
  · exact MemSys.canon_makeRoom h _

theorem MemSys.canon_writeHostLine {m : MemSys} (h : m.canon) (world pa : Nat) (bs : List Byte) : (m.writeHostLine world pa bs).canon :=
  MemSys.canon_takeDirty h _ _

@[simp] theorem MemSys.advanceReplay_mem (m : MemSys) (pa : Nat) : (m.advanceReplay pa).mem = m.mem := by
  unfold MemSys.advanceReplay
  split <;> rfl

theorem MemSys.canon_writeLine {m : MemSys} (h : m.canon) (world pa : Nat) (bs : List Byte) : (m.writeLine world pa bs).canon := by
  unfold MemSys.writeLine
  dsimp only
  split
  · exact MemSys.canon_writeHostLine h _ _ _
  · exact MemSys.canon_pokeN (by simpa [MemSys.canon] using h) _ _

theorem MemSys.canon_foldl {α : Type} (f : MemSys → α → MemSys) (hf : ∀ m a, m.canon → (f m a).canon) (l : List α) :
    ∀ m : MemSys, m.canon → (l.foldl f m).canon := by
  induction l with
  | nil => intro m h; exact h
  | cons a l ih => intro m h; exact ih _ (hf m a h)

theorem MemSys.canon_writeN {m : MemSys} (h : m.canon) (world pa : Nat) (bs : List Byte) : (m.writeN world pa bs).canon :=
  MemSys.canon_foldl _ (fun _ _ h => MemSys.canon_writeLine h _ _ _) _ m h

theorem MemSys.canon_writeNat {m : MemSys} (h : m.canon) (world pa n x : Nat) : (m.writeNat world pa n x).canon := MemSys.canon_writeN h _ _ _

/-- A write that leaves held lines alone keeps the canonical form too. -/
theorem MemSys.canon_writeFree {m : MemSys} (h : m.canon) (world pa : Nat) (bs : List Byte) : (m.writeFree world pa bs).canon := by
  refine MemSys.canon_foldl _ (fun m i h => ?_) _ m h
  split
  · exact h
  · exact MemSys.canon_writeLine h _ _ _

@[simp] theorem MemSys.setPoison_mem (m : MemSys) (line : Nat) (b : Bool) : (m.setPoison line b).mem = m.mem := rfl

/-- A write that leaves read-only fields alone keeps the canonical form too. -/
theorem MemSys.canon_softWrite {m : MemSys} (h : m.canon) (world pa : Nat) (bs : List Byte) : (m.softWrite world pa bs).canon := by
  unfold MemSys.softWrite
  split
  · refine MemSys.canon_foldl _ (fun m i h => ?_) _ m h
    split
    · exact h
    · exact MemSys.canon_writeN h _ _ _
  · exact MemSys.canon_writeN h _ _ _

@[simp] theorem MemSys.fix_mem (m : MemSys) (pa n : Nat) : (m.fix pa n).mem = m.mem := by
  unfold MemSys.fix
  split <;> rfl

@[simp] theorem MemSys.unfix_mem (m : MemSys) (pa : Nat) : (m.unfix pa).mem = m.mem := rfl

@[simp] theorem MemSys.l1Drop_mem (m : MemSys) (c l : Nat) : (m.l1Drop c l).mem = m.mem := rfl
@[simp] theorem MemSys.l1Fill_mem (m : MemSys) (c l w : Nat) : (m.l1Fill c l w).mem = m.mem := rfl
@[simp] theorem MemSys.l1Store_mem (m : MemSys) (c pa : Nat) (bs : List Byte) : (m.l1Store c pa bs).mem = m.mem := rfl
@[simp] theorem MemSys.l1Discard_mem (m : MemSys) (d c : Nat) : (m.l1Discard d c).mem = m.mem := rfl
@[simp] theorem MemSys.l1DiscardQuad_mem (m : MemSys) (d q : Nat) : (m.l1DiscardQuad d q).mem = m.mem := rfl
@[simp] theorem MemSys.walksFill_mem (m : MemSys) (d sp va : Nat) : (m.walksFill d sp va).mem = m.mem := rfl

@[simp] theorem MemSys.tlbKeep_mem (m : MemSys) (d : Nat) (c : Option Nat) (sp va : Nat) (leaf : Dword) (l : Nat) :
    (m.tlbKeep d c sp va leaf l).mem = m.mem := by
  unfold MemSys.tlbKeep MemSys.tlbKeep.go
  split
  · split <;> rfl
  · rfl

@[simp] theorem MemSys.tlbFill_mem (m : MemSys) (a : Access) (va : Nat) (leaf : Dword) (l : Nat) : (m.tlbFill a va leaf l).mem = m.mem := by
  unfold MemSys.tlbFill
  split <;> simp

/-- A page that a pinned entry of the die's TLB maps, and whose entry in the core's TLB agrees with it where there is one, has that leaf
whatever serves (R327, R335). -/
theorem MemSys.leafFor_pinned (m : MemSys) (free die space va : Nat) (core : Option Nat) (e : TlbEntry) (hw : m.windowFor space va = none)
    (he : m.tlbFind die none space (va / 4096) = some e) (hp : leafPin e.leaf = true)
    (hc : ∀ x, m.tlbFind die core space (va / 4096) = some x → x.leafAt (va / 4096) = e.leafAt (va / 4096) ∧ x.level = e.level) :
    m.leafFor free die core space va = .ok (e.leafAt (va / 4096), e.level) := by
  have hl : m.lastLeaf free die space va = .ok (e.leafAt (va / 4096), e.level) := by simp [MemSys.lastLeaf, he, hp]
  unfold MemSys.leafFor
  rw [hw]
  cases core with
  | none => exact hl
  | some k =>
    cases hf : m.tlbFind die (some k) space (va / 4096) with
    | none => simp [hl]
    | some x => simp [hl, (hc x hf).1, (hc x hf).2]

@[simp] theorem MemSys.atsForget_mem (m : MemSys) (d sp va : Nat) : (m.atsForget d sp va).mem = m.mem := rfl

@[simp] theorem MemSys.acquire_mem (m : MemSys) (d c : Nat) (sc : Scope) : (m.acquire d c sc).mem = m.mem := by
  cases sc <;> simp only [MemSys.acquire] <;> (try rfl)
  split <;> rfl

@[simp] theorem MemSys.atsAsk_mem (m : MemSys) (d sp va : Nat) (w : Bool) : (m.atsAsk d sp va w).mem = m.mem := by
  unfold MemSys.atsAsk
  split <;> rfl

@[simp] theorem MemSys.evictCounter_mem (m : MemSys) (d : Nat) : (m.evictCounter d).mem = m.mem := by
  unfold MemSys.evictCounter
  split <;> rfl

@[simp] theorem MemSys.count_mem (m : MemSys) (d sp w va : Nat) (leaf : Dword) : (m.count d sp w va leaf).mem = m.mem := by
  unfold MemSys.count
  split
  · rfl
  · dsimp only
    repeat' split
    all_goals simp

@[simp] theorem MemSys.loadRelaxed_mem (m : MemSys) (f d c w : Nat) (msd : Bool) (pa n : Nat) : (m.loadRelaxed f d c w msd pa n).2.mem = m.mem := by
  unfold MemSys.loadRelaxed
  dsimp only
  split
  · rfl
  · split
    · split <;> rfl
    · rfl

@[simp] theorem MemSys.loadHome_mem (m : MemSys) (d c w : Nat) (msd : Bool) (pa n : Nat) : (m.loadHome d c w msd pa n).2.mem = m.mem := by
  unfold MemSys.loadHome
  dsimp only
  split <;> simp

theorem MemSys.canon_store {m : MemSys} (h : m.canon) (d c w : Nat) (msd : Bool) (pa : Nat) (bs : List Byte) : (m.store d c w msd pa bs).canon := by
  unfold MemSys.store
  dsimp only
  split
  · exact h
  · apply MemSys.canon_softWrite
    split
    · exact h
    · split <;> exact h

theorem MemSys.canon_atomic {m : MemSys} (h : m.canon) (d c w : Nat) (msd : Bool) (pa n : Nat) (f : Nat → Nat) :
    (m.atomic d c w msd pa n f).2.canon := by
  unfold MemSys.atomic
  dsimp only
  apply MemSys.canon_softWrite
  split
  · exact h
  · exact h

theorem MemSys.canon_faultWrite {m : MemSys} (h : m.canon) (p : FaultPost) (o : FaultOwner) : (m.faultWrite p o).canon := MemSys.canon_writeFree h _ _ _

theorem MemSys.canon_faultPost {m : MemSys} (h : m.canon) (p : FaultPost) (o : FaultOwner) : (m.faultPost p o).canon := by
  unfold MemSys.faultPost
  split
  · exact MemSys.canon_faultWrite h _ _
  · exact h

theorem MemSys.canon_agentPut (num drop : Bool) (world : Nat) (ps : List Piece) :
    ∀ (m : MemSys) (bs : List Byte), m.canon → (m.agentPut num drop world ps bs).canon := by
  induction ps with
  | nil => intro m bs h; exact h
  | cons p ps ih =>
    intro m bs h
    refine ih _ _ ?_
    split
    · exact h
    · exact MemSys.canon_writeN (by simpa [MemSys.canon] using h) _ _ _

/-! Reads after writes. -/

/-- A byte of memory proper reads as written. -/
@[simp] theorem MemSys.get_pokeB_self (m : MemSys) (pa : Nat) (b : Byte) : Sparse.get Memory.unwritten (m.pokeB pa b).mem pa = b := by
  simp [MemSys.pokeB]

theorem MemSys.get_pokeB_ne (m : MemSys) {pa q : Nat} (b : Byte) (h : q ≠ pa) :
    Sparse.get Memory.unwritten (m.pokeB pa b).mem q = Sparse.get Memory.unwritten m.mem q := by
  simp [MemSys.pokeB, Sparse.get_set_ne _ _ _ h]

/-- Bytes outside those written keep their values. -/
theorem MemSys.get_pokeN_out (m : MemSys) (pa q : Nat) (bs : List Byte) (h : q < pa ∨ pa + bs.length ≤ q) :
    Sparse.get Memory.unwritten (m.pokeN pa bs).mem q = Sparse.get Memory.unwritten m.mem q := Sparse.get_setRun_out _ _ _ _ _ h

/-- Bytes written read as written. -/
theorem MemSys.get_pokeN_in (m : MemSys) (pa k : Nat) (bs : List Byte) (h : k < bs.length) :
    Sparse.get Memory.unwritten (m.pokeN pa bs).mem (pa + k) = bs[k] := Sparse.get_setRun_in _ _ _ _ _ h

end Sys2Proof.Machine
end

