-- ==== Sys2Proof/Laws/Access.lean ====
section
/-! SUPPORT. What performing an accepted access does (R129 to R132): memory keeps its canonical form, and only memory, the issuing team and its
crew change. -/

namespace Sys2Proof.Machine

theorem Target.canon_read (p : Target) (free : Nat) (r : TeamRef) (world : Nat) (home : Bool) {m : MemSys} (crew : Crew) (h : m.canon) :
    (p.read free r world home m crew).2.canon := by
  unfold Target.read
  cases p.scratch <;> cases home <;> simp [MemSys.canon] <;> exact h

/-- A merge keeps the canonical form (R248). -/
theorem MemSys.canon_apmul {m : MemSys} (h : m.canon) (world pa : Nat) (p : PolyAcc) : (m.apmul world pa p).canon := by
  have h' : (m.number true pa).canon := h
  rw [MemSys.apmul]
  exact MemSys.canon_softWrite h' world pa _

theorem LateKind.canon_act (k : LateKind) (free : Nat) (r : TeamRef) (world : Nat) (p : Target) (bs : List Byte) {m : MemSys}
    (crew : Crew) (h : m.canon) : (k.act free r world p bs m crew).2.1.canon := by
  cases k with
  | load keys ext home => exact p.canon_read _ _ _ _ _ h
  | part lane off => exact p.canon_read _ _ _ _ _ h
  | store b =>
    unfold LateKind.act
    cases p.scratch
    · exact MemSys.canon_store h _ _ _ _ _ _
    · exact h
  | atomic keys op mode x cmp => exact MemSys.canon_atomic h _ _ _ _ _ _ _
  | merge a =>
    rw [LateKind.act]
    exact MemSys.canon_apmul h world p.addr a
  | take l d x => exact h

theorem LateKind.canon_perform (k : LateKind) (free : Nat) (r : TeamRef) (world : Nat) (ps : List Target) :
    ∀ (bs : List Byte) {m : MemSys} (crew : Crew), m.canon → (k.perform free r world ps bs m crew).2.1.canon := by
  induction ps with
  | nil => exact fun _ _ _ h => h
  | cons p ps ih => exact fun bs _ crew h => ih _ _ (k.canon_act free r world p (bs.take p.len) crew h)

/-- A late access that is performed changes memory, teams and crews, and nothing else. -/
theorem State.performAt_frame (s : State) (free : Nat) (r : TeamRef) (k : Nat) :
    ∃ m crews teams, s.performAt free r k = { s with msys := m, crews := crews, teams := teams } ∧ (s.msys.canon → m.canon) := by
  have same : ∃ m crews teams, s = { s with msys := m, crews := crews, teams := teams } ∧ (s.msys.canon → m.canon) := ⟨_, _, _, rfl, id⟩
  unfold State.performAt
  split
  · exact same
  · split
    · split
      · exact same
      · exact ⟨_, _, _, rfl, LateKind.canon_perform _ _ _ _ _ _ _⟩
    · exact same

/-- A late access that comes behind an earlier one is not performed (R130, R132, R224). -/
theorem State.performAt_blocked {s : State} {free : Nat} {r : TeamRef} {k : Nat} {t : Team} {a : LateAcc} (ht : s.teamAt r = some t)
    (ha : t.late[k]? = some a) (hb : (t.late.take k).any a.behind = true) : s.performAt free r k = s := by
  unfold State.performAt
  simp only [ht, ha]
  split
  · next h _ => cases h; simp [hb]
  · rfl

/-- The late accesses performed in order change memory, teams and crews, and nothing else. -/
theorem State.performFirst_frame (r : TeamRef) (n : Nat) :
    ∀ s : State, ∃ m crews teams, s.performFirst r n = { s with msys := m, crews := crews, teams := teams } ∧ (s.msys.canon → m.canon) := by
  induction n with
  | zero => exact fun s => ⟨_, _, _, rfl, id⟩
  | succ n ih =>
    intro s
    obtain ⟨m, cs, ts, h, hm⟩ := s.performAt_frame (freeAt s (61000 + n)) r 0
    obtain ⟨m', cs', ts', h', hm'⟩ := ih (s.performAt (freeAt s (61000 + n)) r 0)
    refine ⟨m', cs', ts', ?_, fun hc => hm' (by rw [h]; exact hm hc)⟩
    rw [State.performFirst, h', h]

end Sys2Proof.Machine
end

