-- ==== Sys2Proof/Laws/Agents.lean ====
section
/-! SUPPORT. What the writes of device agents leave alone. -/

namespace Sys2Proof.Machine

/-- What the writes of device agents may change of the memory system. -/
def MemSys.AgentFrame (m n : MemSys) : Prop :=
  ∃ mem dirty seq replays ats faultNext faults posts tlb walks counters reached completions, n = { m with
    mem := mem, dirty := dirty, seq := seq, replays := replays, ats := ats, faultNext := faultNext, faults := faults, posts := posts
    tlb := tlb, walks := walks, counters := counters, reached := reached, completions := completions }

theorem MemSys.AgentFrame.refl (m : MemSys) : m.AgentFrame m := ⟨_, _, _, _, _, _, _, _, _, _, _, _, _, rfl⟩

theorem MemSys.AgentFrame.trans {m n o : MemSys} (h : m.AgentFrame n) (k : n.AgentFrame o) : m.AgentFrame o := by
  obtain ⟨_, _, _, _, _, _, _, _, _, _, _, _, _, rfl⟩ := h
  obtain ⟨_, _, _, _, _, _, _, _, _, _, _, _, _, rfl⟩ := k
  exact ⟨_, _, _, _, _, _, _, _, _, _, _, _, _, rfl⟩

theorem MemSys.nextSeq_frame (m : MemSys) (k : Nat) : m.AgentFrame (m.nextSeq k).2 := ⟨_, _, _, _, _, _, _, _, _, _, _, _, _, rfl⟩

theorem MemSys.number_frame (m : MemSys) (b : Bool) (pa : Nat) : m.AgentFrame (m.number b pa) := by
  unfold MemSys.number
  split
  · exact m.nextSeq_frame _
  · exact .refl m

theorem MemSys.takeDirty_frame (m : MemSys) (l k : Nat) : m.AgentFrame (m.takeDirty l k) := by
  unfold MemSys.takeDirty
  split
  · exact ⟨_, _, _, _, _, _, _, _, _, _, _, _, _, rfl⟩
  · unfold MemSys.makeRoom
    split
    · split
      · exact ⟨_, _, _, _, _, _, _, _, _, _, _, _, _, rfl⟩
      · exact .refl m
    · exact .refl m

theorem MemSys.advanceReplay_frame (m : MemSys) (pa : Nat) : m.AgentFrame (m.advanceReplay pa) := by
  unfold MemSys.advanceReplay
  split
  · exact ⟨_, _, _, _, _, _, _, _, _, _, _, _, _, rfl⟩
  · exact .refl m

theorem MemSys.writeLine_frame (m : MemSys) (w pa : Nat) (bs : List Byte) : m.AgentFrame (m.writeLine w pa bs) := by
  unfold MemSys.writeLine
  simp only
  split
  · exact (m.takeDirty_frame _ _).trans ⟨_, _, _, _, _, _, _, _, _, _, _, _, _, rfl⟩
  · exact (m.advanceReplay_frame _).trans ⟨_, _, _, _, _, _, _, _, _, _, _, _, _, rfl⟩

theorem MemSys.writeN_frame (m : MemSys) (w pa : Nat) (bs : List Byte) : m.AgentFrame (m.writeN w pa bs) := by
  unfold MemSys.writeN
  generalize lineParts bs.length pa bs = ps
  induction ps generalizing m with
  | nil => exact .refl m
  | cons p ps ih => exact (m.writeLine_frame w p.1 p.2).trans (ih _)

theorem MemSys.writeFree_frame (m : MemSys) (w pa : Nat) (bs : List Byte) : m.AgentFrame (m.writeFree w pa bs) := by
  unfold MemSys.writeFree
  generalize lineParts bs.length pa bs = ps
  induction ps generalizing m with
  | nil => exact .refl m
  | cons p ps ih =>
    simp only [List.foldl_cons]
    split
    · exact ih m
    · exact (m.writeLine_frame w p.1 p.2).trans (ih _)

theorem MemSys.noteDone_frame (m : MemSys) (chan : Nat) (ps : List Piece) : m.AgentFrame (m.noteDone chan ps) := by
  unfold MemSys.noteDone
  split
  · exact ⟨_, _, _, _, _, _, _, _, _, _, _, _, _, rfl⟩
  · exact .refl m

theorem MemSys.agentPut_frame (num drop : Bool) (w : Nat) (ps : List Piece) :
    ∀ (m : MemSys) (bs : List Byte), m.AgentFrame (m.agentPut num drop w ps bs) := by
  induction ps with
  | nil => exact fun m _ => .refl m
  | cons p ps ih =>
    intro m bs
    refine MemSys.AgentFrame.trans ?_ (ih _ _)
    split
    · exact .refl m
    · exact (m.number_frame _ _).trans (MemSys.writeN_frame _ _ _ _)

theorem MemSys.tlbKeep_frame (m : MemSys) (d : Nat) (c : Option Nat) (sp va : Nat) (leaf : Dword) (l : Nat) :
    m.AgentFrame (m.tlbKeep d c sp va leaf l) := by
  unfold MemSys.tlbKeep MemSys.tlbKeep.go
  split
  · split
    · exact .refl m
    · exact ⟨_, _, _, _, _, _, _, _, _, _, _, _, _, rfl⟩
  · exact ⟨_, _, _, _, _, _, _, _, _, _, _, _, _, rfl⟩

/-- What a translation leaves in the TLBs and in the walker is all that it changes. -/
theorem MemSys.tlbFill_frame (m : MemSys) (a : Access) (va : Nat) (leaf : Dword) (l : Nat) : m.AgentFrame (m.tlbFill a va leaf l) := by
  have h : m.AgentFrame ((m.walksFill a.die a.world va).tlbKeep a.die none a.world va leaf l) :=
    MemSys.AgentFrame.trans (n := m.walksFill a.die a.world va) ⟨_, _, _, _, _, _, _, _, _, _, _, _, _, rfl⟩ (MemSys.tlbKeep_frame _ _ _ _ _ _ _)
  unfold MemSys.tlbFill
  split
  · exact h.trans (MemSys.tlbKeep_frame _ _ _ _ _ _ _)
  · exact h

theorem MemSys.count_frame (m : MemSys) (d sp w va : Nat) (leaf : Dword) : m.AgentFrame (m.count d sp w va leaf) := by
  unfold MemSys.count MemSys.evictCounter
  dsimp only
  repeat' split
  all_goals exact ⟨_, _, _, _, _, _, _, _, _, _, _, _, _, rfl⟩

theorem MemSys.agentPieces_frame (ps : List (Nat × Nat)) : ∀ (m n : MemSys) (free : Nat) (a : Access) (qs : List Piece),
    m.agentPieces free a ps = .ok (n, qs) → m.AgentFrame n := by
  induction ps with
  | nil =>
    intro m n free a qs h
    cases h
    exact .refl m
  | cons p ps ih =>
    intro m n free a qs h
    obtain ⟨va, k⟩ := p
    simp only [MemSys.agentPieces] at h
    split at h
    · rename_i pa leaf lvl _
      split at h
      · rename_i m' rest hr
        cases h
        exact ((m.tlbFill_frame a va leaf lvl).trans (MemSys.count_frame _ _ _ _ _ _)).trans (ih _ _ _ _ _ hr)
      · cases h
    all_goals cases h

theorem MemSys.faultWrite_frame (m : MemSys) (p : FaultPost) (o : FaultOwner) : m.AgentFrame (m.faultWrite p o) :=
  (m.writeFree_frame _ _ _).trans ⟨_, _, _, _, _, _, _, _, _, _, _, _, _, rfl⟩

theorem MemSys.faultPost_frame (m : MemSys) (p : FaultPost) (o : FaultOwner) : m.AgentFrame (m.faultPost p o) := by
  unfold MemSys.faultPost
  split
  · exact m.faultWrite_frame p o
  · exact ⟨_, _, _, _, _, _, _, _, _, _, _, _, _, rfl⟩

theorem MemSys.agentFail_frame (m : MemSys) (code die w : Nat) (wr : Bool) (f : AgentFail) (o : FaultOwner) :
    m.AgentFrame (m.agentFail code die w wr f o) := by
  unfold MemSys.agentFail
  split
  · unfold MemSys.atsAsk
    split
    · exact .refl m
    · exact ⟨_, _, _, _, _, _, _, _, _, _, _, _, _, rfl⟩
  · refine MemSys.AgentFrame.trans ?_ (MemSys.faultPost_frame _ _ _)
    split
    · exact ⟨_, _, _, _, _, _, _, _, _, _, _, _, _, rfl⟩
    · exact .refl m

/-- A step that changes only what device agents change. -/
def State.AgentFrame (s t : State) : Prop := ∃ m agents ids, s.msys.AgentFrame m ∧ t = { s with msys := m, agents := agents, ids := ids }

theorem State.AgentFrame.trans {s t u : State} (h : s.AgentFrame t) (k : t.AgentFrame u) : s.AgentFrame u := by
  obtain ⟨_, _, _, h, rfl⟩ := h
  obtain ⟨_, _, _, k, rfl⟩ := k
  exact ⟨_, _, _, h.trans k, rfl⟩

theorem State.AgentFrame.refl (s : State) : s.AgentFrame s := ⟨_, _, _, .refl _, rfl⟩

theorem State.agentTry_frame (s : State) (w : AgentWrite) : s.AgentFrame (s.agentTry w).2.2 := by
  unfold State.agentTry
  split
  · exact .refl s
  · split
    · rename_i hp
      exact ⟨_, _, _, ((MemSys.agentPieces_frame _ _ _ _ _ _ hp).trans (MemSys.agentPut_frame _ _ _ _ _ _)).trans (MemSys.noteDone_frame _ _ _), rfl⟩
    · exact ⟨_, _, _, MemSys.agentFail_frame _ _ _ _ _ _ _, rfl⟩

theorem flushGo_frame (ws : List AgentWrite) : ∀ (blocked : List Nat) (keep : List AgentWrite) (s : State),
    s.AgentFrame (flushGo ws blocked keep s) := by
  induction ws with
  | nil => exact fun _ _ s => ⟨_, _, _, .refl _, rfl⟩
  | cons w ws ih =>
    intro blocked keep s
    unfold flushGo
    have h := s.agentTry_frame w
    split
    · exact ih _ _ _
    · split
      · rename_i heq
        rw [heq] at h
        exact h.trans (ih _ _ _)
      · rename_i heq
        rw [heq] at h
        exact h.trans (ih _ _ _)

/-- Handing a write to a device agent changes only what device agents change. -/
theorem State.agentWrite_frame (s : State) (chan die world va : Nat) (data : List Byte) (msd : Bool) :
    s.AgentFrame (s.agentWrite chan die world va data msd) := by
  unfold State.agentWrite State.agentFlush
  exact State.AgentFrame.trans (t := { s with ids := s.ids + 1, agents := s.agents ++ [⟨s.ids, chan, die, world, va, data, msd, false⟩] })
    ⟨_, _, _, .refl _, rfl⟩ (flushGo_frame _ _ _ _)

/-- The held lines follow the grids, and nothing else changes with them. -/
theorem State.refreshHeld_frame (s : State) : ∃ held, s.refreshHeld = s.setMsys { s.msys with held := held } := ⟨_, rfl⟩

/-- An update of a state area changes the grid, what device agents change, and the held lines of a grid that ends. -/
theorem State.areaWrite_frame (s : State) (g : Grid) (pages : List Nat) : ∃ m agents ids n held, s.msys.AgentFrame m ∧
    s.areaWrite g pages = { s with msys := { m with held := held }, agents := agents, ids := ids
                                   grids := (s.setGrid { g with seq := n }).grids } := by
  have fold : ∀ (g : Grid) (ps : List Nat) (s : State), s.AgentFrame (ps.foldl (fun s i =>
      s.agentWrite (gridChan g.gid) (g.pageAt i).die g.world (g.record.stateAddr + 64 + 8 * i) (g.pageAt i).bytes true) s) := by
    intro g ps
    induction ps with
    | nil => exact fun s => .refl s
    | cons p ps ih => exact fun s => (s.agentWrite_frame _ _ _ _ _ _).trans (ih _)
  let n := (s.gridSeq g).1
  let s1 : State := (s.gridSeq g).2.setGrid { g with seq := n }
  have h1 := (fold { g with seq := n } pages s1).trans
    (State.agentWrite_frame _ (gridChan g.gid) 0 g.world g.record.stateAddr ({ g with seq := n } : Grid).header true)
  obtain ⟨m, ag, ids, hm, he⟩ := h1
  exact ⟨m, ag, ids, n, _, (s.msys.nextSeq_frame g.home).trans hm, congrArg State.refreshHeld he⟩

theorem logFrame {s s0 t : State} (h : s0.AgentFrame t) (hs : ∃ m gs, s.msys.AgentFrame m ∧ s0 = { s with msys := m, grids := gs }) :
    ∃ m agents ids grids, s.msys.AgentFrame m ∧ t = { s with msys := m, agents := agents, ids := ids, grids := grids } := by
  obtain ⟨_, _, h0, rfl⟩ := hs
  obtain ⟨_, _, _, h1, rfl⟩ := h
  exact ⟨_, _, _, _, h0.trans h1, rfl⟩

/-- Logging an arrival changes the grid's log, and what device agents change. -/
theorem State.barLog_frame (s : State) (scope : Scope) (b : BarState) (c : Crew) : ∃ m agents ids grids, s.msys.AgentFrame m ∧
    s.barLog scope b c = { s with msys := m, agents := agents, ids := ids, grids := grids } := by
  have none : ∃ m agents ids grids, s.msys.AgentFrame m ∧ s = { s with msys := m, agents := agents, ids := ids, grids := grids } :=
    ⟨_, _, _, _, .refl _, rfl⟩
  unfold State.barLog
  split
  · split
    · exact none
    · exact none
    · split
      · exact logFrame ((State.agentWrite_frame _ _ _ _ _ _ _).trans (State.agentWrite_frame _ _ _ _ _ _ _))
          ⟨_, _, s.msys.nextSeq_frame _, rfl⟩
      · exact none
  · exact none

end Sys2Proof.Machine
end

