-- ==== Sys2Proof/Laws/Encoding.lean ====
section
/-! SUPPORT. The fields of a word built from fields, and one round trip for each shape of encoding: the words of
an instruction of that shape, whatever follows them, decode to that instruction. -/

namespace Sys2Proof

/-! Words of R144. -/

@[simp] theorem opOf_word4 (op d a b : BitVec 8) : opOf (word4 op d a b) = op := by ext i hi; grind [word4]
@[simp] theorem dOf_word4 (op d a b : BitVec 8) : dOf (word4 op d a b) = d := by ext i hi; grind [word4]
@[simp] theorem aOf_word4 (op d a b : BitVec 8) : aOf (word4 op d a b) = a := by ext i hi; grind [word4]
@[simp] theorem bOf_word4 (op d a b : BitVec 8) : bOf (word4 op d a b) = b := by ext i hi; grind [word4]
@[simp] theorem immOf_word4 (op d a b : BitVec 8) : immOf (word4 op d a b) = a ++ b := by ext i hi; grind [word4]
@[simp] theorem offOf_word4 (op d a b : BitVec 8) : offOf (word4 op d a b) = d ++ a ++ b := by
  ext i hi; grind [word4]

@[simp] theorem opOf_wordI (op d : BitVec 8) (x : BitVec 16) : opOf (wordI op d x) = op := by ext i hi; grind [wordI]
@[simp] theorem dOf_wordI (op d : BitVec 8) (x : BitVec 16) : dOf (wordI op d x) = d := by ext i hi; grind [wordI]
@[simp] theorem immOf_wordI (op d : BitVec 8) (x : BitVec 16) : immOf (wordI op d x) = x := by
  ext i hi; grind [wordI]
theorem wordI_low (op d : BitVec 8) (x : BitVec 16) {lo n : Nat} (h : lo + n ≤ 16) :
    (wordI op d x).extractLsb' lo n = x.extractLsb' lo n := by ext i hi; grind [wordI]
theorem wordI_part (op : BitVec 8) (t : BitVec 3) : (wordI op 0#8 (0#13 ++ t)).extractLsb' 3 21 = 0 := by
  ext i hi; grind [wordI]

@[simp] theorem opOf_wordJ (op : BitVec 8) (x : BitVec 24) : opOf (wordJ op x) = op := by ext i hi; grind [wordJ]
@[simp] theorem offOf_wordJ (op : BitVec 8) (x : BitVec 24) : offOf (wordJ op x) = x := by ext i hi; grind [wordJ]

/-! Extension words of R154. -/

@[simp] theorem opOf_extA (c : BitVec 8) (ub uc : Bool) : opOf (extA c ub uc) = c := by ext i hi; grind [extA]
@[simp] theorem extA_ub (c : BitVec 8) (ub uc : Bool) : (extA c ub uc)[23] = ub := by grind [extA]
@[simp] theorem extA_uc (c : BitVec 8) (ub uc : Bool) : (extA c ub uc)[22] = uc := by grind [extA]
@[simp] theorem extA_zero (c : BitVec 8) (ub uc : Bool) : (extA c ub uc).extractLsb' 0 22 = 0 := by
  ext i hi; grind [extA]
@[simp] theorem offOf_extA (c : BitVec 8) : offOf (extA c false false) = 0 := by
  ext i hi; simp [extA]; grind

@[simp] theorem opOf_extX (c : BitVec 8) (ua ub : Bool) : opOf (extX c ua ub) = c := by ext i hi; grind [extX]
@[simp] theorem extX_ub (c : BitVec 8) (ua ub : Bool) : (extX c ua ub)[23] = ub := by grind [extX]
@[simp] theorem extX_ua (c : BitVec 8) (ua ub : Bool) : (extX c ua ub)[22] = ua := by grind [extX]
@[simp] theorem extX_zero (c : BitVec 8) (ua ub : Bool) : (extX c ua ub).extractLsb' 0 22 = 0 := by
  ext i hi; grind [extX]

@[simp] theorem extB_pos (w : BitVec 7) (p : BitVec 6) : (extB w p).extractLsb' 0 6 = p := by ext i hi; grind [extB]
@[simp] theorem extB_width (w : BitVec 7) (p : BitVec 6) : (extB w p).extractLsb' 7 7 = w := by
  ext i hi; grind [extB]
@[simp] theorem extB_zero (w : BitVec 7) (p : BitVec 6) : (extB w p).extractLsb' 14 18 = 0 := by
  ext i hi; grind [extB]
@[simp] theorem extB_gap (w : BitVec 7) (p : BitVec 6) : (extB w p).extractLsb' 6 1 = 0 := by
  ext i hi; grind [extB]

@[simp] theorem opOf_extS (c : BitVec 8) (f o : BitVec 4) (x : BitVec 8) : opOf (extS c f o x) = c := by
  ext i hi; grind [extS]
@[simp] theorem extS_fmt (c : BitVec 8) (f o : BitVec 4) (x : BitVec 8) : (extS c f o x).extractLsb' 20 4 = f := by
  ext i hi; grind [extS]
@[simp] theorem extS_op (c : BitVec 8) (f o : BitVec 4) (x : BitVec 8) : (extS c f o x).extractLsb' 16 4 = o := by
  ext i hi; grind [extS]
@[simp] theorem immOf_extS (c : BitVec 8) (f o : BitVec 4) (x : BitVec 8) : immOf (extS c f o x) = 0#8 ++ x := by
  ext i hi; grind [extS]
@[simp] theorem bOf_extS (c : BitVec 8) (f o : BitVec 4) (x : BitVec 8) : bOf (extS c f o x) = x := by
  ext i hi; grind [extS]
@[simp] theorem extS_mid (c : BitVec 8) (x : BitVec 8) : (extS c 0#4 0#4 x).extractLsb' 8 16 = 0 := by
  ext i hi; grind [extS]
@[simp] theorem extS_bit (c : BitVec 8) (f o : BitVec 4) (x : BitVec 7) (e : Bool) :
    (extS c f o (x ++ BitVec.ofBool e))[0] = e := by grind [extS]
@[simp] theorem extS_seven (c : BitVec 8) (f o : BitVec 4) (e : Bool) :
    (extS c f o (0#7 ++ BitVec.ofBool e)).extractLsb' 1 15 = 0 := by ext i hi; grind [extS]

@[simp] theorem opOf_extM (c : BitVec 8) (s : Scope) (o : Order) (x : BitVec 16) : opOf (extM c s o x) = c := by
  ext i hi; grind [extM]
@[simp] theorem immOf_extM (c : BitVec 8) (s : Scope) (o : Order) (x : BitVec 16) : immOf (extM c s o x) = x := by
  ext i hi; grind [extM]
@[simp] theorem extM_zero (c : BitVec 8) (s : Scope) (o : Order) (x : BitVec 16) :
    (extM c s o x).extractLsb' 16 3 = 0 := by ext i hi; grind [extM]
@[simp] theorem extM_scope (c : BitVec 8) (s : Scope) (o : Order) (x : BitVec 16) :
    (extM c s o x).extractLsb' 21 3 = s.code := by ext i hi; grind [extM]
@[simp] theorem extM_order (c : BitVec 8) (s : Scope) (o : Order) (x : BitVec 16) :
    (extM c s o x).extractLsb' 19 2 = o.code := by ext i hi; grind [extM]
@[simp] theorem extM_plain (x : BitVec 16) : (extM 0#8 .core .relaxed x).extractLsb' 16 16 = 0 := by
  ext i hi; simp [extM, Scope.code, Order.code]; grind

@[simp] theorem extMx_fa (fa fb : BitVec 4) (s : Bool) (k : BitVec 3) : (extMx fa fb s k).extractLsb' 28 4 = fa := by
  ext i hi; grind (ematch := 15) [extMx, -BitVec.append_assoc, -BitVec.append_assoc']
@[simp] theorem extMx_fb (fa fb : BitVec 4) (s : Bool) (k : BitVec 3) : (extMx fa fb s k).extractLsb' 24 4 = fb := by
  ext i hi; grind (ematch := 15) [extMx, -BitVec.append_assoc, -BitVec.append_assoc']
@[simp] theorem extMx_slot (fa fb : BitVec 4) (s : Bool) (k : BitVec 3) : (extMx fa fb s k).extractLsb' 16 3 = k := by
  ext i hi; grind (ematch := 15) [extMx, -BitVec.append_assoc, -BitVec.append_assoc']
@[simp] theorem extMx_spad (fa fb : BitVec 4) (s : Bool) (k : BitVec 3) : (extMx fa fb s k)[23] = s := by
  grind (ematch := 15) [extMx, -BitVec.append_assoc, -BitVec.append_assoc']
@[simp] theorem extMx_gap (fa fb : BitVec 4) (s : Bool) (k : BitVec 3) : (extMx fa fb s k).extractLsb' 19 4 = 0 := by
  ext i hi; grind (ematch := 15) [extMx, -BitVec.append_assoc, -BitVec.append_assoc']
@[simp] theorem extMx_zero (fa fb : BitVec 4) (s : Bool) (k : BitVec 3) : (extMx fa fb s k).extractLsb' 0 16 = 0 := by
  ext i hi; grind (ematch := 15) [extMx, -BitVec.append_assoc, -BitVec.append_assoc']
@[simp] theorem extMx_plain (fa fb : BitVec 4) (s : Bool) : (extMx fa fb s 0#3).extractLsb' 0 23 = 0 := by
  ext i hi; simp [extMx]; grind

/-! The codes read back. -/

@[simp] theorem Scope.ofCode_code (s : Scope) : Scope.ofCode s.code = some s := by cases s <;> rfl
@[simp] theorem Order.ofCode_code (o : Order) : Order.ofCode o.code = o := by cases o <;> rfl
@[simp] theorem EType.ofCode_code (t : EType) : EType.ofCode t.code = t := by cases t <;> rfl
@[simp] theorem Fmt.ofCode_code (f : Fmt) : Fmt.ofCode f.code = some f := by cases f <;> rfl
@[simp] theorem RedOp.ofCode_code (o : RedOp) : RedOp.ofCode o.code = some o := by cases o <;> rfl

/-- An opcode's first word, for an opcode without an extension word. -/
theorem decode_short {w : Word} {i : Instr} (s : Shape) (rest : List Word) (h : opcodeMap (opOf w) = some s)
    (hs : s.extended = false) (hi : s.decode w 0#32 = .ok i) : decodeWords (w :: rest) = .ok (i, 1) := by
  simp [decodeWords, h, hs, hi, Except.map]

/-- An opcode's two words, for an opcode with an extension word. -/
theorem decode_long {w e : Word} {i : Instr} (s : Shape) (rest : List Word) (h : opcodeMap (opOf w) = some s)
    (hs : s.extended = true) (hi : s.decode w e = .ok i) : decodeWords (w :: e :: rest) = .ok (i, 2) := by
  simp [decodeWords, h, hs, hi, Except.map]

end Sys2Proof
end

