-- ==== Sys2Proof/Laws/PerInstr.lean ====
section
/-! SUPPORT. The family `CodeWord`: the words of an instruction, whatever follows them, decode to that instruction and
to no more of the words than its own.  One lemma per shape of encoding, then one per constructor. -/

namespace Sys2Proof.Laws

/-- An instruction that has words: they decode back to it, with every field at every value (R143 to R157). -/
def CodeWord.Statement (i : Instr) : Prop :=
  encode i ≠ [] → ∀ rest, decodeWords (encode i ++ rest) = .ok (i, (encode i).length)

/-! Fields of the sub-fields of b and imm. -/

theorem part_low (x : BitVec 13) (t : BitVec 3) : (x ++ t).extractLsb' 0 3 = t := by ext i hi; grind
theorem bar_high (x : BitVec 13) (t : BitVec 3) : (x ++ t).extractLsb' 3 13 = x := by ext i hi; grind
theorem sh_low (t : BitVec 6) : (0#10 ++ t).extractLsb' 0 6 = t := by ext i hi; grind
theorem sh_zero (t : BitVec 6) : (0#10 ++ t).extractLsb' 6 10 = 0 := by ext i hi; grind
theorem t2_gap7 (op d a : BitVec 8) (x y : EType) : (word4 op d a (typeByte x y)).extractLsb' 7 1 = 0 := by
  ext i hi; grind (ematch := 15) [word4, typeByte, -BitVec.append_assoc, -BitVec.append_assoc']
theorem t2_gap3 (op d a : BitVec 8) (x y : EType) : (word4 op d a (typeByte x y)).extractLsb' 3 1 = 0 := by
  ext i hi; grind (ematch := 15) [word4, typeByte, -BitVec.append_assoc, -BitVec.append_assoc']
theorem t2_dt (op d a : BitVec 8) (x y : EType) : (word4 op d a (typeByte x y)).extractLsb' 4 3 = x.code := by
  ext i hi; grind (ematch := 15) [word4, typeByte, -BitVec.append_assoc, -BitVec.append_assoc']
theorem t2_st (op d a : BitVec 8) (x y : EType) : (word4 op d a (typeByte x y)).extractLsb' 0 3 = y.code := by
  ext i hi; grind (ematch := 15) [word4, typeByte, -BitVec.append_assoc, -BitVec.append_assoc']

/-! One round trip per shape. -/

theorem rt_n {op : BitVec 8} {i : Instr} (h : opcodeMap op = some (Shape.n i)) (rest : List Word) :
    decodeWords ([word4 op 0 0 0] ++ rest) = .ok (i, 1) :=
  decode_short (Shape.n i) rest (by simp only [opOf_word4, h]) rfl (by simp [Shape.decode, guardOk])
theorem rt_j {op : BitVec 8} {f : BitVec 24 → Instr} (h : opcodeMap op = some (.j f)) (x : BitVec 24) (rest : List Word) :
    decodeWords ([wordJ op x] ++ rest) = .ok (f x, 1) :=
  decode_short (.j f) rest (by simp only [opOf_wordJ, h]) rfl (by simp [Shape.decode])
theorem rt_cb {op : BitVec 8} {f : Reg → BitVec 16 → Instr} (h : opcodeMap op = some (.cb f)) (d : Reg) (x : BitVec 16) (rest : List Word) :
    decodeWords ([wordI op d x] ++ rest) = .ok (f d x, 1) :=
  decode_short (.cb f) rest (by simp only [opOf_wordI, h]) rfl (by simp [Shape.decode])
theorem rt_a {op : BitVec 8} {f : Reg → Instr} (h : opcodeMap op = some (.a f)) (a : Reg) (rest : List Word) :
    decodeWords ([word4 op 0 a 0] ++ rest) = .ok (f a, 1) :=
  decode_short (.a f) rest (by simp only [opOf_word4, h]) rfl (by simp [Shape.decode, guardOk])
theorem rt_d {op : BitVec 8} {f : Reg → Instr} (h : opcodeMap op = some (.d f)) (d : Reg) (rest : List Word) :
    decodeWords ([word4 op d 0 0] ++ rest) = .ok (f d, 1) :=
  decode_short (.d f) rest (by simp only [opOf_word4, h]) rfl (by simp [Shape.decode, guardOk])
theorem rt_da {op : BitVec 8} {f : Reg → Reg → Instr} (h : opcodeMap op = some (.da f)) (d : Reg) (a : Reg) (rest : List Word) :
    decodeWords ([word4 op d a 0] ++ rest) = .ok (f d a, 1) :=
  decode_short (.da f) rest (by simp only [opOf_word4, h]) rfl (by simp [Shape.decode, guardOk])
theorem rt_dab {op : BitVec 8} {f : Reg → Reg → Reg → Instr} (h : opcodeMap op = some (.dab f)) (d : Reg) (a : Reg) (b : Reg) (rest : List Word) :
    decodeWords ([word4 op d a b] ++ rest) = .ok (f d a b, 1) :=
  decode_short (.dab f) rest (by simp only [opOf_word4, h]) rfl (by simp [Shape.decode])
theorem rt_db {op : BitVec 8} {f : Reg → BitVec 8 → Instr} (h : opcodeMap op = some (.db f)) (d : Reg) (b : BitVec 8) (rest : List Word) :
    decodeWords ([word4 op d 0 b] ++ rest) = .ok (f d b, 1) :=
  decode_short (.db f) rest (by simp only [opOf_word4, h]) rfl (by simp [Shape.decode, guardOk])
theorem rt_ab {op : BitVec 8} {f : Reg → BitVec 8 → Instr} (h : opcodeMap op = some (.ab f)) (a : Reg) (b : BitVec 8) (rest : List Word) :
    decodeWords ([word4 op 0 a b] ++ rest) = .ok (f a b, 1) :=
  decode_short (.ab f) rest (by simp only [opOf_word4, h]) rfl (by simp [Shape.decode, guardOk])
theorem rt_i16 {op : BitVec 8} {f : BitVec 16 → Instr} (h : opcodeMap op = some (.i16 f)) (x : BitVec 16) (rest : List Word) :
    decodeWords ([wordI op 0 x] ++ rest) = .ok (f x, 1) :=
  decode_short (.i16 f) rest (by simp only [opOf_wordI, h]) rfl (by simp [Shape.decode, guardOk])
theorem rt_part {op : BitVec 8} {f : BitVec 3 → Instr} (h : opcodeMap op = some (.part f)) (t : BitVec 3) (rest : List Word) :
    decodeWords ([wordI op 0 (0#13 ++ t)] ++ rest) = .ok (f t, 1) :=
  decode_short (.part f) rest (by simp only [opOf_wordI, h]) rfl (by simp [Shape.decode, guardOk, wordI_low, wordI_part, part_low])
theorem rt_vi {op : BitVec 8} {f : Reg → BitVec 16 → Instr} (h : opcodeMap op = some (.vi f)) (d : Reg) (x : BitVec 16) (rest : List Word) :
    decodeWords ([wordI op d x] ++ rest) = .ok (f d x, 1) :=
  decode_short (.vi f) rest (by simp only [opOf_wordI, h]) rfl (by simp [Shape.decode])
theorem rt_sh {op : BitVec 8} {f : Reg → BitVec 6 → Instr} (h : opcodeMap op = some (.sh f)) (d : Reg) (x : BitVec 6) (rest : List Word) :
    decodeWords ([wordI op d (0#10 ++ x)] ++ rest) = .ok (f d x, 1) :=
  decode_short (.sh f) rest (by simp only [opOf_wordI, h]) rfl (by simp [Shape.decode, guardOk, wordI_low, sh_zero, sh_low])
theorem rt_t2 {op : BitVec 8} {f : Reg → Reg → EType → EType → Instr} (h : opcodeMap op = some (.t2 f)) (d : Reg) (a : Reg) (dt : EType) (st : EType) (rest : List Word) :
    decodeWords ([word4 op d a (typeByte dt st)] ++ rest) = .ok (f d a dt st, 1) :=
  decode_short (.t2 f) rest (by simp only [opOf_word4, h]) rfl (by simp [Shape.decode, guardOk, t2_gap7, t2_gap3, t2_dt, t2_st])
theorem rt_fe {op : BitVec 8} {f : Scope → Instr} (h : opcodeMap op = some (.fe f)) (s : Scope) (rest : List Word) :
    decodeWords ([wordI op 0 (0#13 ++ s.code)] ++ rest) = .ok (f s, 1) :=
  decode_short (.fe f) rest (by simp only [opOf_wordI, h]) rfl (by simp [Shape.decode, withScope, wordI_low, wordI_part, part_low])
theorem rt_bar {op : BitVec 8} {f : Scope → BitVec 13 → Instr} (h : opcodeMap op = some (.bar f)) (s : Scope) (n : BitVec 13) (rest : List Word) :
    decodeWords ([wordI op 0 (n ++ s.code)] ++ rest) = .ok (f s n, 1) :=
  decode_short (.bar f) rest (by simp only [opOf_wordI, h]) rfl (by simp [Shape.decode, withScope, wordI_low, part_low, bar_high])
theorem rt_ea {op : BitVec 8} {f : Reg → Reg → Reg → Reg → Bool → Bool → Instr} (h : opcodeMap op = some (.ea f)) (d : Reg) (a : Reg) (b : Reg) (c : Reg) (ub : Bool) (uc : Bool) (rest : List Word) :
    decodeWords ([word4 op d a b, extA c ub uc] ++ rest) = .ok (f d a b c ub uc, 2) :=
  decode_long (.ea f) rest (by simp only [opOf_word4, h]) rfl (by simp [Shape.decode, guardOk])
theorem rt_u4 {op : BitVec 8} {f : Reg → Reg → Reg → Reg → Instr} (h : opcodeMap op = some (.u4 f)) (d : Reg) (a : Reg) (b : Reg) (c : Reg) (rest : List Word) :
    decodeWords ([word4 op d a b, extA c false false] ++ rest) = .ok (f d a b c, 2) :=
  decode_long (.u4 f) rest (by simp only [opOf_word4, h]) rfl (by simp [Shape.decode, guardOk])
theorem rt_bfx {op : BitVec 8} {f : Reg → Reg → BitVec 6 → BitVec 7 → Instr} (h : opcodeMap op = some (.bfx f)) (d : Reg) (a : Reg) (p : BitVec 6) (w : BitVec 7) (rest : List Word) :
    decodeWords ([word4 op d a 0, extB w p] ++ rest) = .ok (f d a p w, 2) :=
  decode_long (.bfx f) rest (by simp only [opOf_word4, h]) rfl (by simp [Shape.decode, guardOk])
theorem rt_bfi {op : BitVec 8} {f : Reg → Reg → Reg → BitVec 6 → BitVec 7 → Instr} (h : opcodeMap op = some (.bfi f)) (d : Reg) (a : Reg) (b : Reg) (p : BitVec 6) (w : BitVec 7) (rest : List Word) :
    decodeWords ([word4 op d a b, extB w p] ++ rest) = .ok (f d a b p w, 2) :=
  decode_long (.bfi f) rest (by simp only [opOf_word4, h]) rfl (by simp [Shape.decode, guardOk])
theorem rt_cvtn {op : BitVec 8} (h : opcodeMap op = some (.cvtn)) (d : Reg) (a : Reg) (b : Reg) (x : Fmt) (o : BitVec 4) (rest : List Word) :
    decodeWords ([word4 op d a b, extS 0 x.code o 0] ++ rest) = .ok (.cvtn d a b x o, 2) :=
  decode_long (.cvtn) rest (by simp only [opOf_word4, h]) rfl (by simp [Shape.decode, withFmt])
theorem rt_cvtw {op : BitVec 8} (h : opcodeMap op = some (.cvtw)) (d : Reg) (a : Reg) (x : Fmt) (o : BitVec 4) (rest : List Word) :
    decodeWords ([word4 op d a 0, extS 0 x.code o 0] ++ rest) = .ok (.cvtw d a x o, 2) :=
  decode_long (.cvtw) rest (by simp only [opOf_word4, h]) rfl (by simp [Shape.decode, withFmt])
theorem rt_lget {op : BitVec 8} (h : opcodeMap op = some (.lget)) (d : Reg) (a : Reg) (b : Reg) (c : Reg) (rest : List Word) :
    decodeWords ([word4 op d a b, extS c 0 0 0] ++ rest) = .ok (.lget d a b c, 2) :=
  decode_long (.lget) rest (by simp only [opOf_word4, h]) rfl (by simp [Shape.decode])
theorem rt_lgetRot {op : BitVec 8} (h : opcodeMap op = some (.lget)) (d : Reg) (a : Reg) (b : Reg) (c : Reg) (rest : List Word) :
    decodeWords ([word4 op d a b, extS c 0 1 0] ++ rest) = .ok (.lgetRot d a b c, 2) :=
  decode_long (.lget) rest (by simp only [opOf_word4, h]) rfl (by simp [Shape.decode, guardOk])
theorem rt_lb {op : BitVec 8} {f : Reg → Reg → Reg → BitVec 8 → Instr} (h : opcodeMap op = some (.lb f)) (d : Reg) (a : Reg) (c : Reg) (k : BitVec 8) (rest : List Word) :
    decodeWords ([word4 op d a 0, extS c 0 0 k] ++ rest) = .ok (f d a c k, 2) :=
  decode_long (.lb f) rest (by simp only [opOf_word4, h]) rfl (by simp [Shape.decode, guardOk])
theorem rt_red {op : BitVec 8} {f : Reg → Reg → RedOp → Instr} (h : opcodeMap op = some (.red f)) (d : Reg) (a : Reg) (o : RedOp) (rest : List Word) :
    decodeWords ([word4 op d a 0, extS 0 0 o.code 0] ++ rest) = .ok (f d a o, 2) :=
  decode_long (.red f) rest (by simp only [opOf_word4, h]) rfl (by simp [Shape.decode, withRed])
theorem rt_scan {op : BitVec 8} (h : opcodeMap op = some (.scan)) (d : Reg) (a : Reg) (c : Reg) (o : RedOp) (e : Bool) (rest : List Word) :
    decodeWords ([word4 op d a 0, extS c 0 o.code (0#7 ++ BitVec.ofBool e)] ++ rest) = .ok (.vscan d a c o e, 2) :=
  decode_long (.scan) rest (by simp only [opOf_word4, h]) rfl (by simp [Shape.decode, withRed])
theorem rt_mma {op : BitVec 8} (h : opcodeMap op = some (.mma)) (n : BitVec 8) (a : Reg) (b : Reg) (x : Fmt) (y : Fmt) (s : Bool) (rest : List Word) :
    decodeWords ([word4 op n a b, extMx x.code y.code s 0] ++ rest) = .ok (.mma n a b x y s, 2) :=
  decode_long (.mma) rest (by simp only [opOf_word4, h]) rfl (by simp [Shape.decode, withFmt])
theorem rt_mmas {op : BitVec 8} (h : opcodeMap op = some (.mmas)) (n : BitVec 8) (a : Reg) (b : Reg) (x : Fmt) (k : BitVec 3) (s : Bool) (rest : List Word) :
    decodeWords ([word4 op n a b, extMx x.code 0 s k] ++ rest) = .ok (.mmas n a b x k s, 2) :=
  decode_long (.mmas) rest (by simp only [opOf_word4, h]) rfl (by simp [Shape.decode, withFmt])
theorem rt_m {op : BitVec 8} {f : Reg → Reg → Reg → BitVec 16 → Instr} (h : opcodeMap op = some (.m f)) (d : Reg) (a : Reg) (b : Reg) (x : BitVec 16) (rest : List Word) :
    decodeWords ([word4 op d a b, extM 0 .core .relaxed x] ++ rest) = .ok (f d a b x, 2) :=
  decode_long (.m f) rest (by simp only [opOf_word4, h]) rfl (by simp [Shape.decode, guardOk])
theorem rt_ms {op : BitVec 8} {o : Order} {f : Reg → Reg → Reg → Scope → BitVec 16 → Instr} (h : opcodeMap op = some (.ms o f)) (d : Reg) (a : Reg) (b : Reg) (s : Scope) (x : BitVec 16) (rest : List Word) :
    decodeWords ([word4 op d a b, extM 0 s o x] ++ rest) = .ok (f d a b s x, 2) :=
  decode_long (.ms o f) rest (by simp only [opOf_word4, h]) rfl (by simp [Shape.decode, withScope])
theorem rt_sld {op : BitVec 8} (h : opcodeMap op = some (.sld)) (d : Reg) (a : Reg) (x : BitVec 16) (rest : List Word) :
    decodeWords ([word4 op d a 0, extM 0 .core .relaxed x] ++ rest) = .ok (.sld d a x, 2) :=
  decode_long (.sld) rest (by simp only [opOf_word4, h]) rfl (by simp [Shape.decode, guardOk])
theorem rt_pref {op : BitVec 8} (h : opcodeMap op = some (.pref)) (a : Reg) (b : Reg) (x : BitVec 16) (rest : List Word) :
    decodeWords ([word4 op 0 a b, extM 0 .core .relaxed x] ++ rest) = .ok (.pref a b x, 2) :=
  decode_long (.pref) rest (by simp only [opOf_word4, h]) rfl (by simp [Shape.decode, guardOk])
theorem rt_at {op : BitVec 8} {f : Reg → Reg → Reg → Reg → Scope → Order → BitVec 16 → Instr} (h : opcodeMap op = some (.at f)) (d : Reg) (a : Reg) (b : Reg) (c : Reg) (s : Scope) (o : Order) (x : BitVec 16) (rest : List Word) :
    decodeWords ([word4 op d a b, extM c s o x] ++ rest) = .ok (f d a b c s o x, 2) :=
  decode_long (.at f) rest (by simp only [opOf_word4, h]) rfl (by simp [Shape.decode, withScope])
theorem rt_apmul {op : BitVec 8} (h : opcodeMap op = some (.apmul)) (n : Reg) (a : Reg) (s : Scope) (o : Order) (rest : List Word) :
    decodeWords ([word4 op n a 0, extM 0 s o 0] ++ rest) = .ok (.apmul n a s o, 2) :=
  decode_long (.apmul) rest (by simp only [opOf_word4, h]) rfl (by simp [Shape.decode, withScope])
theorem rt_esc {op : BitVec 8} (h : opcodeMap op = some (.esc)) (bop : BitVec 8) (d : Reg) (a : Reg) (b : Reg) (ua : Bool) (ub : Bool) (rest : List Word) :
    decodeWords ([word4 op d a b, extX bop ua ub] ++ rest) = .ok (.escape bop d a b ua ub, 2) :=
  decode_long (.esc) rest (by simp only [opOf_word4, h]) rfl (by simp [Shape.decode, guardOk])

/-! The family, one lemma per constructor. -/

theorem CodeWord.nop : CodeWord.Statement .nop := fun _ => rt_n rfl 
theorem CodeWord.bra : ∀ x1, CodeWord.Statement (.bra x1) := fun x1 => fun _ => rt_j rfl x1
theorem CodeWord.brx : ∀ x1, CodeWord.Statement (.brx x1) := fun x1 => fun _ => rt_a rfl x1
theorem CodeWord.call : ∀ x1, CodeWord.Statement (.call x1) := fun x1 => fun _ => rt_j rfl x1
theorem CodeWord.ret : CodeWord.Statement .ret := fun _ => rt_n rfl 
theorem CodeWord.exit : CodeWord.Statement .exit := fun _ => rt_n rfl 
theorem CodeWord.yield : CodeWord.Statement .yield := fun _ => rt_n rfl 
theorem CodeWord.mif : ∀ x1 x2, CodeWord.Statement (.mif x1 x2) := fun x1 x2 => fun _ => rt_cb rfl x1 x2
theorem CodeWord.melse : ∀ x1, CodeWord.Statement (.melse x1) := fun x1 => fun _ => rt_j rfl x1
theorem CodeWord.mend : CodeWord.Statement .mend := fun _ => rt_n rfl 
theorem CodeWord.mloop : ∀ x1, CodeWord.Statement (.mloop x1) := fun x1 => fun _ => rt_j rfl x1
theorem CodeWord.mbrk : ∀ x1, CodeWord.Statement (.mbrk x1) := fun x1 => fun _ => rt_a rfl x1
theorem CodeWord.mcont : ∀ x1, CodeWord.Statement (.mcont x1) := fun x1 => fun _ => rt_a rfl x1
theorem CodeWord.mnext : ∀ x1, CodeWord.Statement (.mnext x1) := fun x1 => fun _ => rt_j rfl x1
theorem CodeWord.many : ∀ x1 x2, CodeWord.Statement (.many x1 x2) := fun x1 x2 => fun _ => rt_cb rfl x1 x2
theorem CodeWord.mall : ∀ x1 x2, CodeWord.Statement (.mall x1 x2) := fun x1 x2 => fun _ => rt_cb rfl x1 x2
theorem CodeWord.setm : ∀ x1, CodeWord.Statement (.setm x1) := fun x1 => fun _ => rt_a rfl x1
theorem CodeWord.getm : ∀ x1 x2, CodeWord.Statement (.getm x1 x2) := fun x1 x2 => fun _ => rt_db rfl x1 x2
theorem CodeWord.part : ∀ x1, CodeWord.Statement (.part x1) := fun x1 => fun _ => rt_part rfl x1
theorem CodeWord.rdsp : ∀ x1 x2, CodeWord.Statement (.rdsp x1 x2) := fun x1 x2 => fun _ => rt_da rfl x1 x2
theorem CodeWord.xstatRead : ∀ x1, CodeWord.Statement (.xstatRead x1) := fun _ => fun h => absurd rfl h
theorem CodeWord.give : ∀ x1 x2 x3, CodeWord.Statement (.give x1 x2 x3) := fun x1 x2 x3 => fun _ => rt_dab rfl x1 x2 x3
theorem CodeWord.claim : ∀ x1 x2 x3, CodeWord.Statement (.claim x1 x2 x3) := fun x1 x2 x3 => fun _ => rt_dab rfl x1 x2 x3
theorem CodeWord.svc : ∀ x1 x2 x3, CodeWord.Statement (.svc x1 x2 x3) := fun x1 x2 x3 => fun _ => rt_dab rfl x1 x2 x3
theorem CodeWord.trap : ∀ x1, CodeWord.Statement (.trap x1) := fun x1 => fun _ => rt_i16 rfl x1
theorem CodeWord.vtos : ∀ x1 x2 x3, CodeWord.Statement (.vtos x1 x2 x3) := fun x1 x2 x3 => fun _ => rt_dab rfl x1 x2 x3
theorem CodeWord.stov : ∀ x1 x2, CodeWord.Statement (.stov x1 x2) := fun x1 x2 => fun _ => rt_da rfl x1 x2
theorem CodeWord.add : ∀ x1 x2 x3, CodeWord.Statement (.add x1 x2 x3) := fun x1 x2 x3 => fun _ => rt_dab rfl x1 x2 x3
theorem CodeWord.sub : ∀ x1 x2 x3, CodeWord.Statement (.sub x1 x2 x3) := fun x1 x2 x3 => fun _ => rt_dab rfl x1 x2 x3
theorem CodeWord.mul : ∀ x1 x2 x3, CodeWord.Statement (.mul x1 x2 x3) := fun x1 x2 x3 => fun _ => rt_dab rfl x1 x2 x3
theorem CodeWord.mulhi : ∀ x1 x2 x3, CodeWord.Statement (.mulhi x1 x2 x3) := fun x1 x2 x3 => fun _ => rt_dab rfl x1 x2 x3
theorem CodeWord.mad : ∀ x1 x2 x3 x4 x5 x6, CodeWord.Statement (.mad x1 x2 x3 x4 x5 x6) := fun x1 x2 x3 x4 x5 x6 => fun _ => rt_ea rfl x1 x2 x3 x4 x5 x6
theorem CodeWord.madhi : ∀ x1 x2 x3 x4 x5 x6, CodeWord.Statement (.madhi x1 x2 x3 x4 x5 x6) := fun x1 x2 x3 x4 x5 x6 => fun _ => rt_ea rfl x1 x2 x3 x4 x5 x6
theorem CodeWord.neg : ∀ x1 x2, CodeWord.Statement (.neg x1 x2) := fun x1 x2 => fun _ => rt_da rfl x1 x2
theorem CodeWord.abs : ∀ x1 x2, CodeWord.Statement (.abs x1 x2) := fun x1 x2 => fun _ => rt_da rfl x1 x2
theorem CodeWord.min : ∀ x1 x2 x3, CodeWord.Statement (.min x1 x2 x3) := fun x1 x2 x3 => fun _ => rt_dab rfl x1 x2 x3
theorem CodeWord.max : ∀ x1 x2 x3, CodeWord.Statement (.max x1 x2 x3) := fun x1 x2 x3 => fun _ => rt_dab rfl x1 x2 x3
theorem CodeWord.and : ∀ x1 x2 x3, CodeWord.Statement (.and x1 x2 x3) := fun x1 x2 x3 => fun _ => rt_dab rfl x1 x2 x3
theorem CodeWord.or : ∀ x1 x2 x3, CodeWord.Statement (.or x1 x2 x3) := fun x1 x2 x3 => fun _ => rt_dab rfl x1 x2 x3
theorem CodeWord.xor : ∀ x1 x2 x3, CodeWord.Statement (.xor x1 x2 x3) := fun x1 x2 x3 => fun _ => rt_dab rfl x1 x2 x3
theorem CodeWord.not : ∀ x1 x2, CodeWord.Statement (.not x1 x2) := fun x1 x2 => fun _ => rt_da rfl x1 x2
theorem CodeWord.andn : ∀ x1 x2 x3, CodeWord.Statement (.andn x1 x2 x3) := fun x1 x2 x3 => fun _ => rt_dab rfl x1 x2 x3
theorem CodeWord.shl : ∀ x1 x2 x3, CodeWord.Statement (.shl x1 x2 x3) := fun x1 x2 x3 => fun _ => rt_dab rfl x1 x2 x3
theorem CodeWord.shr : ∀ x1 x2 x3, CodeWord.Statement (.shr x1 x2 x3) := fun x1 x2 x3 => fun _ => rt_dab rfl x1 x2 x3
theorem CodeWord.sar : ∀ x1 x2 x3, CodeWord.Statement (.sar x1 x2 x3) := fun x1 x2 x3 => fun _ => rt_dab rfl x1 x2 x3
theorem CodeWord.rot : ∀ x1 x2 x3, CodeWord.Statement (.rot x1 x2 x3) := fun x1 x2 x3 => fun _ => rt_dab rfl x1 x2 x3
theorem CodeWord.popc : ∀ x1 x2, CodeWord.Statement (.popc x1 x2) := fun x1 x2 => fun _ => rt_da rfl x1 x2
theorem CodeWord.clz : ∀ x1 x2, CodeWord.Statement (.clz x1 x2) := fun x1 x2 => fun _ => rt_da rfl x1 x2
theorem CodeWord.ctz : ∀ x1 x2, CodeWord.Statement (.ctz x1 x2) := fun x1 x2 => fun _ => rt_da rfl x1 x2
theorem CodeWord.brev : ∀ x1 x2, CodeWord.Statement (.brev x1 x2) := fun x1 x2 => fun _ => rt_da rfl x1 x2
theorem CodeWord.bfx : ∀ x1 x2 x3 x4, CodeWord.Statement (.bfx x1 x2 x3 x4) := fun x1 x2 x3 x4 => fun _ => rt_bfx rfl x1 x2 x3 x4
theorem CodeWord.bfi : ∀ x1 x2 x3 x4 x5, CodeWord.Statement (.bfi x1 x2 x3 x4 x5) := fun x1 x2 x3 x4 x5 => fun _ => rt_bfi rfl x1 x2 x3 x4 x5
theorem CodeWord.sel : ∀ x1 x2 x3 x4 x5 x6, CodeWord.Statement (.sel x1 x2 x3 x4 x5 x6) := fun x1 x2 x3 x4 x5 x6 => fun _ => rt_ea rfl x1 x2 x3 x4 x5 x6
theorem CodeWord.cmpeq : ∀ x1 x2 x3, CodeWord.Statement (.cmpeq x1 x2 x3) := fun x1 x2 x3 => fun _ => rt_dab rfl x1 x2 x3
theorem CodeWord.cmpne : ∀ x1 x2 x3, CodeWord.Statement (.cmpne x1 x2 x3) := fun x1 x2 x3 => fun _ => rt_dab rfl x1 x2 x3
theorem CodeWord.cmplt : ∀ x1 x2 x3, CodeWord.Statement (.cmplt x1 x2 x3) := fun x1 x2 x3 => fun _ => rt_dab rfl x1 x2 x3
theorem CodeWord.cmple : ∀ x1 x2 x3, CodeWord.Statement (.cmple x1 x2 x3) := fun x1 x2 x3 => fun _ => rt_dab rfl x1 x2 x3
theorem CodeWord.mov : ∀ x1 x2, CodeWord.Statement (.mov x1 x2) := fun x1 x2 => fun _ => rt_da rfl x1 x2
theorem CodeWord.cvti : ∀ x1 x2 x3 x4, CodeWord.Statement (.cvti x1 x2 x3 x4) := fun x1 x2 x3 x4 => fun _ => rt_t2 rfl x1 x2 x3 x4
theorem CodeWord.lea : ∀ x1 x2 x3, CodeWord.Statement (.lea x1 x2 x3) := fun x1 x2 x3 => fun _ => rt_dab rfl x1 x2 x3
theorem CodeWord.addi : ∀ x1 x2, CodeWord.Statement (.addi x1 x2) := fun x1 x2 => fun _ => rt_vi rfl x1 x2
theorem CodeWord.muli : ∀ x1 x2, CodeWord.Statement (.muli x1 x2) := fun x1 x2 => fun _ => rt_vi rfl x1 x2
theorem CodeWord.andi : ∀ x1 x2, CodeWord.Statement (.andi x1 x2) := fun x1 x2 => fun _ => rt_vi rfl x1 x2
theorem CodeWord.ori : ∀ x1 x2, CodeWord.Statement (.ori x1 x2) := fun x1 x2 => fun _ => rt_vi rfl x1 x2
theorem CodeWord.xori : ∀ x1 x2, CodeWord.Statement (.xori x1 x2) := fun x1 x2 => fun _ => rt_vi rfl x1 x2
theorem CodeWord.shli : ∀ x1 x2, CodeWord.Statement (.shli x1 x2) := fun x1 x2 => fun _ => rt_sh rfl x1 x2
theorem CodeWord.shri : ∀ x1 x2, CodeWord.Statement (.shri x1 x2) := fun x1 x2 => fun _ => rt_sh rfl x1 x2
theorem CodeWord.sari : ∀ x1 x2, CodeWord.Statement (.sari x1 x2) := fun x1 x2 => fun _ => rt_sh rfl x1 x2
theorem CodeWord.movi : ∀ x1 x2, CodeWord.Statement (.movi x1 x2) := fun x1 x2 => fun _ => rt_vi rfl x1 x2
theorem CodeWord.movh : ∀ x1 x2, CodeWord.Statement (.movh x1 x2) := fun x1 x2 => fun _ => rt_vi rfl x1 x2
theorem CodeWord.sadd : ∀ x1 x2 x3, CodeWord.Statement (.sadd x1 x2 x3) := fun x1 x2 x3 => fun _ => rt_dab rfl x1 x2 x3
theorem CodeWord.ssub : ∀ x1 x2 x3, CodeWord.Statement (.ssub x1 x2 x3) := fun x1 x2 x3 => fun _ => rt_dab rfl x1 x2 x3
theorem CodeWord.smul : ∀ x1 x2 x3, CodeWord.Statement (.smul x1 x2 x3) := fun x1 x2 x3 => fun _ => rt_dab rfl x1 x2 x3
theorem CodeWord.smulhi : ∀ x1 x2 x3, CodeWord.Statement (.smulhi x1 x2 x3) := fun x1 x2 x3 => fun _ => rt_dab rfl x1 x2 x3
theorem CodeWord.smad : ∀ x1 x2 x3 x4, CodeWord.Statement (.smad x1 x2 x3 x4) := fun x1 x2 x3 x4 => fun _ => rt_u4 rfl x1 x2 x3 x4
theorem CodeWord.smadhi : ∀ x1 x2 x3 x4, CodeWord.Statement (.smadhi x1 x2 x3 x4) := fun x1 x2 x3 x4 => fun _ => rt_u4 rfl x1 x2 x3 x4
theorem CodeWord.sneg : ∀ x1 x2, CodeWord.Statement (.sneg x1 x2) := fun x1 x2 => fun _ => rt_da rfl x1 x2
theorem CodeWord.sabs : ∀ x1 x2, CodeWord.Statement (.sabs x1 x2) := fun x1 x2 => fun _ => rt_da rfl x1 x2
theorem CodeWord.smin : ∀ x1 x2 x3, CodeWord.Statement (.smin x1 x2 x3) := fun x1 x2 x3 => fun _ => rt_dab rfl x1 x2 x3
theorem CodeWord.smax : ∀ x1 x2 x3, CodeWord.Statement (.smax x1 x2 x3) := fun x1 x2 x3 => fun _ => rt_dab rfl x1 x2 x3
theorem CodeWord.sand : ∀ x1 x2 x3, CodeWord.Statement (.sand x1 x2 x3) := fun x1 x2 x3 => fun _ => rt_dab rfl x1 x2 x3
theorem CodeWord.sor : ∀ x1 x2 x3, CodeWord.Statement (.sor x1 x2 x3) := fun x1 x2 x3 => fun _ => rt_dab rfl x1 x2 x3
theorem CodeWord.sxor : ∀ x1 x2 x3, CodeWord.Statement (.sxor x1 x2 x3) := fun x1 x2 x3 => fun _ => rt_dab rfl x1 x2 x3
theorem CodeWord.snot : ∀ x1 x2, CodeWord.Statement (.snot x1 x2) := fun x1 x2 => fun _ => rt_da rfl x1 x2
theorem CodeWord.sandn : ∀ x1 x2 x3, CodeWord.Statement (.sandn x1 x2 x3) := fun x1 x2 x3 => fun _ => rt_dab rfl x1 x2 x3
theorem CodeWord.sshl : ∀ x1 x2 x3, CodeWord.Statement (.sshl x1 x2 x3) := fun x1 x2 x3 => fun _ => rt_dab rfl x1 x2 x3
theorem CodeWord.sshr : ∀ x1 x2 x3, CodeWord.Statement (.sshr x1 x2 x3) := fun x1 x2 x3 => fun _ => rt_dab rfl x1 x2 x3
theorem CodeWord.ssar : ∀ x1 x2 x3, CodeWord.Statement (.ssar x1 x2 x3) := fun x1 x2 x3 => fun _ => rt_dab rfl x1 x2 x3
theorem CodeWord.srot : ∀ x1 x2 x3, CodeWord.Statement (.srot x1 x2 x3) := fun x1 x2 x3 => fun _ => rt_dab rfl x1 x2 x3
theorem CodeWord.spopc : ∀ x1 x2, CodeWord.Statement (.spopc x1 x2) := fun x1 x2 => fun _ => rt_da rfl x1 x2
theorem CodeWord.sclz : ∀ x1 x2, CodeWord.Statement (.sclz x1 x2) := fun x1 x2 => fun _ => rt_da rfl x1 x2
theorem CodeWord.sctz : ∀ x1 x2, CodeWord.Statement (.sctz x1 x2) := fun x1 x2 => fun _ => rt_da rfl x1 x2
theorem CodeWord.sbrev : ∀ x1 x2, CodeWord.Statement (.sbrev x1 x2) := fun x1 x2 => fun _ => rt_da rfl x1 x2
theorem CodeWord.sbfx : ∀ x1 x2 x3 x4, CodeWord.Statement (.sbfx x1 x2 x3 x4) := fun x1 x2 x3 x4 => fun _ => rt_bfx rfl x1 x2 x3 x4
theorem CodeWord.sbfi : ∀ x1 x2 x3 x4 x5, CodeWord.Statement (.sbfi x1 x2 x3 x4 x5) := fun x1 x2 x3 x4 x5 => fun _ => rt_bfi rfl x1 x2 x3 x4 x5
theorem CodeWord.ssel : ∀ x1 x2 x3 x4, CodeWord.Statement (.ssel x1 x2 x3 x4) := fun x1 x2 x3 x4 => fun _ => rt_u4 rfl x1 x2 x3 x4
theorem CodeWord.scmpeq : ∀ x1 x2 x3, CodeWord.Statement (.scmpeq x1 x2 x3) := fun x1 x2 x3 => fun _ => rt_dab rfl x1 x2 x3
theorem CodeWord.scmpne : ∀ x1 x2 x3, CodeWord.Statement (.scmpne x1 x2 x3) := fun x1 x2 x3 => fun _ => rt_dab rfl x1 x2 x3
theorem CodeWord.scmplt : ∀ x1 x2 x3, CodeWord.Statement (.scmplt x1 x2 x3) := fun x1 x2 x3 => fun _ => rt_dab rfl x1 x2 x3
theorem CodeWord.scmple : ∀ x1 x2 x3, CodeWord.Statement (.scmple x1 x2 x3) := fun x1 x2 x3 => fun _ => rt_dab rfl x1 x2 x3
theorem CodeWord.smov : ∀ x1 x2, CodeWord.Statement (.smov x1 x2) := fun x1 x2 => fun _ => rt_da rfl x1 x2
theorem CodeWord.scvti : ∀ x1 x2 x3 x4, CodeWord.Statement (.scvti x1 x2 x3 x4) := fun x1 x2 x3 x4 => fun _ => rt_t2 rfl x1 x2 x3 x4
theorem CodeWord.slea : ∀ x1 x2 x3, CodeWord.Statement (.slea x1 x2 x3) := fun x1 x2 x3 => fun _ => rt_dab rfl x1 x2 x3
theorem CodeWord.saddi : ∀ x1 x2, CodeWord.Statement (.saddi x1 x2) := fun x1 x2 => fun _ => rt_vi rfl x1 x2
theorem CodeWord.smuli : ∀ x1 x2, CodeWord.Statement (.smuli x1 x2) := fun x1 x2 => fun _ => rt_vi rfl x1 x2
theorem CodeWord.sandi : ∀ x1 x2, CodeWord.Statement (.sandi x1 x2) := fun x1 x2 => fun _ => rt_vi rfl x1 x2
theorem CodeWord.sori : ∀ x1 x2, CodeWord.Statement (.sori x1 x2) := fun x1 x2 => fun _ => rt_vi rfl x1 x2
theorem CodeWord.sxori : ∀ x1 x2, CodeWord.Statement (.sxori x1 x2) := fun x1 x2 => fun _ => rt_vi rfl x1 x2
theorem CodeWord.sshli : ∀ x1 x2, CodeWord.Statement (.sshli x1 x2) := fun x1 x2 => fun _ => rt_sh rfl x1 x2
theorem CodeWord.sshri : ∀ x1 x2, CodeWord.Statement (.sshri x1 x2) := fun x1 x2 => fun _ => rt_sh rfl x1 x2
theorem CodeWord.ssari : ∀ x1 x2, CodeWord.Statement (.ssari x1 x2) := fun x1 x2 => fun _ => rt_sh rfl x1 x2
theorem CodeWord.smovi : ∀ x1 x2, CodeWord.Statement (.smovi x1 x2) := fun x1 x2 => fun _ => rt_vi rfl x1 x2
theorem CodeWord.smovh : ∀ x1 x2, CodeWord.Statement (.smovh x1 x2) := fun x1 x2 => fun _ => rt_vi rfl x1 x2
theorem CodeWord.fadd : ∀ x1 x2 x3, CodeWord.Statement (.fadd x1 x2 x3) := fun x1 x2 x3 => fun _ => rt_dab rfl x1 x2 x3
theorem CodeWord.fsub : ∀ x1 x2 x3, CodeWord.Statement (.fsub x1 x2 x3) := fun x1 x2 x3 => fun _ => rt_dab rfl x1 x2 x3
theorem CodeWord.fmul : ∀ x1 x2 x3, CodeWord.Statement (.fmul x1 x2 x3) := fun x1 x2 x3 => fun _ => rt_dab rfl x1 x2 x3
theorem CodeWord.ffma : ∀ x1 x2 x3 x4 x5 x6, CodeWord.Statement (.ffma x1 x2 x3 x4 x5 x6) := fun x1 x2 x3 x4 x5 x6 => fun _ => rt_ea rfl x1 x2 x3 x4 x5 x6
theorem CodeWord.fmin : ∀ x1 x2 x3, CodeWord.Statement (.fmin x1 x2 x3) := fun x1 x2 x3 => fun _ => rt_dab rfl x1 x2 x3
theorem CodeWord.fmax : ∀ x1 x2 x3, CodeWord.Statement (.fmax x1 x2 x3) := fun x1 x2 x3 => fun _ => rt_dab rfl x1 x2 x3
theorem CodeWord.fneg : ∀ x1 x2, CodeWord.Statement (.fneg x1 x2) := fun x1 x2 => fun _ => rt_da rfl x1 x2
theorem CodeWord.fabs : ∀ x1 x2, CodeWord.Statement (.fabs x1 x2) := fun x1 x2 => fun _ => rt_da rfl x1 x2
theorem CodeWord.fcmpeq : ∀ x1 x2 x3, CodeWord.Statement (.fcmpeq x1 x2 x3) := fun x1 x2 x3 => fun _ => rt_dab rfl x1 x2 x3
theorem CodeWord.fcmpne : ∀ x1 x2 x3, CodeWord.Statement (.fcmpne x1 x2 x3) := fun x1 x2 x3 => fun _ => rt_dab rfl x1 x2 x3
theorem CodeWord.fcmplt : ∀ x1 x2 x3, CodeWord.Statement (.fcmplt x1 x2 x3) := fun x1 x2 x3 => fun _ => rt_dab rfl x1 x2 x3
theorem CodeWord.fcmple : ∀ x1 x2 x3, CodeWord.Statement (.fcmple x1 x2 x3) := fun x1 x2 x3 => fun _ => rt_dab rfl x1 x2 x3
theorem CodeWord.fcmpun : ∀ x1 x2 x3, CodeWord.Statement (.fcmpun x1 x2 x3) := fun x1 x2 x3 => fun _ => rt_dab rfl x1 x2 x3
theorem CodeWord.fclass : ∀ x1 x2, CodeWord.Statement (.fclass x1 x2) := fun x1 x2 => fun _ => rt_da rfl x1 x2
theorem CodeWord.frnd : ∀ x1 x2, CodeWord.Statement (.frnd x1 x2) := fun x1 x2 => fun _ => rt_da rfl x1 x2
theorem CodeWord.cvt : ∀ x1 x2 x3 x4, CodeWord.Statement (.cvt x1 x2 x3 x4) := fun x1 x2 x3 x4 => fun _ => rt_t2 rfl x1 x2 x3 x4
theorem CodeWord.rcp : ∀ x1 x2, CodeWord.Statement (.rcp x1 x2) := fun x1 x2 => fun _ => rt_da rfl x1 x2
theorem CodeWord.rsq : ∀ x1 x2, CodeWord.Statement (.rsq x1 x2) := fun x1 x2 => fun _ => rt_da rfl x1 x2
theorem CodeWord.sqrt : ∀ x1 x2, CodeWord.Statement (.sqrt x1 x2) := fun x1 x2 => fun _ => rt_da rfl x1 x2
theorem CodeWord.exp2 : ∀ x1 x2, CodeWord.Statement (.exp2 x1 x2) := fun x1 x2 => fun _ => rt_da rfl x1 x2
theorem CodeWord.log2 : ∀ x1 x2, CodeWord.Statement (.log2 x1 x2) := fun x1 x2 => fun _ => rt_da rfl x1 x2
theorem CodeWord.sin : ∀ x1 x2, CodeWord.Statement (.sin x1 x2) := fun x1 x2 => fun _ => rt_da rfl x1 x2
theorem CodeWord.cos : ∀ x1 x2, CodeWord.Statement (.cos x1 x2) := fun x1 x2 => fun _ => rt_da rfl x1 x2
theorem CodeWord.tanh : ∀ x1 x2, CodeWord.Statement (.tanh x1 x2) := fun x1 x2 => fun _ => rt_da rfl x1 x2
theorem CodeWord.cvtn : ∀ x1 x2 x3 x4 x5, CodeWord.Statement (.cvtn x1 x2 x3 x4 x5) := fun x1 x2 x3 x4 x5 => fun _ => rt_cvtn rfl x1 x2 x3 x4 x5
theorem CodeWord.cvtw : ∀ x1 x2 x3 x4, CodeWord.Statement (.cvtw x1 x2 x3 x4) := fun x1 x2 x3 x4 => fun _ => rt_cvtw rfl x1 x2 x3 x4
theorem CodeWord.dp4 : ∀ x1 x2 x3 x4 x5 x6, CodeWord.Statement (.dp4 x1 x2 x3 x4 x5 x6) := fun x1 x2 x3 x4 x5 x6 => fun _ => rt_ea rfl x1 x2 x3 x4 x5 x6
theorem CodeWord.dp8 : ∀ x1 x2 x3 x4 x5 x6, CodeWord.Statement (.dp8 x1 x2 x3 x4 x5 x6) := fun x1 x2 x3 x4 x5 x6 => fun _ => rt_ea rfl x1 x2 x3 x4 x5 x6
theorem CodeWord.dpf4 : ∀ x1 x2 x3 x4 x5 x6, CodeWord.Statement (.dpf4 x1 x2 x3 x4 x5 x6) := fun x1 x2 x3 x4 x5 x6 => fun _ => rt_ea rfl x1 x2 x3 x4 x5 x6
theorem CodeWord.dpf8 : ∀ x1 x2 x3 x4 x5 x6, CodeWord.Statement (.dpf8 x1 x2 x3 x4 x5 x6) := fun x1 x2 x3 x4 x5 x6 => fun _ => rt_ea rfl x1 x2 x3 x4 x5 x6
theorem CodeWord.sacc : ∀ x1 x2 x3 x4 x5 x6, CodeWord.Statement (.sacc x1 x2 x3 x4 x5 x6) := fun x1 x2 x3 x4 x5 x6 => fun _ => rt_ea rfl x1 x2 x3 x4 x5 x6
theorem CodeWord.lget : ∀ x1 x2 x3 x4, CodeWord.Statement (.lget x1 x2 x3 x4) := fun x1 x2 x3 x4 => fun _ => rt_lget rfl x1 x2 x3 x4
theorem CodeWord.lgetRot : ∀ x1 x2 x3 x4, CodeWord.Statement (.lgetRot x1 x2 x3 x4) := fun x1 x2 x3 x4 => fun _ => rt_lgetRot rfl x1 x2 x3 x4
theorem CodeWord.lput : ∀ x1 x2 x3, CodeWord.Statement (.lput x1 x2 x3) := fun x1 x2 x3 => fun _ => rt_dab rfl x1 x2 x3
theorem CodeWord.lbcast : ∀ x1 x2 x3 x4, CodeWord.Statement (.lbcast x1 x2 x3 x4) := fun x1 x2 x3 x4 => fun _ => rt_lb rfl x1 x2 x3 x4
theorem CodeWord.lxor : ∀ x1 x2 x3 x4, CodeWord.Statement (.lxor x1 x2 x3 x4) := fun x1 x2 x3 x4 => fun _ => rt_lb rfl x1 x2 x3 x4
theorem CodeWord.vany : ∀ x1 x2, CodeWord.Statement (.vany x1 x2) := fun x1 x2 => fun _ => rt_da rfl x1 x2
theorem CodeWord.vall : ∀ x1 x2, CodeWord.Statement (.vall x1 x2) := fun x1 x2 => fun _ => rt_da rfl x1 x2
theorem CodeWord.vballot : ∀ x1 x2, CodeWord.Statement (.vballot x1 x2) := fun x1 x2 => fun _ => rt_da rfl x1 x2
theorem CodeWord.vred : ∀ x1 x2 x3, CodeWord.Statement (.vred x1 x2 x3) := fun x1 x2 x3 => fun _ => rt_red rfl x1 x2 x3
theorem CodeWord.vscan : ∀ x1 x2 x3 x4 x5, CodeWord.Statement (.vscan x1 x2 x3 x4 x5) := fun x1 x2 x3 x4 x5 => fun _ => rt_scan rfl x1 x2 x3 x4 x5
theorem CodeWord.tred : ∀ x1 x2 x3, CodeWord.Statement (.tred x1 x2 x3) := fun x1 x2 x3 => fun _ => rt_red rfl x1 x2 x3
theorem CodeWord.tany : ∀ x1 x2, CodeWord.Statement (.tany x1 x2) := fun x1 x2 => fun _ => rt_da rfl x1 x2
theorem CodeWord.tall : ∀ x1 x2, CodeWord.Statement (.tall x1 x2) := fun x1 x2 => fun _ => rt_da rfl x1 x2
theorem CodeWord.tcount : ∀ x1 x2, CodeWord.Statement (.tcount x1 x2) := fun x1 x2 => fun _ => rt_da rfl x1 x2
theorem CodeWord.mma : ∀ x1 x2 x3 x4 x5 x6, CodeWord.Statement (.mma x1 x2 x3 x4 x5 x6) := fun x1 x2 x3 x4 x5 x6 => fun _ => rt_mma rfl x1 x2 x3 x4 x5 x6
theorem CodeWord.mmas : ∀ x1 x2 x3 x4 x5 x6, CodeWord.Statement (.mmas x1 x2 x3 x4 x5 x6) := fun x1 x2 x3 x4 x5 x6 => fun _ => rt_mmas rfl x1 x2 x3 x4 x5 x6
theorem CodeWord.accz : ∀ x1, CodeWord.Statement (.accz x1) := fun x1 => fun _ => rt_d rfl x1
theorem CodeWord.acrd : ∀ x1 x2, CodeWord.Statement (.acrd x1 x2) := fun x1 x2 => fun _ => rt_da rfl x1 x2
theorem CodeWord.acwr : ∀ x1 x2, CodeWord.Statement (.acwr x1 x2) := fun x1 x2 => fun _ => rt_da rfl x1 x2
theorem CodeWord.acld : ∀ x1 x2, CodeWord.Statement (.acld x1 x2) := fun x1 x2 => fun _ => rt_da rfl x1 x2
theorem CodeWord.acst : ∀ x1 x2, CodeWord.Statement (.acst x1 x2) := fun x1 x2 => fun _ => rt_da rfl x1 x2
theorem CodeWord.ldmeta : ∀ x1 x2, CodeWord.Statement (.ldmeta x1 x2) := fun x1 x2 => fun _ => rt_da rfl x1 x2
theorem CodeWord.ppdeg : ∀ x1 x2, CodeWord.Statement (.ppdeg x1 x2) := fun x1 x2 => fun _ => rt_da rfl x1 x2
theorem CodeWord.ppclr : ∀ x1, CodeWord.Statement (.ppclr x1) := fun x1 => fun _ => rt_d rfl x1
theorem CodeWord.ppfac : ∀ x1 x2 x3, CodeWord.Statement (.ppfac x1 x2 x3) := fun x1 x2 x3 => fun _ => rt_dab rfl x1 x2 x3
theorem CodeWord.ppdiv : ∀ x1 x2 x3, CodeWord.Statement (.ppdiv x1 x2 x3) := fun x1 x2 x3 => fun _ => rt_dab rfl x1 x2 x3
theorem CodeWord.ppmul : ∀ x1 x2, CodeWord.Statement (.ppmul x1 x2) := fun x1 x2 => fun _ => rt_da rfl x1 x2
theorem CodeWord.ppld : ∀ x1 x2, CodeWord.Statement (.ppld x1 x2) := fun x1 x2 => fun _ => rt_da rfl x1 x2
theorem CodeWord.ppst : ∀ x1 x2, CodeWord.Statement (.ppst x1 x2) := fun x1 x2 => fun _ => rt_da rfl x1 x2
theorem CodeWord.pprd : ∀ x1 x2 x3, CodeWord.Statement (.pprd x1 x2 x3) := fun x1 x2 x3 => fun _ => rt_dab rfl x1 x2 x3
theorem CodeWord.ppscl : ∀ x1 x2, CodeWord.Statement (.ppscl x1 x2) := fun x1 x2 => fun _ => rt_da rfl x1 x2
theorem CodeWord.ppinfo : ∀ x1 x2, CodeWord.Statement (.ppinfo x1 x2) := fun x1 x2 => fun _ => rt_da rfl x1 x2
theorem CodeWord.ld8 : ∀ x1 x2 x3 x4, CodeWord.Statement (.ld8 x1 x2 x3 x4) := fun x1 x2 x3 x4 => fun _ => rt_m rfl x1 x2 x3 x4
theorem CodeWord.ld16 : ∀ x1 x2 x3 x4, CodeWord.Statement (.ld16 x1 x2 x3 x4) := fun x1 x2 x3 x4 => fun _ => rt_m rfl x1 x2 x3 x4
theorem CodeWord.ld32 : ∀ x1 x2 x3 x4, CodeWord.Statement (.ld32 x1 x2 x3 x4) := fun x1 x2 x3 x4 => fun _ => rt_m rfl x1 x2 x3 x4
theorem CodeWord.ld64 : ∀ x1 x2 x3 x4, CodeWord.Statement (.ld64 x1 x2 x3 x4) := fun x1 x2 x3 x4 => fun _ => rt_m rfl x1 x2 x3 x4
theorem CodeWord.ldq : ∀ x1 x2 x3 x4, CodeWord.Statement (.ldq x1 x2 x3 x4) := fun x1 x2 x3 x4 => fun _ => rt_m rfl x1 x2 x3 x4
theorem CodeWord.lda : ∀ x1 x2 x3 x4 x5, CodeWord.Statement (.lda x1 x2 x3 x4 x5) := fun x1 x2 x3 x4 x5 => fun _ => rt_ms rfl x1 x2 x3 x4 x5
theorem CodeWord.lds : ∀ x1 x2 x3 x4, CodeWord.Statement (.lds x1 x2 x3 x4) := fun x1 x2 x3 x4 => fun _ => rt_m rfl x1 x2 x3 x4
theorem CodeWord.sld : ∀ x1 x2 x3, CodeWord.Statement (.sld x1 x2 x3) := fun x1 x2 x3 => fun _ => rt_sld rfl x1 x2 x3
theorem CodeWord.ldmx : ∀ x1 x2 x3 x4, CodeWord.Statement (.ldmx x1 x2 x3 x4) := fun x1 x2 x3 x4 => fun _ => rt_m rfl x1 x2 x3 x4
theorem CodeWord.pref : ∀ x1 x2 x3, CodeWord.Statement (.pref x1 x2 x3) := fun x1 x2 x3 => fun _ => rt_pref rfl x1 x2 x3
theorem CodeWord.st8 : ∀ x1 x2 x3 x4, CodeWord.Statement (.st8 x1 x2 x3 x4) := fun x1 x2 x3 x4 => fun _ => rt_m rfl x1 x2 x3 x4
theorem CodeWord.st16 : ∀ x1 x2 x3 x4, CodeWord.Statement (.st16 x1 x2 x3 x4) := fun x1 x2 x3 x4 => fun _ => rt_m rfl x1 x2 x3 x4
theorem CodeWord.st32 : ∀ x1 x2 x3 x4, CodeWord.Statement (.st32 x1 x2 x3 x4) := fun x1 x2 x3 x4 => fun _ => rt_m rfl x1 x2 x3 x4
theorem CodeWord.st64 : ∀ x1 x2 x3 x4, CodeWord.Statement (.st64 x1 x2 x3 x4) := fun x1 x2 x3 x4 => fun _ => rt_m rfl x1 x2 x3 x4
theorem CodeWord.stl : ∀ x1 x2 x3 x4 x5, CodeWord.Statement (.stl x1 x2 x3 x4 x5) := fun x1 x2 x3 x4 x5 => fun _ => rt_ms rfl x1 x2 x3 x4 x5
theorem CodeWord.sts : ∀ x1 x2 x3 x4, CodeWord.Statement (.sts x1 x2 x3 x4) := fun x1 x2 x3 x4 => fun _ => rt_m rfl x1 x2 x3 x4
theorem CodeWord.stmx : ∀ x1 x2 x3 x4, CodeWord.Statement (.stmx x1 x2 x3 x4) := fun x1 x2 x3 x4 => fun _ => rt_m rfl x1 x2 x3 x4
theorem CodeWord.aadd : ∀ x1 x2 x3 x4 x5 x6 x7, CodeWord.Statement (.aadd x1 x2 x3 x4 x5 x6 x7) := fun x1 x2 x3 x4 x5 x6 x7 => fun _ => rt_at rfl x1 x2 x3 x4 x5 x6 x7
theorem CodeWord.amin : ∀ x1 x2 x3 x4 x5 x6 x7, CodeWord.Statement (.amin x1 x2 x3 x4 x5 x6 x7) := fun x1 x2 x3 x4 x5 x6 x7 => fun _ => rt_at rfl x1 x2 x3 x4 x5 x6 x7
theorem CodeWord.amax : ∀ x1 x2 x3 x4 x5 x6 x7, CodeWord.Statement (.amax x1 x2 x3 x4 x5 x6 x7) := fun x1 x2 x3 x4 x5 x6 x7 => fun _ => rt_at rfl x1 x2 x3 x4 x5 x6 x7
theorem CodeWord.aand : ∀ x1 x2 x3 x4 x5 x6 x7, CodeWord.Statement (.aand x1 x2 x3 x4 x5 x6 x7) := fun x1 x2 x3 x4 x5 x6 x7 => fun _ => rt_at rfl x1 x2 x3 x4 x5 x6 x7
theorem CodeWord.aor : ∀ x1 x2 x3 x4 x5 x6 x7, CodeWord.Statement (.aor x1 x2 x3 x4 x5 x6 x7) := fun x1 x2 x3 x4 x5 x6 x7 => fun _ => rt_at rfl x1 x2 x3 x4 x5 x6 x7
theorem CodeWord.axor : ∀ x1 x2 x3 x4 x5 x6 x7, CodeWord.Statement (.axor x1 x2 x3 x4 x5 x6 x7) := fun x1 x2 x3 x4 x5 x6 x7 => fun _ => rt_at rfl x1 x2 x3 x4 x5 x6 x7
theorem CodeWord.axchg : ∀ x1 x2 x3 x4 x5 x6 x7, CodeWord.Statement (.axchg x1 x2 x3 x4 x5 x6 x7) := fun x1 x2 x3 x4 x5 x6 x7 => fun _ => rt_at rfl x1 x2 x3 x4 x5 x6 x7
theorem CodeWord.acas : ∀ x1 x2 x3 x4 x5 x6 x7, CodeWord.Statement (.acas x1 x2 x3 x4 x5 x6 x7) := fun x1 x2 x3 x4 x5 x6 x7 => fun _ => rt_at rfl x1 x2 x3 x4 x5 x6 x7
theorem CodeWord.ainc : ∀ x1 x2 x3 x4 x5 x6 x7, CodeWord.Statement (.ainc x1 x2 x3 x4 x5 x6 x7) := fun x1 x2 x3 x4 x5 x6 x7 => fun _ => rt_at rfl x1 x2 x3 x4 x5 x6 x7
theorem CodeWord.afadd : ∀ x1 x2 x3 x4 x5 x6 x7, CodeWord.Statement (.afadd x1 x2 x3 x4 x5 x6 x7) := fun x1 x2 x3 x4 x5 x6 x7 => fun _ => rt_at rfl x1 x2 x3 x4 x5 x6 x7
theorem CodeWord.apmul : ∀ x1 x2 x3 x4, CodeWord.Statement (.apmul x1 x2 x3 x4) := fun x1 x2 x3 x4 => fun _ => rt_apmul rfl x1 x2 x3 x4
theorem CodeWord.fenceAcq : ∀ x1, CodeWord.Statement (.fenceAcq x1) := fun x1 => fun _ => rt_fe rfl x1
theorem CodeWord.fenceRel : ∀ x1, CodeWord.Statement (.fenceRel x1) := fun x1 => fun _ => rt_fe rfl x1
theorem CodeWord.fenceAr : ∀ x1, CodeWord.Statement (.fenceAr x1) := fun x1 => fun _ => rt_fe rfl x1
theorem CodeWord.bar : ∀ x1 x2, CodeWord.Statement (.bar x1 x2) := fun x1 x2 => fun _ => rt_bar rfl x1 x2
theorem CodeWord.barr : ∀ x1 x2, CodeWord.Statement (.barr x1 x2) := fun x1 x2 => fun _ => rt_bar rfl x1 x2
theorem CodeWord.barw : ∀ x1 x2, CodeWord.Statement (.barw x1 x2) := fun x1 x2 => fun _ => rt_bar rfl x1 x2
theorem CodeWord.podBarrierArrival : ∀ x1, CodeWord.Statement (.podBarrierArrival x1) := fun _ => fun h => absurd rfl h
theorem CodeWord.await : ∀ x1 x2, CodeWord.Statement (.await x1 x2) := fun x1 x2 => fun _ => rt_da rfl x1 x2
theorem CodeWord.awaitCycle : ∀ x1, CodeWord.Statement (.awaitCycle x1) := fun _ => fun h => absurd rfl h
theorem CodeWord.crewWake : ∀ x1, CodeWord.Statement (.crewWake x1) := fun _ => fun h => absurd rfl h
theorem CodeWord.stp : ∀ x1 x2, CodeWord.Statement (.stp x1 x2) := fun x1 x2 => fun _ => rt_da rfl x1 x2
theorem CodeWord.engineOperationStart : ∀ x1, CodeWord.Statement (.engineOperationStart x1) := fun _ => fun h => absurd rfl h
theorem CodeWord.bclose : ∀ x1, CodeWord.Statement (.bclose x1) := fun x1 => fun _ => rt_d rfl x1
theorem CodeWord.bwait : ∀ x1, CodeWord.Statement (.bwait x1) := fun x1 => fun _ => rt_a rfl x1
theorem CodeWord.bcnt : ∀ x1 x2, CodeWord.Statement (.bcnt x1 x2) := fun x1 x2 => fun _ => rt_da rfl x1 x2
theorem CodeWord.engineSector : ∀ x1 x2, CodeWord.Statement (.engineSector x1 x2) := fun _ _ => fun h => absurd rfl h
theorem CodeWord.tsub : ∀ x1 x2, CodeWord.Statement (.tsub x1 x2) := fun x1 x2 => fun _ => rt_da rfl x1 x2
theorem CodeWord.nrec : ∀ x1 x2 x3, CodeWord.Statement (.nrec x1 x2 x3) := fun x1 x2 x3 => fun _ => rt_dab rfl x1 x2 x3
theorem CodeWord.binTimerExpiry : ∀ x1, CodeWord.Statement (.binTimerExpiry x1) := fun _ => fun h => absurd rfl h
theorem CodeWord.tcommit : CodeWord.Statement .tcommit := fun _ => rt_n rfl 
theorem CodeWord.glaunch : ∀ x1 x2, CodeWord.Statement (.glaunch x1 x2) := fun x1 x2 => fun _ => rt_da rfl x1 x2
theorem CodeWord.eret : CodeWord.Statement .eret := fun _ => rt_n rfl 
theorem CodeWord.sysrd : ∀ x1 x2, CodeWord.Statement (.sysrd x1 x2) := fun x1 x2 => fun _ => rt_vi rfl x1 x2
theorem CodeWord.syswr : ∀ x1 x2, CodeWord.Statement (.syswr x1 x2) := fun x1 x2 => fun _ => rt_vi rfl x1 x2
theorem CodeWord.svcnextRead : ∀ x1, CodeWord.Statement (.svcnextRead x1) := fun _ => fun h => absurd rfl h
theorem CodeWord.svcdoneWrite : ∀ x1, CodeWord.Statement (.svcdoneWrite x1) := fun _ => fun h => absurd rfl h
theorem CodeWord.tlbinv : ∀ x1 x2, CodeWord.Statement (.tlbinv x1 x2) := fun x1 x2 => fun _ => rt_ab rfl x1 x2
theorem CodeWord.ctxsv : ∀ x1, CodeWord.Statement (.ctxsv x1) := fun x1 => fun _ => rt_a rfl x1
theorem CodeWord.crewSave : ∀ x1, CodeWord.Statement (.crewSave x1) := fun _ => fun h => absurd rfl h
theorem CodeWord.ctxld : ∀ x1, CodeWord.Statement (.ctxld x1) := fun x1 => fun _ => rt_a rfl x1
theorem CodeWord.escape : ∀ x1 x2 x3 x4 x5 x6, CodeWord.Statement (.escape x1 x2 x3 x4 x5 x6) := fun x1 x2 x3 x4 x5 x6 => fun _ => rt_esc rfl x1 x2 x3 x4 x5 x6
theorem CodeWord.clauseFetch : ∀ x1, CodeWord.Statement (.clauseFetch x1) := fun _ => fun h => absurd rfl h
theorem CodeWord.longLatencyCompletion : ∀ x1 x2, CodeWord.Statement (.longLatencyCompletion x1 x2) := fun _ _ => fun h => absurd rfl h
theorem CodeWord.trapEntry : ∀ x1, CodeWord.Statement (.trapEntry x1) := fun _ => fun h => absurd rfl h
theorem CodeWord.crewRetire : ∀ x1, CodeWord.Statement (.crewRetire x1) := fun _ => fun h => absurd rfl h
theorem CodeWord.tailWrite : ∀ x1 x2, CodeWord.Statement (.tailWrite x1 x2) := fun _ _ => fun h => absurd rfl h
theorem CodeWord.resumeCommand : ∀ x1, CodeWord.Statement (.resumeCommand x1) := fun _ => fun h => absurd rfl h
theorem CodeWord.destroyCommand : ∀ x1, CodeWord.Statement (.destroyCommand x1) := fun _ => fun h => absurd rfl h
theorem CodeWord.launchRecordRead : ∀ x1, CodeWord.Statement (.launchRecordRead x1) := fun _ => fun h => absurd rfl h
theorem CodeWord.nodeSetup : ∀ x1, CodeWord.Statement (.nodeSetup x1) := fun _ => fun h => absurd rfl h
theorem CodeWord.crewPlacement : ∀ x1, CodeWord.Statement (.crewPlacement x1) := fun _ => fun h => absurd rfl h
theorem CodeWord.keyRequest : ∀ x1, CodeWord.Statement (.keyRequest x1) := fun _ => fun h => absurd rfl h
theorem CodeWord.keyGrant : ∀ x1, CodeWord.Statement (.keyGrant x1) := fun _ => fun h => absurd rfl h
theorem CodeWord.keyAcquisitionRestart : ∀ x1, CodeWord.Statement (.keyAcquisitionRestart x1) := fun _ => fun h => absurd rfl h
theorem CodeWord.taskDiscard : ∀ x1, CodeWord.Statement (.taskDiscard x1) := fun _ => fun h => absurd rfl h
theorem CodeWord.thermalMigration : ∀ x1 x2 x3, CodeWord.Statement (.thermalMigration x1 x2 x3) := fun _ _ _ => fun h => absurd rfl h
theorem CodeWord.pageListBlockRead : ∀ x1 x2 x3, CodeWord.Statement (.pageListBlockRead x1 x2 x3) := fun _ _ _ => fun h => absurd rfl h
theorem CodeWord.pageReservation : ∀ x1, CodeWord.Statement (.pageReservation x1) := fun _ => fun h => absurd rfl h
theorem CodeWord.pageSense : ∀ x1 x2 x3, CodeWord.Statement (.pageSense x1 x2 x3) := fun _ _ _ => fun h => absurd rfl h
theorem CodeWord.pageLanding : ∀ x1 x2, CodeWord.Statement (.pageLanding x1 x2) := fun _ _ => fun h => absurd rfl h
theorem CodeWord.eviction : ∀ x1, CodeWord.Statement (.eviction x1) := fun _ => fun h => absurd rfl h
theorem CodeWord.reLanding : ∀ x1, CodeWord.Statement (.reLanding x1) := fun _ => fun h => absurd rfl h
theorem CodeWord.faultRecordPost : ∀ x1, CodeWord.Statement (.faultRecordPost x1) := fun _ => fun h => absurd rfl h
theorem CodeWord.faultReplyRetry : ∀ x1 x2, CodeWord.Statement (.faultReplyRetry x1 x2) := fun _ _ => fun h => absurd rfl h
theorem CodeWord.faultReplyEnd : ∀ x1 x2, CodeWord.Statement (.faultReplyEnd x1 x2) := fun _ _ => fun h => absurd rfl h
theorem CodeWord.pageRequestSend : ∀ x1, CodeWord.Statement (.pageRequestSend x1) := fun _ => fun h => absurd rfl h
theorem CodeWord.prgResponse : ∀ x1 x2 x3, CodeWord.Statement (.prgResponse x1 x2 x3) := fun _ _ _ => fun h => absurd rfl h
theorem CodeWord.atsCompletion : ∀ x1 x2, CodeWord.Statement (.atsCompletion x1 x2) := fun _ _ => fun h => absurd rfl h
theorem CodeWord.atsInvalidation : ∀ x1 x2, CodeWord.Statement (.atsInvalidation x1 x2) := fun _ _ => fun h => absurd rfl h
theorem CodeWord.accessCounterThreshold : ∀ x1 x2 x3, CodeWord.Statement (.accessCounterThreshold x1 x2 x3) := fun _ _ _ => fun h => absurd rfl h
theorem CodeWord.sendArrival : ∀ x1, CodeWord.Statement (.sendArrival x1) := fun _ => fun h => absurd rfl h
theorem CodeWord.receiveRingDelivery : ∀ x1, CodeWord.Statement (.receiveRingDelivery x1) := fun _ => fun h => absurd rfl h
theorem CodeWord.sendAcknowledge : ∀ x1 x2 x3, CodeWord.Statement (.sendAcknowledge x1 x2 x3) := fun _ _ _ => fun h => absurd rfl h
theorem CodeWord.heartbeatInterval : CodeWord.Statement .heartbeatInterval := fun h => absurd rfl h
theorem CodeWord.heartbeatReceive : ∀ x1, CodeWord.Statement (.heartbeatReceive x1) := fun _ => fun h => absurd rfl h
theorem CodeWord.fenceFlit : CodeWord.Statement .fenceFlit := fun h => absurd rfl h
theorem CodeWord.dataLinkDown : CodeWord.Statement .dataLinkDown := fun h => absurd rfl h
theorem CodeWord.ideFailure : CodeWord.Statement .ideFailure := fun h => absurd rfl h
theorem CodeWord.configAccessOutsideMessage : CodeWord.Statement .configAccessOutsideMessage := fun h => absurd rfl h
theorem CodeWord.spdmSession : ∀ x1, CodeWord.Statement (.spdmSession x1) := fun _ => fun h => absurd rfl h
theorem CodeWord.sessionDoorbell : ∀ x1, CodeWord.Statement (.sessionDoorbell x1) := fun _ => fun h => absurd rfl h
theorem CodeWord.lock : ∀ x1, CodeWord.Statement (.lock x1) := fun _ => fun h => absurd rfl h
theorem CodeWord.start : ∀ x1, CodeWord.Statement (.start x1) := fun _ => fun h => absurd rfl h
theorem CodeWord.stop : ∀ x1, CodeWord.Statement (.stop x1) := fun _ => fun h => absurd rfl h
theorem CodeWord.stopComplete : CodeWord.Statement .stopComplete := fun h => absurd rfl h
theorem CodeWord.queueCreate : ∀ x1 x2 x3 x4, CodeWord.Statement (.queueCreate x1 x2 x3 x4) := fun _ _ _ _ => fun h => absurd rfl h
theorem CodeWord.queueDestroy : ∀ x1 x2, CodeWord.Statement (.queueDestroy x1 x2) := fun _ _ => fun h => absurd rfl h
theorem CodeWord.worldAssign : ∀ x1 x2 x3 x4 x5 x6, CodeWord.Statement (.worldAssign x1 x2 x3 x4 x5 x6) := fun _ _ _ _ _ _ => fun h => absurd rfl h
theorem CodeWord.worldRelease : ∀ x1 x2, CodeWord.Statement (.worldRelease x1 x2) := fun _ _ => fun h => absurd rfl h
theorem CodeWord.modeSet : ∀ x1 x2 x3, CodeWord.Statement (.modeSet x1 x2 x3) := fun _ _ _ => fun h => absurd rfl h
theorem CodeWord.flashWrite : ∀ x1 x2 x3 x4, CodeWord.Statement (.flashWrite x1 x2 x3 x4) := fun _ _ _ _ => fun h => absurd rfl h
theorem CodeWord.qread : ∀ x1 x2 x3, CodeWord.Statement (.qread x1 x2 x3) := fun _ _ _ => fun h => absurd rfl h
theorem CodeWord.qfree : ∀ x1 x2 x3, CodeWord.Statement (.qfree x1 x2 x3) := fun _ _ _ => fun h => absurd rfl h
theorem CodeWord.status : ∀ x1, CodeWord.Statement (.status x1) := fun _ => fun h => absurd rfl h
theorem CodeWord.scrubStep : ∀ x1 x2, CodeWord.Statement (.scrubStep x1 x2) := fun _ _ => fun h => absurd rfl h
theorem CodeWord.scrubProgress : ∀ x1 x2, CodeWord.Statement (.scrubProgress x1 x2) := fun _ _ => fun h => absurd rfl h
theorem CodeWord.huskUpdate : ∀ x1 x2 x3 x4 x5, CodeWord.Statement (.huskUpdate x1 x2 x3 x4 x5) := fun _ _ _ _ _ => fun h => absurd rfl h
theorem CodeWord.deviceStart : ∀ x1, CodeWord.Statement (.deviceStart x1) := fun _ => fun h => absurd rfl h
theorem CodeWord.huskReady : ∀ x1 x2, CodeWord.Statement (.huskReady x1 x2) := fun _ _ => fun h => absurd rfl h
theorem CodeWord.huskReadyTimeout : CodeWord.Statement .huskReadyTimeout := fun h => absurd rfl h
theorem CodeWord.weightContextEnable : ∀ x1, CodeWord.Statement (.weightContextEnable x1) := fun _ => fun h => absurd rfl h
theorem CodeWord.routeEntry : ∀ x1, CodeWord.Statement (.routeEntry x1) := fun _ => fun h => absurd rfl h
theorem CodeWord.retireEntry : ∀ x1, CodeWord.Statement (.retireEntry x1) := fun _ => fun h => absurd rfl h
theorem CodeWord.slotLoad : ∀ x1 x2 x3, CodeWord.Statement (.slotLoad x1 x2 x3) := fun _ _ _ => fun h => absurd rfl h
theorem CodeWord.registerWrite : ∀ x1 x2, CodeWord.Statement (.registerWrite x1 x2) := fun _ _ => fun h => absurd rfl h
theorem CodeWord.dataLinkActive : CodeWord.Statement .dataLinkActive := fun h => absurd rfl h
theorem CodeWord.eraseOrProgramEnd : ∀ x1 x2, CodeWord.Statement (.eraseOrProgramEnd x1 x2) := fun _ _ => fun h => absurd rfl h
theorem CodeWord.trainingFailure : ∀ x1, CodeWord.Statement (.trainingFailure x1) := fun _ => fun h => absurd rfl h
theorem CodeWord.powerFailure : CodeWord.Statement .powerFailure := fun h => absurd rfl h
theorem CodeWord.cxlMemRequest : ∀ x1 x2, CodeWord.Statement (.cxlMemRequest x1 x2) := fun _ _ => fun h => absurd rfl h
theorem CodeWord.hostSnoop : ∀ x1 x2, CodeWord.Statement (.hostSnoop x1 x2) := fun _ _ => fun h => absurd rfl h
theorem CodeWord.podWindowAccess : ∀ x1, CodeWord.Statement (.podWindowAccess x1) := fun _ => fun h => absurd rfl h
theorem CodeWord.linkLevelRetry : ∀ x1, CodeWord.Statement (.linkLevelRetry x1) := fun _ => fun h => absurd rfl h

end Sys2Proof.Laws
end

