-- ==== Sys2Proof/Laws/State.lean ====
section
/-! SUPPORT. One law per field and update of `State`, so that no later proof unfolds a record update, and reads of teams and crews after
writes. -/

namespace Sys2Proof.Machine

variable (s : State)

/-! `setTeam`. -/

@[simp] theorem State.setTeam_crews (r : TeamRef) (t : Team) : (s.setTeam r t).crews = s.crews := rfl
@[simp] theorem State.setTeam_cores (r : TeamRef) (t : Team) : (s.setTeam r t).cores = s.cores := rfl
@[simp] theorem State.setTeam_msys (r : TeamRef) (t : Team) : (s.setTeam r t).msys = s.msys := rfl
@[simp] theorem State.setTeam_grids (r : TeamRef) (t : Team) : (s.setTeam r t).grids = s.grids := rfl
@[simp] theorem State.setTeam_queues (r : TeamRef) (t : Team) : (s.setTeam r t).queues = s.queues := rfl
@[simp] theorem State.setTeam_tasks (r : TeamRef) (t : Team) : (s.setTeam r t).tasks = s.tasks := rfl
@[simp] theorem State.setTeam_nodes (r : TeamRef) (t : Team) : (s.setTeam r t).nodes = s.nodes := rfl
@[simp] theorem State.setTeam_keys (r : TeamRef) (t : Team) : (s.setTeam r t).keys = s.keys := rfl
@[simp] theorem State.setTeam_keyReleases (r : TeamRef) (t : Team) : (s.setTeam r t).keyReleases = s.keyReleases := rfl
@[simp] theorem State.setTeam_taskSeq (r : TeamRef) (t : Team) : (s.setTeam r t).taskSeq = s.taskSeq := rfl
@[simp] theorem State.setTeam_orders (r : TeamRef) (t : Team) : (s.setTeam r t).orders = s.orders := rfl
@[simp] theorem State.setTeam_ids (r : TeamRef) (t : Team) : (s.setTeam r t).ids = s.ids := rfl
@[simp] theorem State.setTeam_barriers (r : TeamRef) (t : Team) : (s.setTeam r t).barriers = s.barriers := rfl
@[simp] theorem State.setTeam_barCounts (r : TeamRef) (t : Team) : (s.setTeam r t).barCounts = s.barCounts := rfl
@[simp] theorem State.setTeam_goneGroups (r : TeamRef) (t : Team) : (s.setTeam r t).goneGroups = s.goneGroups := rfl
@[simp] theorem State.setTeam_agents (r : TeamRef) (t : Team) : (s.setTeam r t).agents = s.agents := rfl
@[simp] theorem State.setTeam_ops (r : TeamRef) (t : Team) : (s.setTeam r t).ops = s.ops := rfl
@[simp] theorem State.setTeam_svc (r : TeamRef) (t : Team) : (s.setTeam r t).svc = s.svc := rfl
@[simp] theorem State.setTeam_sealNext (r : TeamRef) (t : Team) : (s.setTeam r t).sealNext = s.sealNext := rfl
@[simp] theorem State.setTeam_seals (r : TeamRef) (t : Team) : (s.setTeam r t).seals = s.seals := rfl
@[simp] theorem State.setTeam_flash (r : TeamRef) (t : Team) : (s.setTeam r t).flash = s.flash := rfl
@[simp] theorem State.setTeam_flashBusy (r : TeamRef) (t : Team) : (s.setTeam r t).flashBusy = s.flashBusy := rfl
@[simp] theorem State.setTeam_contexts (r : TeamRef) (t : Team) : (s.setTeam r t).contexts = s.contexts := rfl
@[simp] theorem State.setTeam_sends (r : TeamRef) (t : Team) : (s.setTeam r t).sends = s.sends := rfl
@[simp] theorem State.setTeam_silence (r : TeamRef) (t : Team) : (s.setTeam r t).silence = s.silence := rfl
@[simp] theorem State.setTeam_takenOver (r : TeamRef) (t : Team) : (s.setTeam r t).takenOver = s.takenOver := rfl
@[simp] theorem State.setTeam_quarantine (r : TeamRef) (t : Team) : (s.setTeam r t).quarantine = s.quarantine := rfl
@[simp] theorem State.setTeam_pri (r : TeamRef) (t : Team) : (s.setTeam r t).pri = s.pri := rfl
@[simp] theorem State.setTeam_invalidations (r : TeamRef) (t : Team) : (s.setTeam r t).invalidations = s.invalidations := rfl
@[simp] theorem State.setTeam_firm (r : TeamRef) (t : Team) : (s.setTeam r t).firm = s.firm := rfl
@[simp] theorem State.setTeam_cur (r : TeamRef) (t : Team) : (s.setTeam r t).cur = s.cur := rfl
@[simp] theorem State.setTeam_lastGid (r : TeamRef) (t : Team) : (s.setTeam r t).lastGid = s.lastGid := rfl
@[simp] theorem State.setTeam_ringTails (r : TeamRef) (t : Team) : (s.setTeam r t).ringTails = s.ringTails := rfl
@[simp] theorem State.setTeam_readers (r : TeamRef) (t : Team) : (s.setTeam r t).readers = s.readers := rfl
@[simp] theorem State.setTeam_late (r : TeamRef) (t : Team) : (s.setTeam r t).late = s.late := rfl
@[simp] theorem State.setTeam_queued (r : TeamRef) (t : Team) : (s.setTeam r t).queued = s.queued := rfl
@[simp] theorem State.setTeam_agenda (r : TeamRef) (t : Team) : (s.setTeam r t).agenda = s.agenda := rfl
@[simp] theorem State.setTeam_sched (r : TeamRef) (t : Team) : (s.setTeam r t).sched = s.sched := rfl
@[simp] theorem State.setTeam_turn (r : TeamRef) (t : Team) : (s.setTeam r t).turn = s.turn := rfl
@[simp] theorem State.setTeam_clock (r : TeamRef) (t : Team) : (s.setTeam r t).clock = s.clock := rfl
@[simp] theorem State.setTeam_fresh (r : TeamRef) (t : Team) : (s.setTeam r t).fresh = s.fresh := rfl

/-! `clearTeam`. -/

@[simp] theorem State.clearTeam_crews (r : TeamRef) : (s.clearTeam r).crews = s.crews := rfl
@[simp] theorem State.clearTeam_cores (r : TeamRef) : (s.clearTeam r).cores = s.cores := rfl
@[simp] theorem State.clearTeam_msys (r : TeamRef) : (s.clearTeam r).msys = s.msys := rfl
@[simp] theorem State.clearTeam_grids (r : TeamRef) : (s.clearTeam r).grids = s.grids := rfl
@[simp] theorem State.clearTeam_queues (r : TeamRef) : (s.clearTeam r).queues = s.queues := rfl
@[simp] theorem State.clearTeam_tasks (r : TeamRef) : (s.clearTeam r).tasks = s.tasks := rfl
@[simp] theorem State.clearTeam_nodes (r : TeamRef) : (s.clearTeam r).nodes = s.nodes := rfl
@[simp] theorem State.clearTeam_keys (r : TeamRef) : (s.clearTeam r).keys = s.keys := rfl
@[simp] theorem State.clearTeam_keyReleases (r : TeamRef) : (s.clearTeam r).keyReleases = s.keyReleases := rfl
@[simp] theorem State.clearTeam_taskSeq (r : TeamRef) : (s.clearTeam r).taskSeq = s.taskSeq := rfl
@[simp] theorem State.clearTeam_orders (r : TeamRef) : (s.clearTeam r).orders = s.orders := rfl
@[simp] theorem State.clearTeam_ids (r : TeamRef) : (s.clearTeam r).ids = s.ids := rfl
@[simp] theorem State.clearTeam_barriers (r : TeamRef) : (s.clearTeam r).barriers = s.barriers := rfl
@[simp] theorem State.clearTeam_barCounts (r : TeamRef) : (s.clearTeam r).barCounts = s.barCounts := rfl
@[simp] theorem State.clearTeam_goneGroups (r : TeamRef) : (s.clearTeam r).goneGroups = s.goneGroups := rfl
@[simp] theorem State.clearTeam_agents (r : TeamRef) : (s.clearTeam r).agents = s.agents := rfl
@[simp] theorem State.clearTeam_ops (r : TeamRef) : (s.clearTeam r).ops = s.ops := rfl
@[simp] theorem State.clearTeam_svc (r : TeamRef) : (s.clearTeam r).svc = s.svc := rfl
@[simp] theorem State.clearTeam_sealNext (r : TeamRef) : (s.clearTeam r).sealNext = s.sealNext := rfl
@[simp] theorem State.clearTeam_seals (r : TeamRef) : (s.clearTeam r).seals = s.seals := rfl
@[simp] theorem State.clearTeam_flash (r : TeamRef) : (s.clearTeam r).flash = s.flash := rfl
@[simp] theorem State.clearTeam_flashBusy (r : TeamRef) : (s.clearTeam r).flashBusy = s.flashBusy := rfl
@[simp] theorem State.clearTeam_contexts (r : TeamRef) : (s.clearTeam r).contexts = s.contexts := rfl
@[simp] theorem State.clearTeam_sends (r : TeamRef) : (s.clearTeam r).sends = s.sends := rfl
@[simp] theorem State.clearTeam_silence (r : TeamRef) : (s.clearTeam r).silence = s.silence := rfl
@[simp] theorem State.clearTeam_takenOver (r : TeamRef) : (s.clearTeam r).takenOver = s.takenOver := rfl
@[simp] theorem State.clearTeam_quarantine (r : TeamRef) : (s.clearTeam r).quarantine = s.quarantine := rfl
@[simp] theorem State.clearTeam_pri (r : TeamRef) : (s.clearTeam r).pri = s.pri := rfl
@[simp] theorem State.clearTeam_invalidations (r : TeamRef) : (s.clearTeam r).invalidations = s.invalidations := rfl
@[simp] theorem State.clearTeam_firm (r : TeamRef) : (s.clearTeam r).firm = s.firm := rfl
@[simp] theorem State.clearTeam_cur (r : TeamRef) : (s.clearTeam r).cur = s.cur := rfl
@[simp] theorem State.clearTeam_lastGid (r : TeamRef) : (s.clearTeam r).lastGid = s.lastGid := rfl
@[simp] theorem State.clearTeam_ringTails (r : TeamRef) : (s.clearTeam r).ringTails = s.ringTails := rfl
@[simp] theorem State.clearTeam_readers (r : TeamRef) : (s.clearTeam r).readers = s.readers := rfl
@[simp] theorem State.clearTeam_late (r : TeamRef) : (s.clearTeam r).late = s.late := rfl
@[simp] theorem State.clearTeam_queued (r : TeamRef) : (s.clearTeam r).queued = s.queued := rfl
@[simp] theorem State.clearTeam_agenda (r : TeamRef) : (s.clearTeam r).agenda = s.agenda := rfl
@[simp] theorem State.clearTeam_sched (r : TeamRef) : (s.clearTeam r).sched = s.sched := rfl
@[simp] theorem State.clearTeam_turn (r : TeamRef) : (s.clearTeam r).turn = s.turn := rfl
@[simp] theorem State.clearTeam_clock (r : TeamRef) : (s.clearTeam r).clock = s.clock := rfl
@[simp] theorem State.clearTeam_fresh (r : TeamRef) : (s.clearTeam r).fresh = s.fresh := rfl

/-! `setCrew`. -/

@[simp] theorem State.setCrew_teams (id : Nat) (c : Crew) : (s.setCrew id c).teams = s.teams := rfl
@[simp] theorem State.setCrew_cores (id : Nat) (c : Crew) : (s.setCrew id c).cores = s.cores := rfl
@[simp] theorem State.setCrew_msys (id : Nat) (c : Crew) : (s.setCrew id c).msys = s.msys := rfl
@[simp] theorem State.setCrew_grids (id : Nat) (c : Crew) : (s.setCrew id c).grids = s.grids := rfl
@[simp] theorem State.setCrew_queues (id : Nat) (c : Crew) : (s.setCrew id c).queues = s.queues := rfl
@[simp] theorem State.setCrew_tasks (id : Nat) (c : Crew) : (s.setCrew id c).tasks = s.tasks := rfl
@[simp] theorem State.setCrew_nodes (id : Nat) (c : Crew) : (s.setCrew id c).nodes = s.nodes := rfl
@[simp] theorem State.setCrew_keys (id : Nat) (c : Crew) : (s.setCrew id c).keys = s.keys := rfl
@[simp] theorem State.setCrew_keyReleases (id : Nat) (c : Crew) : (s.setCrew id c).keyReleases = s.keyReleases := rfl
@[simp] theorem State.setCrew_taskSeq (id : Nat) (c : Crew) : (s.setCrew id c).taskSeq = s.taskSeq := rfl
@[simp] theorem State.setCrew_orders (id : Nat) (c : Crew) : (s.setCrew id c).orders = s.orders := rfl
@[simp] theorem State.setCrew_ids (id : Nat) (c : Crew) : (s.setCrew id c).ids = s.ids := rfl
@[simp] theorem State.setCrew_barriers (id : Nat) (c : Crew) : (s.setCrew id c).barriers = s.barriers := rfl
@[simp] theorem State.setCrew_barCounts (id : Nat) (c : Crew) : (s.setCrew id c).barCounts = s.barCounts := rfl
@[simp] theorem State.setCrew_goneGroups (id : Nat) (c : Crew) : (s.setCrew id c).goneGroups = s.goneGroups := rfl
@[simp] theorem State.setCrew_agents (id : Nat) (c : Crew) : (s.setCrew id c).agents = s.agents := rfl
@[simp] theorem State.setCrew_ops (id : Nat) (c : Crew) : (s.setCrew id c).ops = s.ops := rfl
@[simp] theorem State.setCrew_svc (id : Nat) (c : Crew) : (s.setCrew id c).svc = s.svc := rfl
@[simp] theorem State.setCrew_sealNext (id : Nat) (c : Crew) : (s.setCrew id c).sealNext = s.sealNext := rfl
@[simp] theorem State.setCrew_seals (id : Nat) (c : Crew) : (s.setCrew id c).seals = s.seals := rfl
@[simp] theorem State.setCrew_flash (id : Nat) (c : Crew) : (s.setCrew id c).flash = s.flash := rfl
@[simp] theorem State.setCrew_flashBusy (id : Nat) (c : Crew) : (s.setCrew id c).flashBusy = s.flashBusy := rfl
@[simp] theorem State.setCrew_contexts (id : Nat) (c : Crew) : (s.setCrew id c).contexts = s.contexts := rfl
@[simp] theorem State.setCrew_sends (id : Nat) (c : Crew) : (s.setCrew id c).sends = s.sends := rfl
@[simp] theorem State.setCrew_silence (id : Nat) (c : Crew) : (s.setCrew id c).silence = s.silence := rfl
@[simp] theorem State.setCrew_takenOver (id : Nat) (c : Crew) : (s.setCrew id c).takenOver = s.takenOver := rfl
@[simp] theorem State.setCrew_quarantine (id : Nat) (c : Crew) : (s.setCrew id c).quarantine = s.quarantine := rfl
@[simp] theorem State.setCrew_pri (id : Nat) (c : Crew) : (s.setCrew id c).pri = s.pri := rfl
@[simp] theorem State.setCrew_invalidations (id : Nat) (c : Crew) : (s.setCrew id c).invalidations = s.invalidations := rfl
@[simp] theorem State.setCrew_firm (id : Nat) (c : Crew) : (s.setCrew id c).firm = s.firm := rfl
@[simp] theorem State.setCrew_cur (id : Nat) (c : Crew) : (s.setCrew id c).cur = s.cur := rfl
@[simp] theorem State.setCrew_lastGid (id : Nat) (c : Crew) : (s.setCrew id c).lastGid = s.lastGid := rfl
@[simp] theorem State.setCrew_ringTails (id : Nat) (c : Crew) : (s.setCrew id c).ringTails = s.ringTails := rfl
@[simp] theorem State.setCrew_readers (id : Nat) (c : Crew) : (s.setCrew id c).readers = s.readers := rfl
@[simp] theorem State.setCrew_late (id : Nat) (c : Crew) : (s.setCrew id c).late = s.late := rfl
@[simp] theorem State.setCrew_queued (id : Nat) (c : Crew) : (s.setCrew id c).queued = s.queued := rfl
@[simp] theorem State.setCrew_agenda (id : Nat) (c : Crew) : (s.setCrew id c).agenda = s.agenda := rfl
@[simp] theorem State.setCrew_sched (id : Nat) (c : Crew) : (s.setCrew id c).sched = s.sched := rfl
@[simp] theorem State.setCrew_turn (id : Nat) (c : Crew) : (s.setCrew id c).turn = s.turn := rfl
@[simp] theorem State.setCrew_clock (id : Nat) (c : Crew) : (s.setCrew id c).clock = s.clock := rfl
@[simp] theorem State.setCrew_fresh (id : Nat) (c : Crew) : (s.setCrew id c).fresh = s.fresh := rfl

/-! `clearCrew`. -/

@[simp] theorem State.clearCrew_teams (id : Nat) : (s.clearCrew id).teams = s.teams := rfl
@[simp] theorem State.clearCrew_cores (id : Nat) : (s.clearCrew id).cores = s.cores := rfl
@[simp] theorem State.clearCrew_msys (id : Nat) : (s.clearCrew id).msys = s.msys := rfl
@[simp] theorem State.clearCrew_grids (id : Nat) : (s.clearCrew id).grids = s.grids := rfl
@[simp] theorem State.clearCrew_queues (id : Nat) : (s.clearCrew id).queues = s.queues := rfl
@[simp] theorem State.clearCrew_tasks (id : Nat) : (s.clearCrew id).tasks = s.tasks := rfl
@[simp] theorem State.clearCrew_nodes (id : Nat) : (s.clearCrew id).nodes = s.nodes := rfl
@[simp] theorem State.clearCrew_keys (id : Nat) : (s.clearCrew id).keys = s.keys := rfl
@[simp] theorem State.clearCrew_keyReleases (id : Nat) : (s.clearCrew id).keyReleases = s.keyReleases := rfl
@[simp] theorem State.clearCrew_taskSeq (id : Nat) : (s.clearCrew id).taskSeq = s.taskSeq := rfl
@[simp] theorem State.clearCrew_orders (id : Nat) : (s.clearCrew id).orders = s.orders := rfl
@[simp] theorem State.clearCrew_ids (id : Nat) : (s.clearCrew id).ids = s.ids := rfl
@[simp] theorem State.clearCrew_barriers (id : Nat) : (s.clearCrew id).barriers = s.barriers := rfl
@[simp] theorem State.clearCrew_barCounts (id : Nat) : (s.clearCrew id).barCounts = s.barCounts := rfl
@[simp] theorem State.clearCrew_goneGroups (id : Nat) : (s.clearCrew id).goneGroups = s.goneGroups := rfl
@[simp] theorem State.clearCrew_agents (id : Nat) : (s.clearCrew id).agents = s.agents := rfl
@[simp] theorem State.clearCrew_ops (id : Nat) : (s.clearCrew id).ops = s.ops := rfl
@[simp] theorem State.clearCrew_svc (id : Nat) : (s.clearCrew id).svc = s.svc := rfl
@[simp] theorem State.clearCrew_sealNext (id : Nat) : (s.clearCrew id).sealNext = s.sealNext := rfl
@[simp] theorem State.clearCrew_seals (id : Nat) : (s.clearCrew id).seals = s.seals := rfl
@[simp] theorem State.clearCrew_flash (id : Nat) : (s.clearCrew id).flash = s.flash := rfl
@[simp] theorem State.clearCrew_flashBusy (id : Nat) : (s.clearCrew id).flashBusy = s.flashBusy := rfl
@[simp] theorem State.clearCrew_contexts (id : Nat) : (s.clearCrew id).contexts = s.contexts := rfl
@[simp] theorem State.clearCrew_sends (id : Nat) : (s.clearCrew id).sends = s.sends := rfl
@[simp] theorem State.clearCrew_silence (id : Nat) : (s.clearCrew id).silence = s.silence := rfl
@[simp] theorem State.clearCrew_takenOver (id : Nat) : (s.clearCrew id).takenOver = s.takenOver := rfl
@[simp] theorem State.clearCrew_quarantine (id : Nat) : (s.clearCrew id).quarantine = s.quarantine := rfl
@[simp] theorem State.clearCrew_pri (id : Nat) : (s.clearCrew id).pri = s.pri := rfl
@[simp] theorem State.clearCrew_invalidations (id : Nat) : (s.clearCrew id).invalidations = s.invalidations := rfl
@[simp] theorem State.clearCrew_firm (id : Nat) : (s.clearCrew id).firm = s.firm := rfl
@[simp] theorem State.clearCrew_cur (id : Nat) : (s.clearCrew id).cur = s.cur := rfl
@[simp] theorem State.clearCrew_lastGid (id : Nat) : (s.clearCrew id).lastGid = s.lastGid := rfl
@[simp] theorem State.clearCrew_ringTails (id : Nat) : (s.clearCrew id).ringTails = s.ringTails := rfl
@[simp] theorem State.clearCrew_readers (id : Nat) : (s.clearCrew id).readers = s.readers := rfl
@[simp] theorem State.clearCrew_late (id : Nat) : (s.clearCrew id).late = s.late := rfl
@[simp] theorem State.clearCrew_queued (id : Nat) : (s.clearCrew id).queued = s.queued := rfl
@[simp] theorem State.clearCrew_agenda (id : Nat) : (s.clearCrew id).agenda = s.agenda := rfl
@[simp] theorem State.clearCrew_sched (id : Nat) : (s.clearCrew id).sched = s.sched := rfl
@[simp] theorem State.clearCrew_turn (id : Nat) : (s.clearCrew id).turn = s.turn := rfl
@[simp] theorem State.clearCrew_clock (id : Nat) : (s.clearCrew id).clock = s.clock := rfl
@[simp] theorem State.clearCrew_fresh (id : Nat) : (s.clearCrew id).fresh = s.fresh := rfl

/-! `setMsys`. -/

@[simp] theorem State.setMsys_teams (m : MemSys) : (s.setMsys m).teams = s.teams := rfl
@[simp] theorem State.setMsys_crews (m : MemSys) : (s.setMsys m).crews = s.crews := rfl
@[simp] theorem State.setMsys_cores (m : MemSys) : (s.setMsys m).cores = s.cores := rfl
@[simp] theorem State.setMsys_msys (m : MemSys) : (s.setMsys m).msys = m := rfl
@[simp] theorem State.setMsys_grids (m : MemSys) : (s.setMsys m).grids = s.grids := rfl
@[simp] theorem State.setMsys_queues (m : MemSys) : (s.setMsys m).queues = s.queues := rfl
@[simp] theorem State.setMsys_tasks (m : MemSys) : (s.setMsys m).tasks = s.tasks := rfl
@[simp] theorem State.setMsys_nodes (m : MemSys) : (s.setMsys m).nodes = s.nodes := rfl
@[simp] theorem State.setMsys_keys (m : MemSys) : (s.setMsys m).keys = s.keys := rfl
@[simp] theorem State.setMsys_keyReleases (m : MemSys) : (s.setMsys m).keyReleases = s.keyReleases := rfl
@[simp] theorem State.setMsys_taskSeq (m : MemSys) : (s.setMsys m).taskSeq = s.taskSeq := rfl
@[simp] theorem State.setMsys_orders (m : MemSys) : (s.setMsys m).orders = s.orders := rfl
@[simp] theorem State.setMsys_ids (m : MemSys) : (s.setMsys m).ids = s.ids := rfl
@[simp] theorem State.setMsys_barriers (m : MemSys) : (s.setMsys m).barriers = s.barriers := rfl
@[simp] theorem State.setMsys_barCounts (m : MemSys) : (s.setMsys m).barCounts = s.barCounts := rfl
@[simp] theorem State.setMsys_goneGroups (m : MemSys) : (s.setMsys m).goneGroups = s.goneGroups := rfl
@[simp] theorem State.setMsys_agents (m : MemSys) : (s.setMsys m).agents = s.agents := rfl
@[simp] theorem State.setMsys_ops (m : MemSys) : (s.setMsys m).ops = s.ops := rfl
@[simp] theorem State.setMsys_svc (m : MemSys) : (s.setMsys m).svc = s.svc := rfl
@[simp] theorem State.setMsys_sealNext (m : MemSys) : (s.setMsys m).sealNext = s.sealNext := rfl
@[simp] theorem State.setMsys_seals (m : MemSys) : (s.setMsys m).seals = s.seals := rfl
@[simp] theorem State.setMsys_flash (m : MemSys) : (s.setMsys m).flash = s.flash := rfl
@[simp] theorem State.setMsys_flashBusy (m : MemSys) : (s.setMsys m).flashBusy = s.flashBusy := rfl
@[simp] theorem State.setMsys_contexts (m : MemSys) : (s.setMsys m).contexts = s.contexts := rfl
@[simp] theorem State.setMsys_sends (m : MemSys) : (s.setMsys m).sends = s.sends := rfl
@[simp] theorem State.setMsys_silence (m : MemSys) : (s.setMsys m).silence = s.silence := rfl
@[simp] theorem State.setMsys_takenOver (m : MemSys) : (s.setMsys m).takenOver = s.takenOver := rfl
@[simp] theorem State.setMsys_quarantine (m : MemSys) : (s.setMsys m).quarantine = s.quarantine := rfl
@[simp] theorem State.setMsys_pri (m : MemSys) : (s.setMsys m).pri = s.pri := rfl
@[simp] theorem State.setMsys_invalidations (m : MemSys) : (s.setMsys m).invalidations = s.invalidations := rfl
@[simp] theorem State.setMsys_firm (m : MemSys) : (s.setMsys m).firm = s.firm := rfl
@[simp] theorem State.setMsys_cur (m : MemSys) : (s.setMsys m).cur = s.cur := rfl
@[simp] theorem State.setMsys_lastGid (m : MemSys) : (s.setMsys m).lastGid = s.lastGid := rfl
@[simp] theorem State.setMsys_ringTails (m : MemSys) : (s.setMsys m).ringTails = s.ringTails := rfl
@[simp] theorem State.setMsys_readers (m : MemSys) : (s.setMsys m).readers = s.readers := rfl
@[simp] theorem State.setMsys_late (m : MemSys) : (s.setMsys m).late = s.late := rfl
@[simp] theorem State.setMsys_queued (m : MemSys) : (s.setMsys m).queued = s.queued := rfl
@[simp] theorem State.setMsys_agenda (m : MemSys) : (s.setMsys m).agenda = s.agenda := rfl
@[simp] theorem State.setMsys_sched (m : MemSys) : (s.setMsys m).sched = s.sched := rfl
@[simp] theorem State.setMsys_turn (m : MemSys) : (s.setMsys m).turn = s.turn := rfl
@[simp] theorem State.setMsys_clock (m : MemSys) : (s.setMsys m).clock = s.clock := rfl
@[simp] theorem State.setMsys_fresh (m : MemSys) : (s.setMsys m).fresh = s.fresh := rfl

/-! `setGrid`. -/

@[simp] theorem State.setGrid_teams (g : Grid) : (s.setGrid g).teams = s.teams := rfl
@[simp] theorem State.setGrid_crews (g : Grid) : (s.setGrid g).crews = s.crews := rfl
@[simp] theorem State.setGrid_cores (g : Grid) : (s.setGrid g).cores = s.cores := rfl
@[simp] theorem State.setGrid_msys (g : Grid) : (s.setGrid g).msys = s.msys := rfl
@[simp] theorem State.setGrid_queues (g : Grid) : (s.setGrid g).queues = s.queues := rfl
@[simp] theorem State.setGrid_tasks (g : Grid) : (s.setGrid g).tasks = s.tasks := rfl
@[simp] theorem State.setGrid_nodes (g : Grid) : (s.setGrid g).nodes = s.nodes := rfl
@[simp] theorem State.setGrid_keys (g : Grid) : (s.setGrid g).keys = s.keys := rfl
@[simp] theorem State.setGrid_keyReleases (g : Grid) : (s.setGrid g).keyReleases = s.keyReleases := rfl
@[simp] theorem State.setGrid_taskSeq (g : Grid) : (s.setGrid g).taskSeq = s.taskSeq := rfl
@[simp] theorem State.setGrid_orders (g : Grid) : (s.setGrid g).orders = s.orders := rfl
@[simp] theorem State.setGrid_ids (g : Grid) : (s.setGrid g).ids = s.ids := rfl
@[simp] theorem State.setGrid_barriers (g : Grid) : (s.setGrid g).barriers = s.barriers := rfl
@[simp] theorem State.setGrid_barCounts (g : Grid) : (s.setGrid g).barCounts = s.barCounts := rfl
@[simp] theorem State.setGrid_goneGroups (g : Grid) : (s.setGrid g).goneGroups = s.goneGroups := rfl
@[simp] theorem State.setGrid_agents (g : Grid) : (s.setGrid g).agents = s.agents := rfl
@[simp] theorem State.setGrid_ops (g : Grid) : (s.setGrid g).ops = s.ops := rfl
@[simp] theorem State.setGrid_svc (g : Grid) : (s.setGrid g).svc = s.svc := rfl
@[simp] theorem State.setGrid_sealNext (g : Grid) : (s.setGrid g).sealNext = s.sealNext := rfl
@[simp] theorem State.setGrid_seals (g : Grid) : (s.setGrid g).seals = s.seals := rfl
@[simp] theorem State.setGrid_flash (g : Grid) : (s.setGrid g).flash = s.flash := rfl
@[simp] theorem State.setGrid_flashBusy (g : Grid) : (s.setGrid g).flashBusy = s.flashBusy := rfl
@[simp] theorem State.setGrid_contexts (g : Grid) : (s.setGrid g).contexts = s.contexts := rfl
@[simp] theorem State.setGrid_sends (g : Grid) : (s.setGrid g).sends = s.sends := rfl
@[simp] theorem State.setGrid_silence (g : Grid) : (s.setGrid g).silence = s.silence := rfl
@[simp] theorem State.setGrid_takenOver (g : Grid) : (s.setGrid g).takenOver = s.takenOver := rfl
@[simp] theorem State.setGrid_quarantine (g : Grid) : (s.setGrid g).quarantine = s.quarantine := rfl
@[simp] theorem State.setGrid_pri (g : Grid) : (s.setGrid g).pri = s.pri := rfl
@[simp] theorem State.setGrid_invalidations (g : Grid) : (s.setGrid g).invalidations = s.invalidations := rfl
@[simp] theorem State.setGrid_firm (g : Grid) : (s.setGrid g).firm = s.firm := rfl
@[simp] theorem State.setGrid_cur (g : Grid) : (s.setGrid g).cur = s.cur := rfl
@[simp] theorem State.setGrid_lastGid (g : Grid) : (s.setGrid g).lastGid = s.lastGid := rfl
@[simp] theorem State.setGrid_ringTails (g : Grid) : (s.setGrid g).ringTails = s.ringTails := rfl
@[simp] theorem State.setGrid_readers (g : Grid) : (s.setGrid g).readers = s.readers := rfl
@[simp] theorem State.setGrid_late (g : Grid) : (s.setGrid g).late = s.late := rfl
@[simp] theorem State.setGrid_queued (g : Grid) : (s.setGrid g).queued = s.queued := rfl
@[simp] theorem State.setGrid_agenda (g : Grid) : (s.setGrid g).agenda = s.agenda := rfl
@[simp] theorem State.setGrid_sched (g : Grid) : (s.setGrid g).sched = s.sched := rfl
@[simp] theorem State.setGrid_turn (g : Grid) : (s.setGrid g).turn = s.turn := rfl
@[simp] theorem State.setGrid_clock (g : Grid) : (s.setGrid g).clock = s.clock := rfl
@[simp] theorem State.setGrid_fresh (g : Grid) : (s.setGrid g).fresh = s.fresh := rfl

/-! `setTask`. -/

@[simp] theorem State.setTask_teams (t : Nat) (x : Task) : (s.setTask t x).teams = s.teams := rfl
@[simp] theorem State.setTask_crews (t : Nat) (x : Task) : (s.setTask t x).crews = s.crews := rfl
@[simp] theorem State.setTask_cores (t : Nat) (x : Task) : (s.setTask t x).cores = s.cores := rfl
@[simp] theorem State.setTask_msys (t : Nat) (x : Task) : (s.setTask t x).msys = s.msys := rfl
@[simp] theorem State.setTask_grids (t : Nat) (x : Task) : (s.setTask t x).grids = s.grids := rfl
@[simp] theorem State.setTask_queues (t : Nat) (x : Task) : (s.setTask t x).queues = s.queues := rfl
@[simp] theorem State.setTask_nodes (t : Nat) (x : Task) : (s.setTask t x).nodes = s.nodes := rfl
@[simp] theorem State.setTask_keys (t : Nat) (x : Task) : (s.setTask t x).keys = s.keys := rfl
@[simp] theorem State.setTask_keyReleases (t : Nat) (x : Task) : (s.setTask t x).keyReleases = s.keyReleases := rfl
@[simp] theorem State.setTask_taskSeq (t : Nat) (x : Task) : (s.setTask t x).taskSeq = s.taskSeq := rfl
@[simp] theorem State.setTask_orders (t : Nat) (x : Task) : (s.setTask t x).orders = s.orders := rfl
@[simp] theorem State.setTask_ids (t : Nat) (x : Task) : (s.setTask t x).ids = s.ids := rfl
@[simp] theorem State.setTask_barriers (t : Nat) (x : Task) : (s.setTask t x).barriers = s.barriers := rfl
@[simp] theorem State.setTask_barCounts (t : Nat) (x : Task) : (s.setTask t x).barCounts = s.barCounts := rfl
@[simp] theorem State.setTask_goneGroups (t : Nat) (x : Task) : (s.setTask t x).goneGroups = s.goneGroups := rfl
@[simp] theorem State.setTask_agents (t : Nat) (x : Task) : (s.setTask t x).agents = s.agents := rfl
@[simp] theorem State.setTask_ops (t : Nat) (x : Task) : (s.setTask t x).ops = s.ops := rfl
@[simp] theorem State.setTask_svc (t : Nat) (x : Task) : (s.setTask t x).svc = s.svc := rfl
@[simp] theorem State.setTask_sealNext (t : Nat) (x : Task) : (s.setTask t x).sealNext = s.sealNext := rfl
@[simp] theorem State.setTask_seals (t : Nat) (x : Task) : (s.setTask t x).seals = s.seals := rfl
@[simp] theorem State.setTask_flash (t : Nat) (x : Task) : (s.setTask t x).flash = s.flash := rfl
@[simp] theorem State.setTask_flashBusy (t : Nat) (x : Task) : (s.setTask t x).flashBusy = s.flashBusy := rfl
@[simp] theorem State.setTask_contexts (t : Nat) (x : Task) : (s.setTask t x).contexts = s.contexts := rfl
@[simp] theorem State.setTask_sends (t : Nat) (x : Task) : (s.setTask t x).sends = s.sends := rfl
@[simp] theorem State.setTask_silence (t : Nat) (x : Task) : (s.setTask t x).silence = s.silence := rfl
@[simp] theorem State.setTask_takenOver (t : Nat) (x : Task) : (s.setTask t x).takenOver = s.takenOver := rfl
@[simp] theorem State.setTask_quarantine (t : Nat) (x : Task) : (s.setTask t x).quarantine = s.quarantine := rfl
@[simp] theorem State.setTask_pri (t : Nat) (x : Task) : (s.setTask t x).pri = s.pri := rfl
@[simp] theorem State.setTask_invalidations (t : Nat) (x : Task) : (s.setTask t x).invalidations = s.invalidations := rfl
@[simp] theorem State.setTask_firm (t : Nat) (x : Task) : (s.setTask t x).firm = s.firm := rfl
@[simp] theorem State.setTask_cur (t : Nat) (x : Task) : (s.setTask t x).cur = s.cur := rfl
@[simp] theorem State.setTask_lastGid (t : Nat) (x : Task) : (s.setTask t x).lastGid = s.lastGid := rfl
@[simp] theorem State.setTask_ringTails (t : Nat) (x : Task) : (s.setTask t x).ringTails = s.ringTails := rfl
@[simp] theorem State.setTask_readers (t : Nat) (x : Task) : (s.setTask t x).readers = s.readers := rfl
@[simp] theorem State.setTask_late (t : Nat) (x : Task) : (s.setTask t x).late = s.late := rfl
@[simp] theorem State.setTask_queued (t : Nat) (x : Task) : (s.setTask t x).queued = s.queued := rfl
@[simp] theorem State.setTask_agenda (t : Nat) (x : Task) : (s.setTask t x).agenda = s.agenda := rfl
@[simp] theorem State.setTask_sched (t : Nat) (x : Task) : (s.setTask t x).sched = s.sched := rfl
@[simp] theorem State.setTask_turn (t : Nat) (x : Task) : (s.setTask t x).turn = s.turn := rfl
@[simp] theorem State.setTask_clock (t : Nat) (x : Task) : (s.setTask t x).clock = s.clock := rfl
@[simp] theorem State.setTask_fresh (t : Nat) (x : Task) : (s.setTask t x).fresh = s.fresh := rfl

/-! `setNode`. -/

@[simp] theorem State.setNode_teams (n : Nat) (x : Node) : (s.setNode n x).teams = s.teams := rfl
@[simp] theorem State.setNode_crews (n : Nat) (x : Node) : (s.setNode n x).crews = s.crews := rfl
@[simp] theorem State.setNode_cores (n : Nat) (x : Node) : (s.setNode n x).cores = s.cores := rfl
@[simp] theorem State.setNode_msys (n : Nat) (x : Node) : (s.setNode n x).msys = s.msys := rfl
@[simp] theorem State.setNode_grids (n : Nat) (x : Node) : (s.setNode n x).grids = s.grids := rfl
@[simp] theorem State.setNode_queues (n : Nat) (x : Node) : (s.setNode n x).queues = s.queues := rfl
@[simp] theorem State.setNode_tasks (n : Nat) (x : Node) : (s.setNode n x).tasks = s.tasks := rfl
@[simp] theorem State.setNode_keys (n : Nat) (x : Node) : (s.setNode n x).keys = s.keys := rfl
@[simp] theorem State.setNode_keyReleases (n : Nat) (x : Node) : (s.setNode n x).keyReleases = s.keyReleases := rfl
@[simp] theorem State.setNode_taskSeq (n : Nat) (x : Node) : (s.setNode n x).taskSeq = s.taskSeq := rfl
@[simp] theorem State.setNode_orders (n : Nat) (x : Node) : (s.setNode n x).orders = s.orders := rfl
@[simp] theorem State.setNode_ids (n : Nat) (x : Node) : (s.setNode n x).ids = s.ids := rfl
@[simp] theorem State.setNode_barriers (n : Nat) (x : Node) : (s.setNode n x).barriers = s.barriers := rfl
@[simp] theorem State.setNode_barCounts (n : Nat) (x : Node) : (s.setNode n x).barCounts = s.barCounts := rfl
@[simp] theorem State.setNode_goneGroups (n : Nat) (x : Node) : (s.setNode n x).goneGroups = s.goneGroups := rfl
@[simp] theorem State.setNode_agents (n : Nat) (x : Node) : (s.setNode n x).agents = s.agents := rfl
@[simp] theorem State.setNode_ops (n : Nat) (x : Node) : (s.setNode n x).ops = s.ops := rfl
@[simp] theorem State.setNode_svc (n : Nat) (x : Node) : (s.setNode n x).svc = s.svc := rfl
@[simp] theorem State.setNode_sealNext (n : Nat) (x : Node) : (s.setNode n x).sealNext = s.sealNext := rfl
@[simp] theorem State.setNode_seals (n : Nat) (x : Node) : (s.setNode n x).seals = s.seals := rfl
@[simp] theorem State.setNode_flash (n : Nat) (x : Node) : (s.setNode n x).flash = s.flash := rfl
@[simp] theorem State.setNode_flashBusy (n : Nat) (x : Node) : (s.setNode n x).flashBusy = s.flashBusy := rfl
@[simp] theorem State.setNode_contexts (n : Nat) (x : Node) : (s.setNode n x).contexts = s.contexts := rfl
@[simp] theorem State.setNode_sends (n : Nat) (x : Node) : (s.setNode n x).sends = s.sends := rfl
@[simp] theorem State.setNode_silence (n : Nat) (x : Node) : (s.setNode n x).silence = s.silence := rfl
@[simp] theorem State.setNode_takenOver (n : Nat) (x : Node) : (s.setNode n x).takenOver = s.takenOver := rfl
@[simp] theorem State.setNode_quarantine (n : Nat) (x : Node) : (s.setNode n x).quarantine = s.quarantine := rfl
@[simp] theorem State.setNode_pri (n : Nat) (x : Node) : (s.setNode n x).pri = s.pri := rfl
@[simp] theorem State.setNode_invalidations (n : Nat) (x : Node) : (s.setNode n x).invalidations = s.invalidations := rfl
@[simp] theorem State.setNode_firm (n : Nat) (x : Node) : (s.setNode n x).firm = s.firm := rfl
@[simp] theorem State.setNode_cur (n : Nat) (x : Node) : (s.setNode n x).cur = s.cur := rfl
@[simp] theorem State.setNode_lastGid (n : Nat) (x : Node) : (s.setNode n x).lastGid = s.lastGid := rfl
@[simp] theorem State.setNode_ringTails (n : Nat) (x : Node) : (s.setNode n x).ringTails = s.ringTails := rfl
@[simp] theorem State.setNode_readers (n : Nat) (x : Node) : (s.setNode n x).readers = s.readers := rfl
@[simp] theorem State.setNode_late (n : Nat) (x : Node) : (s.setNode n x).late = s.late := rfl
@[simp] theorem State.setNode_queued (n : Nat) (x : Node) : (s.setNode n x).queued = s.queued := rfl
@[simp] theorem State.setNode_agenda (n : Nat) (x : Node) : (s.setNode n x).agenda = s.agenda := rfl
@[simp] theorem State.setNode_sched (n : Nat) (x : Node) : (s.setNode n x).sched = s.sched := rfl
@[simp] theorem State.setNode_turn (n : Nat) (x : Node) : (s.setNode n x).turn = s.turn := rfl
@[simp] theorem State.setNode_clock (n : Nat) (x : Node) : (s.setNode n x).clock = s.clock := rfl
@[simp] theorem State.setNode_fresh (n : Nat) (x : Node) : (s.setNode n x).fresh = s.fresh := rfl

/-! `setOp`. -/

@[simp] theorem State.setOp_teams (o : EngineOp) : (s.setOp o).teams = s.teams := rfl
@[simp] theorem State.setOp_crews (o : EngineOp) : (s.setOp o).crews = s.crews := rfl
@[simp] theorem State.setOp_cores (o : EngineOp) : (s.setOp o).cores = s.cores := rfl
@[simp] theorem State.setOp_msys (o : EngineOp) : (s.setOp o).msys = s.msys := rfl
@[simp] theorem State.setOp_grids (o : EngineOp) : (s.setOp o).grids = s.grids := rfl
@[simp] theorem State.setOp_queues (o : EngineOp) : (s.setOp o).queues = s.queues := rfl
@[simp] theorem State.setOp_tasks (o : EngineOp) : (s.setOp o).tasks = s.tasks := rfl
@[simp] theorem State.setOp_nodes (o : EngineOp) : (s.setOp o).nodes = s.nodes := rfl
@[simp] theorem State.setOp_keys (o : EngineOp) : (s.setOp o).keys = s.keys := rfl
@[simp] theorem State.setOp_keyReleases (o : EngineOp) : (s.setOp o).keyReleases = s.keyReleases := rfl
@[simp] theorem State.setOp_taskSeq (o : EngineOp) : (s.setOp o).taskSeq = s.taskSeq := rfl
@[simp] theorem State.setOp_orders (o : EngineOp) : (s.setOp o).orders = s.orders := rfl
@[simp] theorem State.setOp_ids (o : EngineOp) : (s.setOp o).ids = s.ids := rfl
@[simp] theorem State.setOp_barriers (o : EngineOp) : (s.setOp o).barriers = s.barriers := rfl
@[simp] theorem State.setOp_barCounts (o : EngineOp) : (s.setOp o).barCounts = s.barCounts := rfl
@[simp] theorem State.setOp_goneGroups (o : EngineOp) : (s.setOp o).goneGroups = s.goneGroups := rfl
@[simp] theorem State.setOp_agents (o : EngineOp) : (s.setOp o).agents = s.agents := rfl
@[simp] theorem State.setOp_svc (o : EngineOp) : (s.setOp o).svc = s.svc := rfl
@[simp] theorem State.setOp_sealNext (o : EngineOp) : (s.setOp o).sealNext = s.sealNext := rfl
@[simp] theorem State.setOp_seals (o : EngineOp) : (s.setOp o).seals = s.seals := rfl
@[simp] theorem State.setOp_flash (o : EngineOp) : (s.setOp o).flash = s.flash := rfl
@[simp] theorem State.setOp_flashBusy (o : EngineOp) : (s.setOp o).flashBusy = s.flashBusy := rfl
@[simp] theorem State.setOp_contexts (o : EngineOp) : (s.setOp o).contexts = s.contexts := rfl
@[simp] theorem State.setOp_sends (o : EngineOp) : (s.setOp o).sends = s.sends := rfl
@[simp] theorem State.setOp_silence (o : EngineOp) : (s.setOp o).silence = s.silence := rfl
@[simp] theorem State.setOp_takenOver (o : EngineOp) : (s.setOp o).takenOver = s.takenOver := rfl
@[simp] theorem State.setOp_quarantine (o : EngineOp) : (s.setOp o).quarantine = s.quarantine := rfl
@[simp] theorem State.setOp_pri (o : EngineOp) : (s.setOp o).pri = s.pri := rfl
@[simp] theorem State.setOp_invalidations (o : EngineOp) : (s.setOp o).invalidations = s.invalidations := rfl
@[simp] theorem State.setOp_firm (o : EngineOp) : (s.setOp o).firm = s.firm := rfl
@[simp] theorem State.setOp_cur (o : EngineOp) : (s.setOp o).cur = s.cur := rfl
@[simp] theorem State.setOp_lastGid (o : EngineOp) : (s.setOp o).lastGid = s.lastGid := rfl
@[simp] theorem State.setOp_ringTails (o : EngineOp) : (s.setOp o).ringTails = s.ringTails := rfl
@[simp] theorem State.setOp_readers (o : EngineOp) : (s.setOp o).readers = s.readers := rfl
@[simp] theorem State.setOp_late (o : EngineOp) : (s.setOp o).late = s.late := rfl
@[simp] theorem State.setOp_queued (o : EngineOp) : (s.setOp o).queued = s.queued := rfl
@[simp] theorem State.setOp_agenda (o : EngineOp) : (s.setOp o).agenda = s.agenda := rfl
@[simp] theorem State.setOp_sched (o : EngineOp) : (s.setOp o).sched = s.sched := rfl
@[simp] theorem State.setOp_turn (o : EngineOp) : (s.setOp o).turn = s.turn := rfl
@[simp] theorem State.setOp_clock (o : EngineOp) : (s.setOp o).clock = s.clock := rfl
@[simp] theorem State.setOp_fresh (o : EngineOp) : (s.setOp o).fresh = s.fresh := rfl

/-! `setFirm`. -/

@[simp] theorem State.setFirm_teams (f : Firm) : (s.setFirm f).teams = s.teams := rfl
@[simp] theorem State.setFirm_crews (f : Firm) : (s.setFirm f).crews = s.crews := rfl
@[simp] theorem State.setFirm_cores (f : Firm) : (s.setFirm f).cores = s.cores := rfl
@[simp] theorem State.setFirm_msys (f : Firm) : (s.setFirm f).msys = s.msys := rfl
@[simp] theorem State.setFirm_grids (f : Firm) : (s.setFirm f).grids = s.grids := rfl
@[simp] theorem State.setFirm_queues (f : Firm) : (s.setFirm f).queues = s.queues := rfl
@[simp] theorem State.setFirm_tasks (f : Firm) : (s.setFirm f).tasks = s.tasks := rfl
@[simp] theorem State.setFirm_nodes (f : Firm) : (s.setFirm f).nodes = s.nodes := rfl
@[simp] theorem State.setFirm_keys (f : Firm) : (s.setFirm f).keys = s.keys := rfl
@[simp] theorem State.setFirm_keyReleases (f : Firm) : (s.setFirm f).keyReleases = s.keyReleases := rfl
@[simp] theorem State.setFirm_taskSeq (f : Firm) : (s.setFirm f).taskSeq = s.taskSeq := rfl
@[simp] theorem State.setFirm_orders (f : Firm) : (s.setFirm f).orders = s.orders := rfl
@[simp] theorem State.setFirm_ids (f : Firm) : (s.setFirm f).ids = s.ids := rfl
@[simp] theorem State.setFirm_barriers (f : Firm) : (s.setFirm f).barriers = s.barriers := rfl
@[simp] theorem State.setFirm_barCounts (f : Firm) : (s.setFirm f).barCounts = s.barCounts := rfl
@[simp] theorem State.setFirm_goneGroups (f : Firm) : (s.setFirm f).goneGroups = s.goneGroups := rfl
@[simp] theorem State.setFirm_agents (f : Firm) : (s.setFirm f).agents = s.agents := rfl
@[simp] theorem State.setFirm_ops (f : Firm) : (s.setFirm f).ops = s.ops := rfl
@[simp] theorem State.setFirm_svc (f : Firm) : (s.setFirm f).svc = s.svc := rfl
@[simp] theorem State.setFirm_sealNext (f : Firm) : (s.setFirm f).sealNext = s.sealNext := rfl
@[simp] theorem State.setFirm_seals (f : Firm) : (s.setFirm f).seals = s.seals := rfl
@[simp] theorem State.setFirm_flash (f : Firm) : (s.setFirm f).flash = s.flash := rfl
@[simp] theorem State.setFirm_flashBusy (f : Firm) : (s.setFirm f).flashBusy = s.flashBusy := rfl
@[simp] theorem State.setFirm_contexts (f : Firm) : (s.setFirm f).contexts = s.contexts := rfl
@[simp] theorem State.setFirm_sends (f : Firm) : (s.setFirm f).sends = s.sends := rfl
@[simp] theorem State.setFirm_silence (f : Firm) : (s.setFirm f).silence = s.silence := rfl
@[simp] theorem State.setFirm_takenOver (f : Firm) : (s.setFirm f).takenOver = s.takenOver := rfl
@[simp] theorem State.setFirm_quarantine (f : Firm) : (s.setFirm f).quarantine = s.quarantine := rfl
@[simp] theorem State.setFirm_pri (f : Firm) : (s.setFirm f).pri = s.pri := rfl
@[simp] theorem State.setFirm_invalidations (f : Firm) : (s.setFirm f).invalidations = s.invalidations := rfl
@[simp] theorem State.setFirm_firm (f : Firm) : (s.setFirm f).firm = f := rfl
@[simp] theorem State.setFirm_cur (f : Firm) : (s.setFirm f).cur = s.cur := rfl
@[simp] theorem State.setFirm_lastGid (f : Firm) : (s.setFirm f).lastGid = s.lastGid := rfl
@[simp] theorem State.setFirm_ringTails (f : Firm) : (s.setFirm f).ringTails = s.ringTails := rfl
@[simp] theorem State.setFirm_readers (f : Firm) : (s.setFirm f).readers = s.readers := rfl
@[simp] theorem State.setFirm_late (f : Firm) : (s.setFirm f).late = s.late := rfl
@[simp] theorem State.setFirm_queued (f : Firm) : (s.setFirm f).queued = s.queued := rfl
@[simp] theorem State.setFirm_agenda (f : Firm) : (s.setFirm f).agenda = s.agenda := rfl
@[simp] theorem State.setFirm_sched (f : Firm) : (s.setFirm f).sched = s.sched := rfl
@[simp] theorem State.setFirm_turn (f : Firm) : (s.setFirm f).turn = s.turn := rfl
@[simp] theorem State.setFirm_clock (f : Firm) : (s.setFirm f).clock = s.clock := rfl
@[simp] theorem State.setFirm_fresh (f : Firm) : (s.setFirm f).fresh = s.fresh := rfl

/-! `setCtx`. -/

@[simp] theorem State.setCtx_teams (k : Nat) (c : WCtx) : (s.setCtx k c).teams = s.teams := rfl
@[simp] theorem State.setCtx_crews (k : Nat) (c : WCtx) : (s.setCtx k c).crews = s.crews := rfl
@[simp] theorem State.setCtx_cores (k : Nat) (c : WCtx) : (s.setCtx k c).cores = s.cores := rfl
@[simp] theorem State.setCtx_msys (k : Nat) (c : WCtx) : (s.setCtx k c).msys = s.msys := rfl
@[simp] theorem State.setCtx_grids (k : Nat) (c : WCtx) : (s.setCtx k c).grids = s.grids := rfl
@[simp] theorem State.setCtx_queues (k : Nat) (c : WCtx) : (s.setCtx k c).queues = s.queues := rfl
@[simp] theorem State.setCtx_tasks (k : Nat) (c : WCtx) : (s.setCtx k c).tasks = s.tasks := rfl
@[simp] theorem State.setCtx_nodes (k : Nat) (c : WCtx) : (s.setCtx k c).nodes = s.nodes := rfl
@[simp] theorem State.setCtx_keys (k : Nat) (c : WCtx) : (s.setCtx k c).keys = s.keys := rfl
@[simp] theorem State.setCtx_keyReleases (k : Nat) (c : WCtx) : (s.setCtx k c).keyReleases = s.keyReleases := rfl
@[simp] theorem State.setCtx_taskSeq (k : Nat) (c : WCtx) : (s.setCtx k c).taskSeq = s.taskSeq := rfl
@[simp] theorem State.setCtx_orders (k : Nat) (c : WCtx) : (s.setCtx k c).orders = s.orders := rfl
@[simp] theorem State.setCtx_ids (k : Nat) (c : WCtx) : (s.setCtx k c).ids = s.ids := rfl
@[simp] theorem State.setCtx_barriers (k : Nat) (c : WCtx) : (s.setCtx k c).barriers = s.barriers := rfl
@[simp] theorem State.setCtx_barCounts (k : Nat) (c : WCtx) : (s.setCtx k c).barCounts = s.barCounts := rfl
@[simp] theorem State.setCtx_goneGroups (k : Nat) (c : WCtx) : (s.setCtx k c).goneGroups = s.goneGroups := rfl
@[simp] theorem State.setCtx_agents (k : Nat) (c : WCtx) : (s.setCtx k c).agents = s.agents := rfl
@[simp] theorem State.setCtx_ops (k : Nat) (c : WCtx) : (s.setCtx k c).ops = s.ops := rfl
@[simp] theorem State.setCtx_svc (k : Nat) (c : WCtx) : (s.setCtx k c).svc = s.svc := rfl
@[simp] theorem State.setCtx_sealNext (k : Nat) (c : WCtx) : (s.setCtx k c).sealNext = s.sealNext := rfl
@[simp] theorem State.setCtx_seals (k : Nat) (c : WCtx) : (s.setCtx k c).seals = s.seals := rfl
@[simp] theorem State.setCtx_flash (k : Nat) (c : WCtx) : (s.setCtx k c).flash = s.flash := rfl
@[simp] theorem State.setCtx_flashBusy (k : Nat) (c : WCtx) : (s.setCtx k c).flashBusy = s.flashBusy := rfl
@[simp] theorem State.setCtx_sends (k : Nat) (c : WCtx) : (s.setCtx k c).sends = s.sends := rfl
@[simp] theorem State.setCtx_silence (k : Nat) (c : WCtx) : (s.setCtx k c).silence = s.silence := rfl
@[simp] theorem State.setCtx_takenOver (k : Nat) (c : WCtx) : (s.setCtx k c).takenOver = s.takenOver := rfl
@[simp] theorem State.setCtx_quarantine (k : Nat) (c : WCtx) : (s.setCtx k c).quarantine = s.quarantine := rfl
@[simp] theorem State.setCtx_pri (k : Nat) (c : WCtx) : (s.setCtx k c).pri = s.pri := rfl
@[simp] theorem State.setCtx_invalidations (k : Nat) (c : WCtx) : (s.setCtx k c).invalidations = s.invalidations := rfl
@[simp] theorem State.setCtx_firm (k : Nat) (c : WCtx) : (s.setCtx k c).firm = s.firm := rfl
@[simp] theorem State.setCtx_cur (k : Nat) (c : WCtx) : (s.setCtx k c).cur = s.cur := rfl
@[simp] theorem State.setCtx_lastGid (k : Nat) (c : WCtx) : (s.setCtx k c).lastGid = s.lastGid := rfl
@[simp] theorem State.setCtx_ringTails (k : Nat) (c : WCtx) : (s.setCtx k c).ringTails = s.ringTails := rfl
@[simp] theorem State.setCtx_readers (k : Nat) (c : WCtx) : (s.setCtx k c).readers = s.readers := rfl
@[simp] theorem State.setCtx_late (k : Nat) (c : WCtx) : (s.setCtx k c).late = s.late := rfl
@[simp] theorem State.setCtx_queued (k : Nat) (c : WCtx) : (s.setCtx k c).queued = s.queued := rfl
@[simp] theorem State.setCtx_agenda (k : Nat) (c : WCtx) : (s.setCtx k c).agenda = s.agenda := rfl
@[simp] theorem State.setCtx_sched (k : Nat) (c : WCtx) : (s.setCtx k c).sched = s.sched := rfl
@[simp] theorem State.setCtx_turn (k : Nat) (c : WCtx) : (s.setCtx k c).turn = s.turn := rfl
@[simp] theorem State.setCtx_clock (k : Nat) (c : WCtx) : (s.setCtx k c).clock = s.clock := rfl
@[simp] theorem State.setCtx_fresh (k : Nat) (c : WCtx) : (s.setCtx k c).fresh = s.fresh := rfl

/-! `tick`. -/

@[simp] theorem State.tick_teams : s.tick.teams = s.teams := rfl
@[simp] theorem State.tick_crews : s.tick.crews = s.crews := rfl
@[simp] theorem State.tick_cores : s.tick.cores = s.cores := rfl
@[simp] theorem State.tick_msys : s.tick.msys = s.msys := rfl
@[simp] theorem State.tick_grids : s.tick.grids = s.grids := rfl
@[simp] theorem State.tick_queues : s.tick.queues = s.queues := rfl
@[simp] theorem State.tick_tasks : s.tick.tasks = s.tasks := rfl
@[simp] theorem State.tick_nodes : s.tick.nodes = s.nodes := rfl
@[simp] theorem State.tick_keys : s.tick.keys = s.keys := rfl
@[simp] theorem State.tick_keyReleases : s.tick.keyReleases = s.keyReleases := rfl
@[simp] theorem State.tick_taskSeq : s.tick.taskSeq = s.taskSeq := rfl
@[simp] theorem State.tick_orders : s.tick.orders = s.orders := rfl
@[simp] theorem State.tick_ids : s.tick.ids = s.ids := rfl
@[simp] theorem State.tick_barriers : s.tick.barriers = s.barriers := rfl
@[simp] theorem State.tick_barCounts : s.tick.barCounts = s.barCounts := rfl
@[simp] theorem State.tick_goneGroups : s.tick.goneGroups = s.goneGroups := rfl
@[simp] theorem State.tick_agents : s.tick.agents = s.agents := rfl
@[simp] theorem State.tick_ops : s.tick.ops = s.ops := rfl
@[simp] theorem State.tick_svc : s.tick.svc = s.svc := rfl
@[simp] theorem State.tick_sealNext : s.tick.sealNext = s.sealNext := rfl
@[simp] theorem State.tick_seals : s.tick.seals = s.seals := rfl
@[simp] theorem State.tick_flash : s.tick.flash = s.flash := rfl
@[simp] theorem State.tick_flashBusy : s.tick.flashBusy = s.flashBusy := rfl
@[simp] theorem State.tick_contexts : s.tick.contexts = s.contexts := rfl
@[simp] theorem State.tick_sends : s.tick.sends = s.sends := rfl
@[simp] theorem State.tick_silence : s.tick.silence = s.silence := rfl
@[simp] theorem State.tick_takenOver : s.tick.takenOver = s.takenOver := rfl
@[simp] theorem State.tick_quarantine : s.tick.quarantine = s.quarantine := rfl
@[simp] theorem State.tick_pri : s.tick.pri = s.pri := rfl
@[simp] theorem State.tick_invalidations : s.tick.invalidations = s.invalidations := rfl
@[simp] theorem State.tick_firm : s.tick.firm = s.firm := rfl
@[simp] theorem State.tick_cur : s.tick.cur = s.cur := rfl
@[simp] theorem State.tick_lastGid : s.tick.lastGid = s.lastGid := rfl
@[simp] theorem State.tick_ringTails : s.tick.ringTails = s.ringTails := rfl
@[simp] theorem State.tick_readers : s.tick.readers = s.readers := rfl
@[simp] theorem State.tick_late : s.tick.late = s.late := rfl
@[simp] theorem State.tick_queued : s.tick.queued = s.queued := rfl
@[simp] theorem State.tick_agenda : s.tick.agenda = s.agenda := rfl
@[simp] theorem State.tick_sched : s.tick.sched = s.sched := rfl
@[simp] theorem State.tick_turn : s.tick.turn = s.turn := rfl

/-! Teams and crews. -/

theorem slotKey_inj {a b : TeamRef} (ha : a.core < 64 ∧ a.slot < 16) (hb : b.core < 64 ∧ b.slot < 16) (h : slotKey a = slotKey b) : a = b := by
  cases a; cases b
  simp only [slotKey] at h ha hb
  simp only [TeamRef.mk.injEq]
  omega

/-! The L1s after an acquire (R133): what an acquire keeps, a second one keeps too. -/

@[simp] theorem MemSys.acquire_acquire (m : MemSys) (die core : Nat) (sc : Scope) : (m.acquire die core sc).acquire die core sc = m.acquire die core sc := by
  have h : ∀ m : MemSys, (m.l1Discard die core).l1Discard die core = m.l1Discard die core := by
    intro m
    have twice : ∀ (p : L1Line → Bool) (l : List L1Line), (l.filter p).filter p = l.filter p := fun p l => by simp [List.filter_filter]
    exact congrArg (fun l => ({ m with l1 := l } : MemSys)) (twice _ _)
  cases sc <;> simp only [MemSys.acquire, h]
  by_cases q : m.quadFused die core = true
  · simp [q]
  · have q' : (m.l1Discard die core).quadFused die core = false := by simpa [MemSys.quadFused, MemSys.l1Discard] using q
    simp [q, q', h]

@[simp] theorem State.teamAt_setTeam_self (r : TeamRef) (t : Team) : (s.setTeam r t).teamAt r = some t := by
  simp [State.teamAt, State.setTeam]

theorem State.teamAt_setTeam_ne {r q : TeamRef} (t : Team) (h : slotKey q ≠ slotKey r) : (s.setTeam r t).teamAt q = s.teamAt q := by
  simp [State.teamAt, State.setTeam, Sparse.get_set_ne _ _ _ h]

@[simp] theorem State.crewAt_setTeam (r : TeamRef) (t : Team) (id : Nat) : (s.setTeam r t).crewAt id = s.crewAt id := rfl
@[simp] theorem State.crewAt_setMsys (m : MemSys) (id : Nat) : (s.setMsys m).crewAt id = s.crewAt id := rfl
@[simp] theorem State.teamAt_setMsys (m : MemSys) (r : TeamRef) : (s.setMsys m).teamAt r = s.teamAt r := rfl
@[simp] theorem State.teamAt_setCrew (id : Nat) (c : Crew) (r : TeamRef) : (s.setCrew id c).teamAt r = s.teamAt r := rfl

@[simp] theorem State.crewAt_setCrew_self (id : Nat) (c : Crew) : (s.setCrew id c).crewAt id = some c := by
  simp [State.crewAt, State.setCrew]

theorem State.crewAt_setCrew_ne {id k : Nat} (c : Crew) (h : k ≠ id) : (s.setCrew id c).crewAt k = s.crewAt k := by
  simp [State.crewAt, State.setCrew, Sparse.get_set_ne _ _ _ h]

/-- Where a team issues, an instruction of a team acts through it. -/
theorem State.issue_of_issuer {s : State} {c : Issuer} (h : s.issuer = some c) (f : Issuer → State) : s.issue f = .next (f c) := by
  simp [State.issue, h]

/-- Where a team issues, every instruction of a team answers a next state. -/
theorem State.issue_next {s : State} (h : s.issuer.isSome = true) (f : Issuer → State) : ∃ t, s.issue f = .next t := by
  obtain ⟨c, hc⟩ := Option.isSome_iff_exists.1 h
  exact ⟨f c, State.issue_of_issuer hc f⟩

end Sys2Proof.Machine
end

