-- ==== Sys2Proof/Laws/Team.lean ====
section
/-! SUPPORT. What the shared operations on a team do: register writes, the sweep, the end of an instruction, and an
instruction of the team's own registers. -/

namespace Sys2Proof.Machine

/-! Lanes. -/

theorem Team.mem_active (t : Team) (free l : Nat) : l ∈ t.active free ↔ t.isActive free l = true := by
  simp [Team.active, Team.isActive, lanesBelow]; grind

theorem regKey_inj {l m r q : Nat} (hr : r < 256) (hq : q < 256) (h : regKey l r = regKey m q) : l = m ∧ r = q := by
  unfold regKey at h; omega

/-! Pending writes keep their values. -/

theorem contest_pending (keys : List Nat) (ops : List InFlight) :
    (contest keys ops).map (fun o => (o.id, o.flag, o.writes.map (fun p => (p.1, p.2.map PendWrite.val)))) =
      ops.map (fun o => (o.id, o.flag, o.writes.map (fun p => (p.1, p.2.map PendWrite.val)))) := by
  simp only [contest, List.map_map]
  apply List.map_congr_left
  intro o _
  simp only [Function.comp, List.map_map, Prod.mk.injEq, true_and]
  apply List.map_congr_left
  intro p _
  rcases p with ⟨k, _ | w⟩ <;> simp only [Function.comp]
  split <;> rfl

/-! The end of an instruction. -/

theorem Team.advance_frame (t : Team) (n : Nat) (src : Option (Reg × List Word)) : Team.FrameP t (t.advance n src) := by
  unfold Team.FrameP Team.advance
  cases h : t.clause with
  | none => dsimp only
  | some k => dsimp only; split <;> rfl

@[simp] theorem Team.advance_pc (t : Team) (n : Nat) (src : Option (Reg × List Word)) : (t.advance n src).pc = t.nextPc n := by
  unfold Team.advance Team.nextPc
  cases t.clause with
  | none => rfl
  | some k => dsimp only; split <;> rfl

theorem Team.jump_frame (t : Team) (target : VAddr) : Team.FrameP t (t.jump target) := rfl
@[simp] theorem Team.jump_pc (t : Team) (target : VAddr) : (t.jump target).pc = target := rfl

/-! The sweep. -/

/-- The keys that a sweep writes. -/
theorem sweep_mem {t : Team} {free : Nat} {f : Nat → List (Nat × Word)} {l r : Nat} (hr : r < 256)
    (hf : ∀ m, ∀ p ∈ f m, p.1 < 256) {w : Word} :
    (regKey l r, w) ∈ (t.active free).flatMap (fun m => (f m).map (fun p => (regKey m p.1, p.2))) ↔
      t.isActive free l = true ∧ (r, w) ∈ f l := by
  simp only [List.mem_flatMap, List.mem_map, Team.mem_active]
  constructor
  · rintro ⟨m, hm, p, hp, h⟩
    have := regKey_inj (hf m p hp) hr (Prod.mk.inj h).1
    obtain ⟨rfl, h2⟩ := this
    exact ⟨hm, by rw [← h2, ← (Prod.mk.inj h).2]; exact hp⟩
  · rintro ⟨h, hp⟩
    exact ⟨l, h, (r, w), hp, rfl⟩

/-- Everything a sweep does to the vector file. -/
theorem Team.sweep_vreg (t : Team) (free : Nat) (regs : List Nat) (f : Nat → List (Nat × Word))
    (hf : ∀ m, ∀ p ∈ f m, p.1 < 256) (hn : ∀ m, ∀ p ∈ f m, ∀ q ∈ f m, p.1 = q.1 → p.2 = q.2) {l r : Nat} (hr : r < 256) :
    (∀ w, t.isActive free l = true → (r, w) ∈ f l → (t.sweep free regs f).vreg l r = w) ∧
    ((t.isActive free l = true → r ∉ (f l).map Prod.fst) → (t.sweep free regs f).vreg l r = t.vreg l r) := by
  constructor
  · intro w ha hw
    refine Sparse.get_setAll_of_mem 0 _ _ _ _ ((sweep_mem hr hf).2 ⟨ha, hw⟩) ?_
    rintro ⟨k, v⟩ hp hk
    simp only at hk
    subst hk
    exact hn l _ ((sweep_mem hr hf).1 hp).2 _ hw rfl
  · intro h
    refine Sparse.get_setAll_of_not_mem 0 _ _ _ ?_
    rintro ⟨k, w⟩ hp hk
    simp only at hk
    subst hk
    obtain ⟨ha, hw⟩ := (sweep_mem hr hf).1 hp
    exact h ha (List.mem_map.2 ⟨(r, w), hw, rfl⟩)

/-! Frames. -/

theorem Team.FrameV.advance {t u : Team} (h : t.FrameV u) (n : Nat) (src : Option (Reg × List Word)) : t.FrameV (u.advance n src) := by
  have hp := Team.advance_frame u n src
  obtain ⟨h1, h2⟩ := h
  refine ⟨?_, ?_⟩
  · rw [← h1, hp]; rfl
  · rw [hp, h2]

theorem Team.FrameS.advance {t u : Team} (h : t.FrameS u) (n : Nat) (src : Option (Reg × List Word)) : t.FrameS (u.advance n src) := by
  have hp := Team.advance_frame u n src
  obtain ⟨h1, h2⟩ := h
  refine ⟨?_, ?_⟩
  · rw [← h1, hp]; rfl
  · rw [hp, h2]

theorem Team.setStat_eq (t : Team) (bit : Nat) (on : Bool) : t.setStat bit on = { t with stat := (t.setStat bit on).stat } := by
  unfold Team.setStat; split <;> rfl

@[simp] theorem Team.advance_vreg (t : Team) (n : Nat) (src : Option (Reg × List Word)) (l r : Nat) : (t.advance n src).vreg l r = t.vreg l r := by
  rw [Team.advance_frame t n src]; rfl
@[simp] theorem Team.advance_sreg (t : Team) (n : Nat) (src : Option (Reg × List Word)) (r : Nat) : (t.advance n src).sreg r = t.sreg r := by
  rw [Team.advance_frame t n src]; rfl
@[simp] theorem Team.advance_stat (t : Team) (n : Nat) (src : Option (Reg × List Word)) : (t.advance n src).stat = t.stat := by
  rw [Team.advance_frame t n src]
@[simp] theorem Team.jump_vreg (t : Team) (x : VAddr) (l r : Nat) : (t.jump x).vreg l r = t.vreg l r := rfl
@[simp] theorem Team.jump_sreg (t : Team) (x : VAddr) (r : Nat) : (t.jump x).sreg r = t.sreg r := rfl
@[simp] theorem Team.setStat_vreg (t : Team) (b : Nat) (on : Bool) (l r : Nat) : (t.setStat b on).vreg l r = t.vreg l r := by
  rw [Team.setStat_eq]; rfl
@[simp] theorem Team.setStat_sreg (t : Team) (b : Nat) (on : Bool) (r : Nat) : (t.setStat b on).sreg r = t.sreg r := by
  rw [Team.setStat_eq]; rfl
@[simp] theorem Team.setStat_clause (t : Team) (b : Nat) (on : Bool) : (t.setStat b on).clause = t.clause := by
  rw [Team.setStat_eq]
@[simp] theorem Team.setStat_pc (t : Team) (b : Nat) (on : Bool) : (t.setStat b on).pc = t.pc := by
  rw [Team.setStat_eq]
theorem Team.setStat_nextPc (t : Team) (b : Nat) (on : Bool) (n : Nat) : (t.setStat b on).nextPc n = t.nextPc n := by
  simp [Team.nextPc]

/-- A sweep, with a sticky bit, before the pc moves on. -/
theorem Team.sweep_frame (t : Team) (free : Nat) (regs : List Nat) (f : Nat → List (Nat × Word)) (bit n : Nat) (on : Bool)
    (src : Option (Reg × List Word)) : t.FrameV (((t.sweep free regs f).setStat bit on).advance n src) := by
  have h1 := Team.advance_frame ((t.sweep free regs f).setStat bit on) n src
  have h2 := Team.setStat_eq (t.sweep free regs f) bit on
  refine ⟨?_, ?_⟩
  · rw [h1, h2]; exact contest_pending _ _
  · rw [h1, h2]; rfl

theorem Team.sweep_nextPc (t : Team) (free : Nat) (regs : List Nat) (f : Nat → List (Nat × Word)) (n : Nat) :
    (t.sweep free regs f).nextPc n = t.nextPc n := rfl

/-- Writes of the uniform file, with a sticky bit, before the pc moves on. -/
theorem Team.uniformResult_frame (t : Team) (wide : Bool) (d : Reg) (x : Result) (n : Nat) (src : Option (Reg × List Word)) :
    t.FrameS ((t.uniformResult wide d x).advance n src) := by
  unfold Team.uniformResult
  generalize hu : (if wide = true then t.writeS64 d.toNat x.1 else t.writeS d.toNat (BitVec.ofNat 32 x.1)) = u
  have hp : u.stillPending = t.stillPending := by
    subst hu
    split
    · exact (contest_pending _ _).trans (contest_pending _ _)
    · exact contest_pending _ _
  have hf : u = { t with sregs := u.sregs, inflight := u.inflight } := by subst hu; split <;> rfl
  have h1 := Team.advance_frame (u.setStat 2 x.2) n src
  have h2 := Team.setStat_eq u 2 x.2
  refine ⟨?_, ?_⟩
  · rw [h1, h2]; exact hp
  · rw [h1, h2, hf]

@[simp] theorem Team.uniformResult_nextPc (t : Team) (wide : Bool) (d : Reg) (x : Result) (n : Nat) :
    (t.uniformResult wide d x).nextPc n = t.nextPc n := by
  unfold Team.uniformResult
  rw [Team.setStat_nextPc]
  split <;> rfl

/-! Results. -/

theorem evenReg_lt {r : Reg} (h : evenReg r = true) : r.toNat + 1 < 256 := by
  have := r.isLt
  simp only [evenReg, beq_iff_eq] at h
  omega

theorem Issuer.vOk_even {c : Issuer} {wide : Bool} {d : Reg} (h : c.vOk wide d = true) : sOk wide d = true := by
  unfold Issuer.vOk at h
  unfold sOk
  cases wide <;> simp_all

/-- Everything that a result in the active lanes does to the registers (R27, R163). -/
theorem Team.sweepResult_holds (t : Team) (free : Nat) {wide : Bool} {d : Reg} (f : Nat → Result) (hd : sOk wide d = true) :
    t.HoldsV (t.sweepResult free wide d f) free wide d f := by
  have hlt := d.isLt
  refine ⟨fun l r hr => ?_, ?_⟩
  · have key := Team.sweep_vreg t free (destRegs wide d) (fun l => destWrites wide d (f l).1) (l := l) (r := r)
      (fun m p hp => by
        cases wide with
        | false => simp [destWrites] at hp; subst hp; exact hlt
        | true =>
          have := evenReg_lt (r := d) (by simpa [sOk] using hd)
          simp [destWrites] at hp; rcases hp with rfl | rfl <;> simp <;> omega)
      (fun m p hp q hq h => by
        cases wide with
        | false => simp [destWrites] at hp hq; subst hp; subst hq; rfl
        | true => simp [destWrites] at hp hq; rcases hp with rfl | rfl <;> rcases hq with rfl | rfl <;> simp_all) hr
    unfold Team.sweepResult
    rw [Team.setStat_vreg]
    by_cases h : t.isActive free l = true ∧ r ∈ destRegs wide d
    · rw [if_pos h]
      refine key.1 _ h.1 ?_
      have h2 := h.2
      cases wide with
      | false => simp [destRegs] at h2; subst h2; simp [destWrites, destWord]
      | true => simp [destRegs] at h2; rcases h2 with rfl | rfl <;> simp [destWrites, destWord]
    · rw [if_neg h]
      refine key.2 fun ha hm => h ⟨ha, ?_⟩
      cases wide <;> simpa [destWrites, destRegs] using hm
  · unfold Team.sweepResult Team.setStat
    split <;> simp_all [Team.sweep, Team.writeV, Team.releaseLatches]

/-- Everything that a result in the uniform file does to it (R186). -/
theorem Team.uniformResult_holds (t : Team) {wide : Bool} {d : Reg} (x : Result) :
    t.HoldsS (t.uniformResult wide d x) wide d x := by
  refine ⟨fun r => ?_, ?_⟩
  · unfold Team.uniformResult
    rw [Team.setStat_sreg]
    cases wide with
    | false =>
      simp only [Team.writeS, Team.sreg, destRegs, destWord, Sparse.get_set, List.mem_singleton, Bool.false_eq_true, if_false]
      split <;> simp_all
    | true =>
      simp only [Team.writeS64, Team.writeS, Team.sreg, destRegs, destWord, Sparse.get_set, List.mem_cons, List.not_mem_nil, or_false, if_true]
      by_cases h1 : r = d.toNat + 1
      · simp [h1]
      · by_cases h2 : r = d.toNat <;> simp [h1, h2]
  · unfold Team.uniformResult Team.setStat
    cases wide <;> simp [Team.writeS64, Team.writeS] <;> split <;> rfl

/-! Instructions of the team's own registers. -/

theorem State.teamOp_done {s : State} {c : Issuer} {n : Nat} {src : Option Reg} {f : Issuer → TeamRes} {t : Team}
    (h : s.issuer = some c) (hf : f c = .done t) : s.teamOp n src f = .next (s.setTeam c.ref (t.advance n (src.map (c.team.source s.rf)))) := by
  unfold State.teamOp
  rw [State.issue_of_issuer h, hf]

theorem State.teamOp_jump {s : State} {c : Issuer} {n : Nat} {src : Option Reg} {f : Issuer → TeamRes} {t : Team} {x : VAddr}
    (h : s.issuer = some c) (hf : f c = .jump t x) : s.teamOp n src f = .next (s.setTeam c.ref (t.jump x)) := by
  unfold State.teamOp
  rw [State.issue_of_issuer h, hf]

theorem State.teamOp_illegal {s : State} {c : Issuer} {n : Nat} {src : Option Reg} {f : Issuer → TeamRes}
    (h : s.issuer = some c) (hf : f c = .illegal) : s.teamOp n src f = .next (s.illegal c) := by
  unfold State.teamOp
  rw [State.issue_of_issuer h, hf]

theorem State.teamOp_trap {s : State} {c : Issuer} {n : Nat} {src : Option Reg} {f : Issuer → TeamRes} {k : Trap} {tva : Nat}
    (h : s.issuer = some c) (hf : f c = .trap k tva) : s.teamOp n src f = .next (s.raise c k 0 tva 0) := by
  unfold State.teamOp
  rw [State.issue_of_issuer h, hf]

theorem State.teamOp_stall {s : State} {c : Issuer} {n : Nat} {src : Option Reg} {f : Issuer → TeamRes} {w : Wait}
    (h : s.issuer = some c) (hf : f c = .stall w) : s.teamOp n src f = .next (s.stall c w) := by
  unfold State.teamOp
  rw [State.issue_of_issuer h, hf]

/-- An instruction whose meaning is one result in the active lanes. -/
theorem VectorResult.of_done {i : Instr} {s : State} {c : Issuer} {n : Nat} {src : Option Reg} {f : Issuer → TeamRes} {wide : Bool}
    {d : Reg} {val : Nat → Result} (h : s.issuer = some c) (he : exec i s = s.teamOp n src f) (hd : sOk wide d = true)
    (hf : f c = .done (c.team.sweepResult s.rf wide d val)) : VectorResult i s c n wide d val := by
  refine ⟨_, he.trans (State.teamOp_done h hf), Team.sweep_frame _ _ _ _ _ _ _ _, ?_, ?_⟩
  · have := Team.sweepResult_holds c.team s.rf val hd
    exact ⟨fun l r hr => by rw [Team.advance_vreg]; exact this.1 l r hr, by rw [Team.advance_stat]; exact this.2⟩
  · rw [Team.advance_pc, Team.sweepResult, Team.setStat_nextPc]; rfl

/-- An instruction whose meaning is one result in the uniform file. -/
theorem UniformResult.of_done {i : Instr} {s : State} {c : Issuer} {n : Nat} {src : Option Reg} {f : Issuer → TeamRes} {wide : Bool}
    {d : Reg} {x : Result} (h : s.issuer = some c) (he : exec i s = s.teamOp n src f)
    (hf : f c = .done (c.team.uniformResult wide d x)) : UniformResult i s c n wide d x := by
  refine ⟨_, he.trans (State.teamOp_done h hf), Team.uniformResult_frame _ _ _ _ _ _, ?_, ?_⟩
  · have := Team.uniformResult_holds c.team (wide := wide) (d := d) x
    exact ⟨fun r => by rw [Team.advance_sreg]; exact this.1 r, by rw [Team.advance_stat]; exact this.2⟩
  · rw [Team.advance_pc, Team.uniformResult_nextPc]

end Sys2Proof.Machine
end

