-- ==== Sys2Proof/Tests/Slice0.lean ====
section
/-! SUPPORT. Tests of the model: terms that the well-formedness checks refuse, words written out from the spec's encoding tables,
results that the spec works out, and for each statement states that meet its hypotheses. -/

set_option Elab.async false

namespace Sys2Proof.Tests

open Sys2Proof Sys2Proof.Machine

/-! A small machine: one crew of one team of 32 lanes on core 0 of die 0. -/

/-- The state that the loader makes, with the team as the issuer and words in its clause. -/
def demoCrew : Crew := { loaderCrew with alloc := ⟨64, 32, 8, 8, 262144, 1⟩ }

def demoTeam : Team := { loaderTeam with
  pc := 0x1008, clause := some ⟨0x1000, 0xFF000FF7, 0, [0, 0, 0, 0, 0, 0, 0, 0], 0, []⟩ }

def demoC : Issuer := ⟨⟨0, 0, 0⟩, demoTeam, 0, demoCrew⟩

/-- A state in which the team `t` of the crew `k` issues. -/
def at1 (t : Team) (k : Crew) : State := { ((State.reset.setCrew 0 k).setTeam ⟨0, 0, 0⟩ t) with cur := some ⟨0, 0, 0⟩ }

def demo : State := at1 demoTeam demoCrew

/-- The team that issues has a property. -/
def issuerHas (s : State) (p : Issuer → Bool) : Bool :=
  match s.issuer with
  | some c => p c
  | none => false

/-- The instruction makes a next state with a property of the team that issued it. -/
def makes (i : Instr) (s : State) (p : Team → Bool) : Bool :=
  match exec i s with
  | .next s' => (s'.teamAt ⟨0, 0, 0⟩).any p
  | _ => false

/-- The decoder reads an instruction from words, and takes all of them. -/
def reads (ws : List Word) (i : Instr) : Bool :=
  match decodeWords ws with
  | .ok (j, n) => j == i && n == ws.length
  | .error _ => false

/-- The decoder refuses words. -/
def refuses (ws : List Word) (r : Reject) : Bool :=
  match decodeWords ws with
  | .ok _ => false
  | .error x => x == r

theorem demo_issuer : issuerHas demo (fun c => c.ref == demoC.ref && c.team == demoC.team && c.cid == demoC.cid && c.crew == demoC.crew) = true := by
  decide +kernel

/-! Ill-formed terms: one for each check of `Instr.wellFormed`. -/

theorem illFormed_getm : (Instr.getm 1 2).wellFormed = false := by decide

/-- A team with uniform registers, vector registers of lane 0, and a mode. -/
def demoT (sr : List (Nat × Word)) (vr : List (Nat × Word)) (mode : Word) : Team :=
  { demoTeam with sregs := Sparse.setAll 0 [] sr, vregs := Sparse.setAll 0 [] vr, mode := mode }

/-- The mode of a view: 0 i32, 1 n32, 2 i64, 3 n64, 4 f32, 5 f64, 6 f16x2, 7 bf16x2. -/
def viewMode (e : Nat) : Word := BitVec.ofNat 32 (e * 8192)

def wideDemo : State := at1 (demoT [] [] (viewMode 2)) demoCrew

/-! Registers: the last register that the crew declares and the first that it does not, even and odd pairs. -/

theorem witness_VectorIntThree : (Instr.add, IntV3.add) ∈ intV3Rows ∧ (Instr.shl, IntV3.shl) ∈ intV3Rows ∧
    issuerHas demo (fun c => c.vOk false 63 && c.vOk false 0 && !c.vOk false 64) = true ∧
    issuerHas wideDemo (fun c => c.vOk true 62 && !c.vOk true 61 && !c.vOk true 64) = true :=
  ⟨by simp [intV3Rows], by simp [intV3Rows], by decide +kernel, by decide +kernel⟩

theorem witness_VectorIntTwo : (Instr.neg, IntV2.neg) ∈ intV2Rows ∧
    issuerHas demo (fun c => c.vOk (c.team.et.wide && !IntV2.neg.isCount) 63 && c.vOk c.team.et.wide 0) = true ∧
    issuerHas wideDemo (fun c => !(c.vOk (c.team.et.wide && !IntV2.neg.isCount) 3)) = true :=
  ⟨by simp [intV2Rows], by decide +kernel, by decide +kernel⟩

theorem witness_VectorIntFourImmediateAndOther :
    ((Instr.mad, IntV4.mad) ∈ intV4Rows ∧ (Instr.addi, IntImm.addi) ∈ intImmRows ∧ (Instr.shli, IntImm.shli) ∈ intShiftRows) ∧
    issuerHas demo (fun c => c.srcOk false (srcOf false 63) && c.srcOk false (srcOf true 255) && !c.srcOk false (srcOf false 64)) = true ∧
    issuerHas wideDemo (fun c => c.srcOk true (srcOf true 254) && !c.srcOk true (srcOf true 255) && c.vOk (true && evenReg 63) 63 &&
      c.vOk true 62 && EType.isInt .n64 && !EType.isInt .f32) = true :=
  ⟨⟨by simp [intV4Rows], by simp [intImmRows], by simp [intShiftRows]⟩, by decide +kernel, by decide +kernel⟩

theorem witness_UniformInteger :
    ((Instr.sadd, IntV3.add) ∈ uniV3Rows ∧ (Instr.sneg, IntV2.neg) ∈ uniV2Rows ∧ (Instr.smad, IntV4.mad) ∈ uniV4Rows ∧
      (Instr.saddi, IntImm.addi) ∈ uniImmRows ∧ (Instr.sshli, IntImm.shli) ∈ uniShiftRows) ∧
    issuerHas wideDemo (fun c => sOk c.team.et.wide 254 && !sOk c.team.et.wide 255 && sOk false 255 && c.vOk false 63) = true :=
  ⟨⟨by simp [uniV3Rows], by simp [uniV2Rows], by simp [uniV4Rows], by simp [uniImmRows], by simp [uniShiftRows]⟩, by decide +kernel⟩

theorem witness_VectorFloatingPoint :
    ((Instr.fadd, FltV3.add) ∈ fltV3Rows ∧ (Instr.fneg, FltV2.neg) ∈ fltV2Rows) ∧
    issuerHas (at1 (demoT [] [] (viewMode 5)) demoCrew) (fun c => c.vOk c.team.et.wide 62 && !c.vOk c.team.et.wide 63) = true ∧
    issuerHas demo (fun c => (c.team.et == .i32 || c.team.et == .n32) && c.vOk false 63 && c.srcOk false (srcOf true 255)) = true ∧
    cvtOk .f64 .f32 = true ∧ cvtOk .f32 .f32 = false :=
  ⟨⟨by simp [fltV3Rows], by simp [fltV2Rows]⟩, by decide +kernel, by decide +kernel, rfl, rfl⟩

/-- A crew with a scratchpad, and one in whose scratchpad an engine operation holds the bytes from 0 to 255. -/
def scratchCrew (bytes : List (Nat × Byte)) : Crew := { demoCrew with alloc := ⟨64, 4, 8, 8, 4096, 1⟩, scratch := bytes }

def scratchLock : RangeLock where
  die := 0
  core := 0
  slot := 0
  op := 9
  scratch := true
  write := true
  base := 0
  len := 256

def lockedState (t : Team) (k : Crew) (l : RangeLock) : State :=
  let s := at1 t k
  s.setMsys { s.msys with locks := [l] }

theorem witness_VectorPacked :
    (cvtwOk .int8 2 = true ∧ cvtwOk .f64 1 = false ∧ cvtnOk .e2m1 1 = true ∧ cvtnOk .f64 0 = false) ∧
    issuerHas (at1 (demoT [(9, 4080)] [] 0) (scratchCrew [])) (fun c => c.vRun 56 8 && !c.vRun 57 8 &&
      decide (c.crew.alloc.scratch = (c.team.s 0 9).toNat + 16) && !c.scratchConflict MemSys.initial false 4080 16 &&
      bitsOf (c.crew.scratchNat 4080 16) 32 96 == 0) = true ∧
    issuerHas (at1 (demoT [(9, 4096)] [] 0) (scratchCrew [])) (fun c => decide (c.crew.alloc.scratch < (c.team.s 0 9).toNat + 16)) = true ∧
    issuerHas (lockedState (demoT [(9, 240)] [] 0) (scratchCrew [(244, 1)]) scratchLock) (fun c =>
      c.scratchConflict (lockedState demoTeam demoCrew scratchLock).msys false 240 16 && bitsOf (c.crew.scratchNat 240 16) 32 96 != 0) = true :=
  ⟨by decide, by decide +kernel, by decide +kernel, by decide +kernel⟩

theorem witness_CrossLanePermutes :
    issuerHas (at1 (demoT [] [(regKey 0 2, 3), (regKey 1 2, 3), (regKey 3 2, 5)] 0) demoCrew) (fun c =>
      let t := c.team
      let free := 0
      let sends := fun x l => t.isActive free x && t.tileBase x == t.tileBase l && (t.v free x 2).toNat % t.tileSize == t.tilePos l
      c.vOk false 63 && sends 1 3 && sends 0 3 && sends 3 5 && !(List.range 32).any (fun x => sends x 31)) = true ∧
    issuerHas (at1 { demoT [] [] 0 with part := 1, mask := 1 } demoCrew) (fun c => c.team.isActive 0 0 && !c.team.isActive 0 1 &&
      c.team.tileSize == 2) = true :=
  ⟨by decide +kernel, by decide +kernel⟩

theorem witness_CrossLaneVotesAndScans :
    issuerHas (at1 (demoT [] [] (viewMode 4)) demoCrew) (fun c => redOk c.team.et .add && !redOk c.team.et .and && c.vOk false 63 && sOk false 255) = true ∧
    issuerHas wideDemo (fun c => redOk c.team.et .xor && c.vOk true 62 && !sOk true 3) = true :=
  ⟨by decide +kernel, by decide +kernel⟩

theorem witness_TeamWideAndReductions :
    issuerHas demo (fun c => redOk c.team.et .min && sOk false 255 && c.vOk false 63) = true ∧ EType.isInt .n64 = true ∧ ([5] : List Nat) ≠ [] :=
  ⟨by decide +kernel, rfl, by decide⟩

theorem witness_EscapeForms :
    (escapeOk 0x20 3 false true = true ∧ escapeOk 0x20 3 false false = false ∧ escapeOk 0x33 0 true false = true ∧ escapeOk 0x33 1 true false = false) ∧
    (intV3Of 0x20 = some .add ∧ intV2Of 0x26 = some .neg ∧ fltV3Of 0x84 = some .min ∧ fltV2Of 0x91 = some (.special .rsq) ∧ voteOf 0xA4 ≠ none) ∧
    issuerHas demo (fun c => c.vOk false 63 && c.srcOk false (srcOf true 255) && c.srcOk false (srcOf false 63)) = true :=
  ⟨by decide, by decide, by decide +kernel⟩

/-! Control. -/

theorem witness_BranchesAndCalls :
    issuerHas (at1 { demoT [(2, 0x2002), (4, 0x2000), (7, 0x02000000)] [] 0 with ret := [⟨0, 0x1100⟩] } demoCrew) (fun c =>
      let t := c.team
      evenReg 2 && c.team.s64 0 2 % 4 != 0 && c.team.s64 0 4 % 4 == 0 && decide (2 ^ 57 ≤ t.s64 0 6) && decide (t.ret.length < 16) &&
      t.ret.any (fun e => e.depth == t.div.length)) = true ∧
    issuerHas (at1 { demoTeam with ret := List.replicate 16 ⟨1, 0⟩ } demoCrew) (fun c => decide (16 ≤ c.team.ret.length) &&
      c.team.ret.any (fun e => e.depth != c.team.div.length)) = true ∧
    issuerHas demo (fun c => c.team.ret.isEmpty) = true :=
  ⟨by decide +kernel, by decide +kernel, by decide +kernel⟩

theorem witness_IfGroup :
    issuerHas demo (fun c => c.vOk false 63 && !c.vOk false 64 && decide (c.team.div.length < 32) && c.team.frameSize == 0) = true ∧
    issuerHas (at1 { demoTeam with div := List.replicate 32 ⟨.ifPath, 1, 1, 0⟩ } demoCrew) (fun c => decide (32 ≤ c.team.div.length) &&
      c.team.frameSize != 0) = true ∧
    issuerHas (at1 { demoTeam with div := [⟨.elsePath, 1, 0, 0⟩] } demoCrew) (fun c => c.team.frameSize != 0) = true ∧
    issuerHas (at1 { demoTeam with div := [⟨.loop, 1, 0, 0⟩] } demoCrew) (fun c => c.team.frameSize != 0) = true :=
  ⟨by decide +kernel, by decide +kernel, by decide +kernel, by decide +kernel⟩

theorem witness_LoopGroup :
    issuerHas demo (fun c => c.vOk false 63 && splitLoop c.team.frameSize c.team.div == none && c.team.frameSize == 0) = true ∧
    issuerHas (at1 { demoT [] [(regKey 0 5, 1)] 0 with div := [⟨.ifPath, 3, 2, 0⟩, ⟨.loop, 7, 0, 0x1100⟩] } demoCrew) (fun c =>
      (splitLoop c.team.frameSize c.team.div).isSome && c.team.isActive 0 0 && c.team.v 0 0 5 != 0 && c.team.isActive 0 1 && c.team.v 0 1 5 == 0) = true ∧
    issuerHas (at1 { demoT [] [(regKey 0 5, 1)] 0 with mask := 1, div := [⟨.loop, 1, 0, 0x1100⟩] } demoCrew) (fun c =>
      (splitLoop c.team.frameSize c.team.div).isSome && c.team.mask &&& ~~~c.team.taken 0 5 == 0 && c.team.frameSize != 0) = true ∧
    issuerHas (at1 { demoTeam with div := List.replicate 32 ⟨.loop, 1, 0, 0⟩ } demoCrew) (fun c => decide (32 ≤ c.team.div.length)) = true :=
  ⟨by decide +kernel, by decide +kernel, by decide +kernel, by decide +kernel⟩

theorem witness_ModeAndSpecialRegisters :
    issuerHas (at1 (demoT [(1, 0x00050000), (2, 0x00040000), (3, 0x13F), (4, 0x140)] [] 0) demoCrew) (fun c =>
      let x := fun a => c.team.s 0 a &&& 0x000FE3FF#32
      decide (5 ≤ bitsOf (x 1).toNat 16 3) && decide (bitsOf (x 2).toNat 16 3 = 4) &&
      (x 3).getLsbD 8 && decide (bitsOf (x 3).toNat 0 8 < c.crew.alloc.regs) && (x 4).getLsbD 8 &&
      decide (c.crew.alloc.regs ≤ bitsOf (x 4).toNat 0 8) && c.vOk false 63 && evenReg 254 && !evenReg 255) = true := by decide +kernel

theorem witness_ExitRemovesLanes :
    issuerHas (at1 { demoTeam with mask := 1 } demoCrew) (fun c => c.team.active 0 == [0] && c.team.present != 1) = true ∧
    issuerHas demo (fun c => (c.team.active 0).length == 32) = true :=
  ⟨by decide +kernel, by decide +kernel⟩

/-- A crew of two teams with a give of n registers from team 1 to team 0, or none. -/
def handCrew (g : Option Nat) : Crew := { demoCrew with
  slots := [0, 1], alloc := ⟨64, 4, 8, 8, 4096, 2⟩
  channels := match g with
    | some n => [(channelKey 1 0, some ⟨0, n, 32, []⟩)]
    | none => [] }

def handState (g : Option Nat) (retired : Bool) : State :=
  (at1 demoTeam (handCrew g)).setTeam ⟨0, 0, 1⟩ { demoTeam with index := 1, present := if retired then 0 else 1 }

theorem witness_GiveAndClaim :
    (issuerHas (handState none false) (fun c => c.handOk 1 0 64 && !c.handOk 1 1 64 && !c.handOk 0 0 1 && !(handState none false).teamRetired c.crew 1) &&
    issuerHas (handState none true) (fun c => c.handOk 1 0 1 && (handState none true).teamRetired c.crew 1 &&
      (Sparse.get none c.crew.channels (channelKey 1 0)).isNone) &&
    issuerHas (handState (some 4) false) (fun c => c.handOk 1 60 4 && (Sparse.get none c.crew.channels (channelKey 1 0)).any (fun g => g.count == 4)) &&
    (match { handState (some 4) false with cur := some ⟨0, 0, 1⟩ }.issuer with
      | some c => c.handOk 0 0 1 && (Sparse.get none c.crew.channels (channelKey 1 0)).isSome
      | none => false)) = true := by decide +kernel

/-! Bit fields and numbers. -/

theorem witness_BitFields :
    issuerHas demo (fun c => c.vOk false 63 && decide (31 + 1 ≤ c.team.et.width) && decide (c.team.et.width < 31 + 2)) = true ∧
    issuerHas wideDemo (fun c => c.vOk true 62 && !c.vOk true 63 && decide (0 + 64 ≤ c.team.et.width)) = true :=
  ⟨by decide +kernel, by decide +kernel⟩

theorem witness_FloatOrderAndSign :
    issuerHas (at1 (demoT [] [] (viewMode 6)) demoCrew) (fun c => c.vOk c.team.et.wide 63 && !c.vOk c.team.et.wide 64) = true := by decide +kernel

theorem witness_IntegerValues : (2 ^ 32 - 1 : Nat) < 2 ^ 32 ∧ (2 ^ 64 - 1 : Nat) < 2 ^ 64 ∧ EType.isInt .i64 = true ∧ EType.width .i64 = 64 ∧
    EType.signed .i64 = true := by decide

/-! Memory: pages 1 to 8 of the demo's space map to themselves, page 9 is memory-side, page 16 is read-only, page 17 a frame of another world,
page 18 a host page without an answer, page 19 maps to itself; the first line of page 8 is held; the L1 of core 0 holds the first line of page 3. -/

def pageLeaf (p bits : Nat) : TlbEntry := ⟨0, none, 0, p, 1, BitVec.ofNat 64 (p * 4096 + bits), 0⟩

def demoMem : MemSys := { MemSys.initial with
  mem := [(0x2000, 5), (0x2001, 6)]
  frames := [(1, 0x4000), (2, 0x4000), (3, 0x4000), (4, 0x4000), (5, 0x4000), (6, 0x4000), (7, 0x4000), (8, 0x4000), (9, 0x4400), (16, 0x4000), (17, 0x4005), (19, 0x4000)]
  held := [(0x100, true)]
  l1 := [⟨0, 0x60, 0, List.replicate 128 7⟩]
  tlb := [pageLeaf 1 0x43B, pageLeaf 2 0x43B, pageLeaf 3 0x43B, pageLeaf 4 0x43B, pageLeaf 5 0x43B, pageLeaf 6 0x43B, pageLeaf 7 0x43B,
    pageLeaf 8 0x43B, pageLeaf 9 0x53B, pageLeaf 16 0x433, pageLeaf 17 0x43B, pageLeaf 19 0x43B, ⟨0, none, 0, 18, 1, 0x62B, 0⟩] }

/-- The team of lane 0 with a base address in s0:1. -/
def memTeam (base : Nat) : Team := { demoT [(0, BitVec.ofNat 32 base), (1, BitVec.ofNat 32 (base / 2 ^ 32))] [] 0 with mask := 1 }

def memState (base : Nat) : State := (at1 (memTeam base) demoCrew).setMsys demoMem

/-- A state whose clause assigns flag 0 to the instruction, which still holds it if `busy`. -/
def flagState (busy : Bool) : State :=
  (at1 { memTeam 0x2000 with clause := some ⟨0x1000, 0xFF0000F7, 0, [0, 0, 0, 0, 0, 0, 0, 0], 0, []⟩, flags := if busy then 1 else 0 } demoCrew).setMsys demoMem

/-- The lane access goes through, or does not. -/
def laneRuns (s : State) (lane : Issuer → LaneSeq → Nat → Except LaneFail LaneSeq) : Bool :=
  issuerHas s fun c => (runLanes (lane c) (c.team.todo 0).1 (c.start s)).2.isNone

def plainLoad (s : State) (c : Issuer) : LaneSeq → Nat → Except LaneFail LaneSeq := c.loadLane s 2 0 1 0 4 1 false false

theorem witness_LoadsRunTheirLanes :
    (issuerHas (memState 0x2000) (fun c => c.vRun 60 4 && !c.vRun 61 4 && evenReg 60 && c.vOk false 63 && c.vRun 31 33 && !c.vRun 32 33 &&
      decide (mxLen 64 / 4 + 1 ≤ 33) && c.team.flagSlot.isNone) &&
    laneRuns (memState 0x2000) (plainLoad (memState 0x2000)) && !laneRuns (memState 0x2002) (plainLoad (memState 0x2002)) &&
    !laneRuns (memState 0xA000000) (fun c q l => match plainLoad (memState 0x11000) c q l with | .ok q => .ok q | .error e => .error e) &&
    issuerHas (flagState true) (fun c => c.team.flagSlot == some 0 && c.team.flags.getLsbD 0) &&
    issuerHas (flagState false) (fun c => c.team.flagSlot == some 0 && !c.team.flags.getLsbD 0)) = true := by decide +kernel

/-- A store of the team to the first word of page 2 that is still to be performed. -/
def lateStore : LateAcc := ⟨7, [⟨false, false, 0x2000, 4⟩], false, .store [1, 2, 3, 4]⟩

/-- A load of the team from the second word of page 2, to v2 of lane 0, that is still to be performed. -/
def lateLoad : LateAcc := ⟨8, [⟨false, false, 0x2004, 4⟩], false, .load [regKey 0 2] none false⟩

def lateTeam : Team := { memTeam 0x2000 with late := [lateStore, lateLoad], inflight := [⟨8, some 0, [(regKey 0 2, some ⟨0, false, false⟩)]⟩] }

def lateState : State := (at1 lateTeam demoCrew).setMsys demoMem

/-- What one lane's access does with the late accesses of the team. -/
def laneLeaves (s : State) (lane : Issuer → LaneSeq → Nat → Except LaneFail LaneSeq) (p : LaneSeq → Bool) : Bool :=
  issuerHas s fun c => p (runLanes (lane c) (c.team.todo 0).1 (c.start s)).1

theorem witness_LateAccesses :
    (laneLeaves lateState (fun c => c.loadLane lateState 2 0 1 0 4 1 true true) (fun q => q.blocked == some (.bytes [⟨false, false, 0x2000, 4⟩])) &&
    laneLeaves lateState (fun c => c.loadLane lateState 2 0 1 0 4 1 false false) (fun q => q.blocked.isNone && q.late.length == 3) &&
    laneLeaves { memState 0x2000 with late := [true] } (fun c => c.storeLane (memState 0x2000) 2 0 1 0 4 1 false)
      (fun q => q.late.length == 1 && q.choices == []) &&
    laneLeaves (memState 0x2000) (fun c => c.storeLane (memState 0x2000) 2 0 1 0 4 1 false) (fun q => q.late == [] && q.m.readB 0x2000 == 0) &&
    !lateLoad.behind ⟨9, [], false, .take 0 [] (.poly 0)⟩ &&
    ({ lateLoad with rel := true } : LateAcc).behind lateStore) = true := by decide +kernel

theorem witness_accessFails :
    (issuerHas (memState 0x11000) (fun c => (c.runs (memState 0x11000) (plainLoad (memState 0x11000) c)).2 == some (0, .trap .worldViolation 0x11000)) &&
    issuerHas (memState 0x12000) (fun c => (c.runs (memState 0x12000) (plainLoad (memState 0x12000) c)).2 == some (0, .ats 0x12000)) &&
    issuerHas (memState 0) (fun c => (c.runs (memState 0) (plainLoad (memState 0) c)).2 == some (0, .xlate 5 0))) = true := by decide +kernel

/-- The offsets of `sld` at which its clauses meet, in a scratchpad of 4096 bytes. -/
theorem witness_sld :
    (issuerHas (at1 (demoT [(2, 4092), (3, 4096), (4, 4094), (6, 252)] [] 0) (scratchCrew [])) (fun c =>
      let o := fun a => truncBits ((c.team.s 0 a).toNat + toSigned 16 0) 32
      decide (o 2 + 4 = c.crew.alloc.scratch) && decide (o 2 % 4 = 0) && decide (c.crew.alloc.scratch < o 3 + 4) && decide (o 3 % 4 = 0) &&
      decide (o 4 % 4 ≠ 0) && !c.scratchConflict MemSys.initial false 4092 4) &&
    issuerHas (at1 { demoT [(2, 4092)] [] 0 with late := [lateStore] } (scratchCrew [])) (fun c => c.team.late != [] &&
      c.team.flagSlot.isNone && decide ((c.team.s 0 2).toNat % 4 = 0)) &&
    issuerHas (lockedState (demoT [(6, 252)] [] 0) (scratchCrew []) scratchLock) (fun c =>
      c.scratchConflict (lockedState demoTeam demoCrew scratchLock).msys false 252 4 &&
      !c.scratchConflict (lockedState demoTeam demoCrew scratchLock).msys false 256 4)) = true := by decide +kernel

theorem witness_StoresRunTheirLanes :
    (issuerHas (memState 0x2000) (fun c => c.vRun 62 2 && evenReg 62 && evenReg 0 && !c.uncommitted) &&
    issuerHas (at1 demoTeam { demoCrew with task := some 1 }) (fun c => c.uncommitted) &&
    laneRuns (memState 0x2000) (fun c => c.storeLane (memState 0x2000) 2 0 1 0 4 1 false) &&
    !laneRuns (memState 0x8000) (fun c => c.storeLane (memState 0x8000) 2 0 1 0 4 1 false)) = true := by decide +kernel

theorem witness_AtomicsRunTheirLanes :
    (issuerHas (memState 0x2000) (fun c => c.vOk c.team.et.wide 63 && evenReg 0 && !c.uncommitted) &&
    laneRuns (memState 0x2000) (fun c => c.atomicLane (memState 0x2000) .add 2 0 1 3 .relaxed 0)) = true := by decide +kernel

/-- How an access to an address of the demo is translated. -/
def demoXlate (write : Bool) (va : Nat) : Xlate := demoMem.translate 1 ⟨0, 0, 2, write, false, false, none⟩ va

def memLock : RangeLock := { scratchLock with scratch := false, base := 0x2000, len := 128 }

theorem witness_LoadLane :
    (demoXlate false 0x2000 == .ok 0x2000 0x243B 0) && (demoXlate false 0x9FFC == .ok 0x9FFC 0x953B 0) && (demoXlate false 0x0 == .fail 5) &&
    (demoXlate false 0x11000 == .world) && (demoXlate false 0x12000 == .ats) &&
    issuerHas (memState 0x2002) (fun c => decide (c.team.globalAddr 0 0 0 1 0 % 4 ≠ 0)) &&
    issuerHas (memState 0x2000) (fun c => decide (c.team.globalAddr 0 0 0 1 0 % 4 = 0) && !demoMem.conflict 0 0 [] false false 0x2000 4) &&
    { demoMem with locks := [memLock] }.conflict 0 0 [] false false 0x207C 4 && !{ demoMem with locks := [memLock] }.conflict 0 0 [] false false 0x2080 4 &&
    (demoMem.l1Find (demoMem.l1Of 0 0 0x3000) (lineOf 0x3000) 0).isSome = true := by decide +kernel

/-- How both parts of a block at `base` are translated, its scale at `off` from there. -/
def mxXlates (write : Bool) (base : Nat) (off : Int) : Xlate × Xlate :=
  match (memState base).issuer with
  | some c =>
    let x := demoMem.translate (laneFree (memState base) 0 0) (c.access write false) base
    match x with
    | .ok _ leaf lvl => (x, (c.usePiece demoMem write false base leaf lvl).translate 1 (c.access write false) (truncBits (base + off) 57))
    | _ => (x, .world)
  | none => (.world, .world)

theorem witness_blocks :
    (mxXlates false 0 32 == (.fail 5, .world)) && (mxXlates false 0x11000 32 == (.world, .world)) && (mxXlates false 0x12000 32 == (.ats, .world)) &&
    (mxXlates false 0x1000 (-32) == (.ok 0x1000 0x143B 0, .fail 5)) && (mxXlates false 0x10FE0 32 == (.ok 0x10FE0 0x10433 0, .world)) &&
    (mxXlates false 0x13000 (-32) == (.ok 0x13000 0x1343B 0, .ats)) && (mxXlates true 0x7FE0 32 == (.ok 0x7FE0 0x743B 0, .ok 0x8000 0x843B 0)) &&
    (mxXlates true 0x8000 (-32) == (.ok 0x8000 0x843B 0, .ok 0x7FE0 0x743B 0)) && (mxXlates true 0x2FE0 32 == (.ok 0x2FE0 0x243B 0, .ok 0x3000 0x343B 0)) &&
    demoMem.isHeld 0x8000 && !demoMem.isHeld 0x7FE0 && !demoMem.isHeld 0x2FE0 && !demoMem.isHeld 0x3000 &&
    !{ demoMem with locks := [memLock] }.conflict 0 0 [] false false 0x20A0 32 && { demoMem with locks := [memLock] }.conflict 0 0 [] false false 0x2060 1 &&
    { demoMem with locks := [memLock] }.conflict 0 0 [] false false 0x2060 32 && decide (mxLen 0x20 = 32 ∧ mxLen 0x8000 = 16) = true := by decide +kernel

theorem witness_StoreAndAtomicLane :
    (demoXlate true 0x2000 == .ok 0x2000 0x243B 0) && (demoXlate true 0x10000 == .fail 2) && (demoXlate true 0x11000 == .world) &&
    demoMem.isHeld 0x8000 && demoMem.isHeld 0x807F && !demoMem.isHeld 0x8080 && (demoXlate true 0x8000 == .ok 0x8000 0x843B 0) &&
    { demoMem with locks := [{ memLock with write := false }] }.conflict 0 0 [] false true 0x2000 4 &&
    !{ demoMem with locks := [{ memLock with write := false }] }.conflict 0 0 [] false false 0x2000 4 &&
    issuerHas (at1 (demoT [(0, 0x2004)] [] (viewMode 2)) demoCrew) (fun c => decide (c.team.globalAddr 0 0 0 1 0 % c.team.viewLen ≠ 0)) = true := by
  decide +kernel

theorem witness_StoredBytes : MemSys.dirtyOk demoMem ∧ MemSys.dirtyOk { demoMem with dirty := [⟨2 ^ 41, 0, 1, List.replicate 128 0⟩] } ∧
    ({ demoMem with bells := [0x5000] }.isBell 0x5000 = true ∧ demoMem.isBell 0x2000 = false ∧ (0x207C : Nat) % 128 + 4 ≤ 128) := by
  unfold MemSys.dirtyOk; decide +kernel

theorem witness_ScratchpadLane :
    (issuerHas (at1 (demoT [(2, 4092), (3, 4096), (4, 4094)] [] 0) (scratchCrew [])) (fun c =>
      let o := fun a => c.team.scratchAddr 0 0 a 1 0
      decide (o 2 % c.team.viewLen = 0) && decide (o 2 + c.team.viewLen ≤ c.crew.alloc.scratch) && decide (c.crew.alloc.scratch < o 3 + c.team.viewLen) &&
      decide (o 3 % c.team.viewLen = 0) && decide (o 4 % c.team.viewLen ≠ 0) && !c.scratchConflict MemSys.initial true 4092 4)) = true := by decide +kernel

/-- A team with an instruction in flight that is still to write v2 of lane 0, where a later one has written it too, and s5. -/
def flightTeam : Team := { demoTeam with flags := 1, inflight := [⟨7, some 0, [(regKey 0 2, some ⟨9, true, true⟩), (regKey 1024 5, some ⟨3, false, true⟩)]⟩] }

theorem witness_LongLatencyCompletes : (at1 flightTeam demoCrew).teamAt ⟨0, 0, 0⟩ = some flightTeam ∧
    flightTeam.inflight.find? (fun x => x.id == 7) = flightTeam.inflight.head? ∧
    flightTeam.inflight.all (fun o => Sparse.wf none o.writes) = true := by decide +kernel

/-- Of the accesses of the team only the load is to write a register; the store is the first one to be performed. -/
theorem witness_late_completion : (at1 lateTeam demoCrew).teamAt ⟨0, 0, 0⟩ = some lateTeam ∧ lateUpTo 8 lateTeam.late = 2 ∧ lateUpTo 7 lateTeam.late = 1 ∧
    (at1 lateTeam demoCrew).crewAt lateTeam.crew = some demoCrew ∧ lateTeam.late = lateStore :: [lateLoad] ∧ lateLoad.keys = [regKey 0 2] := by decide +kernel

/-- Late accesses of which one reads, late stores alone, and none. -/
theorem witness_fences : lateLoad ∈ lateTeam.late ∧ (∀ bs, lateLoad.kind ≠ .store bs) ∧ (∀ l data x, lateLoad.kind ≠ .take l data x) ∧
    (∀ a ∈ [lateStore], ∃ bs, a.kind = .store bs) ∧
    (issuerHas (at1 { demoTeam with late := [lateStore] } demoCrew) (fun c => c.team.late == [lateStore]) && issuerHas lateState (fun c => c.team.late != []) &&
      issuerHas (memState 0x2000) (fun c => c.team.late == [])) = true :=
  ⟨by decide, by simp [lateLoad], by simp [lateLoad], by simp [lateStore], by decide +kernel⟩

theorem witness_pref :
    (issuerHas (memState 0x2004) (fun c => decide (c.team.globalAddr 0 0 0 1 0 % 128 ≠ 0)) &&
    issuerHas (memState 0x2000) (fun c => decide (c.team.globalAddr 0 0 0 1 0 % 128 = 0) && !demoMem.conflict 0 0 [] false false 0x2000 128 &&
      demoMem.translate (laneFree (memState 0x2000) 0 0) (c.access false false) 0x2000 == .ok 0x2000 0x243B 0 && !evenReg 1 &&
      !c.vOk false 64)) = true := by decide +kernel

theorem witness_FencesAndPrefetch :
    issuerHas (memState 0x2000) (fun c => evenReg 0 && c.vOk false 63 && c.team.active 0 == [0] && !demoMem.quadFused 0 0 &&
      !demoMem.conflict 0 0 [] false false 0x2000 1 && !leafMsd 0x243B) = true ∧
    { demoMem with fused := [(0, true)] }.quadFused 0 3 = true := ⟨by decide +kernel, by decide +kernel⟩

def coopCrew : Crew := { demoCrew with coop := true, gid := 1 }

theorem witness_barriers_wait : issuerHas (at1 { demoTeam with late := [lateStore] } demoCrew) (fun c => decide (c.team.late ≠ []) &&
    c.team.arrivalAt 5 == none) = true := by decide +kernel

/-- The state of the barrier 5 of the crew once the issuing team has arrived, its crew with it or not. -/
def arrivedAt (s : State) (c : Issuer) (scope : Scope) (last : Bool) : BarState :=
  let b := s.barAt (c.crew.barOwner c.cid scope) (s.barSame c.cid c.crew scope) 5
  { b with arrived := (c.cid, c.team.index) :: b.arrived, ranked := if last then c.cid :: b.ranked else b.ranked }

/-- The instance 0 of barrier 5 of the members of a name, with the crew 1 of module 1 arrived. -/
def openBar (o : BarOwner) : BarState := ⟨0, [o], 5, 1, [], [], [(1, 1)]⟩

theorem witness_Barriers :
    (issuerHas demo (fun c => decide (c.team.arrivalAt 5 = none) && decide (c.team.arrivals.length < 4) && !c.crew.coop && c.team.late == [] &&
      demo.crewIn (arrivedAt demo c .core false) c.cid c.crew && demo.barComplete (arrivedAt demo c .core true)) &&
    issuerHas (handState none false) (fun c => let s := handState none false
      !s.crewIn (arrivedAt s c .core false) c.cid c.crew && !s.barComplete (arrivedAt s c .core false)) &&
    issuerHas (at1 { demoTeam with arrivals := List.replicate 4 ⟨.core, 5, 0, true⟩ } coopCrew) (fun c =>
      decide (4 ≤ c.team.arrivals.length) && (c.team.arrivalAt 5).any (fun a => a.bar) && c.crew.coop) &&
    issuerHas (at1 { demoTeam with arrivals := [⟨.core, 5, 0, false⟩] } coopCrew) (fun c => (c.team.arrivalAt 5).any (fun a => !a.bar)) &&
    demo.barriers.all (fun b => b.id != 0) && ({ demo with barriers := [openBar (.crew 0)] } : State).barriers.any (fun b => b.id == 0)) = true ∧
    (∀ b ∈ ({ demo with barriers := [openBar (.crew 0)] } : State).barriers, b.number = 5 → ∀ x ∈ [BarOwner.crew 1], x ∉ b.names) := by
  refine ⟨by decide +kernel, ?_⟩
  simp [openBar]

/-- A module of a pod: crews of module 1 at a barrier of group 2, of which one has arrived. -/
theorem witness_remote_arrivals :
    (let m := { demoMem with bring := { BringUp.initial with inPod := true, neighbours := [1, 2] } }
     let s := { demo.setMsys m with barriers := [openBar (.pod 2)] }
     m.bring.inPod && !m.podDown && !m.fenced.contains 1 && m.pkg != 1 && (s.barAt (.pod 2) [.pod 2] 5).remote == [(1, 1)] &&
     (s.barAt (.pod 3) [.pod 3] 5).remote == []) = true := by decide +kernel

/-! Traps, system registers, services, `await`. -/

def trapState (t : Team) : State := { (at1 t demoCrew).setMsys demoMem with cores := [(0, ⟨0x5000, 0x4000⟩)] }

def demoFrame (seen : List Word) : Frame where
  phys := 0x4000
  msd := false
  pc := 0x1010
  cause := 5
  arg := 0
  tva := 0
  level := 0
  h0 := 0xFF000FF7
  h1 := 0
  slot := 2
  seen := seen
  inClause := true
  retDepth := 0
  divDepth := 0
  mode := 0
  part := 5
  mask := 3
  lanes := 3
  saved := [1, 2, 3, 4, 5, 6, 7, 8]

def handlerTeam : Team := { demoTeam with frame := some (demoFrame [0, 0, 0x04000000]) }

/-- The handler's team, with an action left in the frame. -/
def handlerState (t : Team) (action : Byte) : State :=
  (at1 t demoCrew).setMsys { demoMem with mem := if action = 0 then [] else [(0x4018, action)] }

theorem witness_TrapEntryAndDoubleTrap :
    (issuerHas (trapState demoTeam) (fun c => c.team.drained && decide (c.team.frame = none) &&
      demoMem.linesOk (freeAt (trapState demoTeam) 60000) ⟨0, 0, 2, true, false, false, some 0⟩ 0x4000 4 == none &&
      demoMem.translate (freeAt (trapState demoTeam) 60000) ⟨0, 0, 2, true, false, false, some 0⟩ 0x4000 == .ok 0x4000 0x443B 0) &&
    issuerHas (trapState flightTeam) (fun c => !c.team.drained) &&
    issuerHas (trapState { demoTeam with pending := some ⟨.software, 3, 0, 0, none, (0, 0)⟩ }) (fun c => c.team.pending.any (fun p => p.post.isNone) &&
      c.team.drained) &&
    issuerHas (trapState handlerTeam) (fun c => c.team.frame.isSome && (trapState handlerTeam).crewAt c.cid == some c.crew)) = true := by
  decide +kernel

def demoPost (cause : Nat) : FaultPost := ⟨4, cause, false, false, 0, 0, 0, 0, 0, 0, 0x12000, 0, false⟩

/-- A fault queue of die 0 with all its slots taken, and frames at an address that is not mapped or that the host has not answered for. -/
theorem witness_traps_at_the_queue :
    (let t := { demoTeam with pending := some ⟨.xlateFault, 0, 0, 0, some (demoPost 5), (0, 0)⟩ }
     issuerHas (trapState t) (fun c => c.team.pending.any (fun p => p.post.any (fun q => demoMem.faultRoom q.die &&
       !{ demoMem with faultNext := [(0, 4096)], faults := [(0, ⟨0, demoPost 10, .none, none⟩)] }.faultRoom q.die)) && c.team.drained) &&
     (let a : Access := ⟨0, 0, 2, true, false, false, some 0⟩
      demoMem.linesOk (freeAt (trapState t) 60000) a 0x12000 4 == some .ats && demoMem.linesOk (freeAt (trapState t) 60000) a 0 4 == some (.fail 5)) &&
     decide (flightTeam.drained = false) && demoTeam.clause.isSome && (demoFrame [0, 0, 0x04000000]).saved.length == 8) = true := by decide +kernel

/-- An engine operation of the demo's space that runs and has used the translation of page 3. -/
def walkedOp : EngineOp where
  id := 5
  crew := 0
  team := 0
  die := 0
  core := 0
  slot := 0
  world := 0
  level := 1
  batch := some 1
  number := 1
  prev := none
  w0 := 0x0100000000000300
  w1 := 0x2000
  w2 := 0x3000
  w3 := 0
  phase := .running
  record := 0
  sub := none
  next := 0
  redo := []
  missing := []
  tail := none
  fails := []
  walked := [⟨3, false, 0x343B, 0⟩]
  xfer := none
  done := 0
  failed := false
  failing := none
  payload := []

theorem witness_tlbinv_waits :
    (issuerHas { trapState demoTeam with ops := [walkedOp] } (fun c => c.team.level == 2 && c.team.wait.isNone && walkedOp.world == c.team.tlbspace.toNat) &&
    issuerHas (trapState { demoTeam with wait := some (.tlbinv [5]) }) (fun c =>
      (trapState { demoTeam with wait := some (.tlbinv [5]) }).teamAt c.ref == some { demoTeam with wait := some (.tlbinv [5]) }) &&
    issuerHas (trapState { demoTeam with late := [lateStore] }) (fun c => c.team.level == 2 && c.team.late != [])) = true := by decide +kernel

theorem witness_TrapReturn :
    (issuerHas (handlerState handlerTeam 0) (fun c => decide (c.team.level = 2) && c.team.frame.any (fun f => c.team.ret.length == f.retDepth &&
      c.team.div.length == f.divDepth && f.saved.length == 8 && f.cause != 9 && (handlerState handlerTeam 0).msys.readNat (f.phys + 0x18) 4 == 0)) &&
    issuerHas (handlerState { handlerTeam with frame := some { demoFrame [0, 0, 0x04000000] with cause := 9 } } 0) (fun c => c.team.frame.any (fun f => f.cause == 9)) &&
    issuerHas (handlerState handlerTeam 1) (fun c => c.team.frame.any (fun f => f.inClause &&
      (handlerState handlerTeam 1).msys.readNat (f.phys + 0x18) 4 == 1)) &&
    issuerHas (handlerState handlerTeam 2) (fun c => c.team.frame.any (fun f =>
      (handlerState handlerTeam 2).msys.readNat (f.phys + 0x18) 4 == 2)) &&
    issuerHas (handlerState handlerTeam 3) (fun c => c.team.frame.any (fun f =>
      decide (3 ≤ (handlerState handlerTeam 3).msys.readNat (f.phys + 0x18) 4))) &&
    issuerHas (handlerState { demoTeam with level := 1 } 0) (fun c => decide (c.team.level < 2)) &&
    issuerHas (handlerState demoTeam 0) (fun c => decide (c.team.level = 2) && decide (c.team.frame = none)) &&
    issuerHas (handlerState { handlerTeam with ret := [⟨0, 0⟩] } 0) (fun c => c.team.frame.any (fun f => c.team.ret.length != f.retDepth))) = true := by
  decide +kernel

theorem witness_SystemRegisters :
    (issuerHas (at1 { demoTeam with level := 0 } demoCrew) (fun c => decide (c.team.level < 1)) &&
    issuerHas (at1 { demoTeam with level := 1 } demoCrew) (fun c => decide (1 ≤ c.team.level) && decide (c.team.level < 2)) &&
    issuerHas (trapState handlerTeam) (fun c => decide (2 ≤ c.team.level) && c.team.frame.isSome) &&
    issuerHas (trapState (demoT [(2, 0x3000), (4, 0x3001), (6, 0), (7, 0x02000000)] [] 0)) (fun c => decide (c.team.frame = none) &&
      (let x := fun a => c.team.s64 0 a
       evenReg 2 && decide (x 2 < 2 ^ 57) && decide (x 2 % 4096 = 0) && decide (x 4 % 4096 ≠ 0) && decide (2 ^ 57 ≤ x 6) && x 8 == 0) &&
      decide ((trapState demoTeam).msys.tlb.any (fun e => e.space == c.team.tlbspace.toNat && decide (e.page ≤ 3 ∧ 3 < e.page + e.span))))) = true := by
  decide +kernel

def svcCrew : Crew := { demoCrew with gid := 1 }

def svcState (t : Team) (k : Crew) (batches : List (Nat × Option SvcBatch)) : State :=
  { (at1 t k).setMsys { demoMem with bring := { BringUp.initial with services := [3, 255], svcBase := [0x6000] } } with svc := batches }

def demoBatch (taken : Bool) : SvcBatch := ⟨⟨0, 0, 1⟩, 0, 1, 3, 0, taken⟩

theorem witness_ServiceCalls :
    (issuerHas (svcState demoTeam svcCrew []) (fun c => c.vOk false 63 && c.crew.gid != 0 && !c.uncommitted &&
      (svcState demoTeam svcCrew []).msys.bring.services.contains 255 && !(svcState demoTeam svcCrew []).msys.bring.services.contains 4 &&
      c.team.liveWords == [0] && decide (1 ≤ ((svcState demoTeam svcCrew []).svcFree 0).length) &&
      (svcState demoTeam svcCrew []).svcPending 0 == none) &&
    issuerHas (svcState demoTeam { demoCrew with gid := 0 } []) (fun c => c.crew.gid == 0) &&
    issuerHas (svcState { demoTeam with mask := 0 } svcCrew []) (fun c => c.team.liveWords == []) &&
    (let full := svcState demoTeam svcCrew ((List.range 256).map fun i => (i, some (demoBatch true)))
     issuerHas full (fun _ => decide ((full.svcFree 0).length < 1))) &&
    (let s := svcState { demoTeam with level := 1 } svcCrew [(255, some (demoBatch false))]
     issuerHas s (fun c => decide (1 ≤ c.team.level) && s.svcPending 0 == some 255)) &&
    issuerHas (svcState { demoTeam with level := 0 } svcCrew []) (fun c => c.team.level == 0)) = true := by decide +kernel

/-- The batch of the one live word is written at once, where the service area is mapped. -/
theorem witness_service_bytes : (let s := svcState { demoTeam with late := [] } svcCrew []
    decide ((s.svcFree 0).getD 0 0 = 0) && s.agents == [] && demoTeam.liveWords == [0] && (match s.msys.agentPieces (freeAt s 40000) (agentAccess 0 0 true false)
      (linePieces 513 (s.svcAddr 0 0) 512) with
    | .ok _ => true
    | .error _ => false)) = true ∧ ({ demoTeam with late := [lateStore] } : Team).late ≠ [] := by decide +kernel

/-- A service team of crew 0 at slot 0, and the caller, the second team of the same crew, which calls from word 0. -/
def resultState (out : Nat) : State :=
  (svcState { demoT [(5, 512)] [] 0 with level := 1 } { svcCrew with slots := [0, 1] } [(1, some (demoBatch true))]).setTeam ⟨0, 0, 1⟩
    { demoTeam with index := 1, wait := some .svc, svc := some ⟨out, 3, 0⟩, clause := some ⟨0x1000, 0xFF000FF0, 0, [0x16020103], 0, []⟩ }

theorem witness_ServiceResults :
    ([1, 2].all fun out => issuerHas (resultState out) (fun c => let s := resultState out
      decide (1 ≤ c.team.level) && c.team.s 0 5 == BitVec.ofNat 32 (512 * 1) && (Sparse.get none s.svc 1).any (fun b => b.taken &&
        slotKey b.caller != slotKey c.ref && (s.teamAt b.caller).any (fun t => t.crew == b.crew && t.index == b.team && (s.crewAt t.crew).isSome &&
          t.svc.any (fun call => call.out == out) && t.current == some (.svc 2 1 3))) &&
      (match s.msys.agentRead (freeAt s 42600) 0 0 (s.svcAddr 0 1) 512 with
        | .ok (bs, _) => bs.length == 512
        | .error _ => false))) = true := by decide +kernel

/-- Where the service area is not mapped, or the host has not answered for it, a batch cannot be read back; a caller with an instruction in flight
takes its trap later. -/
theorem witness_results_not_read :
    (let m := fun base => ({ demoMem with bring := { BringUp.initial with services := [3], svcBase := [base] } } : MemSys)
     let fails := fun base => match (m base).agentRead 1 0 0 (base + 512) 512 with
      | .ok _ => none
      | .error e => some e
     fails 0 == some (5, 512) && fails 0x12000 == some (0, 0x12200) && decide (flightTeam.drained = false) &&
     decide ((0xFFFFFFFF : LaneSet) &&& ~~~(wordLanes 0 3) ≠ 0 ∧ (3 : LaneSet) &&& ~~~(wordLanes 0 3) = 0)) = true := by decide +kernel

def demoRec : GridRec where
  paged := true
  entry := 0x1000
  faultEntry := 0x1800
  arg := 0
  coop := false
  fuse := false
  cls := 1
  threshold := 0
  teams := [⟨32, 0⟩]
  alloc := ⟨64, 32, 8, 8, 262144, 1⟩
  group := 0
  logBase := 0
  gx := 1
  gy := 1
  gz := 1
  tileBase := 0
  strideX := 0
  strideY := 0
  strideZ := 0
  count := 4
  listAddr := 0x3000
  parkBase := 0x6000
  parkSlots := 4
  stateAddr := 0x7000
  pwin := 0

def demoGrid (r : GridRec) (pages : List (Nat × PageSt)) : Grid where
  gid := 1
  record := r
  world := 0
  level := 0
  origin := .device
  order := 0
  task := none
  placed := []
  launched := 0
  retired := 0
  corrected := 0
  uncorrectable := 0
  abort := none
  seq := 0
  home := 0
  stateLines := [0x7000 / 128]
  logLines := []
  blocks := []
  gone := []
  pages := pages.map fun p => (p.1, some p.2)
  park := []
  logSeq := []
  log := []

/-- The only team of the only crew of a grid with a log arrives at a barrier of the die; in another, at one of its core. -/
theorem witness_barrier_logs :
    (let s := { at1 demoTeam coopCrew with grids := [demoGrid { demoRec with logBase := 0x9000 } []] }
     issuerHas s (fun c => s.crewIn (arrivedAt s c .die false) c.cid c.crew && c.crew.coop &&
       (s.gridAt c.crew.gid).any (fun g => g.record.logBase != 0) && decide ((5 : BitVec 13).toNat < 8))) = true := by decide +kernel

def pageIn (state : Nat) (awaited : Option Nat) : PageSt := { PageSt.initial with valid := true, state := state, awaited := awaited }

def pageCrew : Crew := { demoCrew with gid := 1, page := some ⟨0, 0, 0, 0, 0, 0⟩ }

/-- The crew of page 0 runs; page 1 is retired, page 2 awaits page 0, page 3 runs. -/
def awaitState (r : GridRec) (k : Crew) (t : Team) : State :=
  { (at1 t k).setMsys demoMem with grids := [demoGrid r [(0, pageIn 2 none), (1, pageIn 6 none), (2, pageIn 4 (some 0)), (3, pageIn 2 none)]] }

theorem witness_AwaitParksAndWakes :
    (issuerHas (awaitState demoRec pageCrew demoTeam) (fun c => ((awaitState demoRec pageCrew demoTeam).pageOf c.crew).any (fun x =>
      x.2 == 0 && x.1.record.faultEntry != 0 && x.1.record.parkBase != 0 && x.1.record.count == 4 &&
      awaitStatus (x.1.pageAt 1).state == some 0 && awaitStatus (x.1.pageAt 2).state == none && x.1.closes 0 2 && !x.1.closes 0 3 &&
      awaitStatus (x.1.pageAt 3).state == none)) &&
    issuerHas (awaitState { demoRec with parkBase := 0 } pageCrew demoTeam) (fun c =>
      ((awaitState { demoRec with parkBase := 0 } pageCrew demoTeam).pageOf c.crew).any (fun x => x.1.record.parkBase == 0)) &&
    issuerHas demo (fun c => (demo.pageOf c.crew).isNone) &&
    (let s := awaitState demoRec { pageCrew with await := some (2, 0, 5), stop := some .awaitCycle } { demoTeam with wait := some .await }
     (s.crewAt 0).any (fun c => (s.pageOf c).isSome && c.onCore && (s.teamsOf c).all Team.atRest && c.slots == [0] &&
       (s.teamAt (c.refAt 0)).any (fun t => t.present != 0))) &&
    (let s := awaitState demoRec { pageCrew with await := some (1, 0, 5), phase := .parked } { demoTeam with wait := some .await }
     (s.crewAt 0).any (fun c => (s.pageOf c).any (fun x => awaitStatus (x.1.pageAt 1).state == some 0) && c.awaiting && c.phase == .parked && c.onCore))) = true := by
  decide +kernel

/-! Matrix, polynomial, engine port, launch, context. -/

/-- The entry that maps an address for the issuing team: a pinned one of the die's TLB, where the core's agrees with it. -/
def pinnedEntry (c : Issuer) (m : MemSys) (va : Nat) : Option TlbEntry :=
  match m.windowFor c.crew.world va, m.tlbFind c.ref.die none c.crew.world (va / 4096) with
  | none, some e =>
    if leafPin e.leaf && (m.tlbFind c.ref.die (some c.ref.core) c.crew.world (va / 4096)).all (fun x =>
      x.leafAt (va / 4096) == e.leafAt (va / 4096) && x.level == e.level) then some e else none
  | _, _ => none

/-- The pieces of an access are all accepted through pinned entries; what the frame map of another module says is not needed. -/
def pinnedPieces (c : Issuer) (write md : Bool) : MemSys → List (Nat × Nat) → Bool
  | _, [] => true
  | m, (va, n) :: ps =>
    match pinnedEntry c m va with
    | none => false
    | some e =>
      let leaf := e.leafAt (va / 4096)
      let pa := leafPa leaf + va % pageBytes e.level
      !m.conflict c.ref.die c.ref.core [] false write va n && !hostUnanswered leaf && inHbm (m.norm pa) &&
        (m.check 0 (c.access write md) pa leaf).isNone && !(write && m.isHeld pa) && pinnedPieces c write md (c.usePiece m write md va leaf e.level) ps

theorem frameOf_hbm (m : MemSys) (free pa : Nat) (h : inHbm (m.norm pa) = true) : m.frameOf free pa = m.frameOf 0 pa := by
  simp [MemSys.frameOf, h]

theorem check_hbm (m : MemSys) (free : Nat) (a : Access) {pa : Nat} {leaf : Dword} (h : inHbm (m.norm pa) = true) (hc : m.check 0 a pa leaf = none) :
    m.check free a pa leaf = none := by
  simpa only [MemSys.check, frameOf_hbm m free _ h] using hc

theorem pinnedEntry_leafFor {c : Issuer} {m : MemSys} {va : Nat} {e : TlbEntry} (free : Nat) (he : pinnedEntry c m va = some e) :
    m.leafFor free c.ref.die (some c.ref.core) c.crew.world va = .ok (e.leafAt (va / 4096), e.level) := by
  unfold pinnedEntry at he
  split at he
  · next hw ht =>
    split at he
    · next hp =>
      simp only [Option.some.injEq] at he
      subst he
      simp only [Bool.and_eq_true] at hp
      refine MemSys.leafFor_pinned m free _ _ _ _ _ hw ht hp.1 fun x hx => ?_
      have := hp.2
      rw [hx] at this
      simpa using this
    · simp at he
  · simp at he

theorem pinned_pieces (c : Issuer) (write md : Bool) (ps : List (Nat × Nat)) : ∀ (m : MemSys) (free : Nat), pinnedPieces c write md m ps = true →
    ∃ m' qs, c.pieces m free write md ps = .ok (m', qs) ∧ qs.length = ps.length := by
  induction ps with
  | nil => exact fun m _ _ => ⟨m, [], rfl, rfl⟩
  | cons p ps ih =>
    intro m free h
    obtain ⟨va, n⟩ := p
    simp only [pinnedPieces] at h
    split at h
    · simp at h
    · next e he =>
      simp only [Bool.and_eq_true, Bool.not_eq_true'] at h
      obtain ⟨⟨⟨⟨⟨h1, h2⟩, h3⟩, h4⟩, h5⟩, h6⟩ := h
      obtain ⟨m', qs, hq, hl⟩ := ih _ (free + 1) h6
      have hleaf := pinnedEntry_leafFor free he
      have hx : m.translate free (c.access write md) va =
          .ok (leafPa (e.leafAt (va / 4096)) + va % pageBytes e.level) (e.leafAt (va / 4096)) e.level := by
        have hc := check_hbm m free (c.access write md) h3 (Option.isNone_iff_eq_none.1 h4)
        simp only [MemSys.translate, Issuer.access] at hc ⊢
        rw [hleaf]
        simp only [h2]
        simp [hc]
      refine ⟨m', (leafPa (e.leafAt (va / 4096)) + va % pageBytes e.level, n, e.leafAt (va / 4096)) :: qs, ?_, by simp only [List.length_cons, hl]⟩
      simp only [Issuer.pieces, Issuer.piece, h1, Issuer.xlatePiece, hx, h5, Bool.false_eq_true, if_false, hq]

/-- A whole read, or a write, is accepted. -/
def canRead (s : State) (va len : Nat) : Bool :=
  issuerHas s fun c => !s.msys.conflict c.ref.die c.ref.core [] false false va len && c.team.late == [] &&
    pinnedPieces c false false s.msys (linePieces (len + 1) va len)

def canWrite (s : State) (md : Bool) (va len : Nat) : Bool :=
  issuerHas s fun c => !s.msys.conflict c.ref.die c.ref.core [] false true va len && c.team.late == [] &&
    pinnedPieces c true md s.msys (linePieces (len + 1) va len)

theorem canRead_reads (s : State) (c : Issuer) (va len : Nat) (hs : s.issuer = some c) (h : canRead s va len = true) : ∃ bs m, c.Reads s va len bs m := by
  simp only [canRead, issuerHas, hs, Bool.and_eq_true, Bool.not_eq_true', beq_iff_eq] at h
  obtain ⟨m, qs, h1, -⟩ := pinned_pieces c false false _ s.msys (freeAt s 1) h.2
  exact ⟨_, _, h.1.1, h.1.2, m, qs, h1, rfl⟩

/-- The pieces of an image, all through pinned entries. -/
def pinnedImage (c : Issuer) (world : Nat) (write : Bool) : MemSys → List (Nat × Nat) → Option (MemSys × List Piece)
  | m, [] => some (m, [])
  | m, (va, n) :: ps =>
    match pinnedEntry c m va with
    | none => none
    | some e =>
      let a : Access := ⟨c.ref.die, c.crew.world, 2, write, false, false, some c.ref.core⟩
      let leaf := e.leafAt (va / 4096)
      let pa := leafPa leaf + va % pageBytes e.level
      if !hostUnanswered leaf && inHbm (m.norm pa) && (m.check 0 { a with world := world } pa leaf).isNone &&
          !decide (world ≠ 0 ∧ leafAttr leaf ≠ 2) then
        match pinnedImage c world write ((m.tlbFill a va leaf e.level).count a.die a.world world va leaf) ps with
        | some (m', qs) => some (m', (pa, n, leaf) :: qs)
        | none => none
      else none

theorem pinned_image (c : Issuer) (world : Nat) (write : Bool) (ps : List (Nat × Nat)) : ∀ (m : MemSys) (free : Nat) (m' : MemSys) (qs : List Piece),
    pinnedImage c world write m ps = some (m', qs) → c.imagePieces m free world write ps = .ok m' qs := by
  induction ps with
  | nil => rintro m free m' qs h; simp only [pinnedImage, Option.some.injEq, Prod.mk.injEq] at h; obtain ⟨rfl, rfl⟩ := h; rfl
  | cons p ps ih =>
    intro m free m' qs h
    obtain ⟨va, n⟩ := p
    simp only [pinnedImage] at h
    split at h
    · simp at h
    · next e he =>
      split at h
      · next hg =>
        split at h
        · next m1 q1 h1 =>
          simp only [Option.some.injEq, Prod.mk.injEq] at h
          obtain ⟨rfl, rfl⟩ := h
          simp only [Bool.and_eq_true, Bool.not_eq_true', decide_eq_false_iff_not, Option.isNone_iff_eq_none] at hg
          obtain ⟨⟨⟨g1, g2⟩, g3⟩, g4⟩ := hg
          have hleaf := pinnedEntry_leafFor free he
          have hc := check_hbm m free ⟨c.ref.die, world, 2, write, false, false, some c.ref.core⟩ g2 g3
          simp only [Issuer.imagePieces, Issuer.imagePiece]
          rw [hleaf]
          simp only [g1, Bool.false_eq_true, if_false, hc, g4, ih _ (free + 1) _ _ h1]
        · simp at h
      · simp at h

/-- An image is accepted: what it leaves of the memory system, and its pieces. -/
def image (s : State) (c : Issuer) (world : Nat) (write : Bool) (va len : Nat) : Option (MemSys × List Piece) :=
  pinnedImage c world write s.msys (linePieces (len + 1) va len)

theorem image_imageAt (s : State) (c : Issuer) (world : Nat) (write : Bool) (va len : Nat) (m : MemSys) (ps : List Piece)
    (h : image s c world write va len = some (m, ps)) : s.imageAt c world write va len = .ok m ps := pinned_image _ _ _ _ _ _ _ _ h

theorem witness_MatrixSteps :
    (issuerHas (memState 0x2000) (fun c => decide (c.crew.alloc.accs ≤ 32) && mmaPair .f64 .f64 && mmaPair .e4m3 .e5m2 && !mmaPair .int8 .e4m3 &&
      mmasFmt .int8 && !mmasFmt .f32 && c.vRun 56 8 && !c.vRun 57 8 && evenReg 56 && c.tilesOk 31 1 && !c.tilesOk 31 2 && c.tilesOk 30 2 && !c.tilesOk 32 1 &&
      decide ((7 : BitVec 3).toNat + (c.team.words - 1) / 4 < c.crew.alloc.granules) && c.team.flagSlot.isNone) &&
    canRead (memState 0x2000) 0x2000 256 && canRead (memState 0x2000) 0x2000 512 &&
    issuerHas (at1 (demoT [(2, 3840)] [] 0) (scratchCrew [])) (fun c => decide ((c.team.s 0 2).toNat % 256 = 0) &&
      decide ((c.team.s 0 2).toNat + 256 = c.crew.alloc.scratch) && !c.scratchConflict MemSys.initial false 3840 256 &&
      decide (3840 % 512 ≠ 0) && decide (3584 % 512 = 0) && decide (3584 + 512 = c.crew.alloc.scratch)) &&
    issuerHas (flagState true) (fun c => c.tilesOk 0 1 && c.team.flagSlot == some 0 && c.team.flags.getLsbD 0)) = true := by decide +kernel

/-- What stops a whole read in the demo's space, at its first piece or at its second. -/
def readFails (va len : Nat) : Option LaneFail :=
  match (memState va).issuer with
  | some c => (match c.pieces demoMem 1 false false (linePieces (len + 1) va len) with
    | .ok _ => none
    | .error f => some f)
  | none => none

theorem witness_whole_reads_stop :
    (readFails 0 256 == some (.xlate 5 0) && readFails 0x11000 512 == some (.trap .worldViolation 0x11000) && readFails 0x12000 528 == some (.ats 0x12000) &&
    readFails 0x9F80 256 == some (.xlate 5 0xA000) && { demoMem with locks := [memLock] }.conflict 0 0 [] false false 0x2000 256 &&
    { demoMem with locks := [{ memLock with write := false }] }.conflict 0 0 [] false true 0x2000 528 &&
    issuerHas lateState (fun c => decide (c.team.late ≠ []) && !demoMem.conflict 0 0 [] false false 0x2000 256) &&
    issuerHas (lockedState (demoT [(2, 0)] [] 0) (scratchCrew []) scratchLock) (fun c =>
      c.scratchConflict (lockedState demoTeam demoCrew scratchLock).msys false 0 256) &&
    issuerHas (at1 (demoT [(2, 3841), (4, 4096)] [] 0) (scratchCrew [])) (fun c => decide ((c.team.s 0 2).toNat % 256 ≠ 0) &&
      decide (c.crew.alloc.scratch < (c.team.s 0 4).toNat + 256))) = true := by decide +kernel

/-- A team with a K-step of its own waiting at octet unit 0. -/
def steppingTeam : Team := { demoTeam with late := [⟨7, [], false, .take 0 [] (.step ⟨.int8, .int8, 1, 0, 0, []⟩)⟩] }

theorem witness_K_steps_wait :
    (issuerHas (at1 steppingTeam demoCrew) (fun c => c.team.late.any (fun x => x.unit != none) && c.tilesOk 31 1 && c.vRun 56 8 && evenReg 0 && !c.uncommitted) &&
    issuerHas (at1 { steppingTeam with mode := viewMode 2 } demoCrew) (fun c => decide (c.team.tileWidth = 2) && c.tilesOk 30 2 && evenReg 56 && c.vRun 48 16) &&
    issuerHas lateState (fun c => (c.start lateState).late.any (fun x => x.places.any fun y => (⟨false, false, 0x2000, 32⟩ : Target).overlaps y) &&
      !(c.start lateState).late.any (fun x => x.places.any fun y => (⟨false, false, 0x2020, 32⟩ : Target).overlaps y)) &&
    (at1 demoTeam demoCrew).late.all (fun x => x == false)) = true := by decide +kernel

theorem witness_TileMoves :
    (issuerHas (memState 0x2000) (fun c => c.tilesOk 31 1 && !c.tilesOk 32 1 && c.vRun 56 8 && evenReg 0 && !evenReg 1 &&
      decide (c.team.s64 0 0 % 2 ^ 57 % (256 * c.team.tileWidth) = 0) && !c.uncommitted && decide (7 < c.crew.alloc.granules) &&
      decide (c.crew.alloc.granules ≤ 8)) &&
    issuerHas (memState 0x2080) (fun c => decide (c.team.s64 0 0 % 2 ^ 57 % (256 * c.team.tileWidth) ≠ 0)) &&
    issuerHas (at1 (demoT [(2, 3072), (3, 3328), (4, 3073)] [] 0) (scratchCrew [])) (fun c =>
      decide ((c.team.s 0 2).toNat + 1024 = c.crew.alloc.scratch) && decide (c.crew.alloc.scratch < (c.team.s 0 3).toNat + 1024) &&
      decide ((c.team.s 0 3).toNat % 256 = 0) && decide ((c.team.s 0 4).toNat % 256 ≠ 0) && !c.scratchConflict MemSys.initial false 3072 1024) &&
    issuerHas (lockedState (demoT [] [] 0) (scratchCrew []) scratchLock) (fun c =>
      c.scratchConflict (lockedState demoTeam demoCrew scratchLock).msys false 0 1024)) = true := by decide +kernel

def polyCrew (p : PolyAcc) : Crew := { demoCrew with pps := [(7, p)] }

theorem witness_PolynomialOperations :
    (issuerHas (at1 (demoT [(2, 63), (4, 64), (6, 0xFFFFFFFF)] [] 0) (polyCrew ⟨[(0, 0x3FF0000000000000)], 63, -2147483648, 1, false, false⟩)) (fun c =>
      let p := c.crew.poly 7
      decide (7 < c.crew.alloc.pp) && decide (c.crew.alloc.pp ≤ 8) && decide ((c.team.s 0 2).toNat ≤ 63) && decide (63 < (c.team.s 0 4).toNat) &&
      !p.poison && decide (p.e + toSigned 32 (c.team.s 0 6).toNat < -(2 ^ 31 : Int)) && decide (-(2 ^ 31 : Int) ≤ p.e + toSigned 32 (c.team.s 0 8).toNat) &&
      c.vOk true 62 && !c.vOk true 63 && evenReg 254 && decide (p.n ≤ 2 ^ 32 - 1) && !p.removable 0 [(0, 0)]) &&
    issuerHas (at1 demoTeam (polyCrew ⟨[], 0, 0, 0, false, true⟩)) (fun c => (c.crew.poly 7).poison)) = true := by decide +kernel

theorem witness_PolynomialMemory :
    (issuerHas (memState 0x2000) (fun c => decide (7 < c.crew.alloc.pp) && evenReg 0 && !c.uncommitted && decide (c.team.s64 0 0 % 2 ^ 57 % 1024 = 0) &&
      c.team.flagSlot.isNone) && canRead (memState 0x2000) 0x2000 528 && canWrite (memState 0x2000) false 0x2000 528 &&
      canWrite (memState 0x9000) true 0x9000 528 &&
    issuerHas (memState 0x2008) (fun c => decide (c.team.s64 0 0 % 2 ^ 57 % 16 ≠ 0)) &&
    issuerHas (memState 0x2010) (fun c => decide (c.team.s64 0 0 % 2 ^ 57 % 16 = 0) && decide (c.team.s64 0 0 % 2 ^ 57 % 1024 ≠ 0)) &&
    imageReserved (List.replicate 528 1) && !imageReserved (List.replicate 528 0)) = true := by decide +kernel

/-- A team with a staged command, and a go word in s4:5. -/
def portTeam (w0 w1 w2 w3 : Dword) (written : BitVec 4) (v : Word) : Team := { demoT [(4, v)] [] 0 with port := ⟨w0, w1, w2, w3, written⟩ }

/-- A copy of 64 bytes from global memory to scratchpad. -/
def copyW0 (n : Nat) : Dword := BitVec.ofNat 64 (2 ^ 56 + n)

/-- A core whose range-lock table holds `n` entries, of an operation of an open batch or of one that is over. -/
def fullState (t : Team) (n : Nat) (open_ : Bool) : State :=
  let s := at1 t (scratchCrew [])
  let o : EngineOp :=
    { id := 9, crew := 0, team := 0, die := 0, core := 0, slot := 0, world := 0, level := 2, batch := if open_ then none else some 1, number := 1, prev := none
      w0 := 0, w1 := 0, w2 := 0, w3 := 0, phase := .running, record := 0, sub := none, next := 0, redo := [], missing := [], tail := none
      fails := [], walked := [], xfer := none, done := 0, failed := false, failing := none, payload := [] }
  { s.setMsys { s.msys with locks := List.replicate n { scratchLock with len := 1 } } with ops := [o] }

theorem witness_EnginePort :
    (issuerHas (at1 (portTeam (copyW0 64) 0x2000 4032 0 15 1) (scratchCrew [])) (fun c => let cmd := c.team.port.cmd
      c.team.port.written == 15 && decide (c.team.s64 0 4 < 2) && cmd.legal false && !c.goForbidden cmd && !cmd.misaligned &&
      (cmd.outside c.crew.alloc.scratch).isNone && decide (cmd.locks.length = 2)) &&
    issuerHas (at1 (portTeam (copyW0 65) 0x2000 4032 0 15 0) (scratchCrew [])) (fun c => (c.team.port.cmd.outside c.crew.alloc.scratch).isSome) &&
    issuerHas (at1 (portTeam (copyW0 64) 0x2000 4032 1 15 2) (scratchCrew [])) (fun c => !c.team.port.cmd.legal false && decide (2 ≤ c.team.s64 0 4)) &&
    issuerHas (at1 (portTeam 0 0x2000 0x3000 0 15 0) { scratchCrew [] with task := some 1 }) (fun c => c.goForbidden c.team.port.cmd &&
      c.team.port.cmd.legal false) &&
    issuerHas (at1 (portTeam (copyW0 2 ||| 0x0015000000000000) 0x2010 0 0 15 0) (scratchCrew [])) (fun c => c.team.port.cmd.legal false &&
      c.team.port.cmd.misaligned) &&
    issuerHas (at1 (portTeam 0 0 0 0 7 0) (scratchCrew [])) (fun c => c.team.port.written != 15 && c.team.port.written.getLsbD 0 &&
      !c.team.port.written.getLsbD 3) &&
    issuerHas (fullState (portTeam (copyW0 64) 0x2000 4032 0 15 0) 31 true) (fun _ => decide (32 < ((fullState demoTeam 31 true).openLocks 0 0).length + 2)) &&
    issuerHas (fullState (portTeam (copyW0 64) 0x2000 4032 0 15 0) 31 false) (fun _ => decide (((fullState demoTeam 31 false).openLocks 0 0).length + 2 ≤ 32) &&
      decide (32 < ((fullState demoTeam 31 false).locksOn 0 0).length + 2)) &&
    (let t := { portTeam (copyW0 64) 0x2000 4032 0 15 0 with wait := some (.rangeLock 2), clause := some ⟨0x1000, 0xFF000FF0, 0, [0xEA040400], 0, []⟩ }
     issuerHas (fullState t 30 false) (fun c => c.crew.phase == .resident && c.crew.stop.isNone &&
      decide (((fullState t 30 false).locksOn 0 0).length + 2 ≤ 32) && ((fullState t 30 false).teamAt c.ref).any (fun t0 => t0.wait == some (.rangeLock 2) &&
        t0.current == some (.stp 4 4))))) = true := by decide +kernel

/-- A go that meets its conditions but for a late access; word 4 in an odd pair. -/
theorem witness_go_waits :
    (issuerHas (at1 { portTeam (copyW0 64) 0x2000 4032 0 15 0 with late := [lateStore] } (scratchCrew [])) (fun c => decide (c.team.late ≠ []) &&
      c.team.port.cmd.legal false && (c.team.port.cmd.outside c.crew.alloc.scratch).isNone) && !evenReg 5 && decide ((4 : BitVec 8).toNat ≤ 4)) = true := by decide +kernel

/-- A team whose last batch is `last`, with the number 1 in s2 and 2 in s4. -/
def batchTeam (last : Nat) : Team := { demoT [(2, 1), (4, 2)] [] 0 with batches := ⟨last, [⟨2, 0, 0⟩], 0, 0, []⟩ }

theorem witness_Batches :
    (issuerHas (fullState (batchTeam (2 ^ 32 - 1)) 0 true) (fun c => decide (c.team.batches.last + 1 = 2 ^ 32)) &&
    issuerHas (fullState (batchTeam 1) 1 false) (fun c => decide (((fullState demoTeam 1 false).openBatches c.cid c.team.index).length < 64) && c.crew.onCore &&
      c.crew.slots == [0] && c.crew.refAt 0 == c.ref && ((fullState demoTeam 1 false).openBatches c.cid c.team.index == [1]) &&
      decide ((c.team.s 0 2).toNat ≤ c.team.batches.last) && decide (c.team.batches.last < (c.team.s 0 4).toNat)) &&
    issuerHas (fullState (batchTeam 2) 0 true) (fun c => decide (((fullState demoTeam 0 true).openBatches c.cid c.team.index) = []) && evenReg 6 &&
      (c.team.batches.counts.find? (fun x => x.number == 2)).isSome && (c.team.batches.counts.find? (fun x => x.number == 1)).isNone &&
      (fullState demoTeam 0 true).ops.any (fun o => o.crew == c.cid && o.team == c.team.index && o.batch == none && o.phase != .ended)) &&
    (let s := fullState (batchTeam 64) 0 true
     let s := { s with ops := (List.range 64).flatMap fun i => s.ops.map fun o => { o with id := i, batch := some (i + 1) } }
     issuerHas s (fun c => decide (64 ≤ (s.openBatches c.cid c.team.index).length)))) = true := by decide +kernel

/-- Memory with a task record at 0x2000 that names the grid record of zeros at 0x3000. -/
def launchState (a : Nat) (k : Crew) : State := (at1 (memTeam a) k).setMsys { demoMem with mem := [(0x2001, 0x30)] }

theorem witness_DeviceLaunch :
    (issuerHas (launchState 0x2000 demoCrew) (fun c => let s := launchState 0x2000 demoCrew
      let grid := s.msys.readN 0x3000 128
      evenReg 0 && !c.uncommitted && decide (c.team.s64 0 0 % 64 = 0) && taskReservedOk (s.msys.readN 0x2000 64) && keyStatus 0 (recordKeys (s.msys.readN 0x2000 64) 24) == 0 &&
      fieldAt (s.msys.readN 0x2000 64) 0 8 == 0x3000 && taskKindOk grid && s.gridStatusOf grid c.crew.world == 0 && s.freeGid == some 1) &&
    canRead (launchState 0x2000 demoCrew) 0x2000 64 && canRead (launchState 0x2000 demoCrew) 0x3000 128 &&
    issuerHas (launchState 0x2020 demoCrew) (fun c => decide (c.team.s64 0 0 % 64 ≠ 0)) &&
    issuerHas (launchState 0x2000 { demoCrew with task := some 1 }) (fun c => c.uncommitted && c.crew.task.isSome) &&
    issuerHas demo (fun c => c.crew.task.isNone) && keyStatus 5 [] == 2 && keyStatus 4 [1, 2, 3, 4] == 0 && keyStatus 4 [1, 2, 3, 3] == 2 &&
    keyStatus 3 [1, 2, 3, 4] == 4 && (launchState 0 demoCrew).gridStatusOf (List.replicate 128 1) 0 != 0) = true := by decide +kernel

def demoNode (world count n : Nat) : Node := ⟨demoRec, world, count, 8, List.replicate n (List.replicate 64 0), []⟩

def nodeState (x : Node) : State := { launchState 0x3000 demoCrew with nodes := [(0, some x)] }

theorem witness_NodeRecords :
    (issuerHas (nodeState (demoNode 0 256 255)) (fun c => evenReg 0 && !c.uncommitted && decide (c.team.s64 0 0 % 64 = 0) &&
      ((nodeState (demoNode 0 256 255)).nodeAt 0).any (fun x => x.world == c.crew.world && decide (x.bin.length < 256) && decide (x.count ≤ x.bin.length + 1) &&
        x.timer != 0 && !x.bin.isEmpty) && (nodeState (demoNode 0 256 255)).nodeAt 1 == none) && canRead (nodeState (demoNode 0 256 255)) 0x3000 64 &&
    ((nodeState (demoNode 0 256 254)).nodeAt 0).any (fun x => decide (x.bin.length + 1 < x.count)) &&
    ((nodeState (demoNode 0 256 256)).nodeAt 0).any (fun x => decide (256 ≤ x.bin.length)) &&
    ((nodeState (demoNode 1 256 0)).nodeAt 0).any (fun x => x.world != 0) &&
    (let bs := demoMem.readN 0x3000 64
     fieldAt bs 1 7 == 0 && bitsOf (fieldAt bs 0 1) 3 5 == 0 && keyStatus (bitsOf (fieldAt bs 0 1) 0 3) (recordKeys bs 8) == 0)) = true := by decide +kernel

/-- System software at slot 12 of core 0 of die 0, with the crew `k` on slot 0, and an image's address in s0:1. -/
def ctxState (k : Crew) (a : Nat) (t : Team) : State :=
  let s := (at1 demoTeam k).setMsys demoMem
  let s := (s.setCrew 5 { demoCrew with gid := 0, slots := [12] }).setTeam ⟨0, 0, 12⟩ { t with crew := 5, sregs := Sparse.setAll 0 [] [(0, BitVec.ofNat 32 a)] }
  { s with cur := some ⟨0, 0, 12⟩ }

/-- A crew that a discard does not serve: a crew of a plain grid that has run. -/
def heldCrew : Crew := { demoCrew with alloc := ⟨8, 0, 0, 0, 0, 1⟩ }

/-- The header of the image of a crew of one team of one word and 8 registers, under seal 0 of die 0. -/
def sealedState (home k : Crew) : State :=
  let s := ctxState home 0x2000 demoTeam
  let k' := { k with phase := .saved, slots := [], teams := [{ demoTeam with crew := 7 }] }
  { (s.setCrew 7 k').setMsys { demoMem with mem := [(0x2006, 1), (0x2010, 1), (0x2015, 1), (0x2016, 8)] } with seals := [(0, 0, 7)] }

theorem witness_ContextSaveAndLoad :
    (issuerHas (ctxState heldCrew 0x2000 { demoTeam with level := 1 }) (fun c => decide (c.team.level < 2)) &&
    issuerHas (ctxState heldCrew 0x2020 demoTeam) (fun c => decide (2 ≤ c.team.level) && decide (c.team.s64 0 0 % 2 ^ 57 % 64 ≠ 0)) &&
    issuerHas (ctxState heldCrew 0x2000 demoTeam) (fun c => let s := ctxState heldCrew 0x2000 demoTeam
      (s.crewAtHandle (handleOf c.team.ctxcrew)).any (fun x => x.2.stop.isNone && !s.batchStopped x.1 && x.2.phase != .parked && !x.2.discardable &&
        (image s c x.2.world true 0x2000 (x.2.imageSize (s.teamsOf x.2))).isSome)) &&
    issuerHas (ctxState { heldCrew with phase := .parked } 0x2000 demoTeam) (fun c =>
      ((ctxState { heldCrew with phase := .parked } 0x2000 demoTeam).crewAtHandle (handleOf c.team.ctxcrew)).any (fun x => x.2.phase == .parked)) &&
    issuerHas (ctxState { heldCrew with task := some 1 } 0x2000 demoTeam) (fun c =>
      ((ctxState { heldCrew with task := some 1 } 0x2000 demoTeam).crewAtHandle (handleOf c.team.ctxcrew)).any (fun x => x.2.discardable)) &&
    issuerHas (ctxState { heldCrew with stop := some .awaitCycle } 0x2000 demoTeam) (fun c =>
      ((ctxState { heldCrew with stop := some .awaitCycle } 0x2000 demoTeam).crewAtHandle (handleOf c.team.ctxcrew)).any (fun x => x.2.stop.isSome)) &&
    issuerHas (ctxState { heldCrew with world := 1 } 0x2000 demoTeam) (fun c => let s := ctxState { heldCrew with world := 1 } 0x2000 demoTeam
      (s.crewAtHandle (handleOf c.team.ctxcrew)).any (fun x => match s.imageAt c x.2.world true 0x2000 (x.2.imageSize (s.teamsOf x.2)) with
        | .world => true
        | _ => false)) &&
    issuerHas (ctxState { heldCrew with gid := 0 } 0x2000 demoTeam) (fun c =>
      (ctxState { heldCrew with gid := 0 } 0x2000 demoTeam).crewAtHandle (handleOf c.team.ctxcrew) == none)) = true := by decide +kernel

theorem witness_context_fails :
    (issuerHas (ctxState heldCrew 0 demoTeam) (fun c => let s := ctxState heldCrew 0 demoTeam
      s.imageAt c 0 true 0 256 == .fail 5 0 && s.imageAt c 0 true 0x12000 256 == .ats 0x12000 &&
      s.msys.canPost c.ref.die && !{ s.msys with faultNext := [(0, 4096)], faults := [(0, ⟨0, demoPost 10, .none, none⟩)] }.canPost c.ref.die &&
      (match s.imageWorld c 0 with
        | .ok _ => false
        | .error e => e.1 == 5)) &&
    !imageHeaderOk (List.replicate 256 0) &&
    (ctxState heldCrew 0 demoTeam).sealed (List.replicate 256 0) == none &&
    issuerHas (ctxState { heldCrew with phase := .leaving } 0x2000 demoTeam) (fun c => !(ctxState heldCrew 0x2000 demoTeam).batchStopped 0 && evenReg 0 &&
      !evenReg 1 && c.team.level == 2)) = true := by decide +kernel

theorem witness_ContextLoad :
    [(heldCrew, heldCrew, 0), (heldCrew, { heldCrew with world := 1 }, 1), ({ heldCrew with alloc := ⟨256, 32, 8, 8, 262144, 32⟩ }, heldCrew, 2)].all (fun p =>
      let s := sealedState p.1 p.2.1
      issuerHas s (fun c =>
        match s.imageWorld c 0x2000, image s c 0 false 0x2000 256 with
        | .ok world, some (m, ps) =>
          let hs := m.pieceBytes ps
          let s1 := s.setMsys (m.numberAll ps)
          world == 0 && imageHeaderOk hs && (s.sealed hs).any (fun x =>
            match image s1 c 0 false 0x2000 (headerSize hs) with
            | some (m1, qs) =>
              let bs := m1.pieceBytes qs
              let s2 := s1.setMsys (m1.numberAll qs)
              let y := x.2.ofImage x.1 bs
              (if p.2.2 = 1 then y.world != world else y.world == world) && (bs.drop (256 + 0x2D40)).take 0x2C0 == List.replicate 0x2C0 0 &&
              (headerWords (leNat (bs.take 256))).length == 1 &&
              (s2.hasRoom 0 0 y.fuse y.use == (p.2.2 != 2)) && decide (y.teams.length ≤ (s2.freeSlots 0 0).length)
            | none => false)
        | _, _ => false)) = true := by decide +kernel

theorem witness_CrewSave :
    (let k := { heldCrew with stop := some (.save ⟨0, 0, 12⟩ 0x2000) }
     let s := ctxState k 0x2000 { demoTeam with wait := some .ctxsv }
     (s.issuerAt ⟨0, 0, 12⟩).any (fun i => (s.savedBy i.ref).any (fun x => x.1 == 0 && x.2.2 == 0x2000 && x.2.1.phase != .leaving &&
       s.drained x.1 x.2.1 &&
       (s.teamsOf x.2.1).all Team.atRest && decide (s.sealCount 0 < 4096) && i.cid != x.1 && s.crewAt x.1 == some x.2.1 &&
       x.2.1.slots.all (fun j => slotKey ⟨x.2.1.die, x.2.1.core, j⟩ != slotKey i.ref) &&
       (image s i x.2.1.world true x.2.2 (x.2.1.imageSize (s.teamsOf x.2.1))).isSome) &&
         (s.teamAt i.ref).any (fun t => t.wait == some .ctxsv))) = true := by decide +kernel

/-- A team that has yet to fetch its clause, from the bytes given at 0x2FF8. -/
def fetchState (bs : List Byte) (cl : Option Clause) : State :=
  (at1 { demoTeam with pc := 0x2FF8, clause := cl } demoCrew).setMsys { demoMem with mem := Sparse.setRun 0 [] 0x2FF8 bs }

/-- The words of the spec's page-sum program at its entry: a header of three words, and `rdsp`, `sshli` and a load with its extension. -/
def clauseBytes : List Byte := bytesOfWords [0xFF0000F3, 0, 0x13000000, 0x46000002, 0xC6010000, 0]

/-- The header at the team's pc, and with it the words that it announces. -/
def fetched (s : State) : Option (List Word × Option (List Word)) :=
  match s.issuer with
  | none => none
  | some c =>
    match c.fetchPieces s.msys (freeAt s 1) (linePieces 9 0x2FF8 8) with
    | .error _ => none
    | .ok (m, ps) =>
      let hs := wordsOfBytes (ps.flatMap (fun p => m.readN p.1 p.2))
      let n := headerCount (hs.getD 0 0)
      match c.fetchPieces m (freeAt s 1) (linePieces (4 * n + 1) 0x3000 (4 * n)) with
      | .ok (m, ps) => some (hs, some (wordsOfBytes (ps.flatMap (fun p => m.readN p.1 p.2))))
      | .error _ => some (hs, none)

def fetchHas (s : State) (p : Word → Word → List Word → Bool) : Bool :=
  (fetched s).any fun x => x.2.any fun ws => p (x.1.getD 0 0) (x.1.getD 1 0) ws

theorem witness_ClauseFetching :
    (issuerHas (fetchState clauseBytes none) (fun c => c.crew.runs c.team && c.team.present != 0 && c.team.pending.isNone && c.team.clause.isNone) &&
    fetchHas (fetchState clauseBytes none) (fun h0 h1 ws => headerOk h0 h1 && headerCount h0 == 4 && clauseOk 2 h0 h1 ws) &&
    (fetched (fetchState [0, 0, 0, 0] none)).any (fun x => !headerOk (x.1.getD 0 0) (x.1.getD 1 0)) &&
    fetchHas (fetchState (bytesOfWords [0xFF0000F0, 0, 0xFF000000]) none) (fun h0 h1 ws => headerOk h0 h1 && !clauseOk 2 h0 h1 ws) &&
    issuerHas (fetchState clauseBytes (some ⟨0x2FF8, 0xFF0000F3, 0, [], 2, []⟩)) (fun c => c.team.clause.any (fun k => k.words.isEmpty && headerCount k.h0 == 4 &&
      (match c.fetchPieces (fetchState clauseBytes none).msys 1 (linePieces 17 0x3000 16) with
        | .ok _ => true
        | .error _ => false)))) = true := by decide +kernel

/-- Clauses at an address that is not mapped, at one of another world's page, and at the end of a page whose next one is not mapped. -/
theorem witness_fetch_fails :
    (issuerHas { at1 { demoTeam with pc := 0x19000, clause := none } demoCrew with msys := demoMem } (fun c =>
      let failsAt := fun va n => match c.fetchPieces { demoMem with tlb := ⟨0, none, 0, 20, 1, 0x63B, 0⟩ :: demoMem.tlb } 1 (linePieces (n + 1) va n) with
        | .ok _ => none
        | .error x => some x
      failsAt 0x19000 8 == some (.xlate 5 0x19000) && failsAt 0x11000 8 == some (.trap .worldViolation 0x11000) &&
      failsAt 0x12000 8 == some (.xlate 3 0x12000) && failsAt 0x14000 8 == some (.ats 0x14000) && failsAt 0x9FF8 8 == none && failsAt 0xA000 16 == some (.xlate 5 0xA000))) = true := by decide +kernel

/-! Events of the machine. -/

def demoRecord (index : Word) (owner : FaultOwner) : FaultRec := ⟨index, demoPost 10, owner, none⟩

/-- A fault queue with the records of indices 0 to 5, one for each owner, and two posts that wait. -/
def faultState : State :=
  let recs : List (Nat × FaultRec) := [(0, demoRecord 0 .none), (0, demoRecord 1 (.engine 3 0 false)), (0, demoRecord 2 (.agent 4)),
    (0, demoRecord 3 (.slot 0 1)), (0, demoRecord 4 (.listBlock 1 0)), (0, demoRecord 5 (.keys 2)), (0, demoRecord 6 (.landing 0)), (0, demoRecord 7 (.reader 9))]
  let m := { demoMem with faults := recs, posts := [(0, demoPost 1, .none)], faultNext := [(0, 8)], ats := [⟨0, 0, 18, false, false⟩]
                          reached := [⟨0x20, 0, false, false, 1, 1, 0, 0, 0, 0, 2 * 65536, 256, false⟩] }
  { (demo.setMsys m) with
    readers := [9], pri := [⟨0, 5, 0, 0x12, true, false, true⟩], grids := [demoGrid demoRec []], agents := [⟨4, 0, 0, 0, 0x12000, [1], false, true⟩]
    tasks := [(2, some ⟨demoRec, none, 0, 0, 0, [7], 0, 0, [], .overflow 0, []⟩)] }

def demoAnswer (page : Nat) (granted : Bool) : AtsAnswer := ⟨0, page, granted, 2 ^ 36 + 5, true, true, false⟩

theorem witness_FaultQueueEvents :
    ((faultState.msys.posts.find? (fun x => x.1 == 0)).isSome && faultState.msys.faultRoom 0 &&
    ([(0, FaultOwner.none), (1, .engine 3 0 false), (2, .agent 4), (3, .slot 0 1), (4, .listBlock 1 0), (5, .keys 2), (6, .landing 0), (7, .reader 9)] : List (Nat × FaultOwner)).all (fun p =>
      (faultState.msys.unanswered 0 (BitVec.ofNat 32 p.1)).any (fun r => r.owner == p.2)) && (faultState.gridAt 1).isSome &&
    (faultState.taskAt 2).any (fun t => t.phase == .overflow 0) && (faultState.crewAt 0).isSome && (faultState.nextPri 0).isSome &&
    (faultState.pri.find? (fun g => g.die == 0 && groupIndex g.index == 5)).isSome &&
    (faultState.msys.atsFor 0 (demoAnswer 18 true)).isSome && (faultState.msys.atsFor 0 (demoAnswer 18 false)).isSome && faultState.agents.all AgentWrite.waiting &&
    (faultState.msys.reached.find? (fun c => c.die == 0 && c.space == 1 && c.addr == 2 * 65536)).isSome) = true := by decide +kernel

/-- The entries of world 0's page tables from 0x80000 on, down to the table at 0x85000. -/
def tableBytes : List (Nat × Byte) :=
  [(0x80000, 3), (0x80001, 16), (0x80002, 8), (0x81000, 1), (0x81001, 32), (0x81002, 8), (0x82000, 1), (0x82001, 48), (0x82002, 8),
    (0x83000, 1), (0x83001, 64), (0x83002, 8), (0x84000, 1), (0x84001, 80), (0x84002, 8)]

/-- The demo's memory with page tables of world 0, in which page 18 is a host page, and with the bring-up values given. -/
def tableMem (b : BringUp) : MemSys := { demoMem with
  bring := { b with spaceBase := 0x80000 }
  mem := tableBytes ++ [(0x85090, 0x2B), (0x85091, 2)]
  ats := [⟨0, 0, 18, false, false⟩] }

theorem witness_AtsGrant :
    (let m := tableMem BringUp.initial
     let a := demoAnswer 18 true
     (m.atsFor 0 a).any (fun r => match m.walk r.space (a.page * 4096) with
       | .ok (leaf, _) => leafHost leaf && inHost (a.frame * 4096) && !leafPin leaf
       | .error _ => false)) = true := by decide +kernel

/-- A module of a pod, with one neighbour, and with a dirty host line. -/
def podState (down : Bool) : State :=
  let m := { demoMem with
    linkUp := true, podDown := down, hostOk := true, dirty := [⟨2 ^ 41, 0, 0, List.replicate 128 1⟩]
    bring := { BringUp.initial with inPod := true, neighbours := [1, 2] } }
  { demo with msys := m, silence := [(1, 1)], firm := { Firm.initial with phase := .ready, iface := .run } }

def podAccess (op : PodOp) : PodAccess := ⟨1, 0, 0x2000, op, 0, false⟩

theorem witness_LinksAndPod :
    ((podState false).msys.linkUp && (podState false).msys.hostMay 0x2000 8 && !(podState false).msys.isHeld 0x2000 &&
    (podState false).msys.hostMay 0x8000 8 && (podState false).msys.isHeld 0x8000 && !(podState false).msys.hostMay 0x207C 8 &&
    (podState false).msys.dirty.all (fun d => d.data.length == 128 && inHost (d.line * 128)) &&
    ([.load 8, .store [1, 2], .add 4 5, .swap 8 5, .cas 4 5 6] : List PodOp).all (fun op => (podState false).podOk (podAccess op)) &&
    !(podState true).podOk (podAccess (.load 8)) && (podState false).liveNeighbours == [1, 2] &&
    (podState false).liveNeighbours.all (fun m => m == 1 || m == 2) && decide ((podState false).liveNeighbours.Nodup) &&
    decide (Sparse.get 0 (podState false).silence 2 + 1 < (podState false).msys.bring.silence) &&
    decide ((podState false).msys.bring.silence ≤ Sparse.get 0 (podState false).silence 1 + 1)) = true := by decide +kernel

/-- A machine in a phase of its start and an interface state, with a session. -/
def firmState (p : StartPhase) (i : Iface) (f : Firm → Firm) : State :=
  { demo with firm := f { Firm.initial with phase := p, iface := i, session := some 1, lastSeq := some 4 } }

def demoQueue (status : Nat) (head tail : Word) (level : Nat) : Queue := ⟨0, 0x1000, 0x2000, 0x3000, 1, level, 0, status, head, tail, 0xFFFFFFFF⟩

theorem witness_SessionAndStart :
    (let m : Msg := ⟨1, 5, true⟩
     let f := (firmState .ready .unlocked id).firm
     f.phase == .ready && m.macOk && f.session == some m.session && f.lastSeq == some 4 && decide (4 < m.seq) &&
     (firmState .ready .unlocked id).firm.partOk 0 2 [1] && (firmState .ready .unlocked id).firm.partOk 0 1 [1] &&
     !(firmState .ready .unlocked id).firm.partOk 1 2 [1] &&
     { (firmState .ready .run (fun f => { f with stopping := true })) with queues := [(0, some (demoQueue 3 0 0 0))] }.queuesDone &&
     statusFailed (firmState .off .unlocked (fun f => { f with status := 3 })).firm.status == 3 &&
     statusFailed (firmState .failed .unlocked (fun f => { f with status := 1 })).firm.status != 3 &&
     (firmState .starting .locked id).firm.phase == .starting && (firmState .ready .error id).firm.iface == .error &&
     (firmState .off .unlocked (fun f => { f with journal := [(0, some ⟨1, 1, 8, 2, 0, false⟩)] })).firm.journal.length == 1) = true := by
  decide +kernel

/-- A machine in RUN, with a quarantine, a journal entry that is being scrubbed, a queue, and a flash block that is busy. -/
def runState : State :=
  let s := firmState .ready .run fun f => { f with journal := [(3, some ⟨1, 1, 8, 5000, 0, false⟩)] }
  { (s.setMsys { demoMem with frames := demoMem.frames ++ [(20, 0x4002), (21, 0x4002), (23, 0x4002)] }) with
    queues := [(1, some (demoQueue 0 0 1 0))], flashBusy := [(0, 0)]
    quarantine := [(qKey 2 0, some ⟨[1], 2 ^ 48, 0, 0, 1⟩), (qKey 2 1, some ⟨[1], 2 ^ 48, 0, 0, 2⟩)] }

theorem witness_FirmwareResources :
    (runState.firm.full && runState.firm.iface == .run && runState.queueFree 0 && !runState.queueFree 1 && runState.msys.huskMay 0x5000 64 &&
    (parseQueue 0x5000 0x6000 (leBytes 0x2000 8 ++ leBytes 0x3000 8 ++ leBytes 1 48)).isSome && parseQueue 0x5000 0x6000 (runState.msys.readN 0x5000 64) == none &&
    ({ runState with msys := { runState.msys with mem := [(0x5010, 1)] } } : State).msys.readN 0x5000 64 == leBytes 0 16 ++ leBytes 1 48 &&
    (parseQueue 0x5000 0x6000 (leBytes 0 16 ++ leBytes 1 48)).isSome && runState.msys.framesFree 30 2 && !runState.msys.framesFree 20 2 &&
    !runState.worldBusy 2 && frameRuns (runState.msys.framesOf 2) == [(20, 2), (23, 1)] && decide (2 ≤ runState.firm.journalFree.length) &&
    runState.worldBusy 0 && (runState.qEntry 2 0).any (fun e => e.status != 2) && (runState.qEntry 2 1).any (fun e => e.status == 2) &&
    (runState.qEntry 3 0).isNone && (runState.scrubbing 3).any (fun e => decide (e.low + 4096 < e.count)) && (runState.scrubbing 0).isNone &&
    !runState.firm.scrub && (firmState .ready .run (fun f => { f with scrub := true, journal := runState.firm.journal })).firm.scrub &&
    ((firmState .ready .run (fun f => { f with scrub := true, journal := runState.firm.journal })).scrubbing 3).isSome &&
    runState.flashBusy.contains (0, 0) && !runState.flashBusy.contains (0, 1)) = true := by decide +kernel

theorem witness_answers :
    (decide (pinnedIn faultState.msys.tlb 0 ≤ 1024) && !faultState.msys.canPost 0 && { faultState.msys with posts := [] }.canPost 0 &&
    (faultState.msys.atsFor 0 ⟨0, 18, true, 0, false, false, false⟩).isSome && decide ((demoAnswer 18 true).frame < 2 ^ 40) &&
    (faultState.nextPri 0).any (fun r => r.index != 5) && ({ faultState with pri := [] } : State).pri.isEmpty &&
    ({ faultState with msys := { faultState.msys with faults := [] } } : State).nextPri 0 == none && inHost (2 ^ 41 * 128) &&
    (firmState .starting .unlocked id).firm.phase == .starting) = true := by decide +kernel

/-- A launch queue whose first record is at 0x2000, with the bytes given there and at 0x3000. -/
def queueState (q : Queue) (bs grid : List (Nat × Byte)) : State :=
  { (demo.setMsys { demoMem with mem := bs ++ grid }) with queues := [(0, some q)] }

/-- The record that an idle queue reads next. -/
def nextBytes (s : State) (q : Queue) : List Byte :=
  match s.msys.agentRead (freeAt s 43000) 0 0 ((q.ringBase + 128 * (q.head.toNat % 2 ^ q.log2)) % 2 ^ 57) 128 with
  | .ok (bs, _) => bs
  | .error _ => []

def setupBytes (n : Byte) : List (Nat × Byte) := [(0x2001, 0x30), (0x2018, 2), (0x2040, 7), (0x2044, n)]

theorem witness_LaunchQueues :
    (let q := demoQueue 0 0 1 0
     let sys := demoQueue 0 0 1 2
     let s := queueState q [] []
     decide (((1 : Word) - q.head).toNat ≤ 2 ^ q.log2) && decide (2 ^ q.log2 < ((3 : Word) - q.head).toNat) && q.head != q.tail && s.firm.iface != .error &&
     (nextBytes s q).length == 128 && s.gridStatusOf (nextBytes s q) 0 == 0 && s.freeGid == some 1 && recKind (nextBytes s q) == 0 &&
     (queueState q [(0x2018, 3)] []).gridStatusOf (nextBytes (queueState q [(0x2018, 3)] []) q) 0 == 4 &&
     (match (queueState { q with ringBase := 0xA000 } [] []).msys.agentRead (freeAt s 43000) 0 0 0xA000 128 with
       | .error (cause, _) => cause != 0
       | .ok _ => false) &&
     (let t := queueState sys (setupBytes 1) [(0x3020, 1)]
      let bs := nextBytes t sys
      recKind bs == 2 && setupReservedOk bs && (match t.msys.agentRead (freeAt t 44000) 0 0 (fieldAt bs 0 8) 128 with
        | .ok (grid, _) => t.setupStatus bs grid 0 == 0 && t.setupStatus (nextBytes (queueState sys (setupBytes 33) []) sys) grid 0 == 9
        | .error _ => false)) &&
     !setupReservedOk (nextBytes (queueState sys [(0x2008, 1), (0x2018, 2)] []) sys) && !s.agentBusy (queueChan 0) && s.grids.isEmpty) = true := by
  decide +kernel

/-- A counted grid of four crews, or a cooperative one. -/
def countRec (coop : Bool) : GridRec := { demoRec with paged := false, coop := coop, cls := 2, listAddr := 0, stateAddr := 0, parkBase := 0, gx := 4 }

def demoTask (gid : Option Word) (phase : TaskPhase) : Task := ⟨{ countRec false with gx := 1, count := 1 }, gid, 0, 0, 9, [7], 0, 0, [], phase, []⟩

def waitingState (r : GridRec) (tasks : List (Nat × Option Task)) : State := { demo with grids := [{ demoGrid r [] with gid := 3 }], tasks := tasks, ids := 8 }

def taskGrid (r : GridRec) : Grid := { demoGrid r [] with gid := 3, task := some 2 }

/-- The crews of the grid whose home is a die. -/
theorem witness_CrewsPlaced :
    ((List.range 8).any (fun die => let s := waitingState (countRec false) []
      (s.nextCand die).any (fun c => c.grid.any (fun g => (s.gridAt g.gid).isSome && !c.record.coop &&
        (s.findRoom die c.record.fuse c.record.use (c.record.coreOrder c.index)).isSome) && c.task.isNone) && (s.nextRelanding die).isNone && (s.needsGid die).isNone) &&
    (List.range 8).any (fun die => let s := waitingState (countRec true) []
      (s.nextCand die).any (fun c => c.grid.any (fun g => c.record.coop && s.coopFirst g && (s.placeCoop g).isSome))) &&
    (let s := { waitingState (countRec false) [(2, some (demoTask (some 3) .ready))] with grids := [taskGrid (countRec false)] }
     (s.nextCand 0).any (fun c => c.grid.isNone && c.task.any (fun p => p.1 == 2 && p.2.gid == some 3) &&
       (s.findRoom 0 c.record.fuse c.record.use (List.range 64)).isSome) && (s.needsGid 0).isNone) &&
    (waitingState (countRec false) [(2, some (demoTask none (.want 0)))]).needsGid 0 == some (2, demoTask none (.want 0))) = true := by decide +kernel

/-- A task's crew that runs on a full core, with a waiting grid of a higher class on every core. -/
def taskCrew : Crew := { demoCrew with gid := 3, task := some 2 }

def moveState (k : Crew) : State :=
  { (at1 demoTeam k).setMsys { demoMem with bring := { BringUp.initial with migration := true } } with
    grids := [taskGrid (countRec false)], tasks := [(2, some (demoTask (some 3) .running))], keys := [⟨7, 7, some 2, []⟩] }

/-- A die whose cores are full with crews as large as a core, of which the first is the task's. -/
def crowdState (die : Nat) : State :=
  let big : Crew := { taskCrew with die := die, alloc := ⟨256, 32, 8, 8, 524288, 16⟩ }
  { waitingState { countRec false with alloc := ⟨64, 32, 8, 8, 524288, 1⟩ } [] with
    crews := (0, some { big with cls := 1 }) :: (List.range 63).map fun i => (i + 1, some { big with core := i + 1, task := none }) }

theorem witness_CrewsMoved :
    ((List.range 8).any (fun die => let s := crowdState die
      (s.crewAt 0).any (fun c => c.stop.isNone && c.discardable && s.outranked die c.cls)) &&
    (let s := moveState { taskCrew with stop := some (.discard none) }
     (s.crewAt 0).any (fun c => s.drained 0 c && (s.taskAt 2).isSome)) &&
    (let s := moveState { taskCrew with phase := .leaving }
     (s.crewAt 0).any (fun c => c.phase == .leaving && (s.closeAll 0 c).drained 0 c && (s.gridAt c.gid).isSome)) &&
    (let s := moveState taskCrew
     (s.crewAt 0).any (fun c => c.stop.isNone && s.msys.bring.migration && decide (s.msys.bring.minResidency ≤ 2 ^ 20) && c.phase == .resident && c.gid != 0 && s.mayMove c 1)) &&
    (let s := moveState { taskCrew with stop := some (.migrate 1) }
     (s.crewAt 0).any (fun c => s.drained 0 c && (s.teamsOf c).all Team.atRest && s.mayMove c 1))) = true := by decide +kernel

def keyState (phase : TaskPhase) (keys : List KeyEntry) : State :=
  { demo with tasks := [(2, some (demoTask (some 3) phase))], keys := keys, keyReleases := [(7, 1)] }

theorem witness_LockKeys :
    (((keyState (.want 0) [⟨7, 7, some 1, []⟩]).keyAt 7).isSome && ((keyState (.want 0) []).keyAt 7).isNone &&
    decide ((keyState (.want 0) []).keyCount (keyHome 7) < 8192) && keyHome 7 == 7 &&
    decide (8192 ≤ (keyState (.want 0) ((List.replicate 8192 ⟨7, 15, some 1, []⟩))).keyCount 7) &&
    ((keyState (.want 0) ((List.replicate 8192 ⟨7, 15, some 1, []⟩))).keyAt 7).isNone &&
    ((keyState (.wait 0) [⟨7, 7, none, [2]⟩]).keyAt 7).any (fun e => e.holder.isNone && e.waiters == [2]) &&
    ((keyState (.wait 0) []).taskAt 2).any (fun t => t.phase == .wait 0) &&
    ((keyState (.restart 7 0) []).taskAt 2).any (fun t => t.phase == .restart 7 0) && decide (0 < Sparse.get 0 (keyState (.restart 7 0) []).keyReleases 7)) = true := by
  decide +kernel

/-- A page-bound grid on die 0 with the pages given; its list has been read where there are pages. -/
def pageState (pages : List (Nat × PageSt)) (k : Crew) : State :=
  { (at1 demoTeam k).setMsys demoMem with
    grids := [{ demoGrid demoRec pages with blocks := if pages.isEmpty then [] else [(blockKey 0 0, 1)] }], ids := 8 }

def sensedPage (valid : Bool) (retry : Nat) (sensed : Option Nat) : PageSt := { PageSt.initial with valid := valid, state := 1, retry := retry, sensed := sensed }

theorem witness_PageEvents :
    ((let s := pageState [] demoCrew
      (s.gridAt 1).any (fun g => g.mayRead 0 0 && (match s.msys.agentRead (freeAt s 42000) 0 0 ((g.record.listAddr / 64 + 0) * 64 % 2 ^ 57) 64 with
        | .ok (bs, _) => bs.length == 64
        | .error _ => false))) &&
    (let s := pageState [(0, pageIn 0 none)] demoCrew
     (s.nextRelanding 0).isNone && decide (s.sensing 0 < 256) && (s.nextPage 0).any (fun p => p.2 == 0 && (s.gridAt p.1.gid).isSome &&
       (s.findRoom 0 p.1.record.fuse p.1.record.use (List.range 64)).isSome)) &&
    [sensedPage false 0 none, sensedPage true 0 none, sensedPage true 7 none, sensedPage true 1 (some 1), sensedPage true 7 (some 2), sensedPage false 0 (some 2)].all
      (fun p => ((pageState [(0, p)] demoCrew).gridAt 1).any (fun g => g.pageAt 0 == p && p.state == 1 && g.record.faultEntry != 0 &&
        decide (g.record.teams.length ≤ ((pageState [(0, p)] demoCrew).freeSlots 0 0).length))) &&
    (let s := { pageState [(0, sensedPage true 0 none)] demoCrew with flashBusy := [(0, 0)] }
     s.flashBusy.contains (flashBlock (sensedPage true 0 none).flashPage))) = true := by decide +kernel

/-- The crew of page 0 is Parked or evicted; each core of die 0 is full, and page 3 waits. -/
def parkState (k : Crew) : State :=
  let s := pageState [(0, pageIn 4 (some 1)), (3, pageIn 0 none)] { k with alloc := ⟨64, 32, 8, 8, 524288 - 65536, 1⟩ }
  { s with crews := s.crews ++ (List.range 63).map fun i => (i + 1, some { demoCrew with gid := 9, core := i + 1, alloc := ⟨64, 32, 8, 8, 524288 - 65536, 1⟩ }) }

theorem witness_Evictions :
    ((let s := parkState { pageCrew with phase := .parked }
      (s.crewAt 0).any (fun c => (s.pageOf c).isSome && c.stop.isNone && (s.victim 0).any (fun p => p.1 == 0))) &&
    (let s := pageState [(0, pageIn 4 (some 1))] { pageCrew with phase := .parked, stop := some (.evict false none) }
     (s.crewAt 0).any (fun c => s.drained 0 c && (s.teamsOf c).all Team.atRest && (s.pageOf c).any (fun p => p.1.freePark == some 0))) &&
    (let s := pageState [(0, pageIn 4 (some 1))] { pageCrew with phase := .parked, stop := some (.evict true none) }
     (s.crewAt 0).any (fun c => !s.agentBusy (crewChan 0) && (s.pageOf c).isSome)) &&
    (let s := pageState [(0, pageIn 5 none)] { pageCrew with phase := .evicted, slots := [], teams := [demoTeam] }
     (s.nextRelanding 0).any (fun p => p.1 == 0) && (s.crewAt 0).any (fun c => (s.pageOf c).isSome && (s.findRoom 0 c.fuse c.use (List.range 64)).isSome &&
       decide (c.teams.length ≤ (s.freeSlots 0 0).length)))) = true := by decide +kernel

/-- A memory system whose fault queue of die 0 has no free slot. -/
def crammed (m : MemSys) : MemSys := { m with faultNext := [(0, 4096)], faults := [(0, ⟨0, demoPost 10, .none, none⟩)] }

theorem witness_queue_reads_fail :
    (let sys := demoQueue 0 0 1 2
     let fails := fun va => match demoMem.agentRead 1 0 0 va 128 with
      | .error (cause, _) => some cause
      | .ok _ => none
     fails 0x18000 == some 5 && fails 0x12000 == some 0 && fails 0x11000 == some 7 && demoMem.canPost 0 && !(crammed demoMem).canPost 0 &&
     (demoQueue 1 0 1 0).status != 0 && (let t := queueState sys (setupBytes 1) []
      let bs := nextBytes t sys
      recKind bs == 2 && setupReservedOk bs && (crammed t.msys).canPost 0 == false) &&
     fieldAt (leBytes 0 0x13 ++ [1] ++ leBytes 0 44) 0x13 1 != 0) = true := by decide +kernel

theorem witness_discards :
    (let s := moveState { taskCrew with stop := some (.discard none) }
     (s.crewAt 0).any (fun c => let freed := (s.removeCrew 0 c).forgetGrid c.gid
      freed.freeGid.isSome && freed.gridStatusOf (List.replicate 128 1) 0 != 0 && freed.gridStatusOf (leBytes 0 128) 0 == 0)) = true := by decide +kernel

theorem witness_full_key_table :
    (let s := { keyState (.want 0) (List.replicate 8192 ⟨7, 15, some 1, []⟩) with firm := { Firm.initial with keys := true } }
     s.firm.keys && (s.keyAt 7).isNone && decide (8192 ≤ s.keyCount (keyHome 7)) && !demo.firm.keys) = true := by decide +kernel

/-- A cooperative page-bound grid of two pages on die 0, of which the second is sensed where `all`. -/
def coopPages (all : Bool) : State :=
  let r := { demoRec with coop := true, count := 2 }
  { pageState [] demoCrew with grids := [demoGrid r [(0, sensedPage true 0 (some 0)), (1, sensedPage true 0 (if all then some 2 else none))]] }

theorem witness_pages_fail :
    ((let s := pageState [] demoCrew
      let read := fun va => match s.msys.agentRead (freeAt s 42000) 0 0 va 64 with
        | .error (cause, _) => some cause
        | .ok _ => none
      read 0x11000 == some 7 && read 0x18000 == some 5 && read 0x12000 == some 0 && s.msys.canPost 0 && !(crammed s.msys).canPost 0) &&
    ((coopPages true).gridAt 1).any (fun g => g.record.coop && g.allSensed) && ((coopPages false).gridAt 1).any (fun g => g.record.coop && !g.allSensed) &&
    (let g := { demoGrid { demoRec with faultEntry := 0 } [(0, sensedPage true 7 none), (1, pageIn 0 none), (2, pageIn 6 none), (3, pageIn 6 none)] with retired := 2 }
     let s := { pageState [] { demoCrew with gid := 0 } with grids := [g] }
     (s.gridAt 1).any (fun g => g.record.faultEntry == 0 && (s.crewsOfGrid 1).isEmpty && decide (0 < g.record.count) && decide (g.record.count ≤ g.retired + 2)) &&
     ({ s with grids := [{ g with retired := 1 }] } : State).grids.all (fun g => decide (g.retired + 2 < g.record.count))) &&
    ({ pageState [(0, sensedPage true 0 (some 0))] demoCrew with firm := { Firm.initial with iface := .error } } : State).firm.iface == .error) = true := by
  decide +kernel

/-- An evicted crew whose image lies in park slot 0, at an address given. -/
def evictedState (base : Nat) : State :=
  let s := pageState [] { pageCrew with phase := .evicted, slots := [], teams := [demoTeam] }
  { s with grids := [{ demoGrid { demoRec with parkBase := base } [(0, pageIn 5 none)] with park := [(0, some 0)] }] }

theorem witness_landing_images :
    ((evictedState 0x2000).crewAt 0).any (fun c => ((evictedState 0x2000).nextRelanding 0).any (fun p => p.1 == 0) &&
      ((evictedState 0x2000).pageOf c).any (fun x => x.1.parkOf 0 == some 0 && x.2 == 0 &&
        (match demoMem.agentRead (freeAt (evictedState 0x2000) 42200) 0 0 0x2000 256 with
          | .ok (bs, _) => bs.length == 256
          | .error _ => false) &&
        (match (evictedState 0x18000).msys.agentRead (freeAt (evictedState 0x18000) 42200) 0 0 0x18000 x.1.record.imageSize with
          | .ok _ => false
          | .error (cause, _) => cause == 5))) = true := by decide +kernel

/-! Engines, sends and weight contexts. -/

/-- An operation that copies 64 bytes of scratchpad from 0 to 128. -/
def copyOp (phase : OpPhase) (w0 : Dword) : EngineOp :=
  { id := 9, crew := 0, team := 0, die := 0, core := 0, slot := 0, world := 0, level := 2, batch := none, number := 1, prev := none
    w0 := w0, w1 := 0, w2 := 128, w3 := 0, phase := phase, record := 0, sub := none, next := 0, redo := [], missing := [], tail := none
    fails := [], walked := [], xfer := none, done := 0, failed := false, failing := none, payload := [] }

def opState (o : EngineOp) : State := { demo with ops := [o] }

/-- How the unit at the head of an operation begins. -/
def starts (s : State) (o : EngineOp) : Option (Except EngFail Xfer) := o.unit.map fun u => (s.unitStart o u).1

def startsOk (s : State) (o : EngineOp) : Bool :=
  match starts s o with
  | some (.ok _) => true
  | _ => false

/-- A copy from global memory, of 64 bytes, to scratchpad. -/
def fetchOp (va : Nat) : EngineOp := { copyOp .running 0x0100000000000040 with w1 := BitVec.ofNat 64 va, level := 2 }

theorem witness_EngineUnits :
    ((let o := copyOp .running 0x0500000000000040
      let s := opState o
      (s.opAt 9).isSome && !s.opBlocked o && !o.reading && o.head == some 0 && o.cmd.op == 0 && !o.cmd.mx && o.cmd.src == 1 && o.cmd.dst == 1 &&
      (s.crewAt o.crew).isSome && startsOk s o && s.late == [] && o.unit == some 0 && o.xfer.isNone && s.msys.canPost 0) &&
    ({ copyOp .running 0x0500000000000040 with next := 1 } : EngineOp).unit == none &&
    ({ copyOp .running 0x0500000000000040 with xfer := some ⟨[], [], [], 64⟩ } : EngineOp).xfer.isSome &&
    (copyOp .running 0x3000000000000001).reading &&
    (let s := fun va => (opState (fetchOp va)).setMsys demoMem
     starts (s 0x18000) (fetchOp 0x18000) == some (.error (.miss false 5 0x18000)) && starts (s 0x12000) (fetchOp 0x12000) == some (.error (.ats false 0x12000)) &&
     starts (s 0x11000) (fetchOp 0x11000) == some (.error (.stop 4 7 false 0x11000)) && startsOk (s 0x2000) (fetchOp 0x2000)) &&
    (let o := { copyOp .running 0x0600000000000040 with w1 := 0, crew := 0 }
     match starts { opState o with flashBusy := [(0, 0)] } o with
     | some (.error (.stop _ _ _ _)) => true
     | some (.error .busy) => true
     | _ => false)) = true := by decide +kernel

/-- A send of this module to its own ring 0, and a ring table at 0x3000 whose ring 0 is enabled, takes every world and lies at 0x4000. -/
def sendState (o : EngineOp) (tail : Nat) (sends : List WaitSend) : State :=
  let mem := [(0x3000, 1), (0x3001, 1), (0x3003, 255), (0x3009, 0x40)]
  { (demo.setMsys { demoMem with mem := mem, bring := { BringUp.initial with ringTable := 0x3000 } }) with ops := [o], sends := sends, ringTails := [(0, tail)] }

def sendOp (record : Nat) : EngineOp := { copyOp .sent 0x4580000000000040 with w2 := 0, record := record }

/-- The entry of ring 0, as the device reads it, has a property. -/
def ringHas (s : State) (p : Ring → Bool) : Bool :=
  match s.ringRead 0 with
  | .ok (r, _) => p r
  | .error _ => false

theorem witness_Sends :
    ((let s := sendState (sendOp 0) 0 []
      s.mayArrive (s.localSend (sendOp 0)) && s.ringFor (s.localSend (sendOp 0)) == some 0 && ringHas s (fun r => r.takes (s.localSend (sendOp 0))) &&
      !s.readers.contains 64 && ({ s with readers := [64] } : State).readers.contains 64) &&
    (let s := sendState (sendOp 0) 0 []
     let m : SendMsg := s.localSend (sendOp 0)
     (sendState (sendOp 1) 0 [⟨0, m, false⟩]).sendFor 0 == some ⟨0, m, false⟩ && ringHas (sendState (sendOp 1) 0 [⟨0, m, false⟩]) Ring.room &&
     ringHas (sendState (sendOp 1) 2 [⟨0, m, false⟩]) (fun r => !r.room) && !(sendState (sendOp 1) 0 [⟨0, m, true⟩]).agentBusy (ringChan 0) && !s.readers.contains 64 &&
     (let t : State := { s with msys := { s.msys with bring := { s.msys.bring with ringTable := 0x18000 } } }
      t.mayArrive m && (match t.ringRead 0 with
        | .ok _ => false
        | .error (cause, _) => cause == 5) && t.msys.canPost 0) && s.msys.canPost 0 && !(crammed s.msys).canPost 0) &&
    (sendState (sendOp 2) 0 []).answered (sendOp 2) true && (sendState (sendOp 3) 0 []).answered (sendOp 3) false) = true := by decide +kernel

/-- The descriptor of a weight context of world 0: one layer, two experts, one expert a token, two slots of 2 MiB from 4 MiB on, 16 ring slots
at 0x4000; `bad` sets its layers to 0. -/
def descMem (ctl : Byte) (layers : Byte) : List (Nat × Byte) :=
  (if ctl = 0 then [] else [(0x3048, ctl)]) ++ (if layers = 0 then [] else [(0x3050, layers)]) ++
    [(0x3051, 2), (0x3052, 0x10), (0x3054, 21), (0x3055, 2), (0x3056, 4), (0x305A, 0x40), (0x3069, 0x40)]

def ctxMem (ctl layers : Byte) (ring : List (Nat × Byte)) : MemSys :=
  { demoMem with
    mem := descMem ctl layers ++ ring ++ tableBytes ++ [(0x85018, 0x3B), (0x85019, 0x34)]
    bring := { BringUp.initial with ctxTable := 0x3000, spaceBase := 0x80000 } }

/-- Context 0, enabled with the changes given, with nodes for its experts. -/
def weightState (ctl layers : Byte) (ring : List (Nat × Byte)) (c : Option WCtx) : State :=
  { (demo.setMsys (ctxMem ctl layers ring)) with nodes := [(0, some (demoNode 0 4 0)), (1, some (demoNode 0 4 0))], contexts := [(0, c)] }

def demoCtx : WCtx := WCtx.initial ((ctxMem 1 1 []).readN 0x3000 128)

/-- The descriptor of context 0, as the Acorn reads it, has a property. -/
def descHas (s : State) (p : List Byte → Bool) : Bool :=
  match s.msys.agentRead (freeAt s 45000) 0 0 (s.descAddr 0) 128 with
  | .ok (bs, _) => p bs
  | .error _ => false

/-- A route in work of context 1, whose bin is full: it holds the Acorn of die 0. -/
def heldBy (s : State) : State :=
  { s with contexts := s.contexts ++ [(1, some { demoCtx with work := some ⟨5, [], [(1, 0)], none, true, true⟩ })] }

theorem witness_ContextEnabled :
    ((let s := { weightState 1 1 [] none with contexts := [] }
      s.toEnable 0 && descHas s (fun bs => descReservedOk bs && (WCtx.initial bs).inRange && s.nodesOk (WCtx.initial bs) &&
        !s.acornHeld 0 (WCtx.initial bs).die && (heldBy s).acornHeld 0 (WCtx.initial bs).die) && (heldBy s).toEnable 0 && !s.firm.routing) &&
    (let s := { weightState 1 0 [] none with contexts := [] }
     s.toEnable 0 && descHas s (fun bs => !(WCtx.initial bs).inRange && !s.acornHeld 0 (WCtx.initial bs).die)) &&
    (let s := { weightState 1 1 [] none with contexts := [], nodes := [] }
     s.toEnable 0 && descHas s (fun bs => !s.nodesOk (WCtx.initial bs))) &&
    (let s := weightState 0 1 [] (some demoCtx)
     s.toDisable 0 == some demoCtx && !s.acornHeld 0 demoCtx.die && (heldBy s).toDisable 0 == some demoCtx && (heldBy s).acornHeld 0 demoCtx.die)) = true := by
  decide +kernel

/-- A descriptor that cannot be read: its line is poisoned. -/
theorem witness_descriptor_fails :
    (let s := { weightState 1 1 [] none with contexts := [], msys := { ctxMem 1 1 [] with poison := [(0x60, true)] } }
     s.toEnable 0 && (match s.msys.agentRead (freeAt s 45000) 0 0 (s.descAddr 0) 128 with
       | .ok _ => false
       | .error (cause, _) => cause == 11) && s.msys.canPost 0 && !(crammed s.msys).canPost 0 && ({ s with msys := crammed s.msys } : State).toEnable 0) = true := by
  decide +kernel

/-- A ring entry at slot 0: kind, tag, layer, candidate 0 with a score of 1, and five candidates that are absent. -/
def ringBytes (kind tag layer cand : Byte) : List (Nat × Byte) :=
  [(0x4080, kind)] ++ (if tag = 0 then [] else [(0x4084, tag)]) ++ (if layer = 0 then [] else [(0x408C, layer)]) ++
    (if cand = 0 then [] else [(0x4090, cand)]) ++ [(0x4096, 0x80), (0x4097, 0x3F)] ++
    (List.range 5).flatMap (fun i => [(0x4098 + 8 * i, 255), (0x4099 + 8 * i, 255)])

def demoBatchW (tag : Nat) (touched : List Nat) : WBatch := ⟨tag, 0, touched⟩

/-- The entry that the Acorn processes next has a property. -/
def acornHas (s : State) (p : WCtx → Bool → List Byte → Bool) : Bool := (s.acornNext 0).any fun x => p x.2.1 x.2.2.1 x.2.2.2

theorem witness_RoutesChecked :
    (acornHas (weightState 1 1 (ringBytes 1 5 0 1) (some demoCtx)) (fun c ring e => !entryRetire e && entryFormOk e && c.routeOk e && c.batch (entryTag e) == none &&
      ring && !c.aside (entryTag e) && decide (c.batches.length < 256) && entryTag e == 5) &&
    acornHas (weightState 1 1 (ringBytes 1 5 0 1) (some { demoCtx with batches := [demoBatchW 5 []] })) (fun c _ e => (c.batch (entryTag e)).any (fun b =>
      !c.tooMany 5 b.gen (entryLayer e) (c.chosen e))) &&
    acornHas (weightState 1 1 (ringBytes 1 5 0 1) (some { demoCtx with batches := [demoBatchW 5 ((List.range 64).map (· + 10))] })) (fun c _ e =>
      (c.batch (entryTag e)).any (fun b => c.tooMany 5 b.gen (entryLayer e) (c.chosen e))) &&
    acornHas (weightState 1 1 (ringBytes 1 5 1 1) (some demoCtx)) (fun c _ e => !entryRetire e && entryFormOk e && !c.routeOk e) &&
    acornHas (weightState 1 1 (ringBytes 17 5 0 1) (some demoCtx)) (fun _ _ e => !entryRetire e && !entryFormOk e) &&
    acornHas (weightState 1 1 (ringBytes 1 5 0 1) (some { demoCtx with batches := (List.range 256).map fun i => demoBatchW (i + 9) [] })) (fun c ring e =>
      c.batch (entryTag e) == none && ring && decide (256 ≤ c.batches.length) && decide (c.side.length < 256))) = true := by decide +kernel

def setAsideEntry (tag : Nat) : List Byte := leBytes 1 4 ++ leBytes tag 4 ++ leBytes 0 56

/-- A route behind an entry of its tag that is set aside, with room in the side list or none. -/
theorem witness_behind :
    (let c := { demoCtx with side := [setAsideEntry 5], batches := (List.range 256).map fun i => demoBatchW (i + 9) [] }
     let full := { c with side := (List.range 256).map fun i => setAsideEntry (i + 5) }
     acornHas (weightState 1 1 (ringBytes 1 5 0 1) (some c)) (fun c ring e => ring && c.aside (entryTag e) && entryFormOk e && c.routeOk e &&
       decide (c.side.length < 256)) &&
     acornHas (weightState 1 1 (ringBytes 1 5 0 1) (some full)) (fun c ring e => ring && c.aside (entryTag e) && decide (256 ≤ c.side.length))) = true := by
  decide +kernel

theorem witness_RetiresChecked :
    (acornHas (weightState 1 1 (ringBytes 2 5 0 0) (some { demoCtx with batches := [demoBatchW 5 [1]], slots := [(1, some ⟨0, 0, 1, 1, false, false⟩)] }))
      (fun c ring e => entryRetire e && entryFormOk e && ring && (c.batch (entryTag e)).any (fun b => decide (b.touched.Nodup)) && (c.slot 1).isSome) &&
    acornHas (weightState 1 1 (ringBytes 2 5 0 0) (some demoCtx)) (fun c _ e => entryRetire e && c.batch (entryTag e) == none && !c.aside (entryTag e)) &&
    acornHas (weightState 1 1 (ringBytes 2 5 0 0) (some { demoCtx with side := [setAsideEntry 5], batches := (List.range 256).map fun i => demoBatchW (i + 9) [] }))
      (fun c ring e => entryRetire e && entryFormOk e && ring && c.batch (entryTag e) == none && c.aside (entryTag e) && decide (c.side.length < 256)) &&
    acornHas (weightState 1 1 (ringBytes 18 5 0 0) (some demoCtx)) (fun _ _ e => entryRetire e && !entryFormOk e)) = true := by decide +kernel

/-- Context 0 with a route in work whose slot 1 loads expert 1, from the table at 0x5000. -/
def loadState (table : List (Nat × Byte)) : State :=
  let c := { demoCtx with
    desc := padTo 128 (demoCtx.desc.take 0x39 ++ [0x50] ++ demoCtx.desc.drop 0x3A), slots := [(1, some ⟨0, 0, 1, 1, true, false⟩)]
    work := some ⟨5, setAsideEntry 5, [(1, 0)], some (some 1), true, false⟩ }
  weightState 1 1 table (some c)

theorem witness_SlotLoads :
    ((let s := loadState [(0x5011, 0x60), (0x5019, 1)]
      let framed := { s.msys with frames := s.msys.frames ++ [(1536, 0x4000)] }
      (s.ctxAt 0).any (fun c => c.work.isSome && c.loadingSlot.any (fun p => p.1 == 1 && !p.2.waiting && (match (s.weights c p.2).1 with
        | .bytes bs page => bs.length == 256 && page.isNone && s.slotCheck c 1 p.2 256 == some (9, c.window p.2) &&
          ({ s with msys := framed } : State).slotCheck c 1 p.2 256 == none
        | _ => false)) && s.msys.canPost c.die && !(crammed s.msys).canPost c.die)) &&
    (let s := loadState []
     (s.ctxAt 0).any (fun c => c.loadingSlot.any (fun p => (s.weights c p.2).1 == .failed))) &&
    (let s := loadState [(0x5017, 128), (0x5019, 1)]
     (s.ctxAt 0).any (fun c => c.loadingSlot.any (fun p => ({ s with flashBusy := [(0, 0)] }.weights c p.2).1 == .busy))) &&
    (let s := loadState [(0x5011, 0x60), (0x5019, 1)]
     (s.ctxAt 0).any (fun c => c.loadingSlot.any (fun p =>
       (({ s with msys := { s.msys with poison := [(0xC0, true)] } } : State).weights c p.2).1 == .miss (11, 0x6000)))) &&
    (let s := loadState [(0x5011, 0x60), (0x5019, 1)]
     (s.ctxAt 0).any (fun c => c.loadingSlot.any (fun p => (({ s with msys := { s.msys with frames := [(5, 0x4000), (6, 0x4005)] } } : State).weights c p.2).1 == .miss (7, 0x6000))))) = true := by decide +kernel

/-- The table's entry names page 0 of flash, from which the bytes come, or which is uncorrectable. -/
theorem weights_from_flash (s : State) (c : WCtx) (x : WSlot) (e : List Byte) (m : MemSys)
    (h1 : s.msys.agentRead (freeAt s 45300) c.die c.world ((c.tableOf x.gen + 16 * (x.layer * c.experts + x.expert)) % 2 ^ 57) 16 = .ok (e, m))
    (h2 : weightEntryBad c e = false) (h3 : (fieldAt e 0 8).testBit 63 = true) (h4 : bitsOf (fieldAt e 0 8) 30 18 = 0) (h5 : s.flashBusy = [])
    (h6 : flashOk (bitsOf (fieldAt e 0 8) 0 30 * 16384) 0 (fieldAt e 8 4) = true) :
    (∃ page, (s.weights c x).1 = .lost page) ∨ ∃ bs page, (s.weights c x).1 = .bytes bs (some page) := by
  have hf : ∀ a n, s.flashCheck 45400 a n = none ∨ ∃ p, s.flashCheck 45400 a n = some (.stop 8 0 false p) := by
    intro a n
    simp only [State.flashCheck, h5]
    split
    · exact .inl rfl
    · split
      · simp_all
      · cases List.find? _ _ with
        | none => exact .inl rfl
        | some p => exact .inr ⟨p, rfl⟩
  simp only [State.weights, h1, h2, h3, h4, h6, Bool.false_eq_true, Bool.true_eq_false, if_false, if_true, ne_eq, not_true_eq_false, or_self]
  rcases hf (bitsOf (fieldAt e 0 8) 0 30 * 16384) (fieldAt e 8 4) with h | ⟨p, h⟩ <;> rw [h]
  · exact .inr ⟨_, _, rfl⟩
  · exact .inl ⟨p, rfl⟩

theorem witness_flash_load :
    (let s := loadState [(0x5017, 128), (0x5019, 1)]
     s.flashBusy == [] && (s.ctxAt 0).any (fun c => c.loadingSlot.any (fun p =>
      match s.msys.agentRead (freeAt s 45300) c.die c.world ((c.tableOf p.2.gen + 16 * (p.2.layer * c.experts + p.2.expert)) % 2 ^ 57) 16 with
      | .ok (e, _) => !weightEntryBad c e && (fieldAt e 0 8).testBit 63 && bitsOf (fieldAt e 0 8) 30 18 == 0 &&
          flashOk (bitsOf (fieldAt e 0 8) 0 30 * 16384) 0 (fieldAt e 8 4)
      | .error _ => false))) = true := by decide +kernel

/-! Clauses of the statements that the witnesses above leave. -/

/-- Values of packed elements and of `f32`, finite, infinite and not a number. -/
theorem witness_values :
    (decodeVal ⟨4, 3, .topNaN⟩ 0x77).Is 240 ∧ (decodeVal ff32 0x43700000).Is 240 ∧ (decodeVal ff32 0).Is 0 ∧ decodeVal ff32 0x7FC00000 = .nan ∧
    decodeVal ff32 0xFF800000 = .inf true ∧ decodeVal ⟨4, 3, .topNaN⟩ 0x7F = .nan ∧ decodeVal ⟨5, 2, .ieee⟩ 0x7C = .inf false ∧
    CoefFinite 0x3FF0000000000000 ∧ ¬ CoefFinite 0x7FF0000000000000 ∧ (decodeVal ff64 0x3FF0000000000000).Is 1 ∧ (decodeVal ff64 0).Is 0 := by
  refine ⟨⟨false, 15, 4, by decide, by norm_num⟩, ⟨false, 15728640, -16, by decide, by norm_num⟩, ⟨false, 0, -149, by decide, by norm_num⟩, by decide,
    by decide, by decide, by decide, ⟨1, false, 2 ^ 52, -52, by decide, by norm_num⟩, ?_, ⟨false, 2 ^ 52, -52, by decide, by norm_num⟩,
    ⟨false, 0, -1074, by decide, by norm_num⟩⟩
  rintro ⟨z, neg, m, e, h, -⟩
  have h' : decodeVal ff64 0x7FF0000000000000 = .inf false := by decide
  simp [h'] at h

/-- A late `sts` to the record of `cvtn`; a granule, a row of a tile and an accumulator that a late instruction is still to write. -/
theorem witness_interlocks :
    (issuerHas (at1 { demoT [(9, 4080)] [] 0 with late := [⟨7, [⟨true, false, 4092, 4⟩], false, .store [0, 0, 0, 0]⟩] } (scratchCrew [])) (fun c =>
      c.team.late.any (fun x => x.places.any (fun y => y.scratch && decide (y.addr < 4080 + 16) && decide (4080 < y.addr + y.len)))) &&
    [Taker.granule 0, .row 1 0 0, .poly 7].all (fun x => issuerHas (at1 { demoTeam with late := [⟨7, [], false, .take 0 [] x⟩] } demoCrew) (fun c =>
      c.team.late == [⟨7, [], false, .take 0 [] x⟩] && c.tilesOk 0 1 && decide (7 < c.crew.alloc.pp) && decide (0 < c.crew.alloc.granules))) &&
    (List.range 4).all (fun y => !(memState 0x2000).stepFirst ⟨0, 0, 0⟩ demoCrew.cls (memState 0x2000).fresh y) &&
    decide (([⟨0, 1, none⟩, ⟨7, 2, some 3⟩] : List KRow).map KRow.row).Nodup && imageReserved (leBytes (2 ^ 40) 8) && !imageReserved (leBytes 1 8)) = true := by
  decide +kernel

/-- A frame at the head of a poisoned line, and one whose done bits lie in one; an action 1 outside a clause. -/
theorem witness_broken_frames :
    (let s := fun (k : Nat) (t : Team) => (at1 t demoCrew).setMsys { demoMem with poison := [(k, true)] }
     (s 0x80 handlerTeam).msys.broken 0x4018 && !(s 0x81 handlerTeam).msys.broken 0x4018 && (s 0x81 handlerTeam).msys.broken 0x4080 &&
     issuerHas (handlerState { handlerTeam with frame := some { demoFrame [] with inClause := false } } 1) (fun c => c.team.frame.any (fun f => !f.inClause)) &&
     issuerHas (handlerState { handlerTeam with late := [lateStore] } 0) (fun c => c.team.late != [] && c.team.frame.isSome) &&
     issuerHas (handlerState { demoTeam with clause := none } 0) (fun c => c.team.clause.isNone)) = true := by decide +kernel

/-- An invalidation for a space that does not exist, and one for which nothing is to be waited for. -/
theorem witness_tlbinv_ends :
    (issuerHas (trapState { demoTeam with tlbspace := 255 }) (fun c => decide (255 ≤ c.team.tlbspace.toNat % 2 ^ 16)) &&
    (trapState demoTeam).ops.isEmpty && (trapState demoTeam).teams.all (fun p => p.2.all (fun t => t.late == []))) = true := by decide +kernel

/-- The batches of a team of two words are written at once. -/
theorem witness_two_batches :
    (let t := { demoTeam with lanes := 64, present := 0x100000001, mask := 0x100000001 }
     let s := svcState t svcCrew []
     issuerHas s (fun c => t.liveWords == [0, 1] && (match s.msys.agentPieces (freeAt s 40000) (agentAccess 0 0 true false) (linePieces 513 (s.svcAddr 0 0) 512) with
      | .ok (m, ps) => (match (m.agentPut true true 0 ps (svcBytes c s.rf 3 0 1 5)).agentPieces (freeAt s 40000) (agentAccess 0 0 true false)
          (linePieces 513 (s.svcAddr 0 1) 512) with
        | .ok _ => true
        | .error _ => false)
      | .error _ => false))) = true := by decide +kernel

/-- The unit at the head of an operation starts, and its bytes go at once to places of a space that software may write. -/
def startsAt (o : EngineOp) (space : Nat) : Bool :=
  let s := (opState o).setMsys demoMem
  o.unit.any fun u => match s.unitStart o u with
    | (.ok x, _, m) => x.writes.flatten.all (fun l => l.space == space && (m.engLate true l).isNone) && x.reads.flatten.all (fun l => (m.engLate false l).isNone) &&
        decide (cellsOf x.writes.flatten).Nodup && decide ((cellsOf x.writes.flatten).length ≤ (s.bytesAt demoCrew x.reads.flatten).length) &&
        (cellsOf x.writes.flatten).all (fun q => space == 1 || (m.norm q == q && inHbm q))
    | _ => false

/-- Copies from global memory and to it, an MX copy, a gather, a scatter and a send. -/
theorem witness_engine_starts :
    ([(fetchOp 0x2000, 1), ({ fetchOp 0x2000 with w0 := 0x0000000000000010, w2 := 0x3000 }, 0),
      ({ copyOp .running 0x0510000000000001 with w3 := 0x0000004000000040 }, 1),
      ({ fetchOp 0x2000 with w0 := 0x1100300000000001, w3 := 0x8000000000000040 }, 1),
      ({ copyOp .running 0x2400300000000001 with w2 := 0x3000, w3 := 0x8000000000000040 }, 0), ({ sendOp 0 with phase := .running }, 1)].all
      (fun p => startsAt p.1 p.2)) = true := by decide +kernel

/-- Bytes 0x40 to 0x4F of a line of HBM that no record holds are never read-only, whatever memory holds. -/
theorem witness_never_readOnly (m : MemSys) (hf : m.fixed = demoMem.fixed) (hc : m.completions = demoMem.completions) (hb : m.bring = demoMem.bring) :
    ∀ q ∈ (List.range 16).map (0x3040 + ·), m.readOnly q = false := by
  intro q hq
  have h1 : demoMem.fixed = [] := rfl
  have h2 : demoMem.completions = [] := rfl
  have h3 : demoMem.bring = BringUp.initial := rfl
  have h4 : BringUp.initial.faultBase = [] := rfl
  have h5 : BringUp.initial.ctxTable = 0 := rfl
  simp only [List.mem_map, List.mem_range] at hq
  obtain ⟨i, hi, rfl⟩ := hq
  have : (0x3040 + i) % 128 = 0x40 + i := by omega
  have hk : decide ((0x40 + i + 128 - 0) % 128 < 0x38) = false := by simp; omega
  simp [MemSys.readOnly, MemSys.descOnly, hf, hc, hb, h1, h2, h3, h4, h5, this]
  omega

/-- One read and one write of a unit, and a failure that awaits its record. -/
theorem witness_engine_steps :
    (let o := copyOp .running 0x0500000000000040
     let l : EngLoc := ⟨1, 0, 0, 8, 0, false⟩
     let g : EngLoc := ⟨0, 0x3040, 0x3040, 8, 0x343B, false⟩
     [(⟨[[l]], [], [[g]], 8⟩ : Xfer), ⟨[], [1, 2, 3, 4, 5, 6, 7, 8], [[g]], 8⟩, ⟨[], [1, 2, 3, 4, 5, 6, 7, 8], [[l]], 8⟩].all (fun x =>
       match ((opState o).setMsys demoMem).xferUnit o x with
       | .ok _ => true
       | .error _ => false) &&
     ({ o with failing := some (.miss false 5 0x18000, true) } : EngineOp).failing.isSome && demoMem.canPost 0 && !(crammed demoMem).canPost 0 &&
     (sendState (sendOp 3) 0 []).answered (sendOp 3) false) = true := by decide +kernel

/-- A slot whose frames a late access, or a running engine operation, may still use; a route in work that a full bin of another context holds. -/
theorem witness_slots_in_use :
    (let s := loadState [(0x5011, 0x60), (0x5019, 1)]
     s.inUse 0x600000 0x200000 == false && ({ s with ops := [{ walkedOp with walked := [⟨0x600, false, 0x60043B, 0⟩] }] } : State).inUse 0x600000 0x200000 &&
     (s.setTeam ⟨0, 0, 0⟩ { demoTeam with late := [⟨7, [⟨false, false, 0x7FFFFC, 4⟩], false, .store [0, 0, 0, 0]⟩] }).inUse 0x600000 0x200000 &&
     (heldBy s).acornHeld 0 0 && ((heldBy s).ctxAt 0).any (fun c => c.work.isSome && c.die == 0)) = true := by decide +kernel

/-- An invalidation that stands, a quarantine of one entry, a scrub that system software steps, and a task without an identifier that wants a key. -/
theorem witness_standing :
    (({ faultState with invalidations := [(0, 18)] } : State).invalidations.contains (0, 18) &&
    (let s := { runState with quarantine := [(qKey 2 1, some ⟨[1], 2 ^ 48, 0, 0, 2⟩)] }
     (s.qEntry 2 1).any (fun e => e.status == 2) && (s.quarantine.filter (fun p => p.1 != qKey 2 1)).isEmpty) &&
    (let s := firmState .ready .run fun f => { f with journal := [(3, some ⟨1, 1, 8, 5000, 0, true⟩)] }
     (s.scrubbing 3).any (fun e => e.assisted)) &&
    ({ demo with tasks := [(2, some (demoTask none (.want 0)))] } : State).taskAt 2 == some (demoTask none (.want 0))) = true := by decide +kernel

/-- A crew whose wake came while it was being evicted: its image is written, and then it lands. -/
theorem witness_woken :
    (let s := pageState [(0, pageIn 2 none)] { pageCrew with phase := .parked, stop := some (.evict true none), woken := some (0, 3, 0) }
     (s.crewAt 0).any (fun c => !s.agentBusy (crewChan 0) && (s.pageOf c).isSome && c.woken.isSome) &&
     (let s := pageState [(0, pageIn 2 none)] { pageCrew with phase := .evicted, slots := [], teams := [demoTeam], woken := some (0, 3, 0) }
      let s : State := { s with grids := s.grids.map fun (g : Grid) => { g with park := [(0, some 0)] } }
      (s.nextRelanding 0).any (fun p => p.1 == 0) && (s.crewAt 0).any (fun c => (s.pageOf c).any (fun p => p.1.parkOf 0 == some 0)))) = true := by
  decide +kernel

/-! The machine as a whole. -/

theorem reset_inv : Memory.wf State.reset.msys.mem = true ∧ State.reset.msys.dirty = [] := by decide

theorem witness_Inv : Memory.wf (podState false).msys.mem = true ∧
    ((podState false).msys.dirty.all fun d => d.data.length == 128 && inHost (d.line * 128)) = true := by decide +kernel

/-- The demo with the words of its clause, a schedule, an agenda and a turn. -/
def stepState (cl : Option Clause) (sched : List Nat) (agenda : List Input) (turn : Bool) : State :=
  { at1 { demoTeam with clause := cl } demoCrew with sched := sched, agenda := agenda, turn := turn }

def wordsClause (ws : List Word) : Option Clause := some ⟨0x1000, 0xFF000FF0, 0, ws, 0, []⟩

theorem witness_StepRunsDecoded :
    ((let s := stepState (wordsClause [0x20040409]) [1] [] false
      s.select 0 == some ⟨0, 0, 0⟩ && s.agenda.isEmpty && (s.teamAt ⟨0, 0, 0⟩).isSome && s.issuer.isSome && isEvent .powerFailure) &&
    (let s := stepState (wordsClause [0x20040409]) [] [] false
     s.selectAny == some ⟨0, 0, 0⟩) &&
    (let s := stepState (wordsClause [0x20040409]) [] [] true
     s.selectAny == some ⟨0, 0, 0⟩ && s.nextDue.isNone) && reads [0x20040409] (.add 4 4 9) && refuses [0xFF000000] .header &&
    (stepState none [1] [] false).select 0 == some ⟨0, 0, 0⟩ && (stepState (wordsClause []) [1] [] false).select 0 == some ⟨0, 0, 0⟩ &&
    [Input.event .powerFailure, .event .exit, .integrity 64, .access ⟨0, 0, 0⟩ 0, .migrate 0 3 5 9].all (fun e =>
      (stepState none [1] [e, e] false).agenda == [e, e]) && !isEvent .exit &&
    (let s := stepState none [0] [] false
     s.sched == [0] && s.due.isEmpty) &&
    (let s := { stepState none [0] [] false with teams := [(0, some lateTeam)] }
     s.nextDue.isSome) &&
    (let s := { (stepState none [0] [] false).setMsys { demoMem with
        rung := [(0x1000, [1, 0, 0, 0])], bring := { BringUp.initial with replyDoorbell := [0x7000] } } with queues := [(0, some (demoQueue 0 0 1 0))] }
     s.msys.rung != [] && s.bellDie 0x1000 == none && s.bellQueue 0x1000 == some 0 && s.bellQueue 0x1008 == some 0 && s.bellDie 0x7000 == some 0 &&
     bitsOf (leNat [3, 0, 0, 0, 1, 0, 0, 0]) 32 2 == 1 && bitsOf (leNat [3, 0, 0, 0, 2, 0, 0, 0]) 32 2 == 2)) = true := by decide +kernel

/-- `step` runs the instruction that `withFetchWord` places: the spec's `add v4, v4, v9` (R158) ends at the next word. -/
theorem test_step_runs_placed_word :
    (match step (State.reset.withFetchWord 32 0x20040409) with
      | .next s => (s.teamAt ⟨0, 0, 0⟩).any (fun t => t.clause.any (fun k => k.pos == 1) && t.pending.isNone)
      | _ => false) = true := by decide +kernel

/-! Ill-formed terms: one for each check of `Instr.wellFormed`. -/

theorem illFormed_partition : [Instr.getm 1 2, .part 0, .part 6, .rdsp 4 18, .rdsp 7 11].all (fun i => !i.wellFormed) = true := by decide

theorem illFormed_handover : [Instr.give 4 0 1, .give 0 0 0, .give 0 0 65, .give 0 255 2, .claim 4 0 1, .claim 0 0 0, .claim 0 0 65, .claim 0 193 64].all
    (fun i => !i.wellFormed) = true := by decide

theorem illFormed_fields : [Instr.bfx 1 2 0 0, .bfx 1 2 1 64, .bfi 1 2 3 0 0, .bfi 1 2 3 63 2, .sbfx 1 2 0 0, .sbfx 1 2 1 64, .sbfi 1 2 3 0 0,
    .sbfi 1 2 3 63 2].all (fun i => !i.wellFormed) = true := by decide

theorem illFormed_conversions : [Instr.cvti 1 2 .f32 .i32, .cvti 1 2 .i32 .f64, .scvti 1 2 .i32 .f32, .scvti 1 2 .bf16x2 .i32, .cvt 1 2 .f32 .f32,
    .cvt 1 2 .i32 .n64, .cvt 1 2 .f16x2 .bf16x2, .cvt 1 2 .f64 .f16x2, .cvtn 1 2 3 .f64 0, .cvtn 1 2 3 .e8m0 0, .cvtn 1 2 3 .f32 0, .cvtn 1 2 3 .e4m3 2,
    .cvtw 1 2 .f64 1, .cvtw 1 2 .f32 0, .cvtw 1 2 .e4m3 2, .cvtw 1 2 .int8 3].all (fun i => !i.wellFormed) = true := by decide

theorem illFormed_pairs : [Instr.brx 1, .lea 1 2 3, .lea 2 1 3, .slea 1 2 3, .slea 2 1 3, .ld8 1 3 0 0, .ld16 1 3 0 0, .ld32 1 3 0 0, .ld64 2 3 0 0,
    .ldq 4 3 0 0, .lda 1 3 0 .core 0, .ldmx 1 3 0 0, .pref 3 0 0, .st8 1 3 0 0, .st16 1 3 0 0, .st32 1 3 0 0, .st64 2 3 0 0, .stl 1 3 0 .core 0,
    .stmx 1 3 0 0].all (fun i => !i.wellFormed) = true := by decide

theorem illFormed_atomics : [Instr.aadd 1 3 0 0 .core .relaxed 0, .amin 1 3 0 0 .core .relaxed 0, .amax 1 3 0 0 .core .relaxed 0, .aand 1 3 0 0 .core .relaxed 0,
    .aor 1 3 0 0 .core .relaxed 0, .axor 1 3 0 0 .core .relaxed 0, .axchg 1 3 0 0 .core .relaxed 0, .acas 1 3 0 0 .core .relaxed 0,
    .ainc 1 3 0 0 .core .relaxed 0, .afadd 1 3 0 0 .core .relaxed 0, .apmul 8 2 .core .relaxed, .apmul 0 3 .core .relaxed].all (fun i => !i.wellFormed) = true := by
  decide

theorem illFormed_matrix : [Instr.mma 32 0 2 .f32 .f32 false, .mma 0 0 3 .f32 .f32 false, .mma 0 0 2 .f32 .f64 false, .mma 0 0 2 .e8m0 .e8m0 false,
    .mmas 32 0 2 .int8 0 true, .mmas 0 0 3 .int8 0 false, .mmas 0 0 2 .nat8 0 true, .accz 32, .acrd 0 32, .acwr 32 0, .acld 32 0, .acld 0 1, .acst 32 0,
    .acst 0 1, .ldmeta 8 0].all (fun i => !i.wellFormed) = true := by decide

theorem illFormed_polynomials : [Instr.ppdeg 8 0, .ppclr 8, .ppfac 8 0 2, .ppfac 0 1 2, .ppfac 0 2 1, .ppdiv 8 0 2, .ppdiv 0 1 2, .ppdiv 0 2 1, .ppmul 8 0,
    .ppmul 0 8, .ppld 8 0, .ppld 0 1, .ppst 8 0, .ppst 0 1, .pprd 0 8 0, .pprd 1 0 0, .pprd 0 0 64, .ppscl 8 0, .ppinfo 0 8].all
    (fun i => !i.wellFormed) = true := by decide

theorem illFormed_work_and_system : [Instr.stp 5 0, .stp 0 1, .bcnt 1 0, .tsub 0 1, .nrec 0 1 2, .glaunch 0 1, .sysrd 0 0x14, .sysrd 0 0x40, .syswr 0 0x1F, .tlbinv 0 3, .tlbinv 1 0,
    .ctxsv 1, .ctxld 1, .escape 0x24 1 2 3 false true, .escape 0x20 1 2 3 false false, .escape 0x26 1 2 0 true true, .escape 0x26 1 2 3 true false].all
    (fun i => !i.wellFormed) = true := by decide

theorem illFormed_events : [Instr.powerFailure, .crewPlacement 0, .dataLinkDown, .keyRequest 0].all (fun i => !i.wellFormed) = true := by decide

/-! Words written out field by field from R143, R152 to R155: opcode, d, a, b. -/

theorem decode_control :
    (reads [0b00000000_00000000_00000000_00000000] .nop && reads [0b00000001_11111111_11111111_11110100] (.bra 0xFFFFF4) &&
    reads [0b00000010_00000000_00000110_00000000] (.brx 6) && reads [0b00000111_00000101_00000000_00001000] (.mif 5 8) &&
    reads [0b00001011_00000000_00000101_00000000] (.mbrk 5) && reads [0b00010011_00000100_00000101_00000000] (.rdsp 4 5) &&
    reads [0b00010100_00000011_00001000_00000010] (.give 3 8 2) && reads [0b00010110_00000101_00000100_00000011] (.svc 5 4 3) &&
    reads [0b00010111_00000000_00000001_00000001] (.trap 0x101) && reads [0b00010010_00000000_00000000_00000011] (.part 3) &&
    reads [0b00011000_00010100_00000111_00000010] (.vtos 20 7 2) && reads [0b00011001_00001001_00010100_00000000] (.stov 9 20)) = true := by decide

theorem decode_integer :
    (reads [0b00100000_00000100_00000100_00001001] (.add 4 4 9) && reads [0b00100100_00001010_00000010_00000011, 0b00000100_00000000_00000000_00000000] (.mad 10 2 3 4 false false) &&
    reads [0b00111001_00000101_00000001_00000010, 0b00000111_01000000_00000000_00000000] (.sel 5 1 2 7 false true) &&
    reads [0b00111000_00000110_00000001_00000010, 0b00000000_00000000_00000001_10000100] (.bfi 6 1 2 4 3) &&
    reads [0b00111111_00001000_00000010_00010010] (.cvti 8 2 .n32 .i64) && reads [0b01000000_00001100_00000100_00000011] (.lea 12 4 3) &&
    reads [0b01000111_00000100_00000000_00000011] (.shri 4 3) && reads [0b01001010_00000001_00010010_00110100] (.movh 1 0x1234)) = true := by decide

theorem decode_uniform :
    (reads [0b01010000_00000011_00000011_00001001] (.sadd 3 3 9) && reads [0b01111001_00000011_11111111_11111110] (.smovi 3 0xFFFE) &&
    reads [0b01101000_00000110_00000001_00000010, 0b00000000_00000000_00000001_10000100] (.sbfi 6 1 2 4 3) &&
    reads [0b01110000_00001100_00000100_00000011] (.slea 12 4 3)) = true := by decide

theorem decode_float :
    (reads [0b11111110_00000100_00000101_00000110, 0b10000100_10000000_00000000_00000000] (.escape 0x84 4 5 6 false true) &&
    reads [0b10001010_00000011_00000001_00000010] (.fcmplt 3 1 2) && reads [0b10001111_00000110_00000101_01000000] (.cvt 6 5 .f32 .i32) &&
    reads [0b10010001_00001000_00000110_00000000] (.rsq 8 6) && reads [0b10011000_00010100_00101000_00001001, 0b00000000_10010001_00000000_00000000] (.cvtn 20 40 9 .e2m1 1) &&
    reads [0b10011100_00001011_00000010_00000011, 0b00001011_00000000_00000000_00000000] (.dpf4 11 2 3 11 false false) &&
    reads [0b10000011_00010100_00001000_00001100, 0b00010001_00000000_00000000_00000000] (.ffma 20 8 12 17 false false)) = true := by decide

theorem decode_crossLane :
    (reads [0b10100000_00000011_00000001_00000010, 0b00000111_00000001_00000000_00000000] (.lgetRot 3 1 2 7) &&
    reads [0b10100010_00000101_00000001_00000000, 0b00000111_00000000_00000000_00000011] (.lbcast 5 1 7 3) &&
    reads [0b10100111_00001000_00000001_00000000, 0b00000000_00000010_00000000_00000000] (.vred 8 1 .max) &&
    reads [0b10101000_00001001_00000001_00000000, 0b00000100_00000000_00000000_00000001] (.vscan 9 1 4 .add true) &&
    reads [0b10101001_00001010_00000001_00000000, 0b00000000_00000001_00000000_00000000] (.tred 10 1 .min) &&
    reads [0b10101100_00001011_00000011_00000000] (.tcount 11 3)) = true := by decide

theorem decode_matrix :
    (reads [0b10110000_00000010_00100000_00001100, 0b01010101_10000000_00000000_00000000] (.mma 2 32 12 .e4m3 .e4m3 true) &&
    reads [0b10110001_00000110_00110000_00010100, 0b10100000_10000011_00000000_00000000] (.mmas 6 48 20 .int8 3 true) &&
    reads [0b10110011_00010000_00000000_00000000] (.acrd 16 0) && reads [0b10110111_00000010_00001010_00000000] (.ldmeta 2 10) &&
    reads [0b10111100_00000000_00000001_00000000] (.ppmul 0 1) && reads [0b10111111_00001000_00000000_00000001] (.pprd 8 0 1) &&
    reads [0b11000000_00000001_00000011_00000000] (.ppscl 1 3)) = true := by decide

theorem decode_memory :
    (reads [0b11000110_00000001_00000000_00000000, 0] (.ld32 1 0 0 0) && reads [0b11001001_00000010_00000100_00000011, 0b00000000_01001000_00000000_00001000] (.lda 2 4 3 .die 8) &&
    reads [0b11001100_00010000_00000100_00000010, 0b00000000_00000000_10000000_00100000] (.ldmx 16 4 2 0x8020) &&
    reads [0b11010000_00000010_00000100_00000001, 0b00000000_00000000_11111111_11111111] (.st8 2 4 1 0xFFFF) &&
    reads [0b11010100_00000110_00001000_00000000, 0b00000000_01110000_00000000_00000000] (.stl 6 8 0 .pkg 0) &&
    reads [0b11011000_00000111_00001000_00001010, 0b00001011_01111000_00000000_00000000] (.aadd 7 8 10 11 .pkg .ar 0) &&
    reads [0b11100001_00000100_00001000_00000000, 0b00000101_01010000_00000000_00010000] (.afadd 4 8 0 5 .die .rel 16) &&
    reads [0b11100100_00000000_00000000_00000011] (.fenceRel .pkg) && reads [0b11100110_00000000_00000000_00101010] (.bar .die 5)) = true := by decide

theorem decode_work_and_system :
    (reads [0b11101010_00000100_00011100_00000000] (.stp 4 28) && reads [0b11101110_00000011_00010100_00000000] (.tsub 3 20) &&
    reads [0b11101111_00000011_00010100_00001001] (.nrec 3 20 9) && reads [0b11110001_00000011_00011000_00000000] (.glaunch 3 24) &&
    reads [0b11110000_00000000_00000000_00000000] .tcommit && reads [0b11111000_00000000_00000000_00000000] .eret &&
    reads [0b11111001_00000100_00000000_00000101] (.sysrd 4 5) && reads [0b11111010_00000100_00000000_00000101] (.syswr 4 5) &&
    reads [0b11111011_00000000_00000110_00000010] (.tlbinv 6 2) && reads [0b11111100_00000000_00000110_00000000] (.ctxsv 6)) = true := by decide

/-- Encodings that are no instruction (R152 to R158). -/
theorem decode_refusals :
    (refuses [0b00011010_00000000_00000000_00000000] .reservedOpcode && refuses [0b10011111_00000000_00000000_00000000] .reservedOpcode &&
    refuses [0b11111111_00000000_00000000_00000000] .header && refuses [0b00000000_00000000_00000000_00000001] .reservedField &&
    refuses [0b00100100_00001010_00000010_00000011] .truncated && refuses [0b00100100_00001010_00000010_00000011, 1] .reservedExtension &&
    refuses [0b11100110_00000000_00000000_00101110] .badScope && refuses [0b11000110_00000001_00000000_00000000, 0b00000000_00001000_00000000_00000000] .badOrder) = true := by
  decide

/-! Results that the spec works out (R183 to R187, R198 to R205, R215, R175, R223). -/

/-- The instruction leaves a value in register `r` of lane `l`. -/
def leaves (i : Instr) (t : Team) (l r : Nat) (x : Word) : Bool := makes i (at1 t demoCrew) fun t => t.vreg l r == x

/-- The instruction leaves a value in uniform register `r`. -/
def leavesS (i : Instr) (t : Team) (r : Nat) (x : Word) : Bool := makes i (at1 t demoCrew) fun t => t.sreg r == x

theorem test_add : (leaves (.add 4 4 9) (demoT [] [(4, 0x7FFFFFF0), (9, 0x20)] 0) 0 4 0x80000010 &&
    makes (.add 4 4 9) (at1 (demoT [] [(4, 0x7FFFFFF0), (9, 0x20)] 0x80000) demoCrew) (fun t => t.vreg 0 4 == 0x7FFFFFFF && t.stat.getLsbD 2)) = true := by
  decide +kernel

theorem test_mulhi : leaves (.mulhi 4 4 9) (demoT [] [(4, 0x40000000), (9, 0x10)] 0) 0 4 4 = true := by decide +kernel
theorem test_mad : leaves (.mad 10 2 3 4 false false) (demoT [] [(2, 7), (3, 6), (4, 0xFFFFFFFE)] 0) 0 10 40 = true := by decide +kernel
theorem test_sel : leaves (.sel 5 1 2 7 false true) (demoT [(7, 0)] [(1, 11), (2, 22)] 0) 0 5 22 = true := by decide +kernel
theorem test_bfi : leaves (.bfi 6 1 2 4 3) (demoT [] [(1, 0xFFFFFFFF), (2, 2)] 0) 0 6 0xFFFFFFAF = true := by decide +kernel
theorem test_shri : leaves (.shri 4 3) (demoT [] [(4, 0x100)] 0) 0 4 0x20 = true := by decide +kernel
theorem test_clz : leaves (.clz 4 9) (demoT [] [(9, 1)] 0) 0 4 31 = true := by decide +kernel
theorem test_movh : leaves (.movh 1 0x1234) (demoT [] [(1, 0x5678)] 0) 0 1 0x12345678 = true := by decide +kernel

theorem test_cvti : (leaves (.cvti 8 2 .n32 .i64) (demoT [] [(2, 0xFFFFFFFB), (3, 0xFFFFFFFF)] 0) 0 8 0xFFFFFFFB &&
    makes (.cvti 8 2 .n32 .i64) (at1 (demoT [] [(2, 0xFFFFFFFB), (3, 0xFFFFFFFF)] 0x80000) demoCrew) (fun t => t.vreg 0 8 == 0 && t.stat.getLsbD 2)) = true := by
  decide +kernel

theorem test_smovi : leavesS (.smovi 3 0xFFFE) (demoT [] [] 0) 3 0xFFFFFFFE = true := by decide +kernel
theorem test_getm : leavesS (.getm 3 1) (demoT [] [] 0) 3 5 = true := by decide +kernel
theorem test_dp4 : leaves (.dp4 10 2 3 4 false false) (demoT [] [(2, 0xFC03FE01), (3, 0x08070605), (4, 100)] 0) 0 10 82 = true := by decide +kernel
theorem test_sacc : leaves (.sacc 20 21 22 20 false false) (demoT [] [(21, 0x40400000), (22, 0x7D82), (20, 0x3F800000)] 0) 0 20 0x40E00000 = true := by decide +kernel

/-- 2^200 is infinite to nearest and the largest finite number toward zero; √2. -/
theorem test_exp2_sqrt : (leaves (.exp2 2 1) (demoT [] [(1, 0x43480000)] (viewMode 4)) 0 2 0x7F800000 &&
    leaves (.exp2 2 1) (demoT [] [(1, 0x43480000)] (viewMode 4 ||| 0x10000)) 0 2 0x7F7FFFFF &&
    leaves (.sqrt 2 1) (demoT [] [(1, 0x40000000)] (viewMode 4)) 0 2 0x3FB504F3) = true := by decide +kernel

theorem test_cvtn : makes (.cvtn 10 4 9 .e4m3 0)
    (at1 (demoT [(9, 0x100)] [(4, 0x43960000), (5, 0xBF880000), (6, 0x3C607654), (7, 0x7FC00000)] 0x80000)
      (scratchCrew [(0x102, 0x70), (0x103, 0x43)])) (fun t => t.vreg 0 10 == 0x7F07B877 && t.stat.getLsbD 2) = true := by decide +kernel

theorem test_cvtw : (let t := demoT [] [(10, 0x7F07B877)] 0
    leaves (.cvtw 12 10 .e4m3 0) t 0 12 0x43700000 && leaves (.cvtw 12 10 .e4m3 0) t 0 13 0xBF800000 && leaves (.cvtw 12 10 .e4m3 0) t 0 14 0x3C600000 &&
    leaves (.cvtw 12 10 .e4m3 0) t 0 15 0x7FC00000) = true := by decide +kernel

/-- The team of the spec's cross-lane example: 16 lanes in tiles of 8, lane 5 masked off. -/
def tileTeam : Team := { demoTeam with
  lanes := 16, present := 0xFFFF, mask := 0xFFDF, part := 3, sregs := Sparse.setAll 0 [] [(7, 0xFFFFFFFF)]
  vregs := Sparse.setAll 0 [] ((List.range 16).flatMap fun l => [(l * 256 + 1, BitVec.ofNat 32 (10 * l)), (l * 256 + 2, 1), (l * 256 + 9, BitVec.ofNat 32 (l / 2))]) }

theorem test_lgetRot : [(0, 10), (3, 40), (4, 0xFFFFFFFF), (5, 0), (6, 70), (7, 0), (11, 120), (15, 80)].all
    (fun p => leaves (.lgetRot 3 1 2 7) tileTeam p.1 3 p.2) = true := by decide +kernel

theorem test_lput : ([(0, 10), (1, 30), (2, 40), (3, 70), (4, 0), (11, 0), (12, 90), (15, 150)].all (fun p => leaves (.lput 6 1 9) tileTeam p.1 6 p.2) &&
    makes (.lput 6 1 9) (at1 tileTeam demoCrew) (fun t => t.stat.getLsbD 0)) = true := by decide +kernel

theorem test_vred : [(0, 230), (5, 0), (7, 230), (15, 920)].all (fun p => leaves (.vred 8 1 .add) tileTeam p.1 8 p.2) = true := by decide +kernel

theorem test_tcount : leavesS (.tcount 11 1) tileTeam 11 14 = true := by decide +kernel

/-- The spec's K-step: B at 0x400 of the scratchpad, row 1 of unit 1. -/
theorem test_mma : (match exec (.mma 0 8 2 .int8 .int8 true)
      (at1 { demoTeam with
              clause := some ⟨0x1000, 0xFF000FF7, 0, [0xB0000802, 0xAA800000], 0, []⟩, mask := 0x200, sregs := Sparse.setAll 0 [] [(2, 0x400)]
              vregs := Sparse.setAll 0 [] [(9 * 256 + 8, 0x302)] }
            { scratchCrew [(0x400, 5), (0x401, 255), (0x420, 4), (0x421, 4)] with
                tiles := Sparse.setAll 0 [] ((List.range 64).map fun i => (1 * 2048 + i, 1)) }) with
    | .next s => (s.crewAt 0).any fun c => [8, 9, 10, 15, 16].map (fun i => Sparse.get 0 c.tiles (2048 + i)) == [8, 21, 1, 1, 1]
    | _ => false) = true := by decide +kernel

/-- `exit` of all lanes of the only team retires the crew (R41, R172). -/
theorem test_exit : (match exec .exit demo with
    | .next s => (s.crewAt 0).any fun c => c.phase == .leaving
    | _ => false) = true := by decide +kernel

/-- `st32` and `ld32` of one lane: little-endian bytes at the address (R3, R238). -/
theorem test_st32 : (match exec (.st32 2 0 1 0) { memState 0x2000 with teams := Sparse.set none [] 0 (some { memTeam 0x2000 with vregs := [(2, 0x11223344)] }) } with
    | .next s => s.msys.readN 0x2000 4 == [0x44, 0x33, 0x22, 0x11]
    | _ => false) = true := by decide +kernel

/-- SHA-256 of "abc" (FIPS 180-4), and of a message of two blocks. -/
theorem test_sha256 : sha256 [0x61, 0x62, 0x63] = 0xba7816bf8f01cfea414140de5dae2223b00361a396177a9cb410ff61f20015ad ∧
    sha256 (List.replicate 119 0x61) = 0x31eba51c313a5c08226adf18d4a359cfdfd8d2e816b13f4af952f7ea6584dcfb := by decide +kernel

theorem test_sub_immediates : (leaves (.sub 3 1 2) (demoT [] [(1, 5), (2, 7)] 0) 0 3 0xFFFFFFFE && leaves (.addi 1 16) (demoT [] [(1, 15)] 0) 0 1 31 &&
    leaves (.shli 0 2) (demoT [] [(0, 5)] 0) 0 0 0x14) = true := by decide +kernel

end Sys2Proof.Tests
end

section
/-! SUPPORT. What every step keeps of memory (O59): the operations of the memory system (Memory, Translate, Ops) and the traps of a team. -/

namespace Sys2Proof.Machine

/-- What every step keeps of the memory system: memory is canonical, and the dirty host lines are whole (R5, R17, R354). -/
def Whole (mem : List (Nat × Byte)) (dirty : List DirtyLine) : Prop :=
  Memory.wf mem = true ∧ (∀ d ∈ dirty, d.data.length = 128 ∧ inHost (d.line * 128) = true) ∧ (dirty.map DirtyLine.line).Nodup

/-- The memory system keeps them. -/
def MemSys.Ok (m : MemSys) : Prop := Whole m.mem m.dirty

/-- An outcome leads to no state whose memory system is not `Ok`. -/
def Yields (o : Host.Outcome State Fault Refusal) : Prop := ∀ t, o = .next t → t.msys.Ok

variable {m : MemSys} {s : State}

theorem State.inv_iff : s.Inv ↔ s.msys.Ok := by
  unfold State.Inv MemSys.Ok MemSys.dirtyOk Whole
  exact Iff.rfl

theorem yields_next {t : State} (h : t.msys.Ok) : Yields (.next t) := by
  intro u e
  injection e with e
  rwa [← e]

theorem yields_fault {f : Fault} : Yields (.fault f) := by
  intro u e
  injection e

/-! Lists of operations, and the parts of a pair. -/

theorem MemSys.foldl_ok {α : Type} {f : MemSys → α → MemSys} {l : List α} (h : m.Ok) (hf : ∀ n a, n.Ok → (f n a).Ok) : (l.foldl f m).Ok :=
  l.foldlRecOn f h fun n hn a _ => hf n a hn

theorem State.foldl_ok {α : Type} {f : State → α → State} {l : List α} (h : s.msys.Ok) (hf : ∀ t a, t.msys.Ok → (f t a).msys.Ok) :
    (l.foldl f s).msys.Ok :=
  l.foldlRecOn (motive := fun t : State => t.msys.Ok) f h fun t ht a _ => hf t a ht

theorem LaneSeq.foldl_ok {α : Type} {f : LaneSeq → α → LaneSeq} {l : List α} {q : LaneSeq} (h : q.m.Ok) (hf : ∀ q a, q.m.Ok → (f q a).m.Ok)
    :
    (l.foldl f q).m.Ok :=
  l.foldlRecOn (motive := fun q : LaneSeq => q.m.Ok) f h fun q hq a _ => hf q a hq

theorem MemSys.ite_ok {p : Prop} [Decidable p] {n : MemSys} (hm : m.Ok) (hn : n.Ok) : (if p then m else n).Ok := by
  split <;> assumption

theorem State.ite_ok {p : Prop} [Decidable p] {t : State} (hs : s.msys.Ok) (ht : t.msys.Ok) : (if p then s else t).msys.Ok := by
  split <;> assumption

theorem MemSys.ite_snd_ok {α : Type} {p : Prop} [Decidable p] {a b : α × MemSys} (ha : a.2.Ok) (hb : b.2.Ok) : (if p then a else b).2.Ok :=
    by
  split <;> assumption

theorem State.ite_snd_ok {α : Type} {p : Prop} [Decidable p] {a b : α × State} (ha : a.2.msys.Ok) (hb : b.2.msys.Ok) :
    (if p then a else b).2.msys.Ok := by
  split <;> assumption

theorem yields_ite {p : Prop} [Decidable p] {a b : Host.Outcome State Fault Refusal} (ha : Yields a) (hb : Yields b) :
    Yields (if p then a else b) := by
  split <;> assumption

theorem State.of_snd {α : Type} {p : α × State} {a : α} {t : State} (h : p.2.msys.Ok) (e : p = (a, t)) : t.msys.Ok := by
  subst e
  exact h

theorem MemSys.of_snd {α : Type} {p : α × MemSys} {a : α} {n : MemSys} (h : p.2.Ok) (e : p = (a, n)) : n.Ok := by
  subst e
  exact h

/-! The dirty lines (R17, R354). -/

/-- Letting dirty lines go keeps the others whole. -/
theorem MemSys.dirtyOk_filter {n : MemSys} (f : DirtyLine → Bool) (h : m.dirtyOk) (hd : n.dirty = m.dirty.filter f) : n.dirtyOk := by
  obtain ⟨hl, hn⟩ := h
  refine ⟨fun d hmem => hl d ?_, ?_⟩
  · rw [hd] at hmem
    exact (List.mem_filter.1 hmem).1
  · rw [hd]
    exact hn.sublist (List.filter_sublist.map _)

theorem MemSys.dirtyOk_append {n : MemSys} {d : DirtyLine} (h : m.dirtyOk) (hd : n.dirty = m.dirty ++ [d]) (hl : d.data.length = 128)
    (hh : inHost (d.line * 128) = true) (hn : ∀ x ∈ m.dirty, x.line ≠ d.line) : n.dirtyOk := by
  obtain ⟨hw, hu⟩ := h
  refine ⟨fun x hx => ?_, ?_⟩
  · rw [hd, List.mem_append, List.mem_singleton] at hx
    obtain hx | rfl := hx
    · exact hw x hx
    · exact ⟨hl, hh⟩
  · rw [hd, List.map_append]
    refine hu.append (List.nodup_singleton _) ?_
    rw [List.disjoint_iff_ne]
    intro a ha b hb
    obtain ⟨x, hx, rfl⟩ := List.mem_map.1 ha
    rw [List.map_singleton, List.mem_singleton] at hb
    subst hb
    exact hn x hx

theorem length_overlay {data bs : List Byte} {i : Nat} (h : i + bs.length ≤ data.length) : (overlay data i bs).length = data.length := by
  simp only [overlay, List.length_append, List.length_take, List.length_drop]
  omega

@[simp] theorem MemSys.length_readN (m : MemSys) (n : Nat) : ∀ pa, (m.readN pa n).length = n := by
  induction n with
  | zero => exact fun _ => rfl
  | succ n ih =>
    intro pa
    simp [MemSys.readN, ih]

theorem inHost_iff {pa : Nat} : inHost pa = true ↔ 2 ^ 48 ≤ pa ∧ pa < 2 ^ 52 := by
  simp [inHost]

/-- The line of a byte of host memory is a line of host memory. -/
theorem inHost_line {pa : Nat} (h : inHost pa = true) : inHost (lineOf pa * 128) = true := by
  rw [inHost_iff] at h ⊢
  unfold lineOf
  omega

theorem MemSys.dirtyFind_none {line : Nat} (h : m.dirtyFind line = none) : ∀ d ∈ m.dirty, d.line ≠ line := by
  simpa [MemSys.dirtyFind, List.find?_eq_none] using h

/-- A dirty line given up is among the dirty lines no more, and no other comes. -/
theorem MemSys.takeDirty_dirty (m : MemSys) (line k : Nat) :
    (∀ d ∈ (m.takeDirty line k).dirty, d.line ≠ line) ∧ ∃ f, (m.takeDirty line k).dirty = m.dirty.filter f := by
  unfold MemSys.takeDirty
  split
  · refine ⟨fun d hd => ?_, _, rfl⟩
    simpa using (List.mem_filter.1 hd).2
  · next hf =>
    have key : ∃ f, (m.makeRoom k).dirty = m.dirty.filter f := by
      unfold MemSys.makeRoom
      split
      · split
        · exact ⟨_, rfl⟩
        · exact ⟨fun _ => true, by simp⟩
      · exact ⟨fun _ => true, by simp⟩
    refine ⟨fun d hd => ?_, key⟩
    obtain ⟨f, e⟩ := key
    rw [e] at hd
    exact MemSys.dirtyFind_none hf d (List.mem_filter.1 hd).1

theorem MemSys.dirtyOk_takeDirty (h : m.dirtyOk) (line k : Nat) : (m.takeDirty line k).dirtyOk := by
  obtain ⟨-, f, e⟩ := m.takeDirty_dirty line k
  exact MemSys.dirtyOk_filter f h e

theorem MemSys.dirtyOk_writeHostLine (h : m.dirtyOk) (world : Nat) {pa : Nat} {bs : List Byte} (hp : inHost pa = true)
    (hl : pa % 128 + bs.length ≤ 128) : (m.writeHostLine world pa bs).dirtyOk := by
  obtain ⟨hne, -⟩ := m.takeDirty_dirty (lineOf pa) (homeOf pa)
  refine MemSys.dirtyOk_append (MemSys.dirtyOk_takeDirty h _ _) rfl ?_ (inHost_line hp) hne
  rw [length_overlay (by simpa using hl), MemSys.length_readN]

/-! Writes at the home slices: one keeps the invariant that stays within one line. -/

/-- An address and what it is normalised to lie at the same place of their lines. -/
theorem MemSys.norm_mod (m : MemSys) (pa : Nat) : m.norm pa % 128 = pa % 128 := by
  unfold MemSys.norm
  split
  · next hw =>
    simp only [inPodWindow, Bool.and_eq_true, decide_eq_true_eq] at hw
    simp only [hbmBytes]
    omega
  · rfl

@[simp] theorem MemSys.advanceReplay_dirty (m : MemSys) (pa : Nat) : (m.advanceReplay pa).dirty = m.dirty := by
  unfold MemSys.advanceReplay
  split <;> rfl

theorem MemSys.dirtyOk_writeLine (h : m.dirtyOk) (world : Nat) {pa : Nat} {bs : List Byte} (hl : pa % 128 + bs.length ≤ 128) :
    (m.writeLine world pa bs).dirtyOk := by
  unfold MemSys.writeLine
  dsimp only
  split
  · next hp => exact MemSys.dirtyOk_writeHostLine h world hp (by rwa [m.norm_mod])
  · exact MemSys.dirtyOk_filter (fun _ => true) h (by simp [MemSys.pokeN])

theorem MemSys.pokeB_ok (h : m.Ok) {pa : Nat} {b : Byte} : (m.pokeB pa b).Ok := ⟨m.canon_pokeB h.1 pa b, h.2⟩

theorem MemSys.writeBack_ok (h : m.Ok) {d : DirtyLine} : (m.writeBack d).Ok :=
  ⟨MemSys.canon_writeBack h.1 d, MemSys.dirtyOk_filter _ h.2 rfl⟩

theorem MemSys.writeLine_ok (h : m.Ok) {world pa : Nat} {bs : List Byte} (hl : pa % 128 + bs.length ≤ 128) : (m.writeLine world pa bs).Ok :=
  ⟨MemSys.canon_writeLine h.1 world pa bs, MemSys.dirtyOk_writeLine h.2 world hl⟩

/-- Each part that bytes are cut into lies in one line. -/
theorem lineParts_fit (fuel : Nat) : ∀ (pa : Nat) (bs : List Byte), ∀ p ∈ lineParts fuel pa bs, p.1 % 128 + p.2.length ≤ 128 := by
  induction fuel with
  | zero => exact fun _ _ => nofun
  | succ fuel ih =>
    intro pa bs p hp
    cases bs with
    | nil => cases hp
    | cons b bs =>
      simp only [lineParts] at hp
      obtain rfl | hp := List.mem_cons.1 hp
      · simp only [List.length_take]
        omega
      · exact ih _ _ p hp

theorem MemSys.writeN_ok (h : m.Ok) {world pa : Nat} {bs : List Byte} : (m.writeN world pa bs).Ok :=
  List.foldlRecOn (motive := MemSys.Ok) _ _ h fun _ hn p hp => MemSys.writeLine_ok hn (lineParts_fit _ _ _ p hp)

theorem MemSys.writeFree_ok (h : m.Ok) {world pa : Nat} {bs : List Byte} : (m.writeFree world pa bs).Ok := by
  refine List.foldlRecOn (motive := MemSys.Ok) _ _ h fun _ hn p hp => ?_
  split
  · exact hn
  · exact MemSys.writeLine_ok hn (lineParts_fit _ _ _ p hp)

theorem MemSys.number_ok {msd : Bool} {pa : Nat} (h : m.Ok) : (m.number msd pa).Ok :=
  MemSys.ite_ok h h

theorem MemSys.writeNat_ok {world pa n x : Nat} (h : m.Ok) : (m.writeNat world pa n x).Ok :=
  MemSys.writeN_ok h

theorem MemSys.acquire_ok {die core : Nat} {s : Scope} (h : m.Ok) : (m.acquire die core s).Ok := by
  unfold MemSys.acquire
  split
  · exact h
  · exact MemSys.ite_ok h h
  · exact h

theorem MemSys.loadRelaxed_ok {free die core world : Nat} {msd : Bool} {pa n : Nat} (h : m.Ok) :
    (m.loadRelaxed free die core world msd pa n).2.Ok := by
  unfold MemSys.loadRelaxed
  refine MemSys.ite_snd_ok (MemSys.number_ok h) ?_
  dsimp only
  split
  · exact MemSys.ite_snd_ok h h
  · exact h

theorem MemSys.loadHome_ok {die core world : Nat} {msd : Bool} {pa n : Nat} (h : m.Ok) : (m.loadHome die core world msd pa n).2.Ok := by
  unfold MemSys.loadHome
  dsimp only
  split <;> exact MemSys.number_ok h

theorem MemSys.fix_ok {pa len : Nat} (h : m.Ok) : (m.fix pa len).Ok :=
  MemSys.ite_ok h h

theorem MemSys.softWrite_ok {world pa : Nat} {bs : List Byte} (h : m.Ok) : (m.softWrite world pa bs).Ok :=
  MemSys.ite_ok (MemSys.foldl_ok h (fun _ _ h1 => MemSys.ite_ok h1 (MemSys.writeN_ok h1))) (MemSys.writeN_ok h)

theorem MemSys.store_ok {die core world : Nat} {msd : Bool} {pa : Nat} {bs : List Byte} (h : m.Ok) :
    (m.store die core world msd pa bs).Ok :=
  MemSys.ite_ok h (MemSys.softWrite_ok (MemSys.ite_ok (MemSys.number_ok h) (MemSys.ite_ok h h)))

theorem MemSys.atomic_ok {die core world : Nat} {msd : Bool} {pa n : Nat} {f : Nat → Nat} (h : m.Ok) :
    (m.atomic die core world msd pa n f).2.Ok :=
  MemSys.softWrite_ok (MemSys.ite_ok (MemSys.number_ok h) h)

theorem MemSys.tlbKeep_ok {die : Nat} {core : Option Nat} {space va : Nat} {leaf : Dword} {level : Nat} (h : m.Ok) :
    (m.tlbKeep die core space va leaf level).Ok := by
  unfold MemSys.tlbKeep
  split
  · exact MemSys.ite_ok h h
  · exact h

theorem MemSys.tlbFill_ok {a : Access} {va : Nat} {leaf : Dword} {level : Nat} (h : m.Ok) : (m.tlbFill a va leaf level).Ok := by
  unfold MemSys.tlbFill
  dsimp only
  split
  · exact MemSys.tlbKeep_ok (MemSys.tlbKeep_ok h)
  · exact MemSys.tlbKeep_ok h

theorem MemSys.atsAsk_ok {die space va : Nat} {write : Bool} (h : m.Ok) : (m.atsAsk die space va write).Ok := by
  unfold MemSys.atsAsk
  split <;> exact h

theorem MemSys.faultWrite_ok {p : FaultPost} {o : FaultOwner} (h : m.Ok) : (m.faultWrite p o).Ok := by
  unfold MemSys.faultWrite
  dsimp only [MemSys.Ok]
  exact MemSys.writeFree_ok h

theorem MemSys.faultPost_ok {p : FaultPost} {o : FaultOwner} (h : m.Ok) : (m.faultPost p o).Ok :=
  MemSys.ite_ok (MemSys.faultWrite_ok h) h

theorem MemSys.evictCounter_ok {die : Nat} (h : m.Ok) : (m.evictCounter die).Ok := by
  unfold MemSys.evictCounter
  split <;> exact h

theorem MemSys.count_ok {die space world va : Nat} {leaf : Dword} (h : m.Ok) : (m.count die space world va leaf).Ok :=
  MemSys.ite_ok h (MemSys.ite_ok h (MemSys.evictCounter_ok h))

theorem State.issue_ok {f : Issuer → State} (hf : ∀ c, (f c).msys.Ok) : Yields (s.issue f) := by
  unfold State.issue
  split
  · exact yields_next (hf _)
  · exact yields_fault

theorem State.doubleTrap_ok {c : Issuer} {pc : VAddr} (h : s.msys.Ok) : (s.doubleTrap c pc).msys.Ok :=
  MemSys.faultPost_ok h

theorem State.enterTrap_ok {c : Issuer} {p : PendTrap} (h : s.msys.Ok) : (s.enterTrap c p).msys.Ok := by
  unfold State.enterTrap
  split
  · exact State.doubleTrap_ok h
  · dsimp only
    split
    · exact MemSys.atsAsk_ok h
    · exact State.doubleTrap_ok (State.ite_ok h h)
    · split
      · simp only [State.setMsys_msys]
        exact MemSys.count_ok (MemSys.tlbFill_ok (MemSys.foldl_ok h (fun _ _ h1 => MemSys.store_ok h1)))
      · exact State.doubleTrap_ok h

theorem State.tryEnter_ok {c : Issuer} {p : PendTrap} (h : s.msys.Ok) : (s.tryEnter c p).msys.Ok := by
  unfold State.tryEnter
  split
  · exact State.ite_ok (State.ite_ok (State.enterTrap_ok (MemSys.faultWrite_ok h)) (MemSys.faultWrite_ok h)) h
  · exact State.ite_ok (State.enterTrap_ok h) h

theorem State.raise_ok {c : Issuer} {trap : Trap} {arg tva : Nat} {done : LaneSet} (h : s.msys.Ok) :
    (s.raise c trap arg tva done).msys.Ok :=
  State.tryEnter_ok h

theorem State.badClause_ok {c : Issuer} {h0 h1 : Word} (h : s.msys.Ok) : (s.badClause c h0 h1).msys.Ok :=
  State.tryEnter_ok h

theorem State.illegal_ok {c : Issuer} (h : s.msys.Ok) : (s.illegal c).msys.Ok :=
  State.raise_ok h

theorem State.xlateTrap_ok {c : Issuer} {code cause : Nat} {write fetch : Bool} {lane va : Nat} {done : LaneSet} {head : Word × Word}
    (h : s.msys.Ok) : (s.xlateTrap c code cause write fetch lane va done head).msys.Ok :=
  State.tryEnter_ok h

theorem State.teamOp_ok {n : Nat} {src : Option Reg} {f : Issuer → TeamRes} (h : s.msys.Ok) : Yields (s.teamOp n src f) := by
  unfold State.teamOp
  refine State.issue_ok (fun _ => ?_)
  split
  · exact h
  · exact h
  · exact State.illegal_ok h
  · exact State.raise_ok h
  · exact h

theorem State.longIssue_ok {c : Issuer} {k : Option Nat → State} (h : s.msys.Ok) (hk : ∀ a, (k a).msys.Ok) : (s.longIssue c k).msys.Ok := by
  unfold State.longIssue
  split
  · exact State.ite_ok h (hk _)
  · exact hk _

theorem Target.read_ok {p : Target} {free : Nat} {r : TeamRef} {world : Nat} {home : Bool} {crew : Crew} (h : m.Ok) :
    (p.read free r world home m crew).2.Ok :=
  MemSys.ite_snd_ok h (MemSys.ite_snd_ok (MemSys.loadHome_ok h) (MemSys.loadRelaxed_ok h))

theorem MemSys.apmul_ok {world pa : Nat} {p : PolyAcc} (h : m.Ok) : (m.apmul world pa p).Ok :=
  MemSys.softWrite_ok (MemSys.number_ok h)

end Sys2Proof.Machine
end

section
/-! SUPPORT. What every step keeps of memory (O59): pieces of accesses, lanes, and late accesses (Access). -/

namespace Sys2Proof.Machine

variable {m : MemSys} {s : State}

theorem LateKind.act_ok {k : LateKind} {free : Nat} {r : TeamRef} {world : Nat} {p : Target} {bs : List Byte} {crew : Crew} (h : m.Ok) :
    (k.act free r world p bs m crew).2.1.Ok := by
  cases k with
  | load keys ext home => exact Target.read_ok h
  | part lane off => exact Target.read_ok h
  | store b =>
    unfold LateKind.act
    dsimp only
    split
    · exact h
    · exact MemSys.store_ok h
  | atomic keys op mode x cmp =>
    unfold LateKind.act
    exact MemSys.atomic_ok h
  | merge a =>
    unfold LateKind.act
    dsimp only
    exact MemSys.apmul_ok h
  | take l d x => exact h

theorem LateKind.perform_ok {k : LateKind} {free : Nat} {r : TeamRef} {world : Nat} {ps : List Target} {bs : List Byte} {crew : Crew}
    (h : m.Ok) : (k.perform free r world ps bs m crew).2.1.Ok := by
  induction ps generalizing bs m crew with
  | nil => exact h
  | cons p ps ih => exact ih (LateKind.act_ok h)

theorem State.performAt_ok {free : Nat} {r : TeamRef} {k : Nat} (h : s.msys.Ok) : (s.performAt free r k).msys.Ok := by
  unfold State.performAt
  split
  · exact h
  · split
    · exact State.ite_ok h (LateKind.perform_ok h)
    · exact h

theorem State.performFirst_ok {r : TeamRef} {n : Nat} (h : s.msys.Ok) : (s.performFirst r n).msys.Ok := by
  induction n generalizing s with
  | zero => exact h
  | succ n ih => exact ih (State.performAt_ok h)

theorem Issuer.usePiece_ok {c : Issuer} {write needMsd : Bool} {va : Nat} {leaf : Dword} {lvl : Nat} (h : m.Ok) :
    (c.usePiece m write needMsd va leaf lvl).Ok :=
  MemSys.count_ok (MemSys.tlbFill_ok h)

theorem Issuer.piece_ok {c : Issuer} {free : Nat} {write needMsd : Bool} {va len : Nat} (h : m.Ok) : ∀ {y}, c.piece m free write needMsd va
    len = .ok y → y.1.Ok := by
  intro y e
  unfold Issuer.piece at e
  split at e
  · injection e
  · split at e
    · split at e
      · injection e
      · injection e with e
        subst e
        exact Issuer.usePiece_ok h
    · injection e

theorem Issuer.pieces_ok {c : Issuer} {write needMsd : Bool} {ps : List (Nat × Nat)} {free : Nat} (h : m.Ok) :
    ∀ {x}, c.pieces m free write needMsd ps = .ok x → x.1.Ok := by
  induction ps generalizing m free with
  | nil =>
    intro x e
    injection e with e
    subst e
    exact h
  | cons p ps ih =>
    intro x e
    unfold Issuer.pieces at e
    split at e
    · injection e
    · next e1 =>
      split at e
      · injection e
      · next e2 =>
        injection e with e
        subst e
        have hn := ih (Issuer.piece_ok h e1) e2
        exact hn

theorem Issuer.readPieces_ok {c : Issuer} {ps : List (Nat × Nat × Dword)} {free : Nat} (h : m.Ok) : (c.readPieces m free ps).2.Ok := by
  induction ps generalizing m free with
  | nil => exact h
  | cons p ps ih => exact ih (MemSys.loadRelaxed_ok h)

theorem State.accessFails_ok {c : Issuer} {code : Nat} {write : Bool} {l : Nat} {done : LaneSet} {head : Word × Word} {f : LaneFail}
    (h : s.msys.Ok) : (s.accessFails c code write l done head f).msys.Ok := by
  unfold State.accessFails
  split
  · exact State.tryEnter_ok h
  · exact State.xlateTrap_ok (State.ite_ok h h)
  · exact MemSys.atsAsk_ok h

theorem State.whole_ok {c : Issuer} {code : Nat} {write needMsd waits : Bool} {va len : Nat}
    {k : MemSys → List (Nat × Nat × Dword) → State} (h : s.msys.Ok) (hk : ∀ n, n.Ok → ∀ a, (k n a).msys.Ok) :
    (s.whole c code write needMsd waits va len k).msys.Ok := by
  unfold State.whole
  refine State.ite_ok (State.raise_ok h) (State.ite_ok h ?_)
  split
  · exact State.accessFails_ok h
  · rename_i e
    exact hk _ (Issuer.pieces_ok h e) _

theorem State.readWhole_ok {c : Issuer} {code va len : Nat} {k : State → List Byte → State} (h : s.msys.Ok)
    (hk : ∀ t, t.msys.Ok → ∀ a, (k t a).msys.Ok) : (s.readWhole c code va len k).msys.Ok :=
  State.whole_ok h (fun _ h1 _ => hk _ (Issuer.readPieces_ok h1) _)

/-! The lane sequence: accepted accesses keep the invariant of the memory system that they have made. -/

theorem LaneSeq.put_ok {q : LaneSeq} {free : Nat} {r : TeamRef} {world : Nat} {now : Bool} {a : LateAcc} (h : q.m.Ok) :
    (q.put free r world now a).m.Ok := by
  unfold LaneSeq.put
  dsimp only
  split
  · exact h
  · split
    · exact h
    · exact LateKind.perform_ok h

theorem State.afterLanes_ok {c : Issuer} {fin : MemSys → MemSys} {q : LaneSeq} (hq : q.m.Ok) (hfin : ∀ n : MemSys, n.Ok → (fin n).Ok) :
    (s.afterLanes c fin q).msys.Ok := by
  refine hfin _ ?_
  split <;> exact hq

theorem State.endAccess_ok {c : Issuer} {n : Nat} {flag : Option Nat} {fin : MemSys → MemSys} {q : LaneSeq} (h : s.msys.Ok)
    (hfin : ∀ n, n.Ok → (fin n).Ok) (hq : q.m.Ok) : (s.endAccess c n flag fin q).msys.Ok := by
  unfold State.endAccess
  split
  · exact h
  · exact State.afterLanes_ok hq hfin

/-- The lanes accepted before one that fails, or all of them, have kept the invariant. -/
theorem runLanes_ok {step : LaneSeq → Nat → Except LaneFail LaneSeq} {ls : List Nat} {q : LaneSeq} (h : q.m.Ok)
    (hstep : ∀ q l, q.m.Ok → ∀ x, step q l = .ok x → x.m.Ok) : (runLanes step ls q).1.m.Ok := by
  induction ls generalizing q with
  | nil => exact h
  | cons l ls ih =>
    unfold runLanes
    split
    · next e =>
      have hn := hstep q l h _ e
      exact ih hn
    · exact h

theorem State.laneInstr_ok {c : Issuer} {n : Nat} {write : Bool} {fin : MemSys → MemSys} {step : LaneSeq → Nat → Except LaneFail LaneSeq}
    (h : s.msys.Ok) (hfin : ∀ n : MemSys, n.Ok → (fin n).Ok) (hstep : ∀ q l, q.m.Ok → ∀ x, step q l = .ok x → x.m.Ok) :
    (s.laneInstr c n write fin step).msys.Ok := by
  refine State.longIssue_ok h fun _ => ?_
  have hq : ∀ ls done, (runLanes step ls (c.seq s s.msys done)).1.m.Ok := fun _ _ => runLanes_ok h hstep
  dsimp only
  split
  · exact h
  · exact State.endAccess_ok h hfin (hq _ _)
  · exact State.accessFails_ok (State.afterLanes_ok (hq _ _) hfin)

theorem Issuer.put_ok {c : Issuer} {l : Nat} {now : Bool} {places : List Target} {rel : Bool} {k : LateKind} {q : LaneSeq} (hq : q.m.Ok) :
    (c.put s l now places rel k q).m.Ok :=
  LaneSeq.put_ok hq

theorem Issuer.putStore_ok {c : Issuer} {l : Nat} {places : List Target} {rel : Bool} {bs : List Byte} {q : LaneSeq} (hq : q.m.Ok) :
    (c.putStore s l places rel bs q).m.Ok :=
  Issuer.put_ok hq

theorem Issuer.putPart_ok {c : Issuer} {l i : Nat} {now : Bool} {p : Target} {q : LaneSeq} (hq : q.m.Ok) : (c.putPart s l i now p q).m.Ok :=
  LaneSeq.put_ok hq

theorem Issuer.putParts_ok {c : Issuer} {l i : Nat} {ps : List Target} {q : LaneSeq} (hq : q.m.Ok) : (c.putParts s l i ps q).m.Ok := by
  induction ps generalizing i q with
  | nil => exact hq
  | cons p ps ih => exact ih (Issuer.putPart_ok hq)

theorem Issuer.putTaker_ok {c : Issuer} {l : Nat} {x : Taker} {q : LaneSeq} (hq : q.m.Ok) : (c.putTaker s l x q).m.Ok :=
  LaneSeq.put_ok hq

theorem Issuer.putUnits_ok {c : Issuer} {l : Nat} {ps : List Target} {bs : List Byte} {q : LaneSeq} (hq : q.m.Ok) :
    (c.putUnits s l ps bs q).m.Ok := by
  induction ps generalizing bs q with
  | nil => exact hq
  | cons p ps ih => exact ih (Issuer.putStore_ok hq)

theorem execLongLatencyCompletion_ok {r : TeamRef} {id : Nat} (h : s.msys.Ok) : Yields (execLongLatencyCompletion r id s) := by
  unfold execLongLatencyCompletion
  split
  · dsimp only
    split
    · exact yields_next (State.ite_ok (State.performFirst_ok h) (State.performFirst_ok h))
    · exact yields_next (State.performFirst_ok h)
  · exact yields_next h

theorem State.mapTeams_ok {cid : Nat} {f : Team → Team} (h : s.msys.Ok) : (s.mapTeams cid f).msys.Ok := by
  unfold State.mapTeams
  split
  · exact h
  · refine State.ite_ok (State.foldl_ok h (fun _ _ h1 => ?_)) h
    split <;> exact h1

theorem State.mapTeam_ok {cid i : Nat} {f : Team → Team} (h : s.msys.Ok) : (s.mapTeam cid i f).msys.Ok :=
  State.mapTeams_ok h

end Sys2Proof.Machine
end

section
/-! SUPPORT. What every step keeps of memory (O59): crews, agents, barriers and control (Crews, Agents, Barriers, Control, Cross). -/

namespace Sys2Proof.Machine

variable {m : MemSys} {s : State}

theorem MemSys.setQuad_ok {die core : Nat} {fuse : Bool} (h : m.Ok) : (m.setQuad die core fuse).Ok :=
  MemSys.ite_ok h h

theorem State.clearSlots_ok {c : Crew} (h : s.msys.Ok) : (s.clearSlots c).msys.Ok :=
  State.foldl_ok h (fun _ _ h1 => h1)

theorem State.takeOff_ok {cid : Nat} {c : Crew} {phase : Phase} (h : s.msys.Ok) : (s.takeOff cid c phase).msys.Ok :=
  State.clearSlots_ok h

theorem State.putOn_ok {cid : Nat} {c : Crew} {die core : Nat} {phase : Phase} (h : s.msys.Ok) : (s.putOn cid c die core phase).msys.Ok :=
  State.foldl_ok (MemSys.setQuad_ok h) (fun _ _ h1 => h1)

theorem State.settleOps_ok {os : List EngineOp} (h : s.msys.Ok) : (s.settleOps os).msys.Ok :=
  State.foldl_ok h (fun _ _ h1 => State.mapTeam_ok h1)

theorem State.settleBatch_ok {cid team n : Nat} (h : s.msys.Ok) : (s.settleBatch cid team n).msys.Ok :=
  State.ite_ok (State.settleOps_ok h) h

theorem State.foldOps_ok {cid : Nat} (h : s.msys.Ok) : (s.foldOps cid).msys.Ok :=
  State.settleOps_ok h

theorem State.closeBatch_ok {cid team : Nat} {t : Team} (h : s.msys.Ok) : (s.closeBatch cid team t).2.msys.Ok :=
  State.settleBatch_ok (State.mapTeam_ok h)

/-! Device agents. -/

theorem MemSys.agentPieces_ok {a : Access} {ps : List (Nat × Nat)} {free : Nat} (h : m.Ok) :
    ∀ {x}, m.agentPieces free a ps = .ok x → x.1.Ok := by
  induction ps generalizing m free with
  | nil =>
    intro x e
    injection e with e
    subst e
    exact h
  | cons p ps ih =>
    intro x e
    unfold MemSys.agentPieces at e
    split at e
    · split at e
      · next e1 =>
        injection e with e
        subst e
        have hn := ih (MemSys.count_ok (MemSys.tlbFill_ok h)) e1
        exact hn
      · injection e
    · injection e
    · injection e
    · injection e

theorem MemSys.numberAll_ok {ps : List Piece} (h : m.Ok) : (m.numberAll ps).Ok :=
  MemSys.foldl_ok h (fun _ _ h1 => MemSys.number_ok h1)

theorem MemSys.agentRead_ok {free die world va len : Nat} (h : m.Ok) : ∀ {y}, m.agentRead free die world va len = .ok y → y.2.Ok := by
  intro y e
  unfold MemSys.agentRead at e
  split at e
  · rename_i e1
    injection e with e
    subst e
    exact MemSys.numberAll_ok (MemSys.agentPieces_ok h e1)
  · injection e

theorem MemSys.agentPut_ok {num drop : Bool} {world : Nat} {ps : List Piece} {bs : List Byte} (h : m.Ok) :
    (m.agentPut num drop world ps bs).Ok := by
  induction ps generalizing bs m with
  | nil => exact h
  | cons p ps ih =>
    refine ih ?_
    split
    · exact h
    · exact MemSys.writeN_ok (MemSys.number_ok h)

theorem MemSys.agentFail_ok {code die world : Nat} {write : Bool} {f : AgentFail} {o : FaultOwner} (h : m.Ok) :
    (m.agentFail code die world write f o).Ok :=
  MemSys.ite_ok (MemSys.atsAsk_ok h) (MemSys.faultPost_ok (MemSys.ite_ok h h))

theorem MemSys.noteDone_ok {chan : Nat} {ps : List Piece} (h : m.Ok) : (m.noteDone chan ps).Ok :=
  MemSys.ite_ok h h

theorem State.agentTry_ok {w : AgentWrite} (h : s.msys.Ok) : (s.agentTry w).2.2.msys.Ok := by
  unfold State.agentTry
  split
  · exact h
  · split
    · rename_i e
      exact MemSys.noteDone_ok (MemSys.agentPut_ok (MemSys.agentPieces_ok h e))
    · exact MemSys.agentFail_ok h

theorem flushGo_ok {ws keep : List AgentWrite} {blocked : List Nat} (h : s.msys.Ok) : (flushGo ws blocked keep s).msys.Ok := by
  induction ws generalizing blocked keep s with
  | nil => exact h
  | cons w ws ih =>
    have hw : (s.agentTry w).2.2.msys.Ok := State.agentTry_ok h
    unfold flushGo
    split
    · exact ih h
    · split
      · next e =>
        rw [e] at hw
        exact ih hw
      · next e =>
        rw [e] at hw
        exact ih hw

theorem State.agentFlush_ok (h : s.msys.Ok) : s.agentFlush.msys.Ok :=
  flushGo_ok h

theorem State.agentWrite_ok {chan die world va : Nat} {data : List Byte} {msd : Bool} (h : s.msys.Ok) :
    (s.agentWrite chan die world va data msd).msys.Ok :=
  State.agentFlush_ok h

theorem MemSys.fixQueue_ok {q : Nat} {x : Queue} (h : m.Ok) : (m.fixQueue q x).Ok :=
  MemSys.ite_ok h (MemSys.fix_ok h)

theorem State.setQueue_ok {q : Nat} {x : Queue} (h : s.msys.Ok) : (s.setQueue q x).msys.Ok :=
  MemSys.fixQueue_ok (MemSys.writeN_ok h)

theorem State.settleQueue_ok {q : Nat} (h : s.msys.Ok) : (s.settleQueue q).msys.Ok := by
  unfold State.settleQueue
  split
  · exact State.ite_ok (State.setQueue_ok h) h
  · exact h

theorem State.queueDone_ok {q : Nat} {index : Word} {status : Nat} {gid : Word} {abort : Nat} (h : s.msys.Ok) :
    (s.queueDone q index status gid abort).msys.Ok := by
  unfold State.queueDone
  split
  · exact State.settleQueue_ok (State.agentWrite_ok h)
  · exact h

theorem State.areaWrite_ok {g : Grid} {pages : List Nat} (h : s.msys.Ok) : (s.areaWrite g pages).msys.Ok :=
  State.agentWrite_ok (State.foldl_ok h (fun _ _ h1 => State.agentWrite_ok h1))

theorem State.logArrival_ok {g : Grid} {b c r m inst : Nat} (h : s.msys.Ok) : (s.logArrival g b c r m inst).msys.Ok :=
  State.agentWrite_ok (State.agentWrite_ok h)

theorem State.barSettle_ok {b : BarState} (h : s.msys.Ok) : (s.barSettle b).msys.Ok :=
  State.ite_ok (State.foldl_ok h (fun _ _ h1 => h1)) h

theorem State.barSweep_ok (h : s.msys.Ok) : s.barSweep.msys.Ok :=
  State.foldl_ok h (fun _ _ h1 => State.barSettle_ok h1)

theorem execYield_ok (h : s.msys.Ok) : Yields (execYield s) :=
  State.issue_ok (fun _ => h)

theorem execXstatRead_ok {d : Reg} (h : s.msys.Ok) : Yields (execXstatRead d s) :=
  State.issue_ok (fun _ => h)

theorem execGive_ok {other : BitVec 8} {first : Reg} {n : BitVec 8} (h : s.msys.Ok) : Yields (execGive other first n s) := by
  unfold execGive
  refine State.issue_ok (fun _ => State.ite_ok (State.illegal_ok h) (State.ite_ok h ?_))
  split <;> exact h

theorem execClaim_ok {other : BitVec 8} {first : Reg} {n : BitVec 8} (h : s.msys.Ok) : Yields (execClaim other first n s) := by
  unfold execClaim
  refine State.issue_ok (fun _ => State.ite_ok (State.illegal_ok h) ?_)
  dsimp only
  split
  · exact State.ite_ok (State.illegal_ok h) h
  · exact State.ite_ok h h

theorem execTrap_ok {k : BitVec 16} (h : s.msys.Ok) : Yields (execTrap k s) :=
  State.issue_ok (fun _ => State.raise_ok h)

theorem execEscape_ok {bop : BitVec 8} {d a b : Reg} {ua ub : Bool} (h : s.msys.Ok) : Yields (execEscape bop d a b ua ub s) := by
  unfold execEscape
  refine yields_ite (State.issue_ok (fun _ => State.illegal_ok h)) (yields_ite (State.teamOp_ok h) ?_)
  split
  · exact State.teamOp_ok h
  · exact State.teamOp_ok h
  · exact State.teamOp_ok h
  · exact State.teamOp_ok h
  · exact State.teamOp_ok h
  · exact State.issue_ok (fun _ => State.illegal_ok h)

end Sys2Proof.Machine
end

section
/-! SUPPORT. What every step keeps of memory (O59): loads, stores, atomics, fences, accumulators and grids (Loads, Sync, Poly, Grids, Tasks). -/

namespace Sys2Proof.Machine

variable {m : MemSys} {s : State}

theorem Issuer.loadParts_ok {c : Issuer} {l d len regs pa : Nat} {leaf : Dword} {acq home : Bool} {q : LaneSeq} (hq : q.m.Ok) :
    (c.loadParts s l d len regs pa leaf acq home q).m.Ok := by
  unfold Issuer.loadParts
  split
  · exact Issuer.put_ok (Issuer.put_ok hq)
  · exact Issuer.put_ok hq

theorem Issuer.loadLane_ok {c : Issuer} {d a b : Reg} {off : BitVec 16} {len regs : Nat} {acq home : Bool} {q : LaneSeq} {l : Nat}
    (hq : q.m.Ok) : ∀ {y}, c.loadLane s d a b off len regs acq home q l = .ok y → y.m.Ok := by
  intro y e
  unfold Issuer.loadLane at e
  dsimp only at e
  split at e
  · injection e
  · split at e
    · injection e
    · rename_i e1
      injection e with e
      subst e
      exact Issuer.loadParts_ok (Issuer.piece_ok hq e1)

theorem loadOp_ok {d a b : Reg} {off : BitVec 16} {len regs : Nat} {even acq home : Bool} {fin : Issuer → MemSys → MemSys}
    (hfin : ∀ c, ∀ n, n.Ok → (fin c n).Ok) (hs : s.msys.Ok) : Yields (loadOp d a b off len regs even acq home fin s) :=
  State.issue_ok (fun _ => State.ite_ok (State.illegal_ok hs) (State.laneInstr_ok hs (fun _ h => hfin _ _ h)
    (fun _ _ h _ h1 => Issuer.loadLane_ok h h1)))

theorem execLd8_ok {d a b : Reg} {off : BitVec 16} (h : s.msys.Ok) : Yields (execLd8 d a b off s) :=
  loadOp_ok (fun _ _ h1 => h1) h

theorem execLd16_ok {d a b : Reg} {off : BitVec 16} (h : s.msys.Ok) : Yields (execLd16 d a b off s) :=
  loadOp_ok (fun _ _ h1 => h1) h

theorem execLd32_ok {d a b : Reg} {off : BitVec 16} (h : s.msys.Ok) : Yields (execLd32 d a b off s) :=
  loadOp_ok (fun _ _ h1 => h1) h

theorem execLd64_ok {d a b : Reg} {off : BitVec 16} (h : s.msys.Ok) : Yields (execLd64 d a b off s) :=
  loadOp_ok (fun _ _ h1 => h1) h

theorem execLdq_ok {d a b : Reg} {off : BitVec 16} (h : s.msys.Ok) : Yields (execLdq d a b off s) :=
  loadOp_ok (fun _ _ h1 => h1) h

theorem Issuer.acquire_ok {c : Issuer} {sc : Scope} (h : m.Ok) : (c.acquire sc m).Ok :=
  MemSys.acquire_ok h

theorem execLda_ok {d a b : Reg} {sc : Scope} {off : BitVec 16} (h : s.msys.Ok) : Yields (execLda d a b sc off s) :=
  loadOp_ok (fun _ _ h1 => Issuer.acquire_ok h1) h

theorem Issuer.ldsLane_ok {c : Issuer} {d a b : Reg} {off : BitVec 16} {q : LaneSeq} {l : Nat} (hq : q.m.Ok) : ∀ {y}, c.ldsLane s d a b off
    q l = .ok y → y.m.Ok := by
  intro y e
  unfold Issuer.ldsLane at e
  dsimp only at e
  split at e
  · injection e
  · injection e with e
    subst e
    exact Issuer.put_ok hq

theorem execLds_ok {d a b : Reg} {off : BitVec 16} (h : s.msys.Ok) : Yields (execLds d a b off s) :=
  State.issue_ok (fun _ => State.ite_ok (State.illegal_ok h) (State.laneInstr_ok h (fun _ h1 => h1)
    (fun _ _ h1 _ h2 => Issuer.ldsLane_ok h1 h2)))

theorem execSld_ok {d a : Reg} {off : BitVec 16} (h : s.msys.Ok) : Yields (execSld d a off s) := by
  unfold execSld
  refine State.issue_ok (fun _ => State.longIssue_ok h (fun _ => ?_))
  split
  · exact State.accessFails_ok h
  · exact State.endAccess_ok h (fun _ h1 => h1) (Issuer.put_ok h)

theorem Issuer.mxPieces_ok {c : Issuer} {free : Nat} {write : Bool} {base sc len : Nat} (h : m.Ok) : ∀ {y}, c.mxPieces m free write base sc
    len = .ok y → y.1.Ok := by
  intro y e
  unfold Issuer.mxPieces at e
  dsimp only at e
  split at e
  · injection e
  · split at e
    · injection e
    · split at e
      · injection e
      · split at e
        · injection e
        · split at e
          · injection e
          · split at e
            · injection e
            · split at e
              · injection e
              · injection e with e
                subst e
                exact Issuer.usePiece_ok (Issuer.usePiece_ok h)

theorem Issuer.ldmxLane_ok {c : Issuer} {d a b : Reg} {off : BitVec 16} {q : LaneSeq} {l : Nat} (hq : q.m.Ok) : ∀ {y}, c.ldmxLane s d a b
    off q l = .ok y → y.m.Ok := by
  intro y e
  unfold Issuer.ldmxLane at e
  dsimp only at e
  split at e
  · injection e
  · rename_i e1
    injection e with e
    subst e
    exact Issuer.put_ok (Issuer.mxPieces_ok hq e1)

theorem execLdmx_ok {d a b : Reg} {off : BitVec 16} (h : s.msys.Ok) : Yields (execLdmx d a b off s) :=
  State.issue_ok (fun _ => State.ite_ok (State.illegal_ok h) (State.laneInstr_ok h (fun _ h1 => h1)
    (fun _ _ h1 _ h2 => Issuer.ldmxLane_ok h1 h2)))

theorem Issuer.stmxLane_ok {c : Issuer} {d a b : Reg} {off : BitVec 16} {q : LaneSeq} {l : Nat} (hq : q.m.Ok) : ∀ {y}, c.stmxLane s d a b
    off q l = .ok y → y.m.Ok := by
  intro y e
  unfold Issuer.stmxLane at e
  dsimp only at e
  split at e
  · injection e
  · rename_i e1
    injection e with e
    subst e
    exact Issuer.putStore_ok (Issuer.mxPieces_ok hq e1)

theorem execStmx_ok {d a b : Reg} {off : BitVec 16} (h : s.msys.Ok) : Yields (execStmx d a b off s) :=
  State.issue_ok (fun _ => State.ite_ok (State.illegal_ok h) (State.laneInstr_ok h (fun _ h1 => h1)
    (fun _ _ h1 _ h2 => Issuer.stmxLane_ok h1 h2)))

theorem Issuer.prefLane_ok {c : Issuer} {a b : Reg} {off : BitVec 16} {l : Nat} (hm : m.Ok) : (c.prefLane s a b off m l).Ok := by
  unfold Issuer.prefLane
  refine MemSys.ite_ok hm ?_
  split
  · rename_i e
    exact MemSys.ite_ok (Issuer.piece_ok hm e) (Issuer.piece_ok hm e)
  · exact hm

theorem execPref_ok {a b : Reg} {off : BitVec 16} (h : s.msys.Ok) : Yields (execPref a b off s) :=
  State.issue_ok (fun _ => State.ite_ok (State.illegal_ok h) (MemSys.foldl_ok h (fun _ _ h1 => Issuer.prefLane_ok h1)))

theorem Issuer.storeLane_ok {c : Issuer} {d a b : Reg} {off : BitVec 16} {len regs : Nat} {rel : Bool} {q : LaneSeq} {l : Nat}
    (hq : q.m.Ok) : ∀ {y}, c.storeLane s d a b off len regs rel q l = .ok y → y.m.Ok := by
  intro y e
  unfold Issuer.storeLane at e
  dsimp only at e
  split at e
  · injection e
  · split at e
    · injection e
    · rename_i e1
      injection e with e
      subst e
      exact Issuer.putStore_ok (Issuer.piece_ok hq e1)

theorem storeOp_ok {d a b : Reg} {off : BitVec 16} {len regs : Nat} {rel : Bool} (h : s.msys.Ok) : Yields
    (storeOp d a b off len regs rel s) :=
  State.issue_ok (fun _ => State.ite_ok (State.illegal_ok h) (State.laneInstr_ok h (fun _ h1 => h1)
    (fun _ _ h1 _ h2 => Issuer.storeLane_ok h1 h2)))

theorem execStl_ok {d a b : Reg} {_sc : Scope} {off : BitVec 16} (h : s.msys.Ok) : Yields (execStl d a b _sc off s) :=
  yields_ite (storeOp_ok h) (storeOp_ok h)

theorem Issuer.stsLane_ok {c : Issuer} {d a b : Reg} {off : BitVec 16} {q : LaneSeq} {l : Nat} (hq : q.m.Ok) : ∀ {y}, c.stsLane s d a b off
    q l = .ok y → y.m.Ok := by
  intro y e
  unfold Issuer.stsLane at e
  dsimp only at e
  split at e
  · injection e
  · injection e with e
    subst e
    exact Issuer.put_ok hq

theorem execSts_ok {d a b : Reg} {off : BitVec 16} (h : s.msys.Ok) : Yields (execSts d a b off s) :=
  State.issue_ok (fun _ => State.ite_ok (State.illegal_ok h) (State.laneInstr_ok h (fun _ h1 => h1)
    (fun _ _ h1 _ h2 => Issuer.stsLane_ok h1 h2)))

theorem Issuer.atomicLane_ok {c : Issuer} {op : AtomOp} {d a b x : Reg} {order : Order} {off : BitVec 16} {q : LaneSeq} {l : Nat}
    (hq : q.m.Ok) : ∀ {y}, c.atomicLane s op d a b x order off q l = .ok y → y.m.Ok := by
  intro y e
  unfold Issuer.atomicLane at e
  dsimp only at e
  split at e
  · injection e
  · split at e
    · injection e
    · rename_i e1
      injection e with e
      subst e
      exact Issuer.put_ok (Issuer.piece_ok hq e1)

theorem atomicOp_ok {op : AtomOp} {d a b x : Reg} {sc : Scope} {order : Order} {off : BitVec 16} (h : s.msys.Ok) : Yields
    (atomicOp op d a b x sc order off s) :=
  State.issue_ok (fun _ => State.ite_ok (State.illegal_ok h) (State.laneInstr_ok h (fun _ h1 => MemSys.ite_ok (Issuer.acquire_ok h1) h1)
    (fun _ _ h1 _ h2 => Issuer.atomicLane_ok h1 h2)))

theorem fenceOp_ok {w : Wait} {waits : LateAcc → Bool} {f : Issuer → MemSys → MemSys} (hf : ∀ c, ∀ n, n.Ok → (f c n).Ok) (hs : s.msys.Ok) :
    Yields (fenceOp w waits f s) := by
  unfold fenceOp
  refine State.issue_ok (fun _ => State.ite_ok hs ?_)
  simp only [State.setMsys_msys, State.setTeam_msys]
  exact hf _ _ hs

theorem execFenceAcq_ok {sc : Scope} (h : s.msys.Ok) : Yields (execFenceAcq sc s) :=
  fenceOp_ok (fun _ _ h1 => Issuer.acquire_ok h1) h

theorem execFenceRel_ok {_sc : Scope} (h : s.msys.Ok) : Yields (execFenceRel _sc s) :=
  fenceOp_ok (fun _ _ h1 => h1) h

theorem execFenceAr_ok {sc : Scope} (h : s.msys.Ok) : Yields (execFenceAr sc s) :=
  fenceOp_ok (fun _ _ h1 => Issuer.acquire_ok h1) h

theorem State.barLog_ok {scope : Scope} {b : BarState} {c : Crew} (h : s.msys.Ok) : (s.barLog scope b c).msys.Ok := by
  unfold State.barLog
  split
  · split
    · exact h
    · exact h
    · exact State.ite_ok (State.logArrival_ok h) h
  · exact h

theorem State.crewArrives_ok {scope : Scope} {b : BarState} {cid : Nat} {c : Crew} (h : s.msys.Ok) :
    (s.crewArrives scope b cid c).msys.Ok :=
  State.barSettle_ok (State.barLog_ok h)

theorem State.barArrive_ok {c : Issuer} {scope : Scope} {n : Nat} {bar : Bool} (h : s.msys.Ok) : (s.barArrive c scope n bar).msys.Ok :=
  State.ite_ok (State.crewArrives_ok h) (State.barSettle_ok h)

theorem State.barDepart_ok {c : Issuer} {t : Team} {scope : Scope} {n : Nat} (h : s.msys.Ok) : (s.barDepart c t scope n).msys.Ok :=
  Issuer.acquire_ok h

theorem State.barWait_ok {c : Issuer} {scope : Scope} {n : Nat} (h : s.msys.Ok) : (s.barWait c scope n).msys.Ok := by
  unfold State.barWait
  split
  · split
    · exact State.ite_ok (State.barDepart_ok h) h
    · exact h
  · exact h

theorem execBarr_ok {scope : Scope} {n : BitVec 13} (h : s.msys.Ok) : Yields (execBarr scope n s) := by
  unfold execBarr
  refine State.issue_ok (fun _ => State.ite_ok (State.illegal_ok h) (State.ite_ok h ?_))
  dsimp only
  split <;> exact State.barArrive_ok h

theorem execBarw_ok {scope : Scope} {n : BitVec 13} (h : s.msys.Ok) : Yields (execBarw scope n s) :=
  State.issue_ok (fun _ => State.ite_ok (State.illegal_ok h) (State.barWait_ok h))

theorem execBar_ok {scope : Scope} {n : BitVec 13} (h : s.msys.Ok) : Yields (execBar scope n s) :=
  State.issue_ok (fun _ => State.ite_ok (State.illegal_ok h) (State.ite_ok (State.barWait_ok h)
    (State.ite_ok h (State.barWait_ok (State.barArrive_ok h)))))

theorem execPodBarrierArrival_ok {r : RemoteArrival} (h : s.msys.Ok) : Yields (execPodBarrierArrival r s) :=
  yields_ite (yields_ite (yields_next h) (yields_next (State.barSettle_ok h))) (yields_next h)

theorem State.retireArrives_ok {cid : Nat} {c : Crew} {b : BarState} (h : s.msys.Ok) : (s.retireArrives cid c b).msys.Ok := by
  unfold State.retireArrives
  refine State.ite_ok h ?_
  split
  · exact State.crewArrives_ok h
  · exact h

theorem State.afterRetire_ok {cid i : Nat} (h : s.msys.Ok) : (s.afterRetire cid i).msys.Ok := by
  unfold State.afterRetire
  split
  · exact h
  · exact State.barSweep_ok (State.ite_ok (State.foldl_ok h (fun _ _ h1 => State.retireArrives_ok h1))
      (State.foldl_ok h (fun _ _ h1 => State.retireArrives_ok h1)))

theorem execExit_ok (h : s.msys.Ok) : Yields (execExit s) :=
  State.issue_ok (fun _ => State.ite_ok h (State.ite_ok h (State.afterRetire_ok h)))

theorem State.polyOp_ok {n : BitVec 8} {src : Option Reg} {f : Issuer → PolyAcc → Option PolyAcc} (h : s.msys.Ok) : Yields
    (s.polyOp n src f) := by
  unfold State.polyOp
  refine State.issue_ok (fun _ => State.ite_ok (State.illegal_ok h) (State.ite_ok h ?_))
  split
  · exact h
  · exact State.illegal_ok h

theorem execPpmul_ok {n m : BitVec 8} (h : s.msys.Ok) : Yields (execPpmul n m s) :=
  State.issue_ok (fun _ => State.ite_ok (State.illegal_ok h) (State.ite_ok h (State.ite_ok h h)))

theorem execPpld_ok {n : BitVec 8} {a : Reg} (h : s.msys.Ok) : Yields (execPpld n a s) := by
  unfold execPpld
  refine State.issue_ok (fun _ => State.ite_ok (State.illegal_ok h) (State.ite_ok h
    (State.longIssue_ok h (fun _ => State.ite_ok (State.raise_ok h) (State.whole_ok h (fun _ h1 _ => ?_))))))
  dsimp only
  split
  · exact h
  · exact State.ite_ok (State.illegal_ok (State.afterLanes_ok (LaneSeq.foldl_ok h1 (fun _ _ h2 => Issuer.putPart_ok h2)) (fun _ h2 => h2)))
      (State.endAccess_ok h (fun _ h2 => h2) (Issuer.putTaker_ok (Issuer.putParts_ok
      (LaneSeq.foldl_ok h1 (fun _ _ h2 => Issuer.putPart_ok h2)))))

theorem execPpst_ok {n : BitVec 8} {a : Reg} (h : s.msys.Ok) : Yields (execPpst n a s) :=
  State.issue_ok (fun _ => State.ite_ok (State.illegal_ok h) (State.ite_ok h (State.longIssue_ok h
    (fun _ => State.ite_ok (State.raise_ok h) (State.whole_ok h (fun _ h1 _ => State.endAccess_ok h (fun _ h2 => h2)
    (Issuer.putUnits_ok h1)))))))

theorem State.polyRead_ok {n : BitVec 8} {ok : Bool} {f : Issuer → PolyAcc → Team} (h : s.msys.Ok) : Yields (s.polyRead n ok f) :=
  State.issue_ok (fun _ => State.ite_ok (State.illegal_ok h) (State.ite_ok h h))

theorem execApmul_ok {n : BitVec 8} {a : Reg} {sc : Scope} {order : Order} (h : s.msys.Ok) : Yields (execApmul n a sc order s) :=
  State.issue_ok (fun _ => State.ite_ok (State.illegal_ok h) (State.ite_ok h (State.longIssue_ok h
    (fun _ => State.ite_ok (State.raise_ok h) (State.whole_ok h (fun _ h1 _ => State.endAccess_ok h
    (fun _ h2 => MemSys.ite_ok (Issuer.acquire_ok h2) h2) (Issuer.put_ok h1)))))))

theorem State.areaPieces_ok {world va len : Nat} (h : s.msys.Ok) : ∀ {y}, s.areaPieces world va len = some y → y.1.Ok := by
  intro y e
  unfold State.areaPieces at e
  split at e
  · injection e
  · split at e
    · rename_i e1
      injection e with e
      subst e
      exact MemSys.agentPieces_ok h e1
    · injection e

theorem State.writeArea_ok {world va : Nat} {bs : List Byte} (h : s.msys.Ok) : (s.writeArea world va bs).2.msys.Ok := by
  unfold State.writeArea
  split
  · rename_i e
    exact MemSys.agentPut_ok (State.areaPieces_ok h e)
  · exact h

theorem State.accept_ok {gid : Word} {r : GridRec} {world level : Nat} {origin : Origin} {task : Option Nat} (h : s.msys.Ok) :
    (s.accept gid r world level origin task).msys.Ok := by
  unfold State.accept
  dsimp only
  exact State.ite_snd_ok (State.ite_snd_ok (State.writeArea_ok h) h) (State.writeArea_ok (State.ite_snd_ok (State.writeArea_ok h) h))

theorem State.endGrid_ok {g : Grid} (h : s.msys.Ok) : (s.endGrid g).msys.Ok := by
  unfold State.endGrid
  dsimp only
  split
  · exact State.queueDone_ok h
  · exact h

theorem State.settleGrid_ok {gid : Word} (h : s.msys.Ok) : (s.settleGrid gid).msys.Ok := by
  unfold State.settleGrid
  split
  · exact State.ite_ok (State.endGrid_ok h) h
  · exact h

theorem State.launchCrew_ok {g : Grid} {index die core : Nat} {page : Option PageInfo} {pc : VAddr} {arg : Nat} {more : List (Nat × Word)}
    {scratch : List (Nat × Byte)} (h : s.msys.Ok) : (s.launchCrew g index die core page pc arg more scratch).2.msys.Ok :=
  State.putOn_ok h

theorem State.submitTask_ok {r : GridRec} {raw : List Byte} {world die arg : Nat} {keys : List Nat} {records : List (List Byte)}
    (h : s.msys.Ok) : (s.submitTask r raw world die arg keys records).msys.Ok := by
  unfold State.submitTask
  dsimp only [State.newId, State.nextTaskSeq, State.newOrder, State.setTask]
  split
  · exact State.accept_ok h
  · exact h

theorem State.giveGid_ok {id : Nat} {t : Task} (h : s.msys.Ok) : (s.giveGid id t).msys.Ok := by
  unfold State.giveGid
  split
  · exact State.ite_ok (State.accept_ok h) h
  · exact h

theorem State.withRecord_ok {c : Issuer} {a : Reg} {len : Nat} {k : State → List Byte → State} (h : s.msys.Ok)
    (hk : ∀ t, t.msys.Ok → ∀ a, (k t a).msys.Ok) : (s.withRecord c a len k).msys.Ok :=
  State.ite_ok (State.illegal_ok h) (State.ite_ok (State.raise_ok h) (State.readWhole_ok h hk))

theorem execTsub_ok {d a : Reg} (h : s.msys.Ok) : Yields (execTsub d a s) := by
  unfold execTsub
  refine State.issue_ok (fun _ => State.withRecord_ok h (fun _ h1 _ => State.ite_ok h1
    (State.readWhole_ok h1 (fun _ h2 _ => State.ite_ok h2 (State.ite_ok h2 (State.ite_ok h2 ?_))))))
  dsimp only [State.endSubmit]
  simp only [State.setTeam_msys]
  exact State.submitTask_ok h2

theorem execGlaunch_ok {d a : Reg} (h : s.msys.Ok) : Yields (execGlaunch d a s) := by
  unfold execGlaunch
  refine State.issue_ok (fun _ => State.withRecord_ok h (fun _ h1 _ => State.ite_ok h1 (State.ite_ok h1 ?_)))
  split
  · exact h1
  · exact State.accept_ok h1

theorem execTcommit_ok (h : s.msys.Ok) : Yields (execTcommit s) :=
  State.issue_ok (fun _ => State.ite_ok (State.illegal_ok h) h)

end Sys2Proof.Machine
end

section
/-! SUPPORT. What every step keeps of memory (O59): nodes, keys, placement and pages (Tasks, Waiting, Sprout). -/

namespace Sys2Proof.Machine

variable {m : MemSys} {s : State}

theorem State.formGroup_ok {n : Nat} {x : Node} (h : s.msys.Ok) : (s.formGroup n x).msys.Ok :=
  State.submitTask_ok h

theorem State.settleBin_ok {n : Nat} {x : Node} (h : s.msys.Ok) : (s.settleBin n x).msys.Ok :=
  State.ite_ok (State.formGroup_ok h) h

theorem State.binAppend_ok {n : Nat} {x : Node} {bs : List Byte} (h : s.msys.Ok) : (s.binAppend n x bs).msys.Ok :=
  State.settleBin_ok h

theorem groupReady_ok {n : Nat} (h : s.msys.Ok) : (groupReady n s).msys.Ok := by
  unfold groupReady
  split
  · exact State.ite_ok (State.settleBin_ok h) h
  · exact h

theorem execNrec_ok {d a b : Reg} (h : s.msys.Ok) : Yields (execNrec d a b s) := by
  unfold execNrec
  refine State.issue_ok (fun _ => State.withRecord_ok h (fun _ h1 _ => State.ite_ok h1 ?_))
  split
  · exact h1
  · exact State.ite_ok h1 (State.ite_ok h1 (State.binAppend_ok h1))

theorem execBinTimerExpiry_ok {n : Nat} (h : s.msys.Ok) : Yields (execBinTimerExpiry n s) := by
  unfold execBinTimerExpiry
  split
  · exact yields_ite (yields_next (State.formGroup_ok h)) (yields_next h)
  · exact yields_next h

theorem State.setKey_ok {e : KeyEntry} (h : s.msys.Ok) : (s.setKey e).msys.Ok :=
  State.ite_ok h h

theorem State.releaseKeys_ok {id : Nat} (h : s.msys.Ok) : (s.releaseKeys id).msys.Ok :=
  State.foldl_ok h (fun _ _ h1 => State.ite_ok (State.setKey_ok h1) h1)

theorem State.keyArrive_ok {id : Nat} {t : Task} {i key : Nat} (h : s.msys.Ok) : (s.keyArrive id t i key).msys.Ok := by
  unfold State.keyArrive
  split
  · exact State.setKey_ok h
  · exact State.ite_ok (State.setKey_ok h) (State.ite_ok (MemSys.faultPost_ok h) (State.releaseKeys_ok h))

theorem execKeyRequest_ok {id : Nat} (h : s.msys.Ok) : Yields (execKeyRequest id s) := by
  unfold execKeyRequest
  split
  · split
    · exact yields_ite (yields_next (State.keyArrive_ok h)) (yields_next h)
    · exact yields_next h
  · exact yields_next h

theorem execKeyGrant_ok {key : Dword} (h : s.msys.Ok) : Yields (execKeyGrant key s) := by
  unfold execKeyGrant
  split
  · split
    · dsimp only
      split
      · split <;> exact yields_next (State.setKey_ok h)
      · exact yields_next (State.setKey_ok h)
    · exact yields_next h
  · exact yields_next h

theorem execKeyAcquisitionRestart_ok {id : Nat} (h : s.msys.Ok) : Yields (execKeyAcquisitionRestart id s) := by
  unfold execKeyAcquisitionRestart
  split
  · split
    · exact yields_ite (yields_next h) (yields_next h)
    · exact yields_next h
  · exact yields_next h

theorem State.placeCrew_ok {g : Grid} {i die core : Nat} (h : s.msys.Ok) : (s.placeCrew g i die core).msys.Ok :=
  MemSys.acquire_ok (State.launchCrew_ok h)

/-- `State.placeAll` over any search for a core and any placement. The kernel cannot check the equations of `State.placeAll` itself, in
which it computes `findRoom`; over variables there is nothing to compute. -/
def placeAllBy (home : State → GridRec → Nat → Nat → Nat) (room : State → Nat → Bool → Use → List Nat → Option Nat)
    (place : State → Grid → Nat → Nat → Nat → State) (s : State) (gid : Word) : List Nat → Option State
  | [] => some s
  | i :: is =>
    match s.gridAt gid with
    | none => none
    | some g =>
      let die := home s g.record g.world i
      match room s die g.record.fuse g.record.use (g.record.coreOrder i) with
      | none => none
      | some core => placeAllBy home room place (place s g i die core) gid is

theorem placeAll_eq_placeAllBy : State.placeAll = placeAllBy State.homeDie State.findRoom State.placeCrew := by
  delta State.placeAll placeAllBy
  rfl

theorem placeAllBy_ok {home : State → GridRec → Nat → Nat → Nat} {room : State → Nat → Bool → Use → List Nat → Option Nat}
    {place : State → Grid → Nat → Nat → Nat → State} {gid : Word} {is : List Nat} (h : s.msys.Ok)
    (hp : ∀ {t g i die core}, t.msys.Ok → (place t g i die core).msys.Ok) :
    ∀ {y}, placeAllBy home room place s gid is = some y → y.msys.Ok := by
  intro y e
  induction is generalizing s with
  | nil =>
    rw [placeAllBy] at e
    injection e with e
    subst e
    exact h
  | cons i is ih =>
    rw [placeAllBy] at e
    split at e
    · injection e
    · dsimp only at e
      split at e
      · injection e
      · exact ih (hp h) e

theorem State.placeAll_ok {gid : Word} {is : List Nat} (h : s.msys.Ok) :
    ∀ {y}, s.placeAll gid is = some y → y.msys.Ok := by
  intro y e
  rw [placeAll_eq_placeAllBy] at e
  exact placeAllBy_ok h State.placeCrew_ok e

theorem State.placeCoop_ok {g : Grid} (h : s.msys.Ok) : ∀ {y}, s.placeCoop g = some y → y.msys.Ok := by
  intro y e
  unfold State.placeCoop at e
  exact State.placeAll_ok h e

theorem execPageListBlockRead_ok {die : Nat} {gid : Word} {b : Nat} (h : s.msys.Ok) : Yields (execPageListBlockRead die gid b s) := by
  unfold execPageListBlockRead
  split
  · exact yields_next h
  · refine yields_ite (yields_next h) ?_
    dsimp only
    split
    · rename_i e
      exact yields_next (MemSys.agentRead_ok h e)
    · exact yields_ite (yields_next h) (yields_ite (yields_next (MemSys.agentFail_ok h)) (yields_next (MemSys.agentFail_ok h)))

theorem execPageReservation_ok {die : Nat} (h : s.msys.Ok) : Yields (execPageReservation die s) := by
  unfold execPageReservation
  refine yields_ite (yields_next h) ?_
  split
  · exact yields_next h
  · split
    · exact yields_next h
    · exact yields_next (State.areaWrite_ok (MemSys.setQuad_ok h))

theorem State.abortGrid_ok {g : Grid} {page : Nat} (h : s.msys.Ok) : (s.abortGrid g page).msys.Ok :=
  State.settleGrid_ok (State.areaWrite_ok h)

theorem State.sensed_ok {g : Grid} {i : Nat} {p : PageSt} {pstat : Nat} (h : s.msys.Ok) : (s.sensed g i p pstat).msys.Ok :=
  State.ite_ok (State.abortGrid_ok h) h

theorem execPageSense_ok {gid : Word} {i : Nat} {corrected : Bool} (h : s.msys.Ok) : Yields (execPageSense gid i corrected s) := by
  unfold execPageSense
  split
  · exact yields_next h
  · exact yields_ite (yields_next h) (yields_ite (yields_next (State.sensed_ok h))
      (yields_ite (yields_next h) (yields_ite (yields_next (State.sensed_ok h))
      (yields_ite (yields_next h) (yields_next (State.sensed_ok h))))))

theorem State.land_ok {g : Grid} {i pstat : Nat} (h : s.msys.Ok) : (s.land g i pstat).msys.Ok :=
  MemSys.acquire_ok (State.launchCrew_ok (State.areaWrite_ok h))

theorem State.landAll_ok {gid : Word} {is : List Nat} (h : s.msys.Ok) : (s.landAll gid is).msys.Ok := by
  unfold State.landAll
  refine State.foldl_ok h (fun _ _ h1 => ?_)
  split
  · split
    · exact State.land_ok h1
    · exact h1
  · exact h1

theorem execPageLanding_ok {gid : Word} {i : Nat} (h : s.msys.Ok) : Yields (execPageLanding gid i s) := by
  unfold execPageLanding
  split
  · exact yields_next h
  · split
    · exact yields_next h
    · exact yields_ite (yields_next h) (yields_ite (yields_ite (yields_next (State.landAll_ok h)) (yields_next h))
        (yields_next (State.land_ok h)))

theorem MemSys.awaitAcquire_ok {die core status : Nat} (h : m.Ok) : (m.awaitAcquire die core status).Ok :=
  MemSys.ite_ok (MemSys.acquire_ok h) h

theorem State.park_ok {c : Issuer} {g : Grid} {i j : Nat} {d : Reg} (h : s.msys.Ok) : (s.park c g i j d).msys.Ok :=
  State.mapTeams_ok (State.areaWrite_ok h)

theorem State.closeCycle_ok {c : Issuer} {g : Grid} {i j : Nat} {d : Reg} (h : s.msys.Ok) : (s.closeCycle c g i j d).msys.Ok :=
  State.areaWrite_ok h

theorem execAwait_ok {d a : Reg} (h : s.msys.Ok) : Yields (execAwait d a s) := by
  unfold execAwait
  refine State.issue_ok (fun _ => ?_)
  split
  · exact State.illegal_ok h
  · refine State.ite_ok (State.illegal_ok h) (State.ite_ok (MemSys.awaitAcquire_ok h) (State.ite_ok (State.closeCycle_ok h) ?_))
    split
    · exact MemSys.awaitAcquire_ok h
    · exact State.ite_ok (State.closeCycle_ok h) (State.park_ok h)

theorem execAwaitCycle_ok {cid : Nat} (h : s.msys.Ok) : Yields (execAwaitCycle cid s) := by
  unfold execAwaitCycle
  split
  · exact yields_next h
  · split
    · exact yields_ite (yields_next (State.mapTeams_ok h)) (yields_next h)
    · exact yields_next h

theorem State.ctxDone_ok {by_ : Option TeamRef} {status : Nat} (h : s.msys.Ok) : (s.ctxDone by_ status).msys.Ok := by
  unfold State.ctxDone
  split
  · exact h
  · split
    · exact State.ite_ok h h
    · exact h

theorem State.wake_ok {cid : Nat} {c : Crew} {g : Grid} {i team : Nat} {d : Reg} {status : Nat} (h : s.msys.Ok) :
    (s.wake cid c g i team d status).msys.Ok :=
  State.ite_ok (MemSys.awaitAcquire_ok (State.mapTeam_ok (State.areaWrite_ok h))) (State.areaWrite_ok h)

theorem execCrewWake_ok {cid : Nat} (h : s.msys.Ok) : Yields (execCrewWake cid s) := by
  unfold execCrewWake
  split
  · exact yields_next h
  · split
    · split
      · exact yields_next (State.wake_ok h)
      · exact yields_next h
    · exact yields_next h

theorem State.wakeAll_ok {gid : Word} {j : Nat} (h : s.msys.Ok) : (s.wakeAll gid j).msys.Ok := by
  unfold State.wakeAll
  refine State.foldl_ok h (fun _ _ h1 => ?_)
  split
  · split
    · split
      · exact State.wake_ok h1
      · exact h1
    · exact h1
  · exact h1

theorem State.writeImage_ok {cid : Nat} {c : Crew} {g : Grid} {slot : Nat} {by_ : Option TeamRef} (h : s.msys.Ok) :
    (s.writeImage cid c g slot by_).msys.Ok :=
  State.agentWrite_ok (State.foldOps_ok h)

theorem State.endEviction_ok {cid : Nat} {c : Crew} {g : Grid} {i : Nat} (h : s.msys.Ok) : (s.endEviction cid c g i).msys.Ok :=
  State.takeOff_ok (State.ite_ok h (State.areaWrite_ok h))

theorem execEviction_ok {cid : Nat} (h : s.msys.Ok) : Yields (execEviction cid s) := by
  unfold execEviction
  split
  · exact yields_next h
  · split
    · exact yields_next h
    · split
      · exact yields_ite (yields_next h) (yields_next h)
      · split
        · exact yields_next (State.writeImage_ok h)
        · exact yields_next h
      · exact yields_ite (yields_next h) (yields_next (State.ctxDone_ok (State.endEviction_ok h)))
      · exact yields_next h

theorem State.landCrew_ok {cid : Nat} {c : Crew} {g : Grid} {i core : Nat} {bs : List Byte} (h : s.msys.Ok) :
    (s.landCrew cid c g i core bs).msys.Ok := by
  unfold State.landCrew
  refine MemSys.acquire_ok ?_
  split
  · exact State.mapTeam_ok (State.barSweep_ok (State.putOn_ok (State.areaWrite_ok h)))
  · exact State.barSweep_ok (State.putOn_ok (State.areaWrite_ok h))

theorem execReLanding_ok {cid : Nat} (h : s.msys.Ok) : Yields (execReLanding cid s) := by
  unfold execReLanding
  split
  · exact yields_next h
  · refine yields_ite (yields_next h) ?_
    split
    · split
      · exact yields_next h
      · split
        · rename_i e
          exact yields_next (State.landCrew_ok (MemSys.agentRead_ok h e))
        · exact yields_ite (yields_next h) (yields_next (MemSys.agentFail_ok h))
    · exact yields_next h

end Sys2Proof.Machine
end

section
/-! SUPPORT. What every step keeps of memory (O59): the dispatcher and the engine port (Dispatcher, Port). -/

namespace Sys2Proof.Machine

variable {m : MemSys} {s : State}

theorem execTailWrite_ok {q : Nat} {tail : Word} (h : s.msys.Ok) : Yields (execTailWrite q tail s) := by
  unfold execTailWrite
  split
  · exact yields_ite (yields_next (State.setQueue_ok h)) (yields_next h)
  · exact yields_next h

theorem execResumeCommand_ok {q : Nat} (h : s.msys.Ok) : Yields (execResumeCommand q s) := by
  unfold execResumeCommand
  split
  · exact yields_ite (yields_next (State.setQueue_ok h)) (yields_next h)
  · exact yields_next h

theorem execDestroyCommand_ok {q : Nat} (h : s.msys.Ok) : Yields (execDestroyCommand q s) := by
  unfold execDestroyCommand
  split
  · exact yields_ite (yields_next (State.settleQueue_ok (State.setQueue_ok h))) (yields_next h)
  · exact yields_next h

theorem State.queueFail_ok {q : Nat} {x : Queue} {f : AgentFail} (h : s.msys.Ok) : (s.queueFail q x f).msys.Ok :=
  State.ite_ok h (State.ite_ok (MemSys.agentFail_ok h) (State.setQueue_ok (MemSys.agentFail_ok h)))

theorem State.nextRecord_ok {x : Queue} (h : s.msys.Ok) : ∀ {y}, s.nextRecord x = .ok y → y.2.Ok := by
  intro y e
  unfold State.nextRecord at e
  exact MemSys.agentRead_ok h e

theorem execLaunchRecordRead_ok {q : Nat} (h : s.msys.Ok) : Yields (execLaunchRecordRead q s) := by
  unfold execLaunchRecordRead
  split
  · exact yields_next h
  · split
    · exact yields_next (State.queueFail_ok h)
    · rename_i e
      refine yields_ite (yields_next h) (yields_ite (yields_next (State.queueDone_ok (State.setQueue_ok (State.nextRecord_ok h e)))) ?_)
      split
      · exact yields_next (State.nextRecord_ok h e)
      · exact yields_next (State.accept_ok (State.setQueue_ok (State.nextRecord_ok h e)))

theorem execNodeSetup_ok {q : Nat} (h : s.msys.Ok) : Yields (execNodeSetup q s) := by
  unfold execNodeSetup
  split
  · exact yields_next h
  · split
    · exact yields_next (State.queueFail_ok h)
    · rename_i e
      refine yields_ite (yields_next h) (yields_ite (yields_next (State.queueDone_ok (State.setQueue_ok (State.nextRecord_ok h e)))) ?_)
      split
      · exact yields_next (State.queueFail_ok (State.nextRecord_ok h e))
      · rename_i e1
        exact yields_next (State.queueDone_ok (State.setQueue_ok (State.ite_ok (MemSys.agentRead_ok (State.nextRecord_ok h e) e1)
          (MemSys.agentRead_ok (State.nextRecord_ok h e) e1))))

theorem State.placeTask_ok {id : Nat} {t : Task} {g : Grid} {core : Nat} (h : s.msys.Ok) : (s.placeTask id t g core).msys.Ok :=
  MemSys.acquire_ok (State.launchCrew_ok h)

theorem execCrewPlacement_ok {die : Nat} (h : s.msys.Ok) : Yields (execCrewPlacement die s) := by
  unfold execCrewPlacement
  refine yields_ite (yields_next h) ?_
  split
  · exact yields_next (State.giveGid_ok h)
  · split
    · exact yields_next h
    · refine yields_ite (yields_ite ?_ (yields_next h)) ?_
      · split
        · rename_i e
          exact yields_next (State.placeCoop_ok h e)
        · exact yields_next h
      · split
        · exact yields_next (State.placeCrew_ok h)
        · exact yields_next h
    · split
      · exact yields_next (State.placeTask_ok h)
      · exact yields_next h
    · exact yields_next h

theorem State.removeCrew_ok {cid : Nat} {c : Crew} (h : s.msys.Ok) : (s.removeCrew cid c).msys.Ok := by
  unfold State.removeCrew
  refine State.barSweep_ok ?_
  split
  · exact State.releaseKeys_ok (State.clearSlots_ok (State.foldOps_ok h))
  · exact State.clearSlots_ok (State.foldOps_ok h)

theorem State.countRetired_ok {c : Crew} (h : s.msys.Ok) : (s.countRetired c).msys.Ok := by
  unfold State.countRetired
  split
  · exact h
  · dsimp only
    split
    · exact State.settleGrid_ok (State.wakeAll_ok (State.areaWrite_ok h))
    · exact State.settleGrid_ok h

theorem State.closeAll_ok {cid : Nat} {c : Crew} (h : s.msys.Ok) : (s.closeAll cid c).msys.Ok :=
  State.foldl_ok h (fun _ _ h1 => State.ite_ok (State.closeBatch_ok h1) h1)

theorem execCrewRetire_ok {cid : Nat} (h : s.msys.Ok) : Yields (execCrewRetire cid s) := by
  unfold execCrewRetire
  split
  · exact yields_next h
  · refine yields_ite (yields_next h) (yields_ite (yields_next ?_) (yields_next (State.closeAll_ok h)))
    split <;> exact State.countRetired_ok (State.removeCrew_ok (State.closeAll_ok h))

theorem State.forgetGrid_ok {gid : Word} (h : s.msys.Ok) : (s.forgetGrid gid).msys.Ok := by
  unfold State.forgetGrid
  split <;> exact h

theorem State.requeue_ok {id : Nat} (h : s.msys.Ok) : (s.requeue id).msys.Ok := by
  unfold State.requeue
  split
  · exact State.giveGid_ok h
  · exact h

theorem execTaskDiscard_ok {cid : Nat} (h : s.msys.Ok) : Yields (execTaskDiscard cid s) := by
  unfold execTaskDiscard
  split
  · exact yields_next h
  · split
    · exact yields_ite (yields_next h) (yields_next h)
    · exact yields_ite (yields_next (State.ctxDone_ok (State.requeue_ok (State.forgetGrid_ok (State.removeCrew_ok h))))) (yields_next h)
    · exact yields_next h

theorem execThermalMigration_ok {cid core elapsed : Nat} (h : s.msys.Ok) : Yields (execThermalMigration cid core elapsed s) := by
  unfold execThermalMigration
  split
  · exact yields_next h
  · split
    · exact yields_ite (yields_next h) (yields_next h)
    · refine yields_ite (yields_next h) (yields_ite (yields_next h) ?_)
      dsimp only
      split
      · exact yields_next (MemSys.acquire_ok (State.barSweep_ok (State.putOn_ok (State.takeOff_ok (State.foldOps_ok h)))))
      · exact yields_next (State.takeOff_ok (State.foldOps_ok h))
    · exact yields_next h

theorem State.go_ok {c : Issuer} {v : Nat} (h : s.msys.Ok) : (s.go c v).msys.Ok := by
  unfold State.go
  refine State.ite_ok (State.raise_ok h) (State.ite_ok (State.illegal_ok h) (State.ite_ok (State.raise_ok h) ?_))
  split
  · exact State.raise_ok h
  · exact State.ite_ok (State.raise_ok h) (State.ite_ok h (State.ite_ok h h))

theorem State.portWrite_ok {c : Issuer} {k v : Nat} (h : s.msys.Ok) : (s.portWrite c k v).msys.Ok :=
  State.ite_ok (State.go_ok h) (State.ite_ok (State.illegal_ok h) (State.ite_ok (State.raise_ok h) h))

theorem execStp_ok {k : BitVec 8} {a : Reg} (h : s.msys.Ok) : Yields (execStp k a s) :=
  State.issue_ok (fun _ => State.ite_ok (State.portWrite_ok h) (State.illegal_ok h))

theorem execEngineOperationStart_ok {r : TeamRef} (h : s.msys.Ok) : Yields (execEngineOperationStart r s) := by
  unfold execEngineOperationStart
  split
  · split
    · exact yields_ite (yields_next (State.go_ok h)) (yields_next h)
    · exact yields_next h
  · exact yields_next h

theorem execBclose_ok {d : Reg} (h : s.msys.Ok) : Yields (execBclose d s) := by
  unfold execBclose
  refine State.issue_ok (fun c => State.ite_ok (State.illegal_ok h) (State.ite_ok h ?_))
  have hc : ((s.setTeam c.ref c.team).closeBatch c.cid c.team.index c.team).2.msys.Ok := State.closeBatch_ok h
  dsimp only
  split
  · exact hc
  · exact hc

theorem execBwait_ok {a : Reg} (h : s.msys.Ok) : Yields (execBwait a s) :=
  State.issue_ok (fun _ => State.ite_ok (State.illegal_ok h) (State.ite_ok h (Issuer.acquire_ok h)))

theorem execBcnt_ok {d a : Reg} (h : s.msys.Ok) : Yields (execBcnt d a s) :=
  State.issue_ok (fun _ => State.ite_ok (State.illegal_ok h) h)

end Sys2Proof.Machine
end

section
/-! SUPPORT. What every step keeps of memory (O59): engines (Engine). -/

namespace Sys2Proof.Machine

variable {m : MemSys} {s : State}

/-! Engines. -/

theorem EngCheck.ite_ok {α : Type} {c : Prop} [Decidable c] {x y : EngCheck α} (hx : x.2.2.Ok) (hy : y.2.2.Ok) :
    (if c then x else y).2.2.Ok := by
  split
  · exact hx
  · exact hy

theorem EngCheck.andThen_ok {α β : Type} {x : EngCheck α} {f : α → EngineOp → MemSys → EngCheck β} (hx : x.2.2.Ok)
    (hf : ∀ a o n, n.Ok → (f a o n).2.2.Ok) : (x.andThen f).2.2.Ok := by
  obtain ⟨r, o, n⟩ := x
  cases r with
  | ok a => exact hf a o n hx
  | error e => exact hx

theorem MemSys.of_snd_snd {α β : Type} {p : α × β × MemSys} {a : α} {b : β} {n : MemSys} (h : p.2.2.Ok) (e : p = (a, b, n)) :
    n.Ok := by
  subst e
  exact h

theorem EngineOp.piece_ok {o : EngineOp} {free : Nat} {write heal : Bool} {va n : Nat} (h : m.Ok) :
    (o.piece m free write heal va n).2.2.Ok := by
  unfold EngineOp.piece
  dsimp only
  split
  · split
    · exact h
    · exact EngCheck.ite_ok h h
  · split
    · exact EngCheck.ite_ok (MemSys.tlbFill_ok h) (MemSys.tlbFill_ok h)
    · exact h
    · exact h
    · exact h

theorem EngineOp.pieces_ok {o : EngineOp} {free : Nat} {write whole : Bool} {ps : List (Nat × Nat)} (h : m.Ok) :
    (o.pieces m free write whole ps).2.2.Ok := by
  induction ps generalizing o m free with
  | nil => exact h
  | cons p ps ih =>
    exact EngCheck.andThen_ok (EngineOp.piece_ok h) fun _ _ _ h1 => EngCheck.andThen_ok (ih h1) fun _ _ _ h2 => h2

theorem State.engPlaces_ok {k : Nat} {write whole : Bool} {space addr len : Nat} {o : EngineOp} (hm : m.Ok) :
    (s.engPlaces k write whole space addr len o m).2.2.Ok := by
  unfold State.engPlaces
  refine EngCheck.ite_ok hm ?_
  split
  · exact EngineOp.pieces_ok hm
  · exact hm
  · split <;> exact hm

theorem State.engRead_ok {o : EngineOp} {l : EngLoc} (h : s.msys.Ok) : (s.engRead o l).2.msys.Ok := by
  unfold State.engRead
  split
  · exact MemSys.number_ok h
  · exact h
  · exact h

theorem MemSys.engPut_ok {o : EngineOp} {l : EngLoc} {bs : List Byte} (h : m.Ok) : (m.engPut o l bs).Ok :=
  MemSys.ite_ok (MemSys.softWrite_ok (MemSys.ite_ok (MemSys.number_ok h) (MemSys.ite_ok h h)))
    (MemSys.softWrite_ok (MemSys.ite_ok (MemSys.number_ok h) (MemSys.ite_ok h h)))

theorem State.engWrite_ok {o : EngineOp} {l : EngLoc} {bs : List Byte} (h : s.msys.Ok) : (s.engWrite o l bs).msys.Ok := by
  unfold State.engWrite
  refine State.ite_ok (MemSys.engPut_ok h) ?_
  split <;> exact h

theorem State.readUnit_ok {o : EngineOp} {ls : List EngLoc} (h : s.msys.Ok) : (s.readUnit o ls).2.msys.Ok := by
  induction ls generalizing s with
  | nil => exact h
  | cons l ls ih => exact ih (State.engRead_ok h)

theorem State.writeUnit_ok {o : EngineOp} {ls : List EngLoc} {bs : List Byte} (h : s.msys.Ok) : (s.writeUnit o ls bs).msys.Ok := by
  induction ls generalizing s bs with
  | nil => exact h
  | cons l ls ih => exact ih (State.engWrite_ok h)

theorem State.xferUnit_ok {o : EngineOp} {x : Xfer} (h : s.msys.Ok) : ∀ {y}, s.xferUnit o x = .ok y → y.1.msys.Ok := by
  intro y e
  unfold State.xferUnit at e
  split at e
  · split at e
    · injection e
    · injection e with e
      subst e
      exact State.readUnit_ok h
  · split at e
    · split at e
      · injection e
      · injection e with e
        subst e
        exact State.writeUnit_ok h
    · injection e with e
      subst e
      exact h

theorem State.senses_ok {x : Xfer} (h : s.msys.Ok) : (if x.senses then (false, s) else s.choose).2.msys.Ok :=
  State.ite_snd_ok h h

theorem State.xferGo_ok {o : EngineOp} {n : Nat} {x : Xfer} (h : s.msys.Ok) : (s.xferGo o n x).2.msys.Ok := by
  induction n generalizing s x with
  | zero => exact h
  | succ n ih =>
    rw [State.xferGo]
    split
    · exact h
    · rename_i e
      have h1 := State.xferUnit_ok h e
      split
      · rename_i e1
        exact State.of_snd (State.senses_ok h1) e1
      · rename_i e1
        exact ih (State.of_snd (State.senses_ok h1) e1)

theorem State.moveXfer_ok {whole : Bool} {ss sa ds da len : Nat} {o : EngineOp} (hm : m.Ok) :
    (s.moveXfer whole ss sa ds da len o m).2.2.Ok :=
  EngCheck.andThen_ok (State.engPlaces_ok hm) (fun _ _ _ h1 => EngCheck.andThen_ok (State.engPlaces_ok h1) (fun _ _ _ h2 => h2))

theorem State.mxXfer_ok {c : Cmd} {off len : Nat} {o : EngineOp} (hm : m.Ok) : (s.mxXfer c off len o m).2.2.Ok :=
  EngCheck.andThen_ok (State.engPlaces_ok hm) (fun _ _ _ h1 => EngCheck.andThen_ok (State.engPlaces_ok h1)
    (fun _ _ _ h2 => EngCheck.andThen_ok (State.engPlaces_ok h2) (fun _ _ _ h3 => EngCheck.andThen_ok (State.engPlaces_ok h3)
    (fun _ _ _ h4 => h4))))

theorem State.engIndex_ok {c : Cmd} {i : Nat} {o : EngineOp} (hm : m.Ok) : (s.engIndex c i o m).2.2.Ok :=
  EngCheck.andThen_ok (State.engPlaces_ok hm) (fun _ _ _ h1 => State.readUnit_ok h1)

theorem State.gatherXfer_ok {c : Cmd} {i x : Nat} {o : EngineOp} (hm : m.Ok) : (s.gatherXfer c i x o m).2.2.Ok := by
  unfold State.gatherXfer
  split
  · exact hm
  · exact State.moveXfer_ok hm

theorem State.scatterXfer_ok {c : Cmd} {i x : Nat} {o : EngineOp} (hm : m.Ok) : (s.scatterXfer c i x o m).2.2.Ok := by
  unfold State.scatterXfer
  split
  · exact hm
  · exact EngCheck.ite_ok hm (State.moveXfer_ok hm)

theorem State.unitXfer_ok {u x : Nat} {o : EngineOp} (hm : m.Ok) : (s.unitXfer u x o m).2.2.Ok := by
  unfold State.unitXfer
  dsimp only
  split
  · exact EngCheck.ite_ok (State.mxXfer_ok hm) (State.moveXfer_ok hm)
  · exact State.gatherXfer_ok hm
  · exact State.scatterXfer_ok hm
  · exact EngCheck.andThen_ok (State.engPlaces_ok hm) (fun _ _ _ h1 => h1)

theorem MemSys.countXfer_ok {o : EngineOp} {x : Xfer} {index : List EngLoc} (h : m.Ok) : (m.countXfer o x index).Ok :=
  MemSys.foldl_ok h (fun _ _ h1 => MemSys.count_ok h1)

theorem State.settleReplies_ok {cid team : Nat} {batch : Option Nat} (h : s.msys.Ok) : (s.settleReplies cid team batch).msys.Ok := by
  unfold State.settleReplies
  refine State.ite_ok h ?_
  dsimp only
  split
  · exact State.settleBatch_ok (State.foldl_ok h (fun _ _ h1 => h1))
  · exact State.foldl_ok h (fun _ _ h1 => h1)

theorem State.putOp_ok {o : EngineOp} (h : s.msys.Ok) : (s.putOp o).msys.Ok := by
  unfold State.putOp
  dsimp only
  split
  · exact State.ite_ok (State.settleBatch_ok (State.settleReplies_ok h)) (State.settleReplies_ok h)
  · exact State.settleReplies_ok h

theorem State.failOp_ok {o : EngineOp} {code cause : Nat} {write : Bool} {addr : Nat} (h : s.msys.Ok) :
    (s.failOp o code cause write addr).msys.Ok :=
  State.ite_ok (State.putOp_ok (MemSys.faultWrite_ok h)) h

theorem State.failSend_ok {o : EngineOp} {k : Nat} (h : s.msys.Ok) : (s.failSend o k).msys.Ok :=
  State.failOp_ok h

theorem State.sendOff_ok {o : EngineOp} (h : s.msys.Ok) : (s.sendOff o).msys.Ok :=
  State.ite_ok (State.putOp_ok h) (State.failSend_ok h)

theorem State.endUnits_ok {o : EngineOp} (h : s.msys.Ok) : (s.endUnits o).msys.Ok :=
  State.ite_ok (State.putOp_ok h) (State.ite_ok (State.putOp_ok h) (State.ite_ok (State.sendOff_ok h) (State.putOp_ok h)))

theorem MemSys.atsForget_ok {die world va : Nat} (h : m.Ok) : (m.atsForget die world va).Ok :=
  h

theorem MemSys.loseWrite_ok {p : FaultPost} {a : FaultOwner} {die world va cause : Nat} (h : m.Ok) :
    (if cause = 10 then (m.faultWrite p a).atsForget die world va else m.faultWrite p a).Ok :=
  MemSys.ite_ok (MemSys.atsForget_ok (MemSys.faultWrite_ok h)) (MemSys.faultWrite_ok h)

theorem State.loseUnit_ok {o : EngineOp} {u : Nat} {write : Bool} {cause va : Nat} (h : s.msys.Ok) :
    (s.loseUnit o u write cause va).msys.Ok := by
  unfold State.loseUnit
  refine State.ite_ok h ?_
  dsimp only
  exact State.ite_ok (State.endUnits_ok (MemSys.loseWrite_ok h)) (MemSys.loseWrite_ok h)

theorem State.engFailed_ok {o : EngineOp} {u : Nat} {f : EngFail} (h : s.msys.Ok) : (s.engFailed o u f).msys.Ok := by
  unfold State.engFailed
  split
  · exact State.loseUnit_ok h
  · exact State.ite_ok (State.endUnits_ok h) h
  · exact MemSys.atsAsk_ok h
  · exact State.failOp_ok h
  · exact h

theorem State.unitIndex_ok {o : EngineOp} {u : Nat} (h : s.msys.Ok) : (s.unitIndex o u).2.2.Ok :=
  EngCheck.ite_ok (State.engIndex_ok h) h

theorem State.unitStart_ok {o : EngineOp} {u : Nat} (h : s.msys.Ok) : (s.unitStart o u).2.2.Ok :=
  EngCheck.ite_ok h (EngCheck.ite_ok (EngCheck.andThen_ok (State.engPlaces_ok h) (fun _ _ _ h1 => MemSys.countXfer_ok h1))
    (EngCheck.andThen_ok (State.unitIndex_ok h) (fun _ _ _ h1 => EngCheck.ite_ok h1
    (EngCheck.andThen_ok (State.unitXfer_ok h1) (fun _ _ _ h2 => MemSys.countXfer_ok h2)))))

theorem State.chainRecord_ok {o : EngineOp} {bs : List Byte} (h : s.msys.Ok) : (s.chainRecord o bs).msys.Ok :=
  State.ite_ok (State.failOp_ok h) (State.ite_ok (State.endUnits_ok (State.mapTeam_ok h)) (State.mapTeam_ok h))

theorem State.unitDone_ok {o : EngineOp} {u : Nat} {x : Xfer} (h : s.msys.Ok) : (s.unitDone o u x).msys.Ok :=
  State.ite_ok (State.chainRecord_ok h) (State.ite_ok (State.endUnits_ok h) h)

theorem State.unitFailed_ok {o : EngineOp} {u : Nat} {f : EngFail} (h : s.msys.Ok) : (s.unitFailed o u f).msys.Ok := by
  unfold State.unitFailed
  dsimp only
  split
  · exact State.loseUnit_ok h
  · exact State.engFailed_ok h

theorem State.moveUnit_ok {o : EngineOp} {u : Nat} {x : Xfer} (h : s.msys.Ok) : (s.moveUnit o u x).msys.Ok := by
  unfold State.moveUnit
  split
  · rename_i e
    exact State.unitFailed_ok (State.of_snd (State.xferGo_ok h) e)
  · rename_i e
    have h1 := State.of_snd (State.xferGo_ok h) e
    exact State.ite_ok (State.unitDone_ok h1) h1

theorem State.engineUnit_ok {o : EngineOp} (h : s.msys.Ok) : (s.engineUnit o).msys.Ok := by
  unfold State.engineUnit
  split
  · exact State.endUnits_ok h
  · split
    · exact State.unitFailed_ok h
    · exact State.moveUnit_ok h
    · split
      · rename_i e
        exact State.moveUnit_ok (MemSys.of_snd_snd (State.unitStart_ok h) e)
      · rename_i e
        exact State.unitFailed_ok (MemSys.of_snd_snd (State.unitStart_ok h) e)

theorem execEngineSector_ok {r : TeamRef} {id : Nat} (h : s.msys.Ok) : Yields (execEngineSector r id s) := by
  unfold execEngineSector
  split
  · exact yields_ite (yields_next (State.engineUnit_ok h)) (yields_next h)
  · exact yields_next h

end Sys2Proof.Machine
end

section
/-! SUPPORT. What every step keeps of memory (O59): weight contexts and the Acorn (Acorn). -/

namespace Sys2Proof.Machine

variable {m : MemSys} {s : State}

theorem State.readerFails_ok {key die world : Nat} {f : AgentFail} (h : s.msys.Ok) : (s.readerFails key die world f).msys.Ok :=
  State.ite_ok (MemSys.agentFail_ok h) (State.ite_ok (MemSys.agentFail_ok h) h)

theorem State.writeDesc_ok {ctx : Nat} {c : WCtx} {off : Nat} {bs : List Byte} (h : s.msys.Ok) : (s.writeDesc ctx c off bs).msys.Ok :=
  State.agentWrite_ok h

theorem State.disable_ok {ctx : Nat} {c : WCtx} (h : s.msys.Ok) : (s.disable ctx c).msys.Ok :=
  State.writeDesc_ok h

theorem execWeightContextEnable_ok {ctx : Nat} (h : s.msys.Ok) : Yields (execWeightContextEnable ctx s) := by
  unfold execWeightContextEnable
  split
  · exact yields_next (State.ite_ok h (State.disable_ok h))
  · exact yields_next h
  · split
    · exact yields_next (State.readerFails_ok h)
    · rename_i e
      exact yields_ite (yields_next h) (yields_ite (yields_next (MemSys.agentRead_ok h e))
        (yields_next (State.writeDesc_ok (MemSys.agentRead_ok h e))))

theorem State.ringEntry_ok {c : WCtx} (h : s.msys.Ok) : ∀ {y}, s.ringEntry c = some y → y.2.Ok := by
  intro y e
  unfold State.ringEntry at e
  split at e
  · rename_i e1
    split at e
    · injection e
    · injection e with e
      subst e
      exact MemSys.agentRead_ok h e1
  · injection e

theorem State.ringNext_ok {c : WCtx} (h : s.msys.Ok) :
    ∀ {y : Bool × List Byte × MemSys}, (s.ringEntry c).map (fun e => (true, e.1, e.2)) = some y → y.2.2.Ok := by
  intro y e
  obtain ⟨x, hx, rfl⟩ := Option.map_eq_some_iff.mp e
  exact State.ringEntry_ok h hx

theorem State.nextEntry_ok {c : WCtx} (h : s.msys.Ok) : ∀ {y}, s.nextEntry c = some y → y.2.2.Ok := by
  intro y e
  unfold State.nextEntry at e
  split at e
  · split at e
    · injection e with e
      subst e
      exact h
    · exact State.ringNext_ok h e
  · exact State.ringNext_ok h e

theorem State.acornNext_ok {ctx : Nat} (h : s.msys.Ok) : ∀ {y}, s.acornNext ctx = some y → y.1.msys.Ok := by
  intro y e
  unfold State.acornNext at e
  split at e
  · injection e
  · split at e
    · injection e
    · rename_i e1
      split at e
      · rename_i e2
        injection e with e
        subst e
        exact MemSys.agentRead_ok (State.nextEntry_ok h e1) e2
      · injection e

theorem State.acornFault_ok {ctx : Nat} (h : s.msys.Ok) : (s.acornFault ctx).msys.Ok := by
  unfold State.acornFault
  split
  · exact State.readerFails_ok h
  · exact h

theorem State.writeRing_ok {ctx : Nat} {c : WCtx} {va : Nat} {bs : List Byte} (h : s.msys.Ok) : (s.writeRing ctx c va bs).msys.Ok :=
  State.agentWrite_ok h

theorem State.leaveRing_ok {ctx : Nat} {c : WCtx} {ring : Bool} (h : s.msys.Ok) : (s.leaveRing ctx c ring).msys.Ok :=
  State.ite_ok (State.writeRing_ok (State.writeRing_ok h)) h

theorem State.rejectEntry_ok {ctx : Nat} {c : WCtx} {ring : Bool} (h : s.msys.Ok) : (s.rejectEntry ctx c ring).msys.Ok :=
  State.leaveRing_ok (State.writeRing_ok h)

theorem State.setAside_ok {ctx : Nat} {c : WCtx} {e : List Byte} (h : s.msys.Ok) : (s.setAside ctx c e).msys.Ok :=
  State.ite_ok (State.rejectEntry_ok h) (State.leaveRing_ok h)

theorem State.writeGens_ok {ctx : Nat} {c : WCtx} (h : s.msys.Ok) : (s.writeGens ctx c).msys.Ok :=
  State.writeDesc_ok h

theorem State.weights_ok {c : WCtx} {x : WSlot} (h : s.msys.Ok) : (s.weights c x).2.Ok := by
  unfold State.weights
  split
  · exact h
  · rename_i e
    refine MemSys.ite_snd_ok (MemSys.agentRead_ok h e) (MemSys.ite_snd_ok (MemSys.ite_snd_ok (MemSys.agentRead_ok h e) ?_) ?_)
    · split
      · exact h
      · exact MemSys.agentRead_ok h e
      · exact MemSys.agentRead_ok h e
      · exact MemSys.agentRead_ok h e
    · split
      · rename_i e1
        exact MemSys.agentRead_ok (MemSys.agentRead_ok h e) e1
      · exact MemSys.agentRead_ok h e

theorem State.startLoad_ok {ctx : Nat} {c : WCtx} {w : RouteWork} {g e k : Nat} (h : s.msys.Ok) : (s.startLoad ctx c w g e k).msys.Ok := by
  unfold State.startLoad
  dsimp only
  split <;> exact h

theorem State.appendExpert_ok {ctx : Nat} {c : WCtx} {w : RouteWork} {e score : Nat} {k : Option Nat} (h : s.msys.Ok) : ∀ {y},
    s.appendExpert ctx c w e score k = some y → y.msys.Ok := by
  intro y e
  unfold State.appendExpert at e
  split at e
  · split at e
    · injection e
    · injection e with e
      subst e
      exact State.binAppend_ok h
  · injection e

theorem State.routeGo_ok {ctx n : Nat} (h : s.msys.Ok) : (State.routeGo ctx n s).msys.Ok := by
  induction n generalizing s with
  | zero => exact h
  | succ n ih =>
    rw [State.routeGo]
    split
    · exact h
    · split
      · exact h
      · split
        · exact State.leaveRing_ok h
        · dsimp only
          split
          · exact State.startLoad_ok h
          · refine State.ite_ok h ?_
            split
            · rename_i e
              exact ih (State.appendExpert_ok h e)
            · exact h

theorem State.routeOn_ok {ctx : Nat} (h : s.msys.Ok) : (s.routeOn ctx).msys.Ok :=
  State.routeGo_ok h

theorem State.bindRoute_ok {ctx : Nat} {c : WCtx} {ring : Bool} {e : List Byte} {opened : Bool} (h : s.msys.Ok) :
    (s.bindRoute ctx c ring e opened).msys.Ok :=
  State.routeOn_ok (State.writeDesc_ok (State.ite_ok (State.writeGens_ok h) h))

theorem State.route_ok {ctx : Nat} {c : WCtx} {ring : Bool} {e : List Byte} (h : s.msys.Ok) : (s.route ctx c ring e).msys.Ok := by
  unfold State.route
  refine State.ite_ok (State.rejectEntry_ok h) (State.ite_ok (State.setAside_ok h) ?_)
  split
  · exact State.ite_ok (State.rejectEntry_ok h) (State.bindRoute_ok h)
  · exact State.ite_ok (State.setAside_ok h) (State.bindRoute_ok h)

theorem execRouteEntry_ok {ctx : Nat} (h : s.msys.Ok) : Yields (execRouteEntry ctx s) := by
  unfold execRouteEntry
  split
  · exact yields_next h
  · refine yields_ite (yields_next (State.routeOn_ok h)) ?_
    split
    · rename_i e
      exact yields_ite (yields_next h) (yields_next (State.route_ok (State.acornNext_ok h e)))
    · exact yields_next h

theorem State.retireEntry_ok {ctx : Nat} {c : WCtx} {ring : Bool} {e : List Byte} (h : s.msys.Ok) : (s.retireEntry ctx c ring e).msys.Ok :=
    by
  unfold State.retireEntry
  refine State.ite_ok (State.rejectEntry_ok h) ?_
  split
  · exact State.leaveRing_ok (State.writeGens_ok h)
  · exact State.ite_ok (State.setAside_ok h) (State.rejectEntry_ok h)

theorem execRetireEntry_ok {ctx : Nat} (h : s.msys.Ok) : Yields (execRetireEntry ctx s) := by
  unfold execRetireEntry
  split
  · rename_i e
    exact yields_ite (yields_next (State.retireEntry_ok (State.acornNext_ok h e))) (yields_next h)
  · exact yields_next h

theorem State.failLoad_ok {ctx : Nat} {c : WCtx} {k : Nat} (h : s.msys.Ok) : (s.failLoad ctx c k).msys.Ok :=
  State.routeOn_ok h

theorem State.endLoad_ok {ctx : Nat} {c : WCtx} {k : Nat} {x : WSlot} {bs : List Byte} (h : s.msys.Ok) : (s.endLoad ctx c k x bs).msys.Ok :=
  State.routeOn_ok (MemSys.writeFree_ok h)

theorem State.loseLoad_ok {ctx : Nat} {c : WCtx} {k page : Nat} (h : s.msys.Ok) : (s.loseLoad ctx c k page).msys.Ok :=
  State.ite_ok (State.failLoad_ok (MemSys.faultWrite_ok h)) h

theorem State.missLoad_ok {ctx : Nat} {c : WCtx} {k : Nat} {x : WSlot} {write : Bool} {f : AgentFail} (h : s.msys.Ok) :
    (s.missLoad ctx c k x write f).msys.Ok :=
  State.ite_ok (MemSys.agentFail_ok h) (State.ite_ok h (State.ite_ok (State.failLoad_ok (MemSys.agentFail_ok h)) (MemSys.agentFail_ok h)))

theorem execSlotLoad_ok {ctx k : Nat} {ok : Bool} (h : s.msys.Ok) : Yields (execSlotLoad ctx k ok s) := by
  unfold execSlotLoad
  split
  · exact yields_next h
  · split
    · exact yields_next h
    · refine yields_ite (yields_next h) ?_
      split
      · rename_i e
        dsimp only
        split
        · split
          · exact yields_next (State.loseLoad_ok (MemSys.of_snd (State.weights_ok h) e))
          · exact yields_next h
          · split
            · exact yields_next (State.missLoad_ok (MemSys.of_snd (State.weights_ok h) e))
            · exact yields_next (State.endLoad_ok (MemSys.of_snd (State.weights_ok h) e))
        · exact yields_next (State.failLoad_ok (MemSys.of_snd (State.weights_ok h) e))
        · exact yields_next (State.loseLoad_ok (MemSys.of_snd (State.weights_ok h) e))
        · exact yields_next h
        · exact yields_next (State.missLoad_ok (MemSys.of_snd (State.weights_ok h) e))

theorem State.answerSlot_ok {ctx k : Nat} {retry : Bool} (h : s.msys.Ok) : (s.answerSlot ctx k retry).msys.Ok := by
  unfold State.answerSlot
  split
  · exact h
  · split
    · exact State.ite_ok h (State.ite_ok h (State.failLoad_ok h))
    · exact h

end Sys2Proof.Machine
end

section
/-! SUPPORT. What every step keeps of memory (O59): fetches and context images (Clause, Context). -/

namespace Sys2Proof.Machine

variable {m : MemSys} {s : State}

/-! Fetches. -/

theorem Issuer.fetchPieces_ok {c : Issuer} {free : Nat} {ps : List (Nat × Nat)} (h : m.Ok) :
    ∀ {y}, c.fetchPieces m free ps = .ok y → y.1.Ok := by
  intro y e
  induction ps generalizing m free y with
  | nil =>
    rw [Issuer.fetchPieces] at e
    injection e with e
    subst e
    exact h
  | cons p ps ih =>
    rw [Issuer.fetchPieces] at e
    split at e
    · dsimp only at e
      split at e
      · rename_i e1
        injection e with e
        subst e
        have h1 := ih (MemSys.number_ok (MemSys.count_ok (MemSys.tlbFill_ok h))) e1
        exact h1
      · injection e
    · injection e
    · injection e
    · injection e

theorem State.fetchWords_ok {c : Issuer} {head : Word × Word} {va n : Nat} {k : State → List Word → State} (h : s.msys.Ok)
    (hk : ∀ {t ws}, t.msys.Ok → (k t ws).msys.Ok) : (s.fetchWords c head va n k).msys.Ok := by
  unfold State.fetchWords
  split
  · rename_i e
    exact hk (Issuer.fetchPieces_ok h e)
  · exact State.accessFails_ok h

theorem State.fetchClause_ok {c : Issuer} (h : s.msys.Ok) : (s.fetchClause c).msys.Ok :=
  State.fetchWords_ok h fun h1 => State.ite_ok (State.badClause_ok h1)
    (State.fetchWords_ok h1 fun h2 => State.ite_ok h2 (State.badClause_ok h2))

theorem State.refetch_ok {c : Issuer} {k : Clause} (h : s.msys.Ok) : (s.refetch c k).msys.Ok :=
  State.fetchWords_ok h fun h1 => h1

theorem execClauseFetch_ok {r : TeamRef} (h : s.msys.Ok) : Yields (execClauseFetch r s) := by
  unfold execClauseFetch
  split
  · exact yields_next h
  · refine yields_ite (yields_next h) ?_
    split
    · exact yields_next (State.refetch_ok h)
    · exact yields_next (State.fetchClause_ok h)

theorem execTrapEntry_ok {r : TeamRef} (h : s.msys.Ok) : Yields (execTrapEntry r s) := by
  unfold execTrapEntry
  split
  · exact yields_next h
  · split
    · exact yields_next (State.tryEnter_ok h)
    · exact yields_next h

/-! Context images. -/

theorem Issuer.imagePiece_ok {c : Issuer} {free world : Nat} {write : Bool} {va : Nat} (h : m.Ok) :
    ∀ {n ps}, c.imagePiece m free world write va = .ok n ps → n.Ok := by
  intro n ps e
  unfold Issuer.imagePiece at e
  dsimp only at e
  split at e
  · injection e
  · split at e
    · split at e
      · injection e
      · injection e
    · split at e
      · injection e
      · injection e
      · split at e
        · injection e
        · injection e with e
          subst e
          exact MemSys.count_ok (MemSys.tlbFill_ok h)

theorem Issuer.imagePieces_ok {c : Issuer} {free world : Nat} {write : Bool} {rs : List (Nat × Nat)} (h : m.Ok) :
    ∀ {n ps}, c.imagePieces m free world write rs = .ok n ps → n.Ok := by
  intro n ps e
  induction rs generalizing m free n ps with
  | nil =>
    rw [Issuer.imagePieces] at e
    injection e with e
    subst e
    exact h
  | cons p rs ih =>
    rw [Issuer.imagePieces] at e
    split at e
    · rename_i e1
      have h1 := Issuer.imagePiece_ok h e1
      split at e
      · rename_i e2
        injection e with e
        subst e
        exact ih h1 e2
      · exact ih h1 e
    · exact Issuer.imagePiece_ok h e

theorem State.imageAt_ok {c : Issuer} {world : Nat} {write : Bool} {va len : Nat} (h : s.msys.Ok) :
    ∀ {n ps}, s.imageAt c world write va len = .ok n ps → n.Ok := by
  intro n ps e
  unfold State.imageAt at e
  exact Issuer.imagePieces_ok h e

theorem State.ctxFail_ok {c : Issuer} {write : Bool} {cause va : Nat} (h : s.msys.Ok) : (s.ctxFail c write cause va).msys.Ok :=
  State.ite_ok h (State.ite_ok h (MemSys.faultWrite_ok (MemSys.ite_ok (MemSys.atsForget_ok h) h)))

theorem State.imageFail_ok {c : Issuer} {write : Bool} {r : ImageRes} (h : s.msys.Ok) : (s.imageFail c write r).msys.Ok := by
  unfold State.imageFail
  split
  · exact State.ctxFail_ok h
  · exact MemSys.atsAsk_ok h
  · exact h
  · exact h

theorem State.ctxOp_ok {c : Issuer} {a : Reg} {k : Nat → State} (h : s.msys.Ok) (hk : ∀ a, (k a).msys.Ok) : (s.ctxOp c a k).msys.Ok :=
  State.ite_ok (State.illegal_ok h) (State.ite_ok (State.raise_ok h) (hk _))

theorem State.stopFor_ok {c : Issuer} {cid : Nat} {t : Crew} {va : Nat} (h : s.msys.Ok) : (s.stopFor c cid t va).msys.Ok := by
  unfold State.stopFor
  refine State.ite_ok h (State.ite_ok h (State.ite_ok h (State.ite_ok h ?_)))
  split
  · exact h
  · exact State.imageFail_ok h

theorem execCtxsv_ok {a : Reg} (h : s.msys.Ok) : Yields (execCtxsv a s) := by
  unfold execCtxsv
  refine State.issue_ok (fun _ => State.ctxOp_ok h (fun _ => ?_))
  split
  · exact State.stopFor_ok h
  · exact h

theorem State.saveCrew_ok {r : TeamRef} {cid : Nat} {c : Crew} {ps : List (Nat × Nat × Dword)} (h : s.msys.Ok) :
    (s.saveCrew r cid c ps).msys.Ok :=
  State.ctxDone_ok (State.takeOff_ok (MemSys.agentPut_ok (State.foldOps_ok h)))

theorem execCrewSave_ok {r : TeamRef} (h : s.msys.Ok) : Yields (execCrewSave r s) := by
  unfold execCrewSave
  split
  · refine yields_ite (yields_next h) (yields_ite (yields_ite (yields_next (State.ctxDone_ok h)) (yields_next h)) ?_)
    split
    · rename_i e
      exact yields_next (State.saveCrew_ok (State.imageAt_ok h e))
    · exact yields_next (State.imageFail_ok h)
  · exact yields_next h

theorem State.noteDie_ok {t : Crew} {die : Nat} (h : s.msys.Ok) : (s.noteDie t die).msys.Ok := by
  unfold State.noteDie
  split
  · exact State.ite_ok h (State.areaWrite_ok h)
  · exact h

theorem State.restore_ok {c : Issuer} {cid : Nat} {t : Crew} {h5 : TeamRef} (h : s.msys.Ok) : (s.restore c cid t h5).msys.Ok :=
  MemSys.acquire_ok (State.barSweep_ok (State.noteDie_ok (State.putOn_ok h)))

theorem State.loadImage_ok {c : Issuer} {va : Nat} {hs : List Byte} {world : Nat} (h : s.msys.Ok) : (s.loadImage c va hs world).msys.Ok :=
    by
  unfold State.loadImage
  split
  · split
    · rename_i e
      exact State.ite_ok (MemSys.numberAll_ok (State.imageAt_ok h e)) (State.ite_ok (MemSys.numberAll_ok (State.imageAt_ok h e))
        (State.ite_ok (State.restore_ok (MemSys.numberAll_ok (State.imageAt_ok h e))) (MemSys.numberAll_ok (State.imageAt_ok h e))))
    · exact State.imageFail_ok h
  · exact h

theorem execCtxld_ok {a : Reg} (h : s.msys.Ok) : Yields (execCtxld a s) := by
  unfold execCtxld
  refine State.issue_ok (fun _ => State.ctxOp_ok h (fun _ => State.ite_ok h ?_))
  split
  · exact State.ctxFail_ok h
  · split
    · rename_i e
      exact State.loadImage_ok (MemSys.numberAll_ok (State.imageAt_ok h e))
    · exact State.imageFail_ok h

end Sys2Proof.Machine
end

section
/-! SUPPORT. What every step keeps of memory (O59): the pod and the fault queue (Fabric, FaultEvents). -/

namespace Sys2Proof.Machine

variable {m : MemSys} {s : State}

theorem State.ringRead_ok {ring : Nat} (h : s.msys.Ok) : ∀ {y}, s.ringRead ring = .ok y → y.2.msys.Ok := by
  intro y e
  unfold State.ringRead at e
  split at e
  · rename_i e1
    injection e with e
    subst e
    refine MemSys.numberAll_ok ?_
    split
    · exact MemSys.fix_ok (MemSys.agentPieces_ok h e1)
    · exact MemSys.agentPieces_ok h e1
  · injection e

theorem State.markSend_ok {m : SendMsg} {k : Nat} (h : s.msys.Ok) : (s.markSend m k).msys.Ok := by
  unfold State.markSend
  split <;> exact h

theorem State.hears_ok {m : SendMsg} (h : s.msys.Ok) : (s.hears m).msys.Ok := by
  unfold State.hears
  split <;> exact h

theorem State.flitFrom_ok {m : Nat} (h : s.msys.Ok) : (s.flitFrom m).msys.Ok :=
  State.ite_ok h h

theorem execSendArrival_ok {m : SendMsg} (h : s.msys.Ok) : Yields (execSendArrival m s) := by
  unfold execSendArrival
  split
  · refine yields_ite (yields_next (State.hears_ok h)) ?_
    split
    · rename_i e
      exact yields_next (State.ite_ok (State.markSend_ok (State.hears_ok (State.ringRead_ok h e)))
        (State.markSend_ok (State.hears_ok (State.ringRead_ok h e))))
    · exact yields_next (State.readerFails_ok (State.hears_ok h))
  · exact yields_next (State.hears_ok h)
  · exact yields_next h

theorem State.deliver_ok {ring : Nat} {r : Ring} {m : SendMsg} (h : s.msys.Ok) : (s.deliver ring r m).msys.Ok :=
  State.agentWrite_ok (State.agentWrite_ok (State.agentWrite_ok h))

theorem State.endDelivery_ok {ring : Nat} {m : SendMsg} (h : s.msys.Ok) : (s.endDelivery ring m).msys.Ok :=
  State.ite_ok h (State.markSend_ok h)

theorem execReceiveRingDelivery_ok {ring : Nat} (h : s.msys.Ok) : Yields (execReceiveRingDelivery ring s) := by
  unfold execReceiveRingDelivery
  split
  · exact yields_next h
  · refine yields_ite (yields_next (State.ite_ok h (State.endDelivery_ok h))) (yields_ite (yields_next h) ?_)
    split
    · rename_i e
      exact yields_ite (yields_next (State.endDelivery_ok (State.deliver_ok (State.ringRead_ok h e)))) (yields_next h)
    · exact yields_next (State.readerFails_ok h)

theorem State.hearAnswer_ok {o : EngineOp} (h : s.msys.Ok) : (s.hearAnswer o).msys.Ok := by
  unfold State.hearAnswer
  split
  · exact State.flitFrom_ok h
  · exact h

theorem execSendAcknowledge_ok {r : TeamRef} {id : Nat} {accepted : Bool} (h : s.msys.Ok) : Yields (execSendAcknowledge r id accepted s) :=
    by
  unfold execSendAcknowledge
  split
  · exact yields_ite (yields_next h) (yields_ite (yields_next (State.putOp_ok (State.hearAnswer_ok h)))
      (yields_next (State.failSend_ok (State.hearAnswer_ok h))))
  · exact yields_next h

theorem State.declareSilent_ok {m : Nat} (h : s.msys.Ok) : (s.declareSilent m).msys.Ok :=
  State.barSweep_ok (State.foldl_ok h (fun _ _ h1 => State.failSend_ok h1))

theorem State.countSilence_ok {m : Nat} (h : s.msys.Ok) : (s.countSilence m).msys.Ok :=
  State.ite_ok (State.declareSilent_ok h) h

theorem execHeartbeatInterval_ok (h : s.msys.Ok) : Yields (execHeartbeatInterval s) :=
  yields_ite (yields_next (State.foldl_ok h (fun _ _ h1 => State.countSilence_ok h1))) (yields_next h)

theorem execHeartbeatReceive_ok {m : Nat} (h : s.msys.Ok) : Yields (execHeartbeatReceive m s) :=
  yields_ite (yields_next h) (yields_next h)

theorem execFenceFlit_ok (h : s.msys.Ok) : Yields (execFenceFlit s) :=
  yields_ite (yields_next h) (yields_next h)

theorem execLinkLevelRetry_ok {_port : Nat} (h : s.msys.Ok) : Yields (execLinkLevelRetry _port s) := by
  unfold execLinkLevelRetry
  exact yields_next h

theorem MemSys.podAtomic_ok {a : PodAccess} {w : Nat} {f : Nat → Nat} (h : m.Ok) : (m.podAtomic a w f).Ok :=
  MemSys.softWrite_ok (MemSys.number_ok h)

theorem execPodWindowAccess_ok {a : PodAccess} (h : s.msys.Ok) : Yields (execPodWindowAccess a s) := by
  unfold execPodWindowAccess
  refine yields_ite (yields_next (State.flitFrom_ok h)) ?_
  dsimp only
  split
  · exact yields_next (MemSys.number_ok h)
  · exact yields_next (MemSys.softWrite_ok (MemSys.number_ok h))
  · exact yields_next (MemSys.podAtomic_ok h)
  · exact yields_next (MemSys.podAtomic_ok h)
  · exact yields_next (MemSys.podAtomic_ok h)

theorem execFaultRecordPost_ok {die : Nat} (h : s.msys.Ok) : Yields (execFaultRecordPost die s) := by
  unfold execFaultRecordPost
  split
  · exact yields_ite (yields_next (MemSys.faultWrite_ok h)) (yields_next h)
  · exact yields_next h

theorem MemSys.answer_ok {die : Nat} {index : Word} {retry : Bool} (h : m.Ok) : (m.answer die index retry).Ok :=
  MemSys.writeFree_ok h

theorem State.answerOp_ok {id : Nat} {index : Word} {retry : Bool} (h : s.msys.Ok) : (s.answerOp id index retry).msys.Ok := by
  unfold State.answerOp
  split
  · exact State.settleReplies_ok h
  · exact h

theorem State.answerBlock_ok {gid : Word} {key : Nat} {retry : Bool} (h : s.msys.Ok) : (s.answerBlock gid key retry).msys.Ok := by
  unfold State.answerBlock
  split
  · exact State.ite_ok h h
  · exact h

theorem State.retryAgents_ok (h : s.msys.Ok) : s.retryAgents.msys.Ok :=
  State.foldl_ok (State.agentFlush_ok h) (fun _ _ h1 => State.settleQueue_ok h1)

theorem State.answerAgent_ok {id : Nat} (h : s.msys.Ok) : (s.answerAgent id).msys.Ok :=
  State.retryAgents_ok h

theorem State.answerKey_ok {id : Nat} {retry : Bool} (h : s.msys.Ok) : (s.answerKey id retry).msys.Ok := by
  unfold State.answerKey
  split
  · split
    · exact State.ite_ok h (State.releaseKeys_ok h)
    · exact h
  · exact h

theorem State.answerLanding_ok {cid : Nat} (h : s.msys.Ok) : (s.answerLanding cid).msys.Ok := by
  unfold State.answerLanding
  split <;> exact h

theorem State.reply_ok {die : Nat} {index : Word} {retry : Bool} (h : s.msys.Ok) : (s.reply die index retry).msys.Ok := by
  unfold State.reply
  split
  · exact h
  · dsimp only
    split
    · exact MemSys.answer_ok h
    · exact State.answerOp_ok (MemSys.answer_ok h)
    · exact State.answerBlock_ok (MemSys.answer_ok h)
    · exact State.answerAgent_ok (MemSys.answer_ok h)
    · exact State.answerKey_ok (MemSys.answer_ok h)
    · exact State.answerSlot_ok (MemSys.answer_ok h)
    · exact State.answerLanding_ok (MemSys.answer_ok h)
    · exact MemSys.answer_ok h

theorem execFaultReplyRetry_ok {die : Nat} {index : Word} (h : s.msys.Ok) : Yields (execFaultReplyRetry die index s) := by
  unfold execFaultReplyRetry
  exact yields_next (State.reply_ok h)

theorem execFaultReplyEnd_ok {die : Nat} {index : Word} (h : s.msys.Ok) : Yields (execFaultReplyEnd die index s) := by
  unfold execFaultReplyEnd
  exact yields_next (State.reply_ok h)

theorem execPageRequestSend_ok {die : Nat} (h : s.msys.Ok) : Yields (execPageRequestSend die s) := by
  unfold execPageRequestSend
  split <;> exact yields_next h

theorem execPrgResponse_ok {die group : Nat} {success : Bool} (h : s.msys.Ok) : Yields (execPrgResponse die group success s) := by
  unfold execPrgResponse
  split
  · exact yields_next (State.reply_ok h)
  · exact yields_next h

theorem execAtsCompletion_ok {die : Nat} {a : AtsAnswer} (h : s.msys.Ok) : Yields (execAtsCompletion die a s) := by
  unfold execAtsCompletion
  split
  · exact yields_next h
  · refine yields_ite (yields_next (State.retryAgents_ok h)) ?_
    split
    · exact yields_ite (yields_next (State.retryAgents_ok (MemSys.tlbFill_ok h))) (yields_next h)
    · exact yields_next h

theorem execAtsInvalidation_ok {pasid page : Nat} (h : s.msys.Ok) : Yields (execAtsInvalidation pasid page s) := by
  unfold execAtsInvalidation
  exact yields_next h

theorem State.endInvalidation_ok {pasid page : Nat} (h : s.msys.Ok) : (s.endInvalidation pasid page).msys.Ok :=
  State.ite_ok h h

theorem execAccessCounterThreshold_ok {die space region : Nat} (h : s.msys.Ok) : Yields (execAccessCounterThreshold die space region s) :=
    by
  unfold execAccessCounterThreshold
  dsimp only
  split
  · exact yields_ite (yields_next (MemSys.faultWrite_ok h)) (yields_next h)
  · exact yields_next h

end Sys2Proof.Machine
end

section
/-! SUPPORT. What every step keeps of memory (O59): the host's links and service calls (HostLink, Service). -/

namespace Sys2Proof.Machine

variable {m : MemSys} {s : State}

/-! The host's links. -/

/-- With no dirty line left, none is broken. -/
theorem MemSys.ok_of_nil {n : MemSys} (h : m.Ok) (hm : n.mem = m.mem) (hd : n.dirty = []) : n.Ok := by
  refine ⟨?_, ?_, ?_⟩
  · rw [hm]
    exact h.1
  · simp [hd]
  · simp [hd]

theorem MemSys.hostStore_ok {line : Nat} {ws : List (Nat × Byte)} (h : m.Ok) : (m.hostStore line ws).Ok := by
  induction ws generalizing m with
  | nil => exact h
  | cons w ws ih => exact ih (MemSys.pokeB_ok h)

theorem execCxlMemRequest_ok {pa : Nat} {write : Option (List Byte)} (h : s.msys.Ok) : Yields (execCxlMemRequest pa write s) := by
  unfold execCxlMemRequest
  split
  · exact yields_ite (yields_next (MemSys.number_ok h)) (yields_next h)
  · exact yields_ite (yields_next (MemSys.softWrite_ok (MemSys.number_ok h))) (yields_next h)

theorem execHostSnoop_ok {line : Nat} {store : List (Nat × Byte)} (h : s.msys.Ok) : Yields (execHostSnoop line store s) := by
  unfold execHostSnoop
  refine yields_ite (yields_next (MemSys.hostStore_ok ?_)) (yields_next h)
  split
  · exact MemSys.writeBack_ok h
  · exact h

theorem State.enterError_ok (h : s.msys.Ok) : s.enterError.msys.Ok :=
  State.ite_ok h h

theorem State.performMemory_ok {r : TeamRef} {n k : Nat} (h : s.msys.Ok) : (s.performMemory r n k).msys.Ok := by
  induction n generalizing s k with
  | zero => exact h
  | succ n ih =>
    rw [State.performMemory]
    split
    · exact h
    · split
      · exact h
      · exact State.ite_ok (ih h) (ih (State.performAt_ok h))

theorem State.settleHost_ok (h : s.msys.Ok) : s.settleHost.msys.Ok := by
  unfold State.settleHost
  refine State.foldl_ok h (fun _ _ h1 => ?_)
  split
  · exact State.ite_ok (State.performMemory_ok h1) h1
  · exact h1

theorem execDataLinkDown_ok (h : s.msys.Ok) : Yields (execDataLinkDown s) := by
  unfold execDataLinkDown
  refine yields_ite (yields_next (State.enterError_ok ?_)) (yields_next h)
  exact State.foldl_ok (MemSys.ok_of_nil (State.settleHost_ok h) rfl rfl) fun _ _ h1 => h1

theorem execDataLinkActive_ok (h : s.msys.Ok) : Yields (execDataLinkActive s) :=
  yields_ite (yields_next h) (yields_next h)

theorem execIdeFailure_ok (h : s.msys.Ok) : Yields (execIdeFailure s) := by
  unfold execIdeFailure
  exact yields_next (State.enterError_ok h)

theorem execConfigAccessOutsideMessage_ok (h : s.msys.Ok) : Yields (execConfigAccessOutsideMessage s) := by
  unfold execConfigAccessOutsideMessage
  exact yields_next (State.enterError_ok h)

theorem State.svcHand_ok {c : Issuer} {k : Nat} {lanes : LaneSet} {a : Reg} {p : Nat × Nat} (h : s.msys.Ok) :
    (s.svcHand c k lanes a p).msys.Ok :=
  State.agentWrite_ok h

theorem execSvc_ok {d a : Reg} {k : BitVec 8} (h : s.msys.Ok) : Yields (execSvc d a k s) :=
  State.issue_ok (fun _ => State.ite_ok (State.illegal_ok h) (State.ite_ok (State.raise_ok h)
    (State.ite_ok h (State.ite_ok h (State.ite_ok h (State.foldl_ok h (fun _ _ h1 => State.svcHand_ok h1)))))))

theorem State.svcnextRead_ok {c : Issuer} {d : Reg} (h : s.msys.Ok) : (s.svcnextRead c d).msys.Ok := by
  unfold State.svcnextRead
  split
  · exact h
  · dsimp only
    split <;> exact h

theorem State.svcEnd_ok {r : TeamRef} {a : Reg} {k : Nat} {call : SvcCall} (h : s.msys.Ok) : (s.svcEnd r a k call).msys.Ok := by
  unfold State.svcEnd
  split
  · exact h
  · exact State.ite_ok (MemSys.acquire_ok h) (State.raise_ok (MemSys.acquire_ok h))

theorem State.svcReturn_ok {b : SvcBatch} {bs : List Byte} (h : s.msys.Ok) : (s.svcReturn b bs).msys.Ok := by
  unfold State.svcReturn
  split
  · exact h
  · split
    · exact State.ite_ok h (State.ite_ok (State.svcEnd_ok h) h)
    · exact h

theorem State.svcdoneWrite_ok {c : Issuer} {d : Reg} (h : s.msys.Ok) : (s.svcdoneWrite c d).msys.Ok := by
  unfold State.svcdoneWrite
  dsimp only
  split
  · exact h
  · refine State.ite_ok h (State.ite_ok h ?_)
    split
    · exact State.ite_ok (MemSys.atsAsk_ok h) (State.ite_ok (State.raise_ok h)
        (State.xlateTrap_ok (State.ite_ok (MemSys.atsForget_ok h) h)))
    · rename_i e
      exact State.svcReturn_ok (MemSys.agentRead_ok h e)

theorem execSvcnextRead_ok {d : Reg} (h : s.msys.Ok) : Yields (execSvcnextRead d s) :=
  State.issue_ok (fun _ => State.ite_ok (State.svcnextRead_ok h) (State.illegal_ok h))

theorem execSvcdoneWrite_ok {d : Reg} (h : s.msys.Ok) : Yields (execSvcdoneWrite d s) :=
  State.issue_ok (fun _ => State.ite_ok (State.svcdoneWrite_ok h) (State.illegal_ok h))

end Sys2Proof.Machine
end

section
/-! SUPPORT. What every step keeps of memory (O59): privileged instructions and the firmware (Priv, Firmware). -/

namespace Sys2Proof.Machine

variable {m : MemSys} {s : State}

theorem State.frameRead_ok {f : Frame} {off n : Nat} (h : s.msys.Ok) : ∀ {y}, s.frameRead f off n = some y → y.2.msys.Ok := by
  intro y e
  unfold State.frameRead at e
  split at e
  · injection e
  · injection e with e
    subst e
    exact MemSys.number_ok h

theorem State.eretAction_ok {c : Issuer} {f : Frame} {action : Nat} (h : s.msys.Ok) : (s.eretAction c f action).msys.Ok := by
  unfold State.eretAction
  split
  · refine State.ite_ok h ?_
    split
    · rename_i e
      exact State.frameRead_ok h e
    · exact State.doubleTrap_ok h
  · exact State.ite_ok h (State.doubleTrap_ok h)
  · exact State.afterRetire_ok h
  · exact State.doubleTrap_ok h

theorem execEret_ok (h : s.msys.Ok) : Yields (execEret s) := by
  unfold execEret
  refine State.issue_ok (fun _ => State.ite_ok (State.illegal_ok h) (State.ite_ok h ?_))
  split
  · exact State.doubleTrap_ok h
  · refine State.ite_ok (State.doubleTrap_ok h) ?_
    split
    · rename_i e
      exact State.eretAction_ok (State.frameRead_ok h e)
    · exact State.doubleTrap_ok h

theorem execSysrd_ok {d : Reg} {i : BitVec 16} (h : s.msys.Ok) : Yields (execSysrd d i s) := by
  unfold execSysrd
  refine State.issue_ok (fun _ => State.ite_ok (State.illegal_ok h) (State.ite_ok (State.svcnextRead_ok h) (State.ite_ok h ?_)))
  dsimp only
  split
  · exact State.ite_ok (State.doubleTrap_ok h) (MemSys.number_ok h)
  · exact h

theorem execSyswr_ok {d : Reg} {i : BitVec 16} (h : s.msys.Ok) : Yields (execSyswr d i s) := by
  unfold execSyswr
  refine State.issue_ok (fun _ => State.ite_ok (State.illegal_ok h) (State.ite_ok (State.svcdoneWrite_ok h)
    (State.ite_ok h (State.ite_ok ?_ ?_))))
  · split
    · exact State.ite_ok (State.doubleTrap_ok h) (MemSys.store_ok h)
    · exact State.illegal_ok h
  · split <;> exact h

theorem execTlbinv_ok {a : Reg} {k : BitVec 8} (h : s.msys.Ok) : Yields (execTlbinv a k s) :=
  State.issue_ok (fun _ => State.ite_ok (State.illegal_ok h) (State.ite_ok h (State.ite_ok h (State.ite_ok h h))))

theorem State.message_ok {m : Msg} {may : Bool} {act : State → State} (h : s.msys.Ok)
    (hact : ∀ t : State, t.msys.Ok → (act t).msys.Ok) : Yields (s.message m may act) :=
  yields_ite (yields_next h) (yields_ite (yields_next h) (yields_next (State.ite_ok (hact _ h) h)))

theorem execSpdmSession_ok {id : Nat} (h : s.msys.Ok) : Yields (execSpdmSession id s) :=
  yields_ite (yields_next h) (yields_next h)

theorem execSessionDoorbell_ok {tail : Nat} (h : s.msys.Ok) : Yields (execSessionDoorbell tail s) :=
  yields_ite (yields_next h) (yields_next h)

theorem execLock_ok {m : Msg} (h : s.msys.Ok) : Yields (execLock m s) :=
  State.message_ok h (fun _ h1 => h1)

theorem execStart_ok {m : Msg} (h : s.msys.Ok) : Yields (execStart m s) :=
  State.message_ok h (fun _ h1 => h1)

theorem State.drainQueue_ok {q : Nat} (h : s.msys.Ok) : (s.drainQueue q).msys.Ok := by
  unfold State.drainQueue
  split
  · exact State.ite_ok (State.settleQueue_ok (State.setQueue_ok h)) h
  · exact h

theorem execStop_ok {m : Msg} (h : s.msys.Ok) : Yields (execStop m s) :=
  State.message_ok h (fun _ h1 => State.foldl_ok h1 (fun _ _ h2 => State.drainQueue_ok h2))

theorem execStopComplete_ok (h : s.msys.Ok) : Yields (execStopComplete s) :=
  yields_ite (yields_next h) (yields_next h)

theorem execQueueCreate_ok {m : Msg} {q desc bell : Nat} (h : s.msys.Ok) : Yields (execQueueCreate m q desc bell s) := by
  unfold execQueueCreate
  refine State.message_ok h (fun _ h1 => ?_)
  dsimp only
  split
  · exact State.setQueue_ok h1
  · exact h1

theorem execQueueDestroy_ok {m : Msg} {q : Nat} (h : s.msys.Ok) : Yields (execQueueDestroy m q s) :=
  State.message_ok h (fun _ h1 => State.ite_ok (State.drainQueue_ok h1) h1)

theorem execWorldAssign_ok {m : Msg} {world first count attr : Nat} {msd : Bool} (h : s.msys.Ok) : Yields
    (execWorldAssign m world first count attr msd s) :=
  State.message_ok h (fun _ h1 => State.ite_ok h1 h1)

theorem execWorldRelease_ok {m : Msg} {world : Nat} (h : s.msys.Ok) : Yields (execWorldRelease m world s) :=
  State.message_ok h (fun _ h1 => State.ite_ok h1 (State.ite_ok h1 h1))

theorem MemSys.zeroFrames_ok {first n : Nat} (h : m.Ok) : (m.zeroFrames first n).Ok :=
  ⟨Sparse.wf_clearRun _ _ h.1, h.2⟩

theorem State.scrub_ok {i : Nat} {e : JEntry} {n : Nat} (h : s.msys.Ok) : (s.scrub i e n).msys.Ok :=
  MemSys.ite_ok (MemSys.zeroFrames_ok h) (MemSys.zeroFrames_ok h)

theorem execScrubStep_ok {m : Msg} {i : Nat} (h : s.msys.Ok) : Yields (execScrubStep m i s) := by
  unfold execScrubStep
  refine State.message_ok h (fun _ h1 => ?_)
  split
  · refine State.ite_ok ?_ h1
    dsimp only
    split
    · dsimp only [State.ok]
      dsimp only [State.respond]
      dsimp only [State.setFirm]
      exact State.scrub_ok h1
    · exact State.scrub_ok h1
  · exact h1

theorem execScrubProgress_ok {i frames : Nat} (h : s.msys.Ok) : Yields (execScrubProgress i frames s) := by
  unfold execScrubProgress
  split
  · exact yields_ite (yields_next (State.scrub_ok h)) (yields_next h)
  · exact yields_next h

theorem execModeSet_ok {m : Msg} {fn : DevFn} {assisted : Bool} (h : s.msys.Ok) : Yields (execModeSet m fn assisted s) :=
  State.message_ok h (fun _ h1 => h1)

theorem State.migratePage_ok {die : Nat} {index : Word} {page frame : Nat} (h : s.msys.Ok) :
    (s.migratePage die index page frame).msys.Ok := by
  unfold State.migratePage
  split
  · exact h
  · refine State.ite_ok h ?_
    split
    · exact State.ite_ok h (MemSys.writeNat_ok (MemSys.writeN_ok h))
    · exact h

theorem execFlashWrite_ok {m : Msg} {stack block : Nat} {data : List (Nat × Byte)} (h : s.msys.Ok) : Yields
    (execFlashWrite m stack block data s) :=
  State.message_ok h (fun _ h1 => State.ite_ok h1 (State.ite_ok h1 h1))

theorem execEraseOrProgramEnd_ok {stack block : Nat} (h : s.msys.Ok) : Yields (execEraseOrProgramEnd stack block s) := by
  unfold execEraseOrProgramEnd
  exact yields_next h

theorem execQread_ok {m : Msg} {slice entry : Nat} (h : s.msys.Ok) : Yields (execQread m slice entry s) := by
  unfold execQread
  refine State.message_ok h (fun _ h1 => ?_)
  split <;> exact h1

theorem execQfree_ok {m : Msg} {slice entry : Nat} (h : s.msys.Ok) : Yields (execQfree m slice entry s) := by
  unfold execQfree
  refine State.message_ok h (fun _ h1 => ?_)
  split
  · exact State.ite_ok (State.ite_ok h1 h1) h1
  · exact h1

theorem execStatus_ok {m : Msg} (h : s.msys.Ok) : Yields (execStatus m s) :=
  State.message_ok h (fun _ h1 => h1)

theorem execHuskUpdate_ok {m : Msg} {off total : Nat} {bytes : List Byte} {_claim : Bool} (h : s.msys.Ok) : Yields
    (execHuskUpdate m off total bytes _claim s) :=
  State.message_ok h (fun _ h1 => State.ite_ok h1 (State.ite_ok h1 (State.ite_ok h1 h1)))

theorem State.resumeScrub_ok (h : s.msys.Ok) : s.resumeScrub.msys.Ok := by
  unfold State.resumeScrub
  refine State.foldl_ok h (fun _ _ h1 => ?_)
  split
  · exact State.ite_ok h1 h1
  · exact h1

theorem execDeviceStart_ok {_claim : Bool} (h : s.msys.Ok) : Yields (execDeviceStart _claim s) := by
  unfold execDeviceStart
  exact yields_next (State.ite_ok h (State.ite_ok (State.resumeScrub_ok h) (State.ite_ok (State.resumeScrub_ok h)
    (State.resumeScrub_ok h))))

theorem State.startServices_ok {die : Nat} (h : s.msys.Ok) : (s.startServices die).msys.Ok :=
  State.foldl_ok h (fun _ _ h1 => h1)

theorem execHuskReady_ok {version : BitVec 8} {params : BringUp} (h : s.msys.Ok) : Yields (execHuskReady version params s) :=
  yields_ite (yields_next (State.foldl_ok h (fun _ _ h1 => State.startServices_ok h1))) (yields_next h)

theorem execHuskReadyTimeout_ok (h : s.msys.Ok) : Yields (execHuskReadyTimeout s) :=
  yields_ite (yields_next h) (yields_next h)

theorem execTrainingFailure_ok {part : TrainPart} (h : s.msys.Ok) : Yields (execTrainingFailure part s) :=
  yields_ite (yields_next h) (yields_next h)

/-- Of memory only the host's is left, and no dirty line. -/
theorem execPowerFailure_ok (h : s.msys.Ok) : Yields (execPowerFailure s) := by
  refine yields_next ⟨Sparse.wf_filter _ h.1, ?_, List.nodup_nil⟩
  intro d hd
  cases hd

theorem State.writeZero_ok {va : Nat} {bs : List Byte} (h : s.msys.Ok) : (s.writeZero va bs).msys.Ok := by
  unfold State.writeZero
  split
  · rename_i e
    exact MemSys.agentPut_ok (MemSys.agentPieces_ok h e)
  · exact h

theorem execRegisterWrite_ok {r : DevReg} {v : Dword} (h : s.msys.Ok) : Yields (execRegisterWrite r v s) := by
  unfold execRegisterWrite
  split
  · exact yields_next h
  · exact yields_next h
  · exact yields_next (State.writeZero_ok h)
  · exact yields_next (State.writeZero_ok h)
  · exact yields_next (State.writeZero_ok h)
  · exact yields_next h
  · exact yields_next h
  · exact yields_next h
  · exact yields_next (MemSys.writeFree_ok h)

end Sys2Proof.Machine
end

section
/-! SUPPORT. What every step keeps of memory (O59): the matrix unit (Matrix). -/

namespace Sys2Proof.Machine

variable {m : MemSys} {s : State}

theorem State.readB_ok {c : Issuer} {spad : Bool} {b : Reg} {len : Nat} {k : MemSys → List Target → State} (h : s.msys.Ok)
    (hk : ∀ n, n.Ok → ∀ a, (k n a).msys.Ok) : (s.readB c spad b len k).msys.Ok := by
  unfold State.readB
  refine State.ite_ok ?_ (State.ite_ok (State.raise_ok h) (State.whole_ok h (fun _ h1 _ => hk _ h1 _)))
  dsimp only
  split
  · exact State.accessFails_ok h
  · exact hk _ h _

theorem Issuer.matrixSeq_ok {c : Issuer} {us : List Target} {ks : List KStep} (hm : m.Ok) : (c.matrixSeq s m us ks).m.Ok :=
  LaneSeq.foldl_ok (Issuer.putParts_ok hm) (fun _ _ h1 => Issuer.putTaker_ok h1)

theorem State.endMatrix_ok {c : Issuer} {flag : Option Nat} {a : Reg} {ks : List KStep} {us : List Target} (hm : m.Ok) :
    (s.endMatrix c flag a ks m us).msys.Ok := by
  unfold State.endMatrix
  simp only [State.setTeam_msys]
  exact State.afterLanes_ok (Issuer.matrixSeq_ok hm) (fun _ h1 => h1)

theorem execMma_ok {n : BitVec 8} {a b : Reg} {fa fb : Fmt} {spad : Bool} (h : s.msys.Ok) : Yields (execMma n a b fa fb spad s) :=
  State.issue_ok (fun _ => State.ite_ok (State.illegal_ok h) (State.longIssue_ok h
    (fun _ => State.readB_ok h (fun _ h1 _ => State.endMatrix_ok h1))))

theorem execMmas_ok {n : BitVec 8} {a b : Reg} {f : Fmt} {slot : BitVec 3} {spad : Bool} (h : s.msys.Ok) : Yields
    (execMmas n a b f slot spad s) :=
  State.issue_ok (fun _ => State.ite_ok (State.illegal_ok h) (State.ite_ok h (State.longIssue_ok h
    (fun _ => State.readB_ok h (fun _ h1 _ => State.endMatrix_ok h1)))))

theorem execLdmeta_ok {k : BitVec 8} {a : Reg} (h : s.msys.Ok) : Yields (execLdmeta k a s) :=
  State.issue_ok (fun _ => State.ite_ok (State.illegal_ok h) (State.ite_ok h (State.longIssue_ok h
    (fun _ => State.ite_ok (State.raise_ok h) (State.ite_ok (State.raise_ok h)
    (State.ite_ok (State.raise_ok h) (State.endAccess_ok h (fun _ h1 => h1) (Issuer.putTaker_ok (Issuer.putParts_ok h)))))))))

theorem execAccz_ok {n : BitVec 8} (h : s.msys.Ok) : Yields (execAccz n s) :=
  State.issue_ok (fun _ => State.ite_ok (State.illegal_ok h) (State.ite_ok h h))

theorem execAcrd_ok {d : Reg} {n : BitVec 8} (h : s.msys.Ok) : Yields (execAcrd d n s) :=
  State.issue_ok (fun _ => State.ite_ok (State.illegal_ok h) (State.ite_ok h h))

theorem execAcwr_ok {n : BitVec 8} {a : Reg} (h : s.msys.Ok) : Yields (execAcwr n a s) :=
  State.issue_ok (fun _ => State.ite_ok (State.illegal_ok h) (State.ite_ok h h))

theorem Issuer.acldLane_ok {c : Issuer} {n t base : Nat} {q : LaneSeq} {l : Nat} (hq : q.m.Ok) : ∀ {y}, c.acldLane s n t base q l = .ok y →
    y.m.Ok := by
  intro y e
  unfold Issuer.acldLane at e
  split at e
  · injection e
  · rename_i e1
    injection e with e
    subst e
    exact Issuer.putTaker_ok (Issuer.putParts_ok (Issuer.piece_ok hq e1))

theorem execAcld_ok {n : BitVec 8} {a : Reg} (h : s.msys.Ok) : Yields (execAcld n a s) :=
  State.issue_ok (fun _ => State.ite_ok (State.illegal_ok h) (State.ite_ok h (State.ite_ok (State.raise_ok h)
    (State.laneInstr_ok h (fun _ h1 => h1) (fun _ _ h1 _ h2 => Issuer.acldLane_ok h1 h2)))))

theorem Issuer.acstLane_ok {c : Issuer} {n t base : Nat} {q : LaneSeq} {l : Nat} (hq : q.m.Ok) : ∀ {y}, c.acstLane s n t base q l = .ok y →
    y.m.Ok := by
  intro y e
  unfold Issuer.acstLane at e
  split at e
  · injection e
  · rename_i e1
    injection e with e
    subst e
    exact Issuer.putUnits_ok (Issuer.piece_ok hq e1)

theorem execAcst_ok {n : BitVec 8} {a : Reg} (h : s.msys.Ok) : Yields (execAcst n a s) :=
  State.issue_ok (fun _ => State.ite_ok (State.illegal_ok h) (State.ite_ok h (State.ite_ok (State.raise_ok h)
    (State.laneInstr_ok h (fun _ h1 => h1) (fun _ _ h1 _ h2 => Issuer.acstLane_ok h1 h2)))))

end Sys2Proof.Machine
end

section
/-! SUPPORT. What every step keeps of memory (O59): every instruction, every event and the step (Dispatch, Issue, Due, Step). -/

namespace Sys2Proof.Machine

variable {m : MemSys} {s : State}

theorem exec_ok {i : Instr} (h : s.msys.Ok) : Yields (exec i s) := by
  cases i
  case brx | call | ret | mif | melse | mend | mloop | mbrk | mcont | mnext | many | mall | setm | getm | part | rdsp | vtos | stov
      | add | sub | mul | mulhi | mad | madhi | neg | abs | min | max | and | or | xor | not | andn | shl | shr | sar | rot | popc | clz
      | ctz | brev | bfx | bfi | sel | cmpeq | cmpne | cmplt | cmple | mov | cvti | lea | addi | muli | andi | ori | xori | shli | shri
      | sari | movi | movh | sadd | ssub | smul | smulhi | smad | smadhi | sneg | sabs | smin | smax | sand | sor | sxor | snot | sandn
      | sshl | sshr | ssar | srot | spopc | sclz | sctz | sbrev | sbfx | sbfi | ssel | scmpeq | scmpne | scmplt | scmple | smov | scvti
      | slea | saddi | smuli | sandi | sori | sxori | sshli | sshri | ssari | fadd | fsub | fmul | ffma | fmin | fmax | fneg | fabs |
      fcmpeq | fcmpne | fcmplt | fcmple | fcmpun | fclass | frnd | cvt | rcp | rsq | sqrt | exp2 | log2 | sin | cos | tanh | cvtn | cvtw
      | dp4 | dp8 | dpf4 | dpf8 | sacc | lget | lgetRot | lput | lbcast | lxor | vany | vall | vballot | vred | vscan | tred | tany |
      tall | tcount =>
    exact State.teamOp_ok h
  case aadd | amin | amax | aand | aor | axor | axchg | acas | ainc | afadd => exact atomicOp_ok h
  case st8 | st16 | st32 | st64 => exact storeOp_ok h
  case nop => exact (State.teamOp_ok h : Yields (execNop s))
  case bra => exact (State.teamOp_ok h : Yields (execBra _ s))
  case exit => exact execExit_ok h
  case yield => exact execYield_ok h
  case xstatRead => exact execXstatRead_ok h
  case give => exact execGive_ok h
  case claim => exact execClaim_ok h
  case svc => exact execSvc_ok h
  case trap => exact execTrap_ok h
  case smovi => exact (State.teamOp_ok h : Yields (execSmovi _ _ s))
  case smovh => exact (State.teamOp_ok h : Yields (execSmovh _ _ s))
  case mma => exact execMma_ok h
  case mmas => exact execMmas_ok h
  case accz => exact execAccz_ok h
  case acrd => exact execAcrd_ok h
  case acwr => exact execAcwr_ok h
  case acld => exact execAcld_ok h
  case acst => exact execAcst_ok h
  case ldmeta => exact execLdmeta_ok h
  case ppdeg => exact (State.polyOp_ok h : Yields (execPpdeg _ _ s))
  case ppclr => exact (State.polyOp_ok h : Yields (execPpclr _ s))
  case ppfac => exact (State.polyOp_ok h : Yields (execPpfac _ _ _ s))
  case ppdiv => exact (State.polyOp_ok h : Yields (execPpdiv _ _ _ s))
  case ppmul => exact execPpmul_ok h
  case ppld => exact execPpld_ok h
  case ppst => exact execPpst_ok h
  case pprd => exact (State.polyRead_ok h : Yields (execPprd _ _ _ s))
  case ppscl => exact (State.polyOp_ok h : Yields (execPpscl _ _ s))
  case ppinfo => exact (State.polyRead_ok h : Yields (execPpinfo _ _ s))
  case ld8 => exact execLd8_ok h
  case ld16 => exact execLd16_ok h
  case ld32 => exact execLd32_ok h
  case ld64 => exact execLd64_ok h
  case ldq => exact execLdq_ok h
  case lda => exact execLda_ok h
  case lds => exact execLds_ok h
  case sld => exact execSld_ok h
  case ldmx => exact execLdmx_ok h
  case pref => exact execPref_ok h
  case stl _ _ _ sc _ => exact execStl_ok (_sc := sc) h
  case sts => exact execSts_ok h
  case stmx => exact execStmx_ok h
  case apmul => exact execApmul_ok h
  case fenceAcq => exact execFenceAcq_ok h
  case fenceRel sc => exact execFenceRel_ok (_sc := sc) h
  case fenceAr => exact execFenceAr_ok h
  case bar => exact execBar_ok h
  case barr => exact execBarr_ok h
  case barw => exact execBarw_ok h
  case podBarrierArrival => exact execPodBarrierArrival_ok h
  case await => exact execAwait_ok h
  case awaitCycle => exact execAwaitCycle_ok h
  case crewWake => exact execCrewWake_ok h
  case stp => exact execStp_ok h
  case engineOperationStart => exact execEngineOperationStart_ok h
  case bclose => exact execBclose_ok h
  case bwait => exact execBwait_ok h
  case bcnt => exact execBcnt_ok h
  case engineSector => exact execEngineSector_ok h
  case tsub => exact execTsub_ok h
  case nrec => exact execNrec_ok h
  case binTimerExpiry => exact execBinTimerExpiry_ok h
  case tcommit => exact execTcommit_ok h
  case glaunch => exact execGlaunch_ok h
  case eret => exact execEret_ok h
  case sysrd => exact execSysrd_ok h
  case syswr => exact execSyswr_ok h
  case svcnextRead => exact execSvcnextRead_ok h
  case svcdoneWrite => exact execSvcdoneWrite_ok h
  case tlbinv => exact execTlbinv_ok h
  case ctxsv => exact execCtxsv_ok h
  case crewSave => exact execCrewSave_ok h
  case ctxld => exact execCtxld_ok h
  case escape => exact execEscape_ok h
  case clauseFetch => exact execClauseFetch_ok h
  case longLatencyCompletion => exact execLongLatencyCompletion_ok h
  case trapEntry => exact execTrapEntry_ok h
  case crewRetire => exact execCrewRetire_ok h
  case tailWrite => exact execTailWrite_ok h
  case resumeCommand => exact execResumeCommand_ok h
  case destroyCommand => exact execDestroyCommand_ok h
  case launchRecordRead => exact execLaunchRecordRead_ok h
  case nodeSetup => exact execNodeSetup_ok h
  case crewPlacement => exact execCrewPlacement_ok h
  case keyRequest => exact execKeyRequest_ok h
  case keyGrant => exact execKeyGrant_ok h
  case keyAcquisitionRestart => exact execKeyAcquisitionRestart_ok h
  case taskDiscard => exact execTaskDiscard_ok h
  case thermalMigration => exact execThermalMigration_ok h
  case pageListBlockRead => exact execPageListBlockRead_ok h
  case pageReservation => exact execPageReservation_ok h
  case pageSense => exact execPageSense_ok h
  case pageLanding => exact execPageLanding_ok h
  case eviction => exact execEviction_ok h
  case reLanding => exact execReLanding_ok h
  case faultRecordPost => exact execFaultRecordPost_ok h
  case faultReplyRetry => exact execFaultReplyRetry_ok h
  case faultReplyEnd => exact execFaultReplyEnd_ok h
  case pageRequestSend => exact execPageRequestSend_ok h
  case prgResponse => exact execPrgResponse_ok h
  case atsCompletion => exact execAtsCompletion_ok h
  case atsInvalidation => exact execAtsInvalidation_ok h
  case accessCounterThreshold => exact execAccessCounterThreshold_ok h
  case sendArrival => exact execSendArrival_ok h
  case receiveRingDelivery => exact execReceiveRingDelivery_ok h
  case sendAcknowledge => exact execSendAcknowledge_ok h
  case heartbeatInterval => exact execHeartbeatInterval_ok h
  case heartbeatReceive => exact execHeartbeatReceive_ok h
  case fenceFlit => exact execFenceFlit_ok h
  case dataLinkDown => exact execDataLinkDown_ok h
  case ideFailure => exact execIdeFailure_ok h
  case configAccessOutsideMessage => exact execConfigAccessOutsideMessage_ok h
  case spdmSession => exact execSpdmSession_ok h
  case sessionDoorbell => exact execSessionDoorbell_ok h
  case lock => exact execLock_ok h
  case start => exact execStart_ok h
  case stop => exact execStop_ok h
  case stopComplete => exact execStopComplete_ok h
  case queueCreate => exact execQueueCreate_ok h
  case queueDestroy => exact execQueueDestroy_ok h
  case worldAssign => exact execWorldAssign_ok h
  case worldRelease => exact execWorldRelease_ok h
  case modeSet => exact execModeSet_ok h
  case flashWrite => exact execFlashWrite_ok h
  case qread => exact execQread_ok h
  case qfree => exact execQfree_ok h
  case status => exact execStatus_ok h
  case scrubStep => exact execScrubStep_ok h
  case scrubProgress => exact execScrubProgress_ok h
  case huskUpdate _ _ _ _ claim => exact execHuskUpdate_ok (_claim := claim) h
  case deviceStart claim => exact execDeviceStart_ok (_claim := claim) h
  case huskReady => exact execHuskReady_ok h
  case huskReadyTimeout => exact execHuskReadyTimeout_ok h
  case weightContextEnable => exact execWeightContextEnable_ok h
  case routeEntry => exact execRouteEntry_ok h
  case retireEntry => exact execRetireEntry_ok h
  case slotLoad => exact execSlotLoad_ok h
  case registerWrite => exact execRegisterWrite_ok h
  case dataLinkActive => exact execDataLinkActive_ok h
  case eraseOrProgramEnd => exact execEraseOrProgramEnd_ok h
  case trainingFailure => exact execTrainingFailure_ok h
  case powerFailure => exact execPowerFailure_ok h
  case cxlMemRequest => exact execCxlMemRequest_ok h
  case hostSnoop => exact execHostSnoop_ok h
  case podWindowAccess => exact execPodWindowAccess_ok h
  case linkLevelRetry port => exact execLinkLevelRetry_ok (_port := port) h

theorem State.badWord_ok (h : s.msys.Ok) : s.badWord.msys.Ok := by
  unfold State.badWord
  split
  · exact State.illegal_ok h
  · exact h

theorem tickOutcome_ok {o : Host.Outcome State Fault Refusal} (h : Yields o) : Yields (tickOutcome o) := by
  cases o with
  | next t => exact yields_next (h t rfl)
  | fault f => exact yields_fault
  | refused r =>
    intro t e
    injection e

theorem State.rings_ok {pa : Nat} {bs : List Byte} (h : s.msys.Ok) : Yields (s.rings pa bs) := by
  unfold State.rings
  split
  · refine yields_ite (yields_next h) ?_
    split
    · exact execFaultReplyRetry_ok h
    · exact execFaultReplyEnd_ok h
    · exact yields_next h
  · split
    · refine yields_ite (yields_next h) ?_
      split
      · exact execTailWrite_ok h
      · exact execResumeCommand_ok h
      · exact execDestroyCommand_ok h
      · exact yields_next h
    · exact yields_next h

theorem State.answerBell_ok (h : s.msys.Ok) : Yields s.answerBell := by
  unfold State.answerBell
  split
  · exact State.rings_ok h
  · exact yields_next h

theorem Due.run_ok {e : Due} (h : s.msys.Ok) : Yields (e.run s) := by
  unfold Due.run
  split
  · exact execTrapEntry_ok h
  · exact yields_next (State.performFirst_ok h)
  · exact execLongLatencyCompletion_ok h
  · exact execEngineOperationStart_ok h
  · exact execCrewRetire_ok h
  · exact execAwaitCycle_ok h
  · exact execEviction_ok h
  · exact execCrewSave_ok h
  · exact execTaskDiscard_ok h
  · exact execThermalMigration_ok h
  · exact execCrewWake_ok h
  · exact execReLanding_ok h
  · exact execPageReservation_ok h
  · exact execCrewPlacement_ok h
  · exact execFaultRecordPost_ok h
  · exact execPageRequestSend_ok h
  · exact execPageListBlockRead_ok h
  · exact execPageSense_ok h
  · exact execPageLanding_ok h
  · exact execLaunchRecordRead_ok h
  · exact execNodeSetup_ok h
  · exact execKeyRequest_ok h
  · exact execKeyAcquisitionRestart_ok h
  · exact execKeyGrant_ok h
  · exact execEngineSector_ok h
  · exact execSendAcknowledge_ok h
  · exact execSendArrival_ok h
  · exact execReceiveRingDelivery_ok h
  · exact execAccessCounterThreshold_ok h
  · exact yields_next (groupReady_ok h)
  · exact yields_next (State.acornFault_ok h)
  · exact execWeightContextEnable_ok h
  · exact execRouteEntry_ok h
  · exact execRetireEntry_ok h
  · exact execSlotLoad_ok h
  · exact execStopComplete_ok h
  · exact execScrubProgress_ok h
  · exact State.answerBell_ok h
  · exact yields_next (State.endInvalidation_ok h)

theorem internal_ok (h : s.msys.Ok) : Yields (internal s) := by
  unfold internal State.nextDue
  split
  · rename_i e
    split at e
    · injection e
    · injection e with e
      injection e with e1 e
      rw [← e]
      exact Due.run_ok h
  · exact yields_next h

theorem issueFrom_ok {r : TeamRef} (h : s.msys.Ok) : Yields (issueFrom s r) := by
  unfold issueFrom
  split
  · exact yields_next h
  · split
    · exact exec_ok h
    · exact yields_next (State.badWord_ok h)

theorem issueOn_ok {core : Nat} (h : s.msys.Ok) : Yields (issueOn s core) := by
  unfold issueOn
  split
  · exact issueFrom_ok h
  · exact yields_next h

theorem unscheduled_ok (h : s.msys.Ok) : Yields (unscheduled s) := by
  unfold unscheduled
  dsimp only
  split
  · exact internal_ok h
  · exact yields_ite (internal_ok h) (issueFrom_ok h)

theorem Input.act_ok {e : Input} (h : s.msys.Ok) : Yields (e.act s) := by
  unfold Input.act
  split
  · exact yields_ite (exec_ok h) (yields_next h)
  · exact yields_next h
  · exact yields_next (State.performAt_ok h)
  · exact yields_next (State.migratePage_ok h)

theorem happen_ok (h : s.msys.Ok) : Yields (happen s) := by
  unfold happen
  split
  · exact Input.act_ok h
  · split
    · exact internal_ok h
    · exact issueOn_ok h
    · exact unscheduled_ok h

theorem step_ok (h : s.msys.Ok) : Yields (step s) := tickOutcome_ok (happen_ok h)

end Sys2Proof.Machine
end

section
/-! PROOF. Every step keeps memory canonical and the dirty host lines whole. -/

namespace Sys2Proof.Machine

/-- Settles O59: `step` is `happen` with its counters advanced, and all that may happen keeps the memory system `Ok`. -/
theorem everyStepKeepsMemory : Obligations.EveryStepKeepsMemory := by
  intro s t h e
  exact State.inv_iff.2 (step_ok (State.inv_iff.1 h) t e)

end Sys2Proof.Machine
end

section
/-! SUPPORT. The bytes that the home slices hold (R17, R354): what a write changes in them. -/

namespace Sys2Proof.Machine

variable {m n : MemSys}

/-- The byte that the home slices hold at a normalised address: that of the dirty line, or that of memory. -/
def MemSys.homeB (m : MemSys) (q : Nat) : Byte :=
  match (if inHost q then m.dirtyFind (lineOf q) else none) with
  | some d => d.data.getD (q % 128) 0
  | none => Sparse.get Memory.unwritten m.mem q

theorem MemSys.readB_eq_homeB (m : MemSys) (p : Nat) : m.readB p = m.homeB (m.norm p) := rfl

theorem MemSys.homeB_congr (hm : n.mem = m.mem) (hd : n.dirty = m.dirty) : n.homeB = m.homeB := by
  funext q
  simp only [MemSys.homeB, MemSys.dirtyFind, hm, hd]

theorem MemSys.homeB_of_not_inHost {q : Nat} (h : inHost q = false) : m.homeB q = Sparse.get Memory.unwritten m.mem q := by
  simp [MemSys.homeB, h]

theorem MemSys.homeB_of_some {q : Nat} {d : DirtyLine} (h : inHost q = true) (hf : m.dirtyFind (lineOf q) = some d) :
    m.homeB q = d.data.getD (q % 128) 0 := by
  simp [MemSys.homeB, h, hf]

theorem MemSys.homeB_of_none {q : Nat} (hf : m.dirtyFind (lineOf q) = none) : m.homeB q = Sparse.get Memory.unwritten m.mem q := by
  unfold MemSys.homeB
  rw [hf, ite_self]

theorem MemSys.homeB_of_find {q : Nat} (hf : n.dirtyFind (lineOf q) = m.dirtyFind (lineOf q))
    (hg : Sparse.get Memory.unwritten n.mem q = Sparse.get Memory.unwritten m.mem q) : n.homeB q = m.homeB q := by
  simp only [MemSys.homeB, hf, hg]

theorem MemSys.dirtyFind_congr (h : n.dirty = m.dirty) : n.dirtyFind = m.dirtyFind := by
  funext line
  simp only [MemSys.dirtyFind, h]

/-! Normalised addresses. -/

theorem MemSys.norm_congr (h : n.bring = m.bring) : n.norm = m.norm := by
  funext p
  unfold MemSys.norm MemSys.pkg
  rw [h]

theorem MemSys.norm_of_not_window {q : Nat} (h : inPodWindow q = false) : m.norm q = q := by
  simp [MemSys.norm, h]

@[simp] theorem MemSys.norm_norm (m : MemSys) (p : Nat) : m.norm (m.norm p) = m.norm p := by
  by_cases h : (inPodWindow p && podModule p == m.pkg) = true
  · have hp : m.norm p = (p - 2 ^ 47) % hbmBytes := by rw [MemSys.norm, if_pos h]
    refine MemSys.norm_of_not_window ?_
    have : (p - 2 ^ 47) % hbmBytes < 2 ^ 39 := Nat.mod_lt _ (by decide)
    simp only [hp, inPodWindow, Bool.and_eq_false_iff, decide_eq_false_iff_not]
    omega
  · have hp : m.norm p = p := by rw [MemSys.norm, if_neg h]
    rw [hp, hp]

/-- The addresses of one line are normalised alike. -/
theorem MemSys.norm_of_line {p q : Nat} (h : m.norm q = q) (hl : lineOf p = lineOf q) : m.norm p = p := by
  simp only [lineOf] at hl
  have hw : inPodWindow p = inPodWindow q := by
    simp only [inPodWindow]
    congr 1 <;> rw [decide_eq_decide] <;> omega
  by_cases hq : inPodWindow q = true
  · have hge : 2 ^ 47 ≤ q := by
      simp only [inPodWindow, Bool.and_eq_true, decide_eq_true_eq] at hq
      exact hq.1
    have hp : podModule p = podModule q := by
      simp only [podModule, hbmBytes]
      omega
    have hne : ¬ (inPodWindow q && podModule q == m.pkg) = true := by
      intro hc
      rw [MemSys.norm, if_pos hc] at h
      have : (q - 2 ^ 47) % hbmBytes < 2 ^ 39 := Nat.mod_lt _ (by decide)
      omega
    rw [MemSys.norm, hw, hp, if_neg hne]
  · exact MemSys.norm_of_not_window (by rw [hw]; simpa using hq)

theorem MemSys.norm_of_inHost {q : Nat} (h : inHost q = true) : m.norm q = q := by
  refine MemSys.norm_of_not_window ?_
  rw [inHost_iff] at h
  simp only [inPodWindow, Bool.and_eq_false_iff, decide_eq_false_iff_not]
  omega

/-- The addresses of one line lie in host memory together. -/
theorem inHost_of_line {p q : Nat} (h : lineOf p = lineOf q) : inHost p = inHost q := by
  rw [Bool.eq_iff_iff, inHost_iff, inHost_iff]
  simp only [lineOf] at h
  omega

/-! Dirty lines as they are found. -/

theorem MemSys.mem_of_dirtyFind {line : Nat} {d : DirtyLine} (h : m.dirtyFind line = some d) : d ∈ m.dirty ∧ d.line = line :=
  ⟨List.mem_of_find?_eq_some h, by simpa using List.find?_some h⟩

/-- A dirty line is the one that is found under its number. -/
theorem MemSys.dirtyFind_of_mem {d : DirtyLine} (h : m.dirtyOk) (hd : d ∈ m.dirty) : m.dirtyFind d.line = some d := by
  cases hf : m.dirtyFind d.line with
  | none => exact absurd rfl (MemSys.dirtyFind_none hf d hd)
  | some x =>
    obtain ⟨hx, he⟩ := MemSys.mem_of_dirtyFind hf
    rw [List.inj_on_of_nodup_map h.2 hx hd he]

/-- Another line let go leaves a line as it is. -/
theorem MemSys.dirtyFind_filter_ne {l line : Nat} (hd : n.dirty = m.dirty.filter (fun d => d.line != l)) (h : line ≠ l) :
    n.dirtyFind line = m.dirtyFind line := by
  unfold MemSys.dirtyFind
  rw [hd, List.find?_filter]
  congr 1
  funext d
  by_cases hl : d.line = line
  · simp [hl, h]
  · simp [hl]

theorem MemSys.dirtyFind_filter_self {l : Nat} (hd : n.dirty = m.dirty.filter (fun d => d.line != l)) : n.dirtyFind l = none := by
  rw [MemSys.dirtyFind, hd, List.find?_eq_none]
  intro d hm
  simpa using (List.mem_filter.1 hm).2

/-! A run of bytes written to memory. -/

theorem MemSys.get_pokeN (m : MemSys) (pa q : Nat) (bs : List Byte) : Sparse.get Memory.unwritten (m.pokeN pa bs).mem q =
    if pa ≤ q ∧ q < pa + bs.length then bs.getD (q - pa) 0 else Sparse.get Memory.unwritten m.mem q := by
  split
  · next h =>
    obtain ⟨k, rfl⟩ := Nat.exists_eq_add_of_le h.1
    have hk : k < bs.length := by omega
    simp only [MemSys.pokeN]
    rw [Sparse.get_setRun_in _ _ _ _ _ hk, Nat.add_sub_cancel_left, List.getD_eq_getElem _ _ hk]
  · next h => exact Sparse.get_setRun_out _ _ _ _ _ (by omega)

/-! A dirty line written back (R354). -/

theorem MemSys.homeB_writeBack {d : DirtyLine} (h : m.dirtyOk) (hd : d ∈ m.dirty) (q : Nat) : (m.writeBack d).homeB q = m.homeB q := by
  obtain ⟨hlen, hhost⟩ := h.1 d hd
  have hg : Sparse.get Memory.unwritten (m.writeBack d).mem q =
      if d.line * 128 ≤ q ∧ q < d.line * 128 + d.data.length then d.data.getD (q - d.line * 128) 0 else Sparse.get Memory.unwritten m.mem q :=
    m.get_pokeN _ _ _
  by_cases hl : lineOf q = d.line
  · have hq : inHost q = true := by rw [inHost_of_line (q := d.line * 128) (by rw [hl]; simp [lineOf]), hhost]
    have hold : m.dirtyFind (lineOf q) = some d := hl ▸ MemSys.dirtyFind_of_mem h hd
    have hnew : (m.writeBack d).dirtyFind (lineOf q) = none := hl ▸ MemSys.dirtyFind_filter_self (m := m) rfl
    rw [MemSys.homeB_of_none hnew, MemSys.homeB_of_some hq hold, hg, if_pos (by simp only [lineOf] at hl; omega)]
    congr 1
    simp only [lineOf] at hl
    omega
  · rw [if_neg (by simp only [lineOf] at hl; omega)] at hg
    exact MemSys.homeB_of_find (MemSys.dirtyFind_filter_ne rfl hl) hg

theorem MemSys.homeB_makeRoom (h : m.dirtyOk) (k q : Nat) : (m.makeRoom k).homeB q = m.homeB q := by
  unfold MemSys.makeRoom
  split
  · next d rest e =>
    split
    · refine MemSys.homeB_writeBack h ?_ q
      have : d ∈ m.dirtyOf k := by simp [e]
      exact (List.mem_filter.1 this).1
    · rfl
  · rfl

/-- A line taken from the dirty lines leaves the bytes of the others as they are. -/
theorem MemSys.homeB_takeDirty (h : m.dirtyOk) {line q : Nat} (k : Nat) (hq : lineOf q ≠ line) : (m.takeDirty line k).homeB q = m.homeB q := by
  unfold MemSys.takeDirty
  split
  · exact MemSys.homeB_of_find (MemSys.dirtyFind_filter_ne rfl hq) rfl
  · exact MemSys.homeB_makeRoom h k q

/-! A write of a line. -/

theorem getD_overlay (data bs : List Byte) (i j : Nat) (h : i + bs.length ≤ data.length) :
    (overlay data i bs).getD j 0 = if i ≤ j ∧ j < i + bs.length then bs.getD (j - i) 0 else data.getD j 0 := by
  have ht : (data.take i).length = i := by
    rw [List.length_take]
    omega
  simp only [overlay, List.getD_eq_getElem?_getD]
  split
  · next hj =>
    rw [List.getElem?_append_left (by rw [List.length_append]; omega), List.getElem?_append_right (by omega), ht]
  · next hj =>
    by_cases hi : j < i
    · rw [List.getElem?_append_left (by rw [List.length_append]; omega), List.getElem?_append_left (by omega), List.getElem?_take_of_lt hi]
    · rw [List.getElem?_append_right (by rw [List.length_append]; omega), List.getElem?_drop, List.length_append, ht]
      congr 2
      omega

theorem MemSys.getD_readN (m : MemSys) {n j : Nat} (h : j < n) : ∀ pa, (m.readN pa n).getD j 0 = m.readB (pa + j) := by
  induction n generalizing j with
  | zero => omega
  | succ n ih =>
    intro pa
    cases j with
    | zero => simp [MemSys.readN]
    | succ j =>
      rw [MemSys.readN, List.getD_cons_succ, ih (by omega)]
      congr 1
      omega

theorem MemSys.homeB_writeHostLine (h : m.dirtyOk) (world : Nat) {pa : Nat} {bs : List Byte} (hp : inHost pa = true)
    (hl : pa % 128 + bs.length ≤ 128) (q : Nat) : (m.writeHostLine world pa bs).homeB q =
      if pa ≤ q ∧ q < pa + bs.length then bs.getD (q - pa) 0 else m.homeB q := by
  obtain ⟨hne, -⟩ := m.takeDirty_dirty (lineOf pa) (homeOf pa)
  have hfind : ∀ line, (m.writeHostLine world pa bs).dirtyFind line =
      ((m.takeDirty (lineOf pa) (homeOf pa)).dirtyFind line).or
        (if lineOf pa = line then some ⟨lineOf pa, world, Sparse.get 0 (m.takeDirty (lineOf pa) (homeOf pa)).seq (homeOf pa),
          overlay (m.readN (lineOf pa * 128) 128) (pa % 128) bs⟩ else none) := by
    intro line
    simp only [MemSys.dirtyFind, MemSys.writeHostLine, List.find?_append, List.find?_singleton, beq_iff_eq]
  by_cases hq : lineOf q = lineOf pa
  · have hhost : inHost q = true := by rw [inHost_of_line hq, hp]
    have hnone : (m.takeDirty (lineOf pa) (homeOf pa)).dirtyFind (lineOf pa) = none := by
      simpa [MemSys.dirtyFind, List.find?_eq_none] using hne
    have hsome := hfind (lineOf q)
    rw [hq, hnone, Option.none_or, if_pos rfl] at hsome
    rw [MemSys.homeB_of_some hhost (hq ▸ hsome), getD_overlay _ _ _ _ (by simpa using hl), MemSys.getD_readN _ (Nat.mod_lt _ (by decide)),
      MemSys.readB_eq_homeB]
    have haddr : lineOf q * 128 + q % 128 = q := by
      simp only [lineOf]
      omega
    rw [haddr, MemSys.norm_of_inHost hhost]
    have hiff : (pa % 128 ≤ q % 128 ∧ q % 128 < pa % 128 + bs.length) ↔ (pa ≤ q ∧ q < pa + bs.length) := by
      simp only [lineOf] at hq
      omega
    have hsub : q % 128 - pa % 128 = q - pa := by
      simp only [lineOf] at hq
      omega
    simp only [hiff, hsub]
  · have hother := hfind (lineOf q)
    rw [if_neg (Ne.symm hq), Option.or_none] at hother
    rw [if_neg (by simp only [lineOf] at hq; omega), ← MemSys.homeB_takeDirty h (homeOf pa) hq]
    simp only [MemSys.homeB, hother]
    rfl

theorem MemSys.homeB_writeLine (h : m.dirtyOk) (world : Nat) {pa : Nat} {bs : List Byte} (hn : m.norm pa = pa)
    (hl : pa % 128 + bs.length ≤ 128) (q : Nat) : (m.writeLine world pa bs).homeB q =
      if pa ≤ q ∧ q < pa + bs.length then bs.getD (q - pa) 0 else m.homeB q := by
  unfold MemSys.writeLine
  rw [hn]
  dsimp only
  split
  · next hp => exact MemSys.homeB_writeHostLine h world hp hl q
  · next hp =>
    by_cases hq : pa ≤ q ∧ q < pa + bs.length
    · have hq' : inHost q = false := by
        rw [inHost_of_line (q := pa) (by simp only [lineOf]; omega)]
        simpa using hp
      rw [MemSys.homeB_of_not_inHost hq', MemSys.get_pokeN, if_pos hq, if_pos hq]
    · have hg := (m.advanceReplay pa).get_pokeN pa q bs
      rw [if_neg hq, MemSys.advanceReplay_mem] at hg
      rw [if_neg hq]
      exact MemSys.homeB_of_find (congrFun (MemSys.dirtyFind_congr (m.advanceReplay_dirty pa)) _) hg

/-! What a write leaves of what was set up. -/

@[simp] theorem MemSys.advanceReplay_bring (m : MemSys) (pa : Nat) : (m.advanceReplay pa).bring = m.bring := by
  unfold MemSys.advanceReplay
  split <;> rfl

@[simp] theorem MemSys.takeDirty_bring (m : MemSys) (line k : Nat) : (m.takeDirty line k).bring = m.bring := by
  unfold MemSys.takeDirty MemSys.makeRoom
  split
  · rfl
  · split
    · split <;> rfl
    · rfl

@[simp] theorem MemSys.writeLine_bring (m : MemSys) (w pa : Nat) (bs : List Byte) : (m.writeLine w pa bs).bring = m.bring := by
  unfold MemSys.writeLine
  dsimp only
  split
  · exact m.takeDirty_bring _ _
  · exact m.advanceReplay_bring _

/-! Writes of software (R7). -/

/-- Bytes that lie in one line are written at once. -/
theorem MemSys.writeN_eq_writeLine (m : MemSys) (world pa : Nat) {bs : List Byte} (hne : bs ≠ []) (hl : pa % 128 + bs.length ≤ 128) :
    m.writeN world pa bs = m.writeLine world pa bs := by
  obtain ⟨b, bs, rfl⟩ := List.exists_cons_of_ne_nil hne
  have ht : (b :: bs).take (128 - pa % 128) = b :: bs := List.take_of_length_le (by omega)
  have hd : (b :: bs).drop (128 - pa % 128) = [] := List.drop_of_length_le (by omega)
  unfold MemSys.writeN
  rw [List.length_cons, lineParts, ht, hd]
  · cases bs <;> rfl
  · exact hne

theorem MemSys.homeB_writeN (h : m.dirtyOk) (world : Nat) {pa : Nat} {bs : List Byte} (hn : m.norm pa = pa) (hl : pa % 128 + bs.length ≤ 128)
    (q : Nat) : (m.writeN world pa bs).homeB q = if pa ≤ q ∧ q < pa + bs.length then bs.getD (q - pa) 0 else m.homeB q := by
  by_cases hb : bs = []
  · subst hb
    rw [if_neg (by simp), MemSys.writeN, List.length_nil]
    rfl
  · rw [m.writeN_eq_writeLine world pa hb hl]
    exact MemSys.homeB_writeLine h world hn hl q

theorem MemSys.dirtyOk_writeN (h : m.dirtyOk) (world pa : Nat) (bs : List Byte) : (m.writeN world pa bs).dirtyOk :=
  List.foldlRecOn (motive := MemSys.dirtyOk) _ _ h fun _ hn p hp => MemSys.dirtyOk_writeLine hn world (lineParts_fit _ _ _ p hp)

@[simp] theorem MemSys.writeN_bring (m : MemSys) (world pa : Nat) (bs : List Byte) : (m.writeN world pa bs).bring = m.bring :=
  List.foldlRecOn (motive := fun n : MemSys => n.bring = m.bring) _ _ rfl fun n hn p _ => by rw [MemSys.writeLine_bring, hn]

/-- Each write within a line is seen by `V` as it is made, and keeps `I`. -/
def SeesWrites (world line : Nat) (I : MemSys → Prop) (V : MemSys → Nat → Byte) : Prop :=
  ∀ (n : MemSys) (p : Nat) (bs : List Byte), I n → lineOf p = line → p % 128 + bs.length ≤ 128 → I (n.writeN world p bs) ∧
    ∀ q, V (n.writeN world p bs) q = if p ≤ q ∧ q < p + bs.length then bs.getD (q - p) 0 else V n q

/-- The first `k` bytes of a write that leaves read-only fields alone, one by one. -/
def MemSys.softBytes (m : MemSys) (world pa : Nat) (bs : List Byte) (k : Nat) : MemSys :=
  (List.range k).foldl (fun m' i => if m.readOnly (pa + i) then m' else m'.writeN world (pa + i) ((bs.drop i).take 1)) m

theorem MemSys.softBytes_succ (m : MemSys) (world pa : Nat) (bs : List Byte) (k : Nat) : m.softBytes world pa bs (k + 1) =
    if m.readOnly (pa + k) then m.softBytes world pa bs k else (m.softBytes world pa bs k).writeN world (pa + k) ((bs.drop k).take 1) := by
  rw [MemSys.softBytes, List.range_succ, List.foldl_concat]
  rfl

theorem SeesWrites.softBytes {world pa : Nat} {I : MemSys → Prop} {V : MemSys → Nat → Byte} (hs : SeesWrites world (lineOf pa) I V) (hI : I m)
    {bs : List Byte} (hl : pa % 128 + bs.length ≤ 128) {k : Nat} (hk : k ≤ bs.length) : I (m.softBytes world pa bs k) ∧
      ∀ q, V (m.softBytes world pa bs k) q = if pa ≤ q ∧ q < pa + k ∧ m.readOnly q = false then bs.getD (q - pa) 0 else V m q := by
  induction k with
  | zero => exact ⟨hI, fun q => by rw [if_neg (by omega)]; rfl⟩
  | succ k ih =>
    obtain ⟨ihI, ihV⟩ := ih (by omega)
    rw [MemSys.softBytes_succ]
    by_cases hr : m.readOnly (pa + k) = true
    · rw [if_pos hr]
      refine ⟨ihI, fun q => ?_⟩
      rw [ihV]
      by_cases hq : q = pa + k
      · simp [hq, hr]
      · simp only [show q < pa + (k + 1) ↔ q < pa + k by omega]
    · have hlen : ((bs.drop k).take 1).length = 1 := by
        rw [List.length_take, List.length_drop]
        omega
      rw [if_neg hr]
      obtain ⟨hI', hV'⟩ := hs _ (pa + k) _ ihI (by simp only [lineOf]; omega) (by rw [hlen]; omega)
      refine ⟨hI', fun q => ?_⟩
      rw [hV', ihV, hlen]
      by_cases hq : q = pa + k
      · subst hq
        rw [if_pos (by omega), if_pos ⟨by omega, by omega, by simpa using hr⟩]
        simp [List.getD_eq_getElem?_getD]
      · rw [if_neg (by omega)]
        simp only [show q < pa + (k + 1) ↔ q < pa + k by omega]

theorem MemSys.readOnly_of_not_fixedIn {pa len q : Nat} (h : m.fixedIn pa len = false) (h1 : pa ≤ q) (h2 : q < pa + len) :
    m.readOnly q = false := by
  simp only [MemSys.fixedIn, List.any_eq_false, List.mem_range] at h
  have := h (q - pa) (by omega)
  rwa [Nat.add_sub_cancel' h1, Bool.not_eq_true] at this

/-- A write of software within one line is seen but for the bytes that a read-only field holds (R7). -/
theorem SeesWrites.softWrite {world pa : Nat} {I : MemSys → Prop} {V : MemSys → Nat → Byte} (hs : SeesWrites world (lineOf pa) I V) (hI : I m)
    {bs : List Byte} (hl : pa % 128 + bs.length ≤ 128) : I (m.softWrite world pa bs) ∧ ∀ q, V (m.softWrite world pa bs) q =
      if pa ≤ q ∧ q < pa + bs.length ∧ m.readOnly q = false then bs.getD (q - pa) 0 else V m q := by
  unfold MemSys.softWrite
  split
  · exact hs.softBytes hI hl le_rfl
  · next hf =>
    obtain ⟨hI', hV'⟩ := hs m pa bs hI rfl hl
    refine ⟨hI', fun q => ?_⟩
    have hiff : (pa ≤ q ∧ q < pa + bs.length ∧ m.readOnly q = false) ↔ (pa ≤ q ∧ q < pa + bs.length) :=
      ⟨fun ⟨h1, h2, _⟩ => ⟨h1, h2⟩, fun ⟨h1, h2⟩ => ⟨h1, h2, MemSys.readOnly_of_not_fixedIn (by simpa using hf) h1 h2⟩⟩
    rw [hV']
    simp only [hiff]

/-- The home slices see the writes of a line. -/
theorem MemSys.seesWrites_homeB (world : Nat) {pa : Nat} (hn : m.norm pa = pa) :
    SeesWrites world (lineOf pa) (fun n => n.dirtyOk ∧ n.bring = m.bring) MemSys.homeB := by
  intro n p bs ⟨hd, hb⟩ hp hl
  have hnp : n.norm p = p := by
    rw [MemSys.norm_congr hb]
    exact MemSys.norm_of_line hn hp
  exact ⟨⟨MemSys.dirtyOk_writeN hd world p bs, by rw [MemSys.writeN_bring, hb]⟩, MemSys.homeB_writeN hd world hnp hl⟩

/-! What read-only fields depend on (R7). -/

/-- Two memory systems that agree on all that a home slice's answer to a read, a walk and a check of a read-only field depends on. -/
structure MemSys.Agrees (m n : MemSys) : Prop where
  mem : n.mem = m.mem
  dirty : n.dirty = m.dirty
  poison : n.poison = m.poison
  bring : n.bring = m.bring
  fixed : n.fixed = m.fixed
  completions : n.completions = m.completions
  routing : n.assistRouting = m.assistRouting

namespace MemSys.Agrees

theorem norm (h : m.Agrees n) : n.norm = m.norm := MemSys.norm_congr h.bring

theorem homeB (h : m.Agrees n) : n.homeB = m.homeB := MemSys.homeB_congr h.mem h.dirty

theorem readB (h : m.Agrees n) (p : Nat) : n.readB p = m.readB p := by
  rw [MemSys.readB_eq_homeB, MemSys.readB_eq_homeB, h.norm, h.homeB]

theorem readN (h : m.Agrees n) (p k : Nat) : n.readN p k = m.readN p k := by
  induction k generalizing p with
  | zero => rfl
  | succ k ih => rw [MemSys.readN, MemSys.readN, h.readB, ih]

theorem readNat (h : m.Agrees n) (p k : Nat) : n.readNat p k = m.readNat p k := by
  rw [MemSys.readNat, MemSys.readNat, h.readN]

theorem mapped (h : m.Agrees n) (p : Nat) : n.mapped p = m.mapped p := by
  simp only [MemSys.mapped, MemSys.carved, h.norm, h.bring]

theorem poisoned (h : m.Agrees n) (p : Nat) : n.poisoned p = m.poisoned p := by
  simp only [MemSys.poisoned, h.norm, h.poison]

theorem leafOk (h : m.Agrees n) (ats : Bool) (lvl table i : Nat) (e : Dword) : n.leafOk ats lvl table i e = m.leafOk ats lvl table i e := by
  simp only [MemSys.leafOk, MemSys.group64, h.readNat, h.norm]

theorem walkFrom (h : m.Agrees n) (ats : Bool) (va : Nat) (lvls : List Nat) (table : Nat) :
    n.walkFrom ats va lvls table = m.walkFrom ats va lvls table := by
  induction lvls generalizing table with
  | nil => rfl
  | cons lvl lvls ih => simp only [MemSys.walkFrom, h.mapped, h.poisoned, h.readNat, h.leafOk, ih]

theorem walk (h : m.Agrees n) (space va : Nat) : n.walk space va = m.walk space va := by
  unfold MemSys.walk MemSys.spaceEntry
  rw [h.bring, h.readNat, h.poisoned]
  dsimp only
  rw [h.walkFrom]

theorem readOnly (h : m.Agrees n) (p : Nat) : n.readOnly p = m.readOnly p := by
  simp only [MemSys.readOnly, MemSys.descOnly, h.walk, h.bring, h.fixed, h.completions, h.routing]

theorem dirtyOk (h : m.Agrees n) (hd : m.dirtyOk) : n.dirtyOk := by
  unfold MemSys.dirtyOk
  rw [h.dirty]
  exact hd

theorem trans {k : MemSys} (h : m.Agrees n) (h' : n.Agrees k) : m.Agrees k :=
  ⟨h'.mem.trans h.mem, h'.dirty.trans h.dirty, h'.poison.trans h.poison, h'.bring.trans h.bring, h'.fixed.trans h.fixed,
    h'.completions.trans h.completions, h'.routing.trans h.routing⟩

end MemSys.Agrees

theorem MemSys.agrees_number (m : MemSys) (msd : Bool) (pa : Nat) : m.Agrees (m.number msd pa) := by
  cases msd <;> exact ⟨rfl, rfl, rfl, rfl, rfl, rfl, rfl⟩

theorem MemSys.agrees_l1Drop (m : MemSys) (cache line : Nat) : m.Agrees (m.l1Drop cache line) := ⟨rfl, rfl, rfl, rfl, rfl, rfl, rfl⟩

theorem MemSys.agrees_l1Store (m : MemSys) (cache pa : Nat) (bs : List Byte) : m.Agrees (m.l1Store cache pa bs) :=
  ⟨rfl, rfl, rfl, rfl, rfl, rfl, rfl⟩

/-- A write of software behind what changes no byte, as any reader sees it. -/
theorem MemSys.readB_softWrite (ha : m.Agrees n) (h : m.dirtyOk) (world : Nat) {pa : Nat} {bs : List Byte} (hn : m.norm pa = pa)
    (hl : pa % 128 + bs.length ≤ 128) (p : Nat) : (n.softWrite world pa bs).readB p =
      if pa ≤ m.norm p ∧ m.norm p < pa + bs.length ∧ m.readOnly (m.norm p) = false then bs.getD (m.norm p - pa) 0 else m.readB p := by
  obtain ⟨⟨-, hb⟩, hw⟩ := (MemSys.seesWrites_homeB (m := n) world (by rw [ha.norm, hn])).softWrite ⟨ha.dirtyOk h, rfl⟩ hl
  rw [MemSys.readB_eq_homeB, MemSys.norm_congr hb, ha.norm, hw, ha.readOnly, ha.homeB, MemSys.readB_eq_homeB]

@[simp] theorem length_leBytes (x n : Nat) : (leBytes x n).length = n := by
  induction n generalizing x with
  | zero => rfl
  | succ n ih => simp [leBytes, ih]

end Sys2Proof.Machine
end

section
/-! PROOF. Which bytes a store and an atomic change. -/

namespace Sys2Proof.Machine

/-- A store to a doorbell is only noted. -/
theorem MemSys.readB_store_of_isBell {m : MemSys} {die core world : Nat} {msd : Bool} {pa : Nat} {bs : List Byte}
    (h : m.isBell (m.norm pa) = true) (p : Nat) : (m.store die core world msd pa bs).readB p = m.readB p := by
  unfold MemSys.store
  dsimp only
  rw [if_pos h]
  rfl

theorem MemSys.readB_store {m : MemSys} {die core world : Nat} {msd : Bool} {pa : Nat} {bs : List Byte} (hd : m.dirtyOk)
    (h : m.isBell (m.norm pa) = false) (hl : m.norm pa % 128 + bs.length ≤ 128) (p : Nat) : (m.store die core world msd pa bs).readB p =
      if m.norm pa ≤ m.norm p ∧ m.norm p < m.norm pa + bs.length ∧ m.readOnly (m.norm p) = false then bs.getD (m.norm p - m.norm pa) 0
      else m.readB p := by
  unfold MemSys.store
  dsimp only
  rw [if_neg (by simp [h])]
  refine MemSys.readB_softWrite ?_ hd world (m.norm_norm pa) hl p
  split
  · exact m.agrees_number _ _
  · split
    · exact m.agrees_l1Drop _ _
    · exact m.agrees_l1Store _ _ _

/-- Settles O22: a write of software changes the bytes that it writes and that no read-only field holds, and what comes before it
changes none. -/
theorem storedBytes : Obligations.StoredBytes := by
  intro m die core world msd pa hd
  refine ⟨fun bs h p => MemSys.readB_store_of_isBell h p, fun bs h hl p => MemSys.readB_store hd h hl p, fun n f hl => ?_⟩
  have ha : m.Agrees (if msd then m.number true (m.norm pa) else m.l1Drop (m.l1Of die core (m.norm pa)) (lineOf (m.norm pa))) := by
    split
    · exact m.agrees_number _ _
    · exact m.agrees_l1Drop _ _
  refine ⟨ha.readNat _ _, fun p => ?_⟩
  have hw := MemSys.readB_softWrite ha hd world (m.norm_norm pa) (bs := leBytes (f (m.readNat (m.norm pa) n)) n) (by simpa using hl) p
  rw [length_leBytes] at hw
  rw [← hw, ← ha.readNat]
  rfl

end Sys2Proof.Machine
end

section
/-! SUPPORT. Writes of software to HBM (R7, R325, R352): what changes of the memory system, byte by byte. -/

namespace Sys2Proof.Machine

variable {m n k : MemSys}

/-- Between the two only memory, sequence numbers and replay counters have changed. -/
def MemSys.OnlyBytes (m n : MemSys) : Prop := ∃ mem seq replays, n = { m with mem := mem, seq := seq, replays := replays }

theorem MemSys.OnlyBytes.refl (m : MemSys) : m.OnlyBytes m := ⟨m.mem, m.seq, m.replays, rfl⟩

theorem MemSys.OnlyBytes.trans (h : m.OnlyBytes n) (h' : n.OnlyBytes k) : m.OnlyBytes k := by
  obtain ⟨_, _, _, rfl⟩ := h
  obtain ⟨mem, seq, replays, rfl⟩ := h'
  exact ⟨mem, seq, replays, rfl⟩

theorem MemSys.OnlyBytes.eq (h : m.OnlyBytes n) : n = { m with mem := n.mem, seq := n.seq, replays := n.replays } := by
  obtain ⟨_, _, _, rfl⟩ := h
  rfl

theorem MemSys.onlyBytes_number (m : MemSys) (msd : Bool) (pa : Nat) : m.OnlyBytes (m.number msd pa) := by
  cases msd
  · exact .refl m
  · exact ⟨_, _, _, rfl⟩

theorem MemSys.onlyBytes_advanceReplay (m : MemSys) (pa : Nat) : m.OnlyBytes (m.advanceReplay pa) := by
  unfold MemSys.advanceReplay
  split
  · exact ⟨_, _, _, rfl⟩
  · exact .refl m

theorem inHbm_iff {pa : Nat} : inHbm pa = true ↔ pa < 2 ^ 39 := decide_eq_true_iff

theorem not_inHost_of_inHbm {pa : Nat} (h : inHbm pa = true) : inHost pa = false := by
  rw [inHbm_iff] at h
  simp only [inHost, Bool.and_eq_false_iff, decide_eq_false_iff_not]
  omega

theorem MemSys.norm_of_inHbm {pa : Nat} (h : inHbm pa = true) : m.norm pa = pa := by
  refine MemSys.norm_of_not_window ?_
  rw [inHbm_iff] at h
  simp only [inPodWindow, Bool.and_eq_false_iff, decide_eq_false_iff_not]
  omega

/-- The addresses of one line lie in HBM together. -/
theorem inHbm_of_line {p q : Nat} (h : lineOf p = lineOf q) : inHbm p = inHbm q := by
  simp only [lineOf] at h
  rw [Bool.eq_iff_iff, inHbm_iff, inHbm_iff]
  omega

/-- A place that does not end past HBM, and is not empty, begins in HBM. -/
theorem inHbm_of_fits {pa : Nat} {bs : List Byte} (hb : bs ≠ []) (h : pa + bs.length ≤ hbmBytes) : inHbm pa = true := by
  have := List.length_pos_iff.2 hb
  exact decide_eq_true (by omega)

theorem MemSys.writeLine_of_inHbm {pa : Nat} (h : inHbm pa = true) (world : Nat) (bs : List Byte) :
    m.writeLine world pa bs = (m.advanceReplay pa).pokeN pa bs := by
  unfold MemSys.writeLine
  dsimp only
  rw [MemSys.norm_of_inHbm h, not_inHost_of_inHbm h]
  rfl

@[simp] theorem MemSys.writeN_nil (m : MemSys) (world pa : Nat) : m.writeN world pa [] = m := rfl

@[simp] theorem MemSys.softWrite_nil (m : MemSys) (world pa : Nat) : m.softWrite world pa [] = m := rfl

/-- Memory sees the writes of a line of HBM, and nothing but bytes and replay counters changes. -/
theorem MemSys.seesWrites_mem (m : MemSys) (world : Nat) {pa : Nat} (hp : inHbm pa = true) :
    SeesWrites world (lineOf pa) m.OnlyBytes (fun n => Sparse.get Memory.unwritten n.mem) := by
  intro n p bs ho hl hfit
  by_cases hb : bs = []
  · subst hb
    exact ⟨ho, fun q => by rw [if_neg (by simp)]; rfl⟩
  · rw [MemSys.writeN_eq_writeLine n world p hb hfit, MemSys.writeLine_of_inHbm (by rw [inHbm_of_line hl, hp])]
    refine ⟨(ho.trans (n.onlyBytes_advanceReplay p)).trans ⟨_, _, _, rfl⟩, fun q => ?_⟩
    exact (MemSys.get_pokeN _ p q bs).trans (by rw [MemSys.advanceReplay_mem])

theorem MemSys.onlyBytes_softWrite (m : MemSys) (world : Nat) {pa : Nat} {bs : List Byte} (hp : pa + bs.length ≤ hbmBytes)
    (hl : pa % 128 + bs.length ≤ 128) : m.OnlyBytes (m.softWrite world pa bs) := by
  by_cases hb : bs = []
  · subst hb
    exact .refl m
  · exact ((m.seesWrites_mem world (inHbm_of_fits hb hp)).softWrite (.refl m) hl).1

theorem MemSys.get_softWrite (m : MemSys) (world : Nat) {pa : Nat} {bs : List Byte} (hp : pa + bs.length ≤ hbmBytes)
    (hl : pa % 128 + bs.length ≤ 128) (q : Nat) : Sparse.get Memory.unwritten (m.softWrite world pa bs).mem q =
      if pa ≤ q ∧ q < pa + bs.length ∧ m.readOnly q = false then bs.getD (q - pa) 0 else Sparse.get Memory.unwritten m.mem q := by
  by_cases hb : bs = []
  · subst hb
    rw [if_neg (by simp only [List.length_nil]; omega), MemSys.softWrite_nil]
  · exact ((m.seesWrites_mem world (inHbm_of_fits hb hp)).softWrite (.refl m) hl).2 q

/-- A write of software that takes a number first (R118). -/
theorem MemSys.number_softWrite (m : MemSys) (msd : Bool) (world : Nat) {pa : Nat} {bs : List Byte} (hp : pa + bs.length ≤ hbmBytes)
    (hl : pa % 128 + bs.length ≤ 128) :
    let w := (m.number msd pa).softWrite world pa bs
    w = { m with mem := w.mem, seq := w.seq, replays := w.replays } ∧ ∀ q, Sparse.get Memory.unwritten w.mem q =
      if pa ≤ q ∧ q < pa + bs.length ∧ m.readOnly q = false then bs.getD (q - pa) 0 else Sparse.get Memory.unwritten m.mem q := by
  refine ⟨((m.onlyBytes_number msd pa).trans (MemSys.onlyBytes_softWrite _ world hp hl)).eq, fun q => ?_⟩
  rw [MemSys.get_softWrite _ world hp hl, (m.agrees_number msd pa).readOnly, MemSys.number_mem]

end Sys2Proof.Machine
end

section
/-! SUPPORT. A host request, a snoop and an access of another module (R319, R352, log 54, log 25). -/

namespace Sys2Proof.Machine

variable {m : MemSys} {s : State}

theorem exec_cxlMemRequest_write {pa : Nat} {bs : List Byte} (h : s.msys.hostMay pa bs.length = true) (hh : s.msys.isHeld pa = false) :
    ∃ m, exec (.cxlMemRequest pa (some bs)) s = .next (s.setMsys m) ∧
      m = { s.msys with mem := m.mem, seq := m.seq, replays := m.replays } ∧ ∀ q, Sparse.get Memory.unwritten m.mem q =
        if pa ≤ q ∧ q < pa + bs.length ∧ s.msys.readOnly q = false then bs.getD (q - pa) 0 else Sparse.get Memory.unwritten s.msys.mem q := by
  have hfit : pa + bs.length ≤ hbmBytes ∧ pa % 128 + bs.length ≤ 128 := by
    simp only [MemSys.hostMay, Bool.and_eq_true, decide_eq_true_eq, inHbm_iff] at h
    show pa + bs.length ≤ 2 ^ 39 ∧ _
    omega
  refine ⟨_, ?_, s.msys.number_softWrite (s.msys.frameMsd pa) 0 hfit.1 hfit.2⟩
  show execCxlMemRequest pa (some bs) s = _
  unfold execCxlMemRequest
  dsimp only
  rw [if_pos (by simp [h, hh])]

theorem exec_cxlMemRequest_refused {pa : Nat} {bs : List Byte} (h : s.msys.hostMay pa bs.length = false ∨ s.msys.isHeld pa = true) :
    exec (.cxlMemRequest pa (some bs)) s = .next s := by
  show execCxlMemRequest pa (some bs) s = _
  unfold execCxlMemRequest
  dsimp only
  refine if_neg ?_
  obtain h | h := h <;> simp [h]

theorem exec_cxlMemRequest_read (s : State) (pa : Nat) :
    ∃ m, exec (.cxlMemRequest pa none) s = .next (s.setMsys m) ∧ m = { s.msys with seq := m.seq } := by
  show ∃ m, execCxlMemRequest pa none s = .next (s.setMsys m) ∧ _
  unfold execCxlMemRequest
  dsimp only
  split
  · refine ⟨_, rfl, ?_⟩
    cases s.msys.frameMsd pa <;> rfl
  · exact ⟨s.msys, rfl, rfl⟩

/-! Snoops. -/

theorem MemSys.hostStore_eq (m : MemSys) (line : Nat) (ws : List (Nat × Byte)) : ∃ mem, m.hostStore line ws = { m with mem := mem } := by
  induction ws generalizing m with
  | nil => exact ⟨m.mem, rfl⟩
  | cons w ws ih => exact ih _

/-- The last store to a byte is what it holds. -/
theorem MemSys.get_hostStore (m : MemSys) (line q : Nat) (ws : List (Nat × Byte)) : Sparse.get Memory.unwritten (m.hostStore line ws).mem q =
    if q / 128 = line then (match ws.reverse.find? (fun w => w.1 % 128 == q % 128) with
      | some w => w.2
      | none => Sparse.get Memory.unwritten m.mem q)
    else Sparse.get Memory.unwritten m.mem q := by
  induction ws generalizing m with
  | nil => simp [MemSys.hostStore]
  | cons w ws ih =>
    obtain ⟨off, b⟩ := w
    rw [MemSys.hostStore, ih]
    by_cases hl : q / 128 = line
    · rw [if_pos hl, if_pos hl, List.reverse_cons, List.find?_append]
      cases hf : ws.reverse.find? (fun w => w.1 % 128 == q % 128) with
      | some x => rfl
      | none =>
        rw [Option.none_or, List.find?_singleton]
        by_cases ho : off % 128 = q % 128
        · have hq : line * 128 + off % 128 = q := by omega
          rw [if_pos (by simpa using ho), hq]
          exact MemSys.get_pokeB_self m q b
        · have hq : q ≠ line * 128 + off % 128 := by omega
          rw [if_neg (by simpa using ho)]
          exact MemSys.get_pokeB_ne m b hq
    · rw [if_neg hl, if_neg hl, MemSys.get_pokeB_ne m b (by omega)]

/-- The line that the slice holds dirty, if any, written back. -/
def MemSys.clean (m : MemSys) (line : Nat) : MemSys :=
  match m.dirtyFind line with
  | some d => m.writeBack d
  | none => m

theorem MemSys.clean_eq (m : MemSys) (line : Nat) : ∃ mem dirty, m.clean line = { m with mem := mem, dirty := dirty } := by
  unfold MemSys.clean
  split
  · exact ⟨_, _, rfl⟩
  · exact ⟨m.mem, m.dirty, rfl⟩

/-- A snoop changes memory and the dirty lines alone, and the lines dirty after it are those of the write-back. -/
theorem MemSys.hostStore_clean_eq (m : MemSys) (line : Nat) (ws : List (Nat × Byte)) : let n := (m.clean line).hostStore line ws
    n = { m with mem := n.mem, dirty := n.dirty } ∧ n.dirty = (m.clean line).dirty := by
  obtain ⟨mem, h⟩ := (m.clean line).hostStore_eq line ws
  obtain ⟨mem', dirty, h'⟩ := m.clean_eq line
  rw [h, h']
  exact ⟨rfl, rfl⟩

theorem MemSys.dirtyFind_clean (m : MemSys) (line : Nat) : (m.clean line).dirtyFind line = none := by
  unfold MemSys.clean
  split
  · next d hd =>
    obtain ⟨-, rfl⟩ := MemSys.mem_of_dirtyFind hd
    exact MemSys.dirtyFind_filter_self (m := m) rfl
  · next hd => exact hd

/-- Memory then holds what the home slices held of the line, and of the other lines what it held. -/
theorem MemSys.get_clean (h : m.dirtyOk) {line : Nat} (hl : inHost (line * 128) = true) (q : Nat) :
    Sparse.get Memory.unwritten (m.clean line).mem q = if q / 128 = line then m.readB q else Sparse.get Memory.unwritten m.mem q := by
  split
  · next hq =>
    have hhost : inHost q = true := by rw [inHost_of_line (q := line * 128) (by simp [lineOf, hq]), hl]
    rw [MemSys.readB_eq_homeB, MemSys.norm_of_inHost hhost, ← MemSys.homeB_of_none (by rw [lineOf, hq]; exact m.dirtyFind_clean line)]
    unfold MemSys.clean
    split
    · next hd => exact MemSys.homeB_writeBack h (MemSys.mem_of_dirtyFind hd).1 q
    · rfl
  · next hq =>
    unfold MemSys.clean
    split
    · next d hd =>
      obtain ⟨hmem, rfl⟩ := MemSys.mem_of_dirtyFind hd
      have := (h.1 d hmem).1
      exact (m.get_pokeN _ _ _).trans (if_neg (by omega))
    · rfl

/-- Of the stores that are kept, one to a byte that no read-only field holds is the last of all of them to it. -/
theorem find?_kept (m : MemSys) {line q : Nat} (hq : q / 128 = line) (ws : List (Nat × Byte)) :
    (ws.filter (fun w => !m.readOnly (line * 128 + w.1 % 128))).reverse.find? (fun w => w.1 % 128 == q % 128) =
      if m.readOnly q then none else ws.reverse.find? (fun w => w.1 % 128 == q % 128) := by
  have haddr : ∀ w : Nat × Byte, w.1 % 128 = q % 128 → line * 128 + w.1 % 128 = q := fun w hw => by omega
  rw [← List.filter_reverse, List.find?_filter]
  split
  · next hr =>
    rw [List.find?_eq_none]
    intro w _ hw
    simp only [decide_eq_true_eq, beq_iff_eq] at hw
    rw [haddr w hw.2, hr] at hw
    exact absurd hw.1 (by decide)
  · next hr =>
    congr 1
    funext w
    by_cases hw : w.1 % 128 = q % 128
    · rw [haddr w hw, Bool.eq_false_of_not_eq_true hr]
      simp [hw]
    · simp [hw]

theorem exec_hostSnoop {line : Nat} (ws : List (Nat × Byte)) (hl : inHost (line * 128) = true) (h : s.msys.dirtyOk) :
    ∃ m, exec (.hostSnoop line ws) s = .next (s.setMsys m) ∧
      m = { s.msys with mem := m.mem, dirty := m.dirty } ∧ (∀ d ∈ m.dirty, d.line ≠ line) ∧
      ∀ q, Sparse.get Memory.unwritten m.mem q = if q / 128 = line
        then (match ws.reverse.find? (fun w => w.1 % 128 == q % 128) with
          | some w => if s.msys.readOnly q = true then s.msys.readB q else w.2
          | none => s.msys.readB q)
        else Sparse.get Memory.unwritten s.msys.mem q := by
  refine ⟨(s.msys.clean line).hostStore line (ws.filter (fun w => !s.msys.readOnly (line * 128 + w.1 % 128))), if_pos hl,
    (s.msys.hostStore_clean_eq line _).1, ?_, fun q => ?_⟩
  · rw [(s.msys.hostStore_clean_eq line _).2]
    exact MemSys.dirtyFind_none (s.msys.dirtyFind_clean line)
  · rw [MemSys.get_hostStore, MemSys.get_clean h hl]
    by_cases hq : q / 128 = line
    · simp only [if_pos hq]
      rw [find?_kept _ hq]
      by_cases hr : s.msys.readOnly q = true
      · simp only [if_pos hr]
        cases ws.reverse.find? (fun w => w.1 % 128 == q % 128) <;> rfl
      · simp only [if_neg hr]
    · simp only [if_neg hq]

/-! Accesses of other modules. -/

theorem State.get_heard (s : State) (a k : Nat) : Sparse.get 0 (s.heard a).silence k = if k = a then 0 else Sparse.get 0 s.silence k := by
  split
  · next h =>
    subst h
    exact Sparse.get_set_self ..
  · next h => exact Sparse.get_set_ne _ _ _ h

/-- What another module may access lies in HBM, within one line. -/
theorem State.podOk_fits {a : PodAccess} (h : s.podOk a = true) : a.offset + podBytes a ≤ hbmBytes ∧ a.offset % 128 + podBytes a ≤ 128 := by
  simp only [State.podOk, Bool.and_eq_true, decide_eq_true_eq] at h
  exact ⟨h.1.1.1.1.1.2, h.1.1.1.1.2⟩

end Sys2Proof.Machine
end

section
/-! SUPPORT. Intervals without a flit (R357): of the silence of the modules, what an interval counts. -/

namespace Sys2Proof.Machine

variable {s t : State} {w : List (Nat × Nat) × List Nat × BringUp}

/-- What an interval goes by: the silence of the modules, the modules that are fenced, and the parameters. -/
def State.watch (s : State) : List (Nat × Nat) × List Nat × BringUp := (s.silence, s.msys.fenced, s.msys.bring)

theorem State.foldl_watch {α : Type} {f : State → α → State} {l : List α} (h : s.watch = w) (hf : ∀ t a, t.watch = w → (f t a).watch = w) :
    (l.foldl f s).watch = w :=
  l.foldlRecOn (motive := fun t : State => t.watch = w) f h fun t ht a _ => hf t a ht

theorem State.ite_watch {p : Prop} [Decidable p] (hs : s.watch = w) (ht : t.watch = w) : (if p then s else t).watch = w := by
  split <;> assumption

/-! The end of a send that fails. -/

theorem State.mapTeams_watch {cid : Nat} {f : Team → Team} (h : s.watch = w) : (s.mapTeams cid f).watch = w := by
  unfold State.mapTeams
  split
  · exact h
  · refine State.ite_watch (State.foldl_watch h fun _ _ h1 => ?_) h
    split <;> exact h1

theorem State.settleOps_watch {os : List EngineOp} (h : s.watch = w) : (s.settleOps os).watch = w :=
  State.foldl_watch h fun _ _ h1 => State.mapTeams_watch h1

theorem State.settleBatch_watch {cid team n : Nat} (h : s.watch = w) : (s.settleBatch cid team n).watch = w :=
  State.ite_watch (State.settleOps_watch h) h

theorem State.settleReplies_watch {cid team : Nat} {batch : Option Nat} (h : s.watch = w) : (s.settleReplies cid team batch).watch = w := by
  unfold State.settleReplies
  refine State.ite_watch h ?_
  dsimp only
  split
  · exact State.settleBatch_watch (State.foldl_watch h fun _ _ h1 => h1)
  · exact State.foldl_watch h fun _ _ h1 => h1

theorem State.putOp_watch {o : EngineOp} (h : s.watch = w) : (s.putOp o).watch = w := by
  have hr := State.settleReplies_watch (cid := o.crew) (team := o.team) (batch := o.batch) (s := s.setOp o) h
  unfold State.putOp
  dsimp only
  split
  · exact State.ite_watch (State.settleBatch_watch hr) hr
  · exact hr

theorem State.faultWrite_watch {p : FaultPost} {o : FaultOwner} (h : s.watch = w) : (s.setMsys (s.msys.faultWrite p o)).watch = w := by
  obtain ⟨_, _, _, _, _, _, _, _, _, _, _, _, _, hm⟩ := s.msys.faultWrite_frame p o
  rw [hm]
  exact h

theorem State.failSend_watch {o : EngineOp} {k : Nat} (h : s.watch = w) : (s.failSend o k).watch = w :=
  State.ite_watch (State.putOp_watch (State.faultWrite_watch h)) h

/-! The instances that a fence completes. -/

theorem State.barSettle_watch {b : BarState} (h : s.watch = w) : (s.barSettle b).watch = w :=
  State.ite_watch (State.foldl_watch h fun _ _ h1 => h1) h

theorem State.barSweep_watch (h : s.watch = w) : s.barSweep.watch = w :=
  State.foldl_watch h fun _ _ h1 => State.barSettle_watch h1

/-- A fence adds the module to those that are fenced, and leaves what else an interval goes by. -/
theorem State.watch_declareSilent (s : State) (a : Nat) : (s.declareSilent a).watch = (s.silence, s.msys.fenced ++ [a], s.msys.bring) :=
  have hf : (s.setMsys { s.msys with fenced := s.msys.fenced ++ [a] }).watch = (s.silence, s.msys.fenced ++ [a], s.msys.bring) := rfl
  State.barSweep_watch (State.foldl_watch hf fun _ _ h1 => State.failSend_watch h1)

/-! One interval. -/

/-- A module whose silence does not reach the limit is not fenced; one whose silence does begins again at 0, fenced. -/
theorem State.watch_countSilence (s : State) (a : Nat) : (s.countSilence a).watch =
    if s.msys.bring.silence ≤ Sparse.get 0 s.silence a + 1 then (Sparse.set 0 s.silence a 0, s.msys.fenced ++ [a], s.msys.bring)
    else (Sparse.set 0 s.silence a (Sparse.get 0 s.silence a + 1), s.msys.fenced, s.msys.bring) := by
  unfold State.countSilence
  dsimp only
  split
  · exact State.watch_declareSilent _ a
  · rfl

/-- What an interval leaves of a module, whose silence was `n`, in a state with the limit `limit`. -/
def State.Counted (s : State) (limit a n : Nat) : Prop :=
  (n < limit → Sparse.get 0 s.silence a = n ∧ a ∉ s.msys.fenced) ∧ (limit ≤ n → Sparse.get 0 s.silence a = 0 ∧ a ∈ s.msys.fenced)

/-- The interval leaves of a module what it was. -/
def State.Kept (s t : State) (a : Nat) : Prop := Sparse.get 0 t.silence a = Sparse.get 0 s.silence a ∧ (a ∈ t.msys.fenced ↔ a ∈ s.msys.fenced)

theorem State.Counted.of_kept {limit a n : Nat} (h : s.Counted limit a n) (hk : s.Kept t a) : t.Counted limit a n := by
  unfold State.Counted
  rwa [hk.1, hk.2]

theorem State.bring_countSilence (s : State) (b : Nat) : (s.countSilence b).msys.bring = s.msys.bring := by
  have h := congrArg (fun w => w.2.2) (s.watch_countSilence b)
  split at h <;> exact h

theorem State.kept_countSilence {a b : Nat} (h : a ≠ b) : s.Kept (s.countSilence b) a := by
  obtain ⟨hs, hf, -⟩ : _ ∧ _ ∧ _ := by
    simpa only [State.watch, apply_ite Prod.fst, apply_ite Prod.snd, Prod.ext_iff] using s.watch_countSilence b
  constructor
  · rw [hs]
    split <;> exact Sparse.get_set_ne _ _ _ h
  · rw [hf]
    split <;> simp [h]

theorem State.counted_countSilence {b : Nat} (h : b ∉ s.msys.fenced) :
    (s.countSilence b).Counted s.msys.bring.silence b (Sparse.get 0 s.silence b + 1) := by
  obtain ⟨hs, hf, -⟩ : _ ∧ _ ∧ _ := by
    simpa only [State.watch, apply_ite Prod.fst, apply_ite Prod.snd, Prod.ext_iff] using s.watch_countSilence b
  unfold State.Counted
  rw [hs, hf]
  refine ⟨fun hn => ?_, fun hn => ?_⟩
  · rw [if_neg (Nat.not_le.2 hn), if_neg (Nat.not_le.2 hn)]
    exact ⟨Sparse.get_set_self .., h⟩
  · rw [if_pos hn, if_pos hn]
    exact ⟨Sparse.get_set_self .., by simp⟩

/-- An interval counts each module of a list once, and leaves the others. -/
theorem State.counted_foldl {l : List Nat} (hl : l.Nodup) (hf : ∀ a ∈ l, a ∉ s.msys.fenced) : let t := l.foldl State.countSilence s
    (∀ a ∉ l, s.Kept t a) ∧ ∀ a ∈ l, t.Counted s.msys.bring.silence a (Sparse.get 0 s.silence a + 1) := by
  induction l generalizing s with
  | nil => exact ⟨fun _ _ => ⟨rfl, Iff.rfl⟩, fun _ h => absurd h List.not_mem_nil⟩
  | cons b l ih =>
    obtain ⟨hb, hl⟩ := List.nodup_cons.1 hl
    have hne : ∀ {a}, a ∈ l → a ≠ b := fun ha hab => hb (hab ▸ ha)
    obtain ⟨hkept, hcounted⟩ := ih (s := s.countSilence b) hl fun a ha =>
      mt (State.kept_countSilence (hne ha)).2.1 (hf a (List.mem_cons_of_mem b ha))
    rw [State.bring_countSilence] at hcounted
    refine ⟨fun a ha => ?_, fun a ha => ?_⟩
    · obtain ⟨hab, ha⟩ := not_or.1 (mt List.mem_cons.2 ha)
      have h1 := State.kept_countSilence (s := s) hab
      have h2 := hkept a ha
      exact ⟨h2.1.trans h1.1, h2.2.trans h1.2⟩
    · obtain rfl | ha := List.mem_cons.1 ha
      · exact (State.counted_countSilence (hf a (List.mem_cons_self ..))).of_kept (hkept a hb)
      · rw [← (State.kept_countSilence (s := s) (hne ha)).1]
        exact hcounted a ha

theorem exec_heartbeatInterval (hin : s.msys.bring.inPod = true) (hup : s.msys.podDown = false) (hl : s.liveNeighbours.Nodup) :
    ∃ t, exec .heartbeatInterval s = .next t ∧
      ∀ a ∈ s.liveNeighbours, t.Counted s.msys.bring.silence a (Sparse.get 0 s.silence a + 1) := by
  refine ⟨_, if_pos (by simp [hin, hup]), (State.counted_foldl hl fun a ha => ?_).2⟩
  simpa [State.liveNeighbours] using (List.mem_filter.1 ha).2

end Sys2Proof.Machine
end

section
/-! SUPPORT. The data link goes down (R354): what the quarantine takes, and what it keeps. -/

namespace Sys2Proof.Machine

variable {s t u : State} {d : DirtyLine}

theorem mem_keys_of_get_ne {α : Type} {v : α} {l : List (Nat × α)} {i : Nat} (h : Sparse.get v l i ≠ v) : i ∈ l.map Prod.fst := by
  induction l with
  | nil => exact absurd rfl h
  | cons p l ih =>
    rw [Sparse.get_cons] at h
    split at h
    · exact absurd rfl h
    · split at h
      · next he => exact he ▸ List.mem_cons_self ..
      · exact List.mem_cons_of_mem _ (ih h)

/-- The quarantine lists fewer keys than there are entries to choose from: one of a slice's is free. -/
theorem State.get_qKey_qFree (s : State) (slice : Nat) : Sparse.get none s.quarantine (qKey slice (s.qFree slice)) = none := by
  unfold State.qFree
  cases hf : (List.range (s.quarantine.length + 1)).find? (fun i => (Sparse.get none s.quarantine (qKey slice i)).isNone) with
  | some i => simpa using List.find?_some hf
  | none =>
    have hused : ∀ k ∈ (List.range (s.quarantine.length + 1)).map (qKey slice), k ∈ s.quarantine.map Prod.fst := by
      intro k hk
      obtain ⟨i, hi, rfl⟩ := List.mem_map.1 hk
      exact mem_keys_of_get_ne (by simpa using List.find?_eq_none.1 hf i hi)
    have hinj : Function.Injective (qKey slice) := fun _ _ h => Nat.add_left_cancel h
    have hle := ((List.nodup_range.map hinj).subperm hused).length_le
    simp at hle

/-- What the quarantine of lines keeps of a state. -/
structure State.QuarantineKeeps (s t : State) : Prop where
  firm : t.firm = s.firm
  linkUp : t.msys.linkUp = s.msys.linkUp
  dirty : t.msys.dirty = s.msys.dirty
  mem : t.msys.mem = s.msys.mem
  poison : ∀ l, Sparse.get false s.msys.poison l = true → Sparse.get false t.msys.poison l = true
  l1 : ∀ l ∈ t.msys.l1, l ∈ s.msys.l1
  entry : ∀ k e, Sparse.get none s.quarantine k = some e → Sparse.get none t.quarantine k = some e

theorem State.QuarantineKeeps.refl (s : State) : s.QuarantineKeeps s := ⟨rfl, rfl, rfl, rfl, fun _ => id, fun _ => id, fun _ _ => id⟩

theorem State.QuarantineKeeps.trans (h : s.QuarantineKeeps t) (k : t.QuarantineKeeps u) : s.QuarantineKeeps u where
  firm := k.firm.trans h.firm
  linkUp := k.linkUp.trans h.linkUp
  dirty := k.dirty.trans h.dirty
  mem := k.mem.trans h.mem
  poison l hl := k.poison l (h.poison l hl)
  l1 l hl := h.l1 l (k.l1 l hl)
  entry i e he := k.entry i e (h.entry i e he)

/-- The line is poisoned, in no L1, and in the quarantine. -/
def State.Quarantined (t : State) (d : DirtyLine) : Prop :=
  Sparse.get false t.msys.poison d.line = true ∧ (∀ l ∈ t.msys.l1, l.line ≠ d.line) ∧
    ∃ k, Sparse.get none t.quarantine k = some ⟨d.data, d.line * 128, d.seq, d.world, 1⟩

theorem State.Quarantined.of_keeps (h : s.Quarantined d) (k : s.QuarantineKeeps t) : t.Quarantined d := by
  obtain ⟨hp, hl, key, he⟩ := h
  exact ⟨k.poison _ hp, fun l ha => hl l (k.l1 l ha), key, k.entry _ _ he⟩

theorem State.quarantineKeeps_quarantineLine (s : State) (d : DirtyLine) : s.QuarantineKeeps (s.quarantineLine d) where
  firm := rfl
  linkUp := rfl
  dirty := rfl
  mem := rfl
  poison l hl := by
    by_cases h : l = d.line
    · exact h ▸ Sparse.get_set_self ..
    · exact (Sparse.get_set_ne _ _ _ h).trans hl
  l1 _ hl := List.mem_of_mem_filter hl
  entry k e he := by
    refine (Sparse.get_set_ne _ _ _ fun hk => ?_).trans he
    rw [hk, State.get_qKey_qFree] at he
    cases he

theorem State.quarantined_quarantineLine (s : State) (d : DirtyLine) : (s.quarantineLine d).Quarantined d :=
  ⟨Sparse.get_set_self .., fun _ hl => by simpa using (List.mem_filter.1 hl).2, _, Sparse.get_set_self ..⟩

theorem State.quarantine_foldl (s : State) (ds : List DirtyLine) : let t := ds.foldl State.quarantineLine s
    s.QuarantineKeeps t ∧ ∀ d ∈ ds, t.Quarantined d := by
  induction ds generalizing s with
  | nil => exact ⟨.refl s, fun _ h => absurd h List.not_mem_nil⟩
  | cons d ds ih =>
    obtain ⟨hkeeps, hin⟩ := ih (s.quarantineLine d)
    refine ⟨(s.quarantineKeeps_quarantineLine d).trans hkeeps, fun e he => ?_⟩
    obtain rfl | he := List.mem_cons.1 he
    · exact (s.quarantined_quarantineLine e).of_keeps hkeeps
    · exact hin e he

/-- Without a late access to host memory nothing is performed first. -/
theorem State.settleHost_eq (h : ∀ p ∈ s.teams, ∀ t, p.2 = some t →
    ∀ a ∈ t.late, ∀ q ∈ a.places, q.scratch = true ∨ inHost q.addr = false) :
    s.settleHost = s := by
  refine s.teams.foldlRecOn (motive := fun t => t = s) _ rfl fun t ht p hp => ?_
  split
  · next u hu =>
    refine (if_neg ?_).trans ht
    simp only [List.any_eq_true, not_exists, not_and]
    intro a ha q hq
    obtain hs | hn := h p hp u hu a ha q hq
    · simp [hs]
    · simp [hn]
  · exact ht

/-- RUN gives way to ERROR, and nothing else changes (R361). -/
theorem State.enterError_eq (s : State) : s.enterError =
    if s.firm.iface = .run then { s with firm := { s.firm with iface := .error }, msys := { s.msys with hostOk := false } } else s := rfl

theorem exec_dataLinkDown (hup : s.msys.linkUp = true) : let r := s.settleHost
    ∃ s', exec .dataLinkDown s = .next s' ∧ s'.msys.linkUp = false ∧ s'.msys.dirty = [] ∧
      s'.msys.mem = r.msys.mem ∧ (∀ d ∈ r.msys.dirty, s'.Quarantined d) ∧
      (∀ k e, Sparse.get none r.quarantine k = some e → Sparse.get none s'.quarantine k = some e) ∧
      s'.firm.responses = r.firm.responses ++ [.quarantine s'.quarantineCounts] ∧
      (r.firm.iface = .run → s'.firm.iface = .error ∧ s'.msys.hostOk = false) ∧ (r.firm.iface ≠ .run → s'.firm.iface = r.firm.iface) := by
  intro r
  obtain ⟨hk, hin⟩ := State.quarantine_foldl (r.setMsys { r.msys with linkUp := false, dirty := [] }) r.msys.dirty
  set t := r.msys.dirty.foldl State.quarantineLine (r.setMsys { r.msys with linkUp := false, dirty := [] })
  have hrun : exec .dataLinkDown s = .next (t.respond (.quarantine t.quarantineCounts)).enterError := if_pos hup
  refine ⟨_, hrun, ?_⟩
  have hfirm : t.firm = r.firm := hk.firm
  have hiface : (t.respond (.quarantine t.quarantineCounts)).firm.iface = r.firm.iface := by
    rw [← hfirm]
    rfl
  have hresp : t.firm.responses = r.firm.responses := congrArg Firm.responses hfirm
  by_cases h : r.firm.iface = .run
  · rw [State.enterError_eq, if_pos (hiface.trans h)]
    exact ⟨hk.linkUp, hk.dirty, hk.mem, hin, hk.entry, congrArg (· ++ _) hresp, fun _ => ⟨rfl, rfl⟩, absurd h⟩
  · rw [State.enterError_eq, if_neg (hiface ▸ h)]
    exact ⟨hk.linkUp, hk.dirty, hk.mem, hin, hk.entry, congrArg (· ++ _) hresp, (absurd · h), fun _ => hiface⟩

end Sys2Proof.Machine
end

section
/-! SUPPORT. Accesses of other modules (R319, R357), and a start that fails (R364). -/

namespace Sys2Proof.Machine

variable {s : State} {a : PodAccess}

/-- The bytes that a store or an atomic of another module puts at its place. -/
def MemSys.podData (m : MemSys) (a : PodAccess) : Option (List Byte) :=
  match a.op with
  | .load _ => none
  | .store bs => some bs
  | .add w x => some (leBytes (m.readNat a.offset w + x.toNat) w)
  | .swap w x => some (leBytes x.toNat w)
  | .cas w e x => some (leBytes (if m.readNat a.offset w = e.toNat % 2 ^ (8 * w) then x.toNat else m.readNat a.offset w) w)

/-- What an access that is performed leaves of the memory system. -/
def MemSys.podPerform (m : MemSys) (a : PodAccess) : MemSys :=
  match m.podData a with
  | none => m.number a.msd a.offset
  | some bs => (m.number a.msd a.offset).softWrite a.world a.offset bs

theorem MemSys.length_podData {m : MemSys} {bs : List Byte} (h : m.podData a = some bs) : bs.length = podBytes a := by
  unfold MemSys.podData at h
  unfold podBytes
  split at h
  case h_1 => cases h
  all_goals
    obtain rfl := Option.some.inj h
    simp [*]

/-- An atomic reads the same before it takes its number and after. -/
theorem MemSys.podAtomic_eq (m : MemSys) (a : PodAccess) (w : Nat) (f : Nat → Nat) :
    m.podAtomic a w f = (m.number a.msd a.offset).softWrite a.world a.offset (leBytes (f (m.readNat a.offset w)) w) := by
  unfold MemSys.podAtomic
  dsimp only
  rw [(m.agrees_number a.msd a.offset).readNat]

theorem exec_podWindowAccess_performed (h : s.podOk a = true) :
    exec (.podWindowAccess a) s = .next { s with msys := s.msys.podPerform a, silence := (s.heard a.module).silence } := by
  show execPodWindowAccess a s = _
  unfold execPodWindowAccess MemSys.podPerform MemSys.podData
  rw [if_neg (by simp [h])]
  cases a.op with
  | load n => rfl
  | store bs => rfl
  | add w x => exact congrArg (fun m => Host.Outcome.next ((s.heard a.module).setMsys m)) (MemSys.podAtomic_eq ..)
  | swap w x => exact congrArg (fun m => Host.Outcome.next ((s.heard a.module).setMsys m)) (MemSys.podAtomic_eq ..)
  | cas w e x => exact congrArg (fun m => Host.Outcome.next ((s.heard a.module).setMsys m)) (MemSys.podAtomic_eq ..)

theorem MemSys.podPerform_of_none {m : MemSys} (h : m.podData a = none) : m.podPerform a = m.number a.msd a.offset := by
  rw [MemSys.podPerform, h]

/-- A store or an atomic that is performed changes the bytes of its place, but for read-only fields, and nothing else of memory. -/
theorem State.podPerform_of_some (h : s.podOk a = true) {bs : List Byte} (hd : s.msys.podData a = some bs) : let m := s.msys.podPerform a
    m = { s.msys with mem := m.mem, seq := m.seq, replays := m.replays } ∧ ∀ q, Sparse.get Memory.unwritten m.mem q =
      if a.offset ≤ q ∧ q < a.offset + bs.length ∧ s.msys.readOnly q = false then bs.getD (q - a.offset) 0
      else Sparse.get Memory.unwritten s.msys.mem q := by
  obtain ⟨hhbm, hline⟩ := State.podOk_fits h
  rw [MemSys.podPerform, hd]
  rw [← MemSys.length_podData hd] at hhbm hline
  exact s.msys.number_softWrite a.msd a.world hhbm hline

theorem State.podPerform_frame (h : s.podOk a = true) : let m := s.msys.podPerform a
    m = { s.msys with mem := m.mem, seq := m.seq, replays := m.replays } := by
  intro m
  cases hd : s.msys.podData a with
  | none =>
    have ho : s.msys.OnlyBytes (s.msys.podPerform a) := by
      rw [MemSys.podPerform_of_none hd]
      exact s.msys.onlyBytes_number a.msd a.offset
    exact ho.eq
  | some bs => exact (State.podPerform_of_some h hd).1

/-- An access that is performed ends its module's silence, and its data, if it has any, is all that it writes (log 25). -/
theorem exec_podWindowAccess (h : s.podOk a = true) : ∃ m sl, exec (.podWindowAccess a) s = .next { s with msys := m, silence := sl } ∧
    (∀ k, Sparse.get 0 sl k = if k = a.module then 0 else Sparse.get 0 s.silence k) ∧
    m = { s.msys with mem := m.mem, seq := m.seq, replays := m.replays } ∧
    (s.msys.podData a = none → m.mem = s.msys.mem) ∧
    ∀ bs, s.msys.podData a = some bs → ∀ q, Sparse.get Memory.unwritten m.mem q =
      if a.offset ≤ q ∧ q < a.offset + bs.length ∧ s.msys.readOnly q = false then bs.getD (q - a.offset) 0
      else Sparse.get Memory.unwritten s.msys.mem q :=
  ⟨_, _, exec_podWindowAccess_performed h, s.get_heard a.module, State.podPerform_frame h,
    fun hd => by rw [MemSys.podPerform_of_none hd, MemSys.number_mem], fun _ hd => (State.podPerform_of_some h hd).2⟩

theorem exec_podWindowAccess_refused (h : s.podOk a = false) : ∃ sl, exec (.podWindowAccess a) s = .next { s with silence := sl } ∧
    ∀ k, Sparse.get 0 sl k =
      if k = a.module ∧ s.msys.bring.inPod = true ∧ s.msys.podDown = false ∧ a.module ≠ s.msys.pkg then 0 else Sparse.get 0 s.silence k := by
  have hrun : exec (.podWindowAccess a) s = .next (s.flitFrom a.module) := if_pos (by simp [h])
  rw [hrun]
  unfold State.flitFrom
  by_cases hin : s.msys.bring.inPod = true ∧ s.msys.podDown = false ∧ a.module ≠ s.msys.pkg
  · rw [if_pos (by simpa [and_assoc] using hin)]
    exact ⟨_, rfl, fun k => (s.get_heard a.module k).trans (by simp [hin])⟩
  · rw [if_neg (by simpa [and_assoc] using hin)]
    exact ⟨_, rfl, fun k => (if_neg fun hk => hin hk.2).symm⟩

/-! The status word (R364). -/

theorem toNat_statusWord {version cause failed : Nat} (hv : version < 256) (hc : cause < 256) (hf : failed < 4) :
    (statusWord false version cause failed).toNat = failed + 256 * cause + 65536 * version := by
  unfold statusWord
  rw [BitVec.toNat_ofNat]
  simp only [Bool.false_eq_true, if_false]
  omega

theorem statusCause_statusWord {version cause failed : Nat} (hv : version < 256) (hc : cause < 256) (hf : failed < 4) :
    statusCause (statusWord false version cause failed) = cause := by
  rw [statusCause, bitsOf, toNat_statusWord hv hc hf]
  omega

theorem statusFailed_statusWord {version cause failed : Nat} (hv : version < 256) (hc : cause < 256) (hf : failed < 4) :
    statusFailed (statusWord false version cause failed) = failed := by
  rw [statusFailed, bitsOf, toNat_statusWord hv hc hf]
  omega

theorem statusVersion_statusWord {version cause failed : Nat} (hv : version < 256) (hc : cause < 256) (hf : failed < 4) :
    statusVersion (statusWord false version cause failed) = version := by
  rw [statusVersion, bitsOf, toNat_statusWord hv hc hf]
  omega

theorem statusVersion_lt (w : Word) : statusVersion w < 256 := Nat.mod_lt _ (by decide)

theorem exec_trainingFailure (part : TrainPart) (h : s.firm.phase = .starting) :
    ∃ w, exec (.trainingFailure part) s = .next { s with firm := { s.firm with phase := .failed, status := w } } ∧
      statusCause w = trainCause part ∧ statusFailed w = Nat.min 3 (statusFailed s.firm.status + 1) ∧
      statusVersion w = statusVersion s.firm.status := by
  have hv := statusVersion_lt s.firm.status
  have hc : trainCause part < 256 := by cases part <;> decide
  have hf : Nat.min 3 (statusFailed s.firm.status + 1) < 4 := Nat.lt_succ_of_le (Nat.min_le_left ..)
  exact ⟨_, if_pos h, statusCause_statusWord hv hc hf, statusFailed_statusWord hv hc hf, statusVersion_statusWord hv hc hf⟩

end Sys2Proof.Machine
end

section
/-! PROOF. Settles O44. -/

namespace Sys2Proof.Machine

/-- Settles O44: the event of each clause by its own lemma; the quarantine keeps every entry that it held because the entry it takes is free. -/
theorem linksAndPod : Obligations.LinksAndPod := by
  intro s
  refine ⟨fun hup => ⟨State.settleHost_eq, exec_dataLinkDown hup⟩, fun hready => if_pos hready, ?_,
    fun _ _ => exec_cxlMemRequest_write, fun _ _ => exec_cxlMemRequest_refused, exec_cxlMemRequest_read s, fun _ => exec_hostSnoop, ?_,
    fun _ => exec_podWindowAccess_refused, fun _ => rfl, exec_heartbeatInterval, fun a ha => ⟨_, if_pos (by simpa using ha), s.get_heard a⟩,
    fun hin => if_pos hin, ?_, ⟨_, rfl, fun p => ?_⟩⟩
  · rintro i (rfl | rfl) <;> rfl
  · intro a hok
    obtain ⟨m, sl, hrun, hsl, hframe, hload, hputs⟩ := exec_podWindowAccess hok
    refine ⟨m, sl, hrun, hsl, hframe, fun n hop => hload ?_, fun bs hop => hputs bs ?_, fun w x hop => hputs _ ?_, fun w x hop => hputs _ ?_,
      fun w e x hop => hputs _ ?_⟩ <;> rw [MemSys.podData, hop]
  · intro part hstart
    obtain ⟨w, hrun, hcause, hcounts⟩ := exec_trainingFailure part hstart
    exact ⟨w, hrun, hcause, hcounts⟩
  · rw [List.mem_filter, and_comm]

end Sys2Proof.Machine
end

section
/-! SUPPORT. The team that a core issues from, and what takes place in a step (R46, R311, log 2). -/

namespace Sys2Proof.Machine

variable {s : State} {r : TeamRef} {t : Team} {c : Crew} {core : Nat}

/-! The choice of a team. -/

theorem mem_of_firstOf {α : Type} {place : α → Place} {l : List α} {x : α} (h : firstOf place l = some x) : x ∈ l := by
  induction l generalizing x with
  | nil => simp [firstOf] at h
  | cons y ys ih =>
    unfold firstOf at h
    split at h
    · rename_i z hz
      split at h <;> cases h
      · exact List.mem_cons_of_mem _ (ih hz)
      · exact List.mem_cons_self ..
    · cases h
      exact List.mem_cons_self ..

theorem mem_of_mem_standBack {xs : List Runner} {x : Runner} (h : x ∈ standBack xs) : x ∈ xs := by
  unfold standBack at h
  split at h
  · exact h
  · exact (List.mem_filter.1 h).1

@[simp] theorem slotKey_refOf (key : Nat) : slotKey (refOf key) = key := by
  simp only [slotKey, refOf]
  omega

theorem State.runner_some {key : Nat} {x : Runner} (h : s.runner key = some x) :
    x.ref = refOf key ∧ ∃ t c, s.teamAt x.ref = some t ∧ s.crewAt t.crew = some c ∧ s.mayIssue x.ref t c = true := by
  unfold State.runner at h
  split at h
  · rename_i t ht
    split at h
    · rename_i c hc
      split at h <;> cases h
      rename_i hm
      exact ⟨rfl, t, c, ht, hc, hm⟩
    · cases h
  · cases h

/-- A core issues from a team of its own that may issue. -/
theorem State.select_some (h : s.select core = some r) :
    slotKey r / 16 = core ∧ ∃ t c, s.teamAt r = some t ∧ s.crewAt t.crew = some c ∧ s.mayIssue r t c = true := by
  obtain ⟨x, hx, rfl⟩ := Option.map_eq_some_iff.1 h
  obtain ⟨⟨key, v⟩, -, hp⟩ := List.mem_filterMap.1 (mem_of_mem_standBack (mem_of_firstOf hx))
  split at hp
  · rename_i hcore
    obtain ⟨href, htc⟩ := State.runner_some hp
    exact ⟨by rw [href, slotKey_refOf]; exact hcore, htc⟩
  · cases hp

theorem State.select_of_selectAny (h : s.selectAny = some r) : ∃ core, s.select core = some r := by
  obtain ⟨core, -, hc⟩ := List.mem_filterMap.1 (mem_of_firstOf h)
  exact ⟨core, hc⟩

/-! The slot is taken. -/

/-- The team that takes its slot issues. -/
theorem State.issuer_taken (hc : s.crewAt t.crew = some c) :
    (s.taken r t).issuer = some ⟨r, { t with yielded := false, lastIssue := s.clock + 1, wait := none }, t.crew, c⟩ := by
  have ht : (s.taken r t).teamAt r = some { t with yielded := false, lastIssue := s.clock + 1 } := Sparse.get_set_self ..
  have hc' : (s.taken r t).crewAt t.crew = some c := hc
  show (s.taken r t).issuerAt r = _
  simp only [State.issuerAt, ht, hc']

theorem Team.issues_of_words {k : Clause} (hk : t.clause = some k) (hw : k.words ≠ []) :
    t.issues r = (decodeWords (k.words.drop k.pos)).toOption.map Prod.fst := by
  simp [Team.issues, Team.needsFetch, Team.current, hk, hw]

theorem Team.issues_of_noWords (h : ∀ k, t.clause = some k → k.words = []) : t.issues r = some (.clauseFetch r) := by
  cases hk : t.clause with
  | none => simp [Team.issues, Team.needsFetch, hk]
  | some k => simp [Team.issues, Team.needsFetch, hk, h k hk]

theorem issueFrom_of_issues {i : Instr} (ht : s.teamAt r = some t) (hi : t.issues r = some i) : issueFrom s r = exec i (s.taken r t) := by
  simp only [issueFrom, ht, hi]

theorem issueFrom_of_badWord (ht : s.teamAt r = some t) (hi : t.issues r = none) : issueFrom s r = .next (s.taken r t).badWord := by
  simp only [issueFrom, ht, hi]

/-! What happens in a step. -/

theorem Input.act_event {i : Instr} (hi : isEvent i = true) : (Input.event i).act s = exec i s := by
  simp only [Input.act, hi, if_true]

theorem Input.act_noEvent {i : Instr} (hi : isEvent i = false) : (Input.event i).act s = .next s := by
  simp [Input.act, hi]

theorem happen_of_agenda {e : Input} {rest : List Input} (h : s.agenda = e :: rest) : happen s = e.act { s with agenda := rest } := by
  simp only [happen, h]

theorem issueOn_of_select (hr : s.select core = some r) : issueOn s core = issueFrom s r := by
  simp only [issueOn, hr]

theorem happen_of_core {rest : List Nat} (ha : s.agenda = []) (h : s.sched = (core + 1) :: rest) :
    happen s = issueOn { s with sched := rest } core := by
  simp only [happen, ha, h]

theorem happen_of_internal {rest : List Nat} (ha : s.agenda = []) (h : s.sched = 0 :: rest) : happen s = internal { s with sched := rest } := by
  simp only [happen, ha, h]

theorem happen_of_any (ha : s.agenda = []) (h : s.sched = []) (hr : s.selectAny = some r) (hd : s.turn = false ∨ s.nextDue = none) :
    happen s = issueFrom { s with turn := !s.turn } r := by
  have hf : (s.turn && s.nextDue.isSome) = false := by
    rcases hd with hd | hd <;> simp [hd]
  simp [happen, ha, h, unscheduled, hr, hf]

/-! The events that are due. -/

/-- The event that happens next is due, and the others keep their order. -/
theorem State.nextDue_some {e : Due} {u : State} (h : s.nextDue = some (e, u)) :
    e ∈ s.due ∧ s.dueOrder = e :: u.queued ∧ internal s = e.run u := by
  have hi : internal s = e.run u := by simp only [internal, h]
  unfold State.nextDue at h
  split at h
  · cases h
  · rename_i ho
    cases h
    have he : e ∈ s.dueOrder := ho ▸ List.mem_cons_self ..
    refine ⟨?_, ho, hi⟩
    simp only [State.dueOrder, List.mem_append, List.mem_filter, List.contains_iff_mem] at he
    exact he.elim And.right And.left

theorem internal_of_due_nil (h : s.due = []) : internal s = .next s := by
  have ho : s.dueOrder = [] := by simp [State.dueOrder, h]
  simp [internal, State.nextDue, ho]

theorem State.doorbell_mem_due (h : s.msys.rung ≠ []) : Due.doorbell ∈ s.due := by
  simp [State.due, h]

/-! Doorbells. -/

section

variable {pa q die : Nat} {bs : List Byte}

theorem State.rings_tailWrite (hd : s.bellDie pa = none) (hq : s.bellQueue pa = some q) (hl : bs.length = 4) (hp : pa % 4096 = 0) :
    s.rings pa bs = exec (.tailWrite q (BitVec.ofNat 32 (leNat bs))) s := by
  simp only [State.rings, hd, hq, hl, hp, ne_eq, not_true_eq_false, if_false]
  rfl

theorem State.rings_resume (hd : s.bellDie pa = none) (hq : s.bellQueue pa = some q) (hl : bs.length = 4) (hp : pa % 4096 = 8)
    (hn : leNat bs = 1) : s.rings pa bs = exec (.resumeCommand q) s := by
  simp only [State.rings, hd, hq, hl, hp, hn, ne_eq, not_true_eq_false, if_false]
  rfl

theorem State.rings_destroy (hd : s.bellDie pa = none) (hq : s.bellQueue pa = some q) (hl : bs.length = 4) (hp : pa % 4096 = 8)
    (hn : leNat bs = 2) : s.rings pa bs = exec (.destroyCommand q) s := by
  simp only [State.rings, hd, hq, hl, hp, hn, ne_eq, not_true_eq_false, if_false]
  rfl

theorem State.rings_retry (hd : s.bellDie pa = some die) (hl : bs.length = 8) (hn : bitsOf (leNat bs) 32 2 = 1) :
    s.rings pa bs = exec (.faultReplyRetry die (BitVec.ofNat 32 (leNat bs))) s := by
  simp only [State.rings, hd, hl, hn, ne_eq, not_true_eq_false, if_false]
  rfl

theorem State.rings_end (hd : s.bellDie pa = some die) (hl : bs.length = 8) (hn : bitsOf (leNat bs) 32 2 = 2) :
    s.rings pa bs = exec (.faultReplyEnd die (BitVec.ofNat 32 (leNat bs))) s := by
  simp only [State.rings, hd, hl, hn, ne_eq, not_true_eq_false, if_false]
  rfl

end

end Sys2Proof.Machine
end

section
/-! SUPPORT. The events that are due do not depend on the interleaving of the cores (log 2). -/

namespace Sys2Proof.Machine

variable (s : State) (x : List Nat)

/-- The machine with another interleaving of the cores. -/
def State.resched (s : State) (x : List Nat) : State := { s with sched := x }

theorem State.putOn_resched (cid : Nat) (c : Crew) (die core : Nat) (phase : Phase) :
    (s.resched x).putOn cid c die core phase = (s.putOn cid c die core phase).resched x := by
  have hteams : ∀ (t : State) (l : List (Nat × Team)),
      l.foldl (fun s p => s.setTeam ⟨die, core, p.1⟩ { p.2 with lastIssue := s.clock }) (t.resched x) =
        (l.foldl (fun s p => s.setTeam ⟨die, core, p.1⟩ { p.2 with lastIssue := s.clock }) t).resched x := fun t l =>
    List.foldl_hom (State.resched · x) fun _ _ => rfl
  exact congrArg (fun u : State => u.setCrew cid { c with
    phase := phase, die := die, core := core, slots := (s.freeSlots die core).take c.teams.length, teams := []
    stop := none, placedAt := u.clock }) (hteams (s.setMsys (s.msys.setQuad die core c.fuse)) _)

theorem State.placeCrew_resched (g : Grid) (i die core : Nat) :
    (s.resched x).placeCrew g i die core = (s.placeCrew g i die core).resched x := by
  unfold State.placeCrew State.launchCrew
  exact congrArg (fun u : State => u.setMsys (u.msys.acquire die core .pkg))
    (State.putOn_resched { s.setGrid { g with placed := Sparse.set false g.placed i true, launched := g.launched + 1 } with ids := s.ids + 1 } x
      _ _ die core .resident)

/-- A change of the state that neither the search for a core sees nor a placement touches passes through the placement of a whole grid. -/
theorem placeAllBy_hom {home : State → GridRec → Nat → Nat → Nat} {room : State → Nat → Bool → Use → List Nat → Option Nat}
    {place : State → Grid → Nat → Nat → Nat → State} {gid : Word} {f : State → State} (hg : ∀ s, (f s).gridAt gid = s.gridAt gid)
    (hh : ∀ s, home (f s) = home s) (hr : ∀ s, room (f s) = room s) (hp : ∀ s g i die core, place (f s) g i die core = f (place s g i die core))
    (is : List Nat) : ∀ s, placeAllBy home room place (f s) gid is = (placeAllBy home room place s gid is).map f := by
  induction is with
  | nil => exact fun _ => rfl
  | cons i is ih =>
    intro s
    rw [placeAllBy, placeAllBy, hg, hh, hr]
    cases s.gridAt gid with
    | none => rfl
    | some g =>
      dsimp only
      cases room s (home s g.record g.world i) g.record.fuse g.record.use (g.record.coreOrder i) with
      | none => rfl
      | some core =>
        dsimp only
        rw [hp, ih]

theorem State.placeCoop_resched (g : Grid) : (s.resched x).placeCoop g = (s.placeCoop g).map (State.resched · x) := by
  unfold State.placeCoop
  rw [placeAll_eq_placeAllBy]
  exact placeAllBy_hom (f := (State.resched · x)) (fun _ => rfl) (fun _ => rfl) (fun _ => rfl) (fun s => s.placeCrew_resched x) _ s

theorem State.outranked_resched : (s.resched x).outranked = s.outranked := by
  funext die cls
  unfold State.outranked
  simp only [State.placeCoop_resched, Option.isNone_map]
  rfl

theorem State.makeRoomCoop_resched : (s.resched x).makeRoomCoop = s.makeRoomCoop := by
  funext g
  have hw : ∀ p, ((s.resched x).withoutCrews p).placeCoop g = ((s.withoutCrews p).placeCoop g).map (State.resched · x) := fun p =>
    (s.withoutCrews p).placeCoop_resched x g
  unfold State.makeRoomCoop
  rw [hw, hw, Option.isSome_map, Option.isSome_map]

theorem State.roomNeed_resched : (s.resched x).roomNeed = s.roomNeed := by
  have hland : (s.resched x).nextRelanding = s.nextRelanding := rfl
  have hpage : (s.resched x).nextPage = s.nextPage := rfl
  have hcand : (s.resched x).nextCand = s.nextCand := rfl
  have hsensing : (s.resched x).sensing = s.sensing := rfl
  have hroom : (s.resched x).makeRoom = s.makeRoom := rfl
  funext die
  unfold State.roomNeed
  rw [s.makeRoomCoop_resched, hland, hpage, hcand, hsensing, hroom]

theorem State.victim_resched : (s.resched x).victim = s.victim := by
  funext die
  unfold State.victim
  rw [s.roomNeed_resched]
  rfl

theorem State.acornNext_resched (ctx : Nat) : (s.resched x).acornNext ctx = (s.acornNext ctx).map fun p => (p.1.resched x, p.2) := by
  have hreads : (s.resched x).acornReads = s.acornReads := rfl
  have hentry : (s.resched x).nextEntry = s.nextEntry := rfl
  have hfree : freeAt (s.resched x) = freeAt s := rfl
  have hdesc : (s.resched x).descAddr = s.descAddr := rfl
  unfold State.acornNext
  rw [hreads, hentry, hfree, hdesc]
  cases s.acornReads ctx with
  | none => rfl
  | some c =>
    dsimp only
    rcases s.nextEntry c with _ | ⟨ring, e, m⟩
    · rfl
    · dsimp only
      cases m.agentRead (freeAt s 45200) c.die 0 (s.descAddr ctx) 16 <;> rfl

theorem State.acornDue_resched : (s.resched x).acornDue = s.acornDue := by
  have hctx : (s.resched x).ctxAt = s.ctxAt := rfl
  have henable : (s.resched x).toEnable = s.toEnable := rfl
  have hdisable : (s.resched x).toDisable = s.toDisable := rfl
  have hfails : (s.resched x).acornFails = s.acornFails := rfl
  funext ctx
  unfold State.acornDue
  rw [s.acornNext_resched, hctx, henable, hdisable, hfails]
  cases s.acornNext ctx <;> rfl

theorem State.due_resched : (s.resched x).due = s.due := by
  have hc : (s.resched x).crewDue = s.crewDue := by
    funext p
    unfold State.crewDue
    rw [s.outranked_resched]
    rfl
  have hd : (s.resched x).dieDue = s.dieDue := by
    funext die
    unfold State.dieDue
    rw [s.victim_resched]
    rfl
  unfold State.due
  rw [hc, hd, s.acornDue_resched]
  rfl

/-- The order in which the events happen does not depend on it either. -/
theorem State.dueOrder_resched : (s.resched x).dueOrder = s.dueOrder := by
  unfold State.dueOrder
  rw [s.due_resched]
  rfl

end Sys2Proof.Machine
end

section
/-! PROOF. A step runs the decoded instruction of the team that the core selects. -/

namespace Sys2Proof.Machine

/-- Settles O57: what happens in a step goes by the agenda, then by the interleaving, and the team that is chosen has a crew.  The events that
are due are those of the state before the step, since they do not depend on the interleaving. -/
theorem stepRunsDecoded : Obligations.StepRunsDecoded := by
  refine ⟨fun s core r h => ?_, fun s s1 r t ha ht hr => ?_, fun s e rest ha => ?_, fun s rest ha hs => ?_, fun s pa bs rest hr => ?_⟩
  · obtain ⟨hcore, t, c, ht, hc, hm⟩ := State.select_some h
    exact ⟨hcore, t, c, ht, hc, hm, State.issuer_taken hc⟩
  · have hs : happen s = issueFrom s1 r ∧ s1.teamAt r = some t := by
      rcases hr with ⟨core, rest, h, rfl, hr⟩ | ⟨h, rfl, hr, hd⟩
      · exact ⟨(happen_of_core ha h).trans (issueOn_of_select hr), ht⟩
      · exact ⟨happen_of_any ha h hr hd, ht⟩
    obtain ⟨hs, ht1⟩ := hs
    refine ⟨fun k hk hw => ⟨fun i n hi => ?_, fun x hx => ?_⟩, fun h => ?_⟩
    · rw [step, hs, issueFrom_of_issues ht1 ((Team.issues_of_words hk hw).trans (by rw [hi]; rfl))]
    · rw [step, hs, issueFrom_of_badWord ht1 ((Team.issues_of_words hk hw).trans (by rw [hx]; rfl))]
      rfl
    · rw [step, hs, issueFrom_of_issues ht1 (Team.issues_of_noWords h)]
  · rw [step, happen_of_agenda ha]
    refine ⟨?_, ?_, ?_, ?_, ?_⟩
    · rintro i rfl hi
      rw [Input.act_event hi]
    · rintro i rfl hi
      rw [Input.act_noEvent hi]
      rfl
    · rintro line rfl
      exact ⟨s.msys.setPoison line true, rfl, rfl, fun k => Sparse.get_set ..⟩
    · rintro r k rfl
      rfl
    · rintro die index page frame rfl
      rfl
  · rw [step, happen_of_internal ha hs]
    refine ⟨fun e s2 h => ?_, fun h => ?_⟩
    · obtain ⟨hmem, horder, hrun⟩ := State.nextDue_some h
      exact ⟨congrArg tickOutcome hrun, s.due_resched rest ▸ hmem, s.dueOrder_resched rest ▸ horder⟩
    · exact congrArg tickOutcome (internal_of_due_nil ((s.due_resched rest).trans h))
  · exact ⟨State.doorbell_mem_due (by simp [hr]), by simp only [Due.run, State.answerBell, hr],
      fun q hd hq hl => ⟨State.rings_tailWrite hd hq hl, State.rings_resume hd hq hl, State.rings_destroy hd hq hl⟩,
      fun die hd hl => ⟨State.rings_retry hd hl, State.rings_end hd hl⟩⟩

end Sys2Proof.Machine
end

section
/-! SUPPORT. Every instruction of a team that issues and every event has a next state (Dispatch, Due, Step). -/

namespace Sys2Proof.Machine

variable {s : State}

theorem State.message_next {m : Msg} {may : Bool} {act : State → State} : ∃ t, s.message m may act = .next t := by
  simp only [State.message]
  repeat' split
  all_goals exact ⟨_, rfl⟩

theorem execEscape_next {bop : BitVec 8} {d a b : Reg} {ua ub : Bool} (h : s.issuer.isSome = true) :
    ∃ t, execEscape bop d a b ua ub s = .next t := by
  simp only [execEscape]
  repeat' split
  all_goals exact State.issue_next h _

theorem execStl_next {d a b : Reg} {sc : Scope} {off : BitVec 16} (h : s.issuer.isSome = true) : ∃ t, execStl d a b sc off s = .next t := by
  unfold execStl
  split
  · exact State.issue_next h _
  · exact State.issue_next h _

/-- An event looks at the state case by case and answers a next state in each; every other instruction acts through the team that issues. -/
theorem exec_next {i : Instr} (h : s.issuer.isSome = true ∨ isEvent i = true) : ∃ t, exec i s = .next t := by
  cases i with
  | faultReplyRetry | faultReplyEnd | atsInvalidation | ideFailure | configAccessOutsideMessage | deviceStart
    | eraseOrProgramEnd | powerFailure | linkLevelRetry => exact ⟨_, rfl⟩
  | lock | start | stop | queueCreate | queueDestroy | worldAssign | worldRelease | modeSet | flashWrite | qread | qfree | status | huskUpdate
    | scrubStep =>
    simp only [exec, execLock, execStart, execStop, execQueueCreate, execQueueDestroy, execWorldAssign, execWorldRelease, execModeSet,
      execFlashWrite, execQread, execQfree, execStatus, execHuskUpdate, execScrubStep]
    repeat' split
    all_goals exact State.message_next
  | clauseFetch | trapEntry | longLatencyCompletion | engineOperationStart | engineSector | crewPlacement | crewRetire | taskDiscard
    | thermalMigration | crewSave | podBarrierArrival | awaitCycle | crewWake | eviction | reLanding | pageListBlockRead | pageReservation
    | pageSense | pageLanding | tailWrite | resumeCommand | destroyCommand | launchRecordRead | nodeSetup | binTimerExpiry | keyRequest
    | keyGrant | keyAcquisitionRestart | faultRecordPost | pageRequestSend | prgResponse | atsCompletion | accessCounterThreshold
    | sendArrival | receiveRingDelivery | sendAcknowledge | heartbeatInterval | heartbeatReceive | fenceFlit | podWindowAccess
    | dataLinkDown | dataLinkActive | cxlMemRequest | hostSnoop | weightContextEnable | routeEntry | retireEntry | slotLoad | spdmSession
    | sessionDoorbell | stopComplete | scrubProgress | huskReady | huskReadyTimeout | trainingFailure | registerWrite =>
    simp only [exec, execClauseFetch, execTrapEntry, execLongLatencyCompletion, execEngineOperationStart, execEngineSector,
      execCrewPlacement, execCrewRetire, execTaskDiscard, execThermalMigration, execCrewSave, execPodBarrierArrival, execAwaitCycle,
      execCrewWake, execEviction, execReLanding, execPageListBlockRead, execPageReservation, execPageSense, execPageLanding,
      execTailWrite, execResumeCommand, execDestroyCommand, execLaunchRecordRead, execNodeSetup, execBinTimerExpiry, execKeyRequest,
      execKeyGrant, execKeyAcquisitionRestart, execFaultRecordPost, execPageRequestSend, execPrgResponse, execAtsCompletion,
      execAccessCounterThreshold, execSendArrival, execReceiveRingDelivery, execSendAcknowledge, execHeartbeatInterval,
      execHeartbeatReceive, execFenceFlit, execPodWindowAccess, execDataLinkDown, execDataLinkActive, execCxlMemRequest, execHostSnoop,
      execWeightContextEnable, execRouteEntry, execRetireEntry, execSlotLoad, execSpdmSession, execSessionDoorbell, execStopComplete,
      execScrubProgress, execHuskReady, execHuskReadyTimeout, execTrainingFailure, execRegisterWrite]
    repeat' split
    all_goals exact ⟨_, rfl⟩
  | escape => exact execEscape_next (h.resolve_right Bool.false_ne_true)
  | stl _ _ _ sc => exact execStl_next (sc := sc) (h.resolve_right Bool.false_ne_true)
  | _ => exact State.issue_next (h.resolve_right Bool.false_ne_true) _

/-! The events that are due. -/

theorem State.rings_next {pa : Nat} {bs : List Byte} : ∃ t, s.rings pa bs = .next t := by
  unfold State.rings
  split
  · split
    · exact ⟨_, rfl⟩
    · split
      · exact exec_next (i := .faultReplyRetry _ _) (.inr rfl)
      · exact exec_next (i := .faultReplyEnd _ _) (.inr rfl)
      · exact ⟨_, rfl⟩
  · split
    · split
      · exact ⟨_, rfl⟩
      · split
        · exact exec_next (i := .tailWrite _ _) (.inr rfl)
        · exact exec_next (i := .resumeCommand _) (.inr rfl)
        · exact exec_next (i := .destroyCommand _) (.inr rfl)
        · exact ⟨_, rfl⟩
    · exact ⟨_, rfl⟩

theorem State.answerBell_next : ∃ t, s.answerBell = .next t := by
  unfold State.answerBell
  split
  · exact State.rings_next
  · exact ⟨_, rfl⟩

/-- A due event is the machine event of its name, a doorbell that is answered, or a step of an agent that always has an effect. -/
theorem Due.run_next {e : Due} : ∃ t, e.run s = .next t := by
  cases e with
  | trapEntry r => exact exec_next (i := .trapEntry r) (.inr rfl)
  | longLatencyCompletion r id => exact exec_next (i := .longLatencyCompletion r id) (.inr rfl)
  | engineOperationStart r => exact exec_next (i := .engineOperationStart r) (.inr rfl)
  | crewRetire cid => exact exec_next (i := .crewRetire cid) (.inr rfl)
  | awaitCycle cid => exact exec_next (i := .awaitCycle cid) (.inr rfl)
  | eviction cid => exact exec_next (i := .eviction cid) (.inr rfl)
  | crewSave r => exact exec_next (i := .crewSave r) (.inr rfl)
  | taskDiscard cid => exact exec_next (i := .taskDiscard cid) (.inr rfl)
  | thermalMigration cid core => exact exec_next (i := .thermalMigration cid core 0) (.inr rfl)
  | crewWake cid => exact exec_next (i := .crewWake cid) (.inr rfl)
  | reLanding cid => exact exec_next (i := .reLanding cid) (.inr rfl)
  | pageReservation die => exact exec_next (i := .pageReservation die) (.inr rfl)
  | crewPlacement die => exact exec_next (i := .crewPlacement die) (.inr rfl)
  | faultRecordPost die => exact exec_next (i := .faultRecordPost die) (.inr rfl)
  | pageRequestSend die => exact exec_next (i := .pageRequestSend die) (.inr rfl)
  | pageListBlockRead die gid b => exact exec_next (i := .pageListBlockRead die gid b) (.inr rfl)
  | pageSense gid i corrected => exact exec_next (i := .pageSense gid i corrected) (.inr rfl)
  | pageLanding gid i => exact exec_next (i := .pageLanding gid i) (.inr rfl)
  | launchRecordRead q => exact exec_next (i := .launchRecordRead q) (.inr rfl)
  | nodeSetup q => exact exec_next (i := .nodeSetup q) (.inr rfl)
  | keyRequest id => exact exec_next (i := .keyRequest id) (.inr rfl)
  | keyAcquisitionRestart id => exact exec_next (i := .keyAcquisitionRestart id) (.inr rfl)
  | keyGrant key => exact exec_next (i := .keyGrant key) (.inr rfl)
  | engineSector r id => exact exec_next (i := .engineSector r id) (.inr rfl)
  | sendAcknowledge r id accepted => exact exec_next (i := .sendAcknowledge r id accepted) (.inr rfl)
  | sendArrival m => exact exec_next (i := .sendArrival m) (.inr rfl)
  | receiveRingDelivery ring => exact exec_next (i := .receiveRingDelivery ring) (.inr rfl)
  | accessCounterThreshold die space region => exact exec_next (i := .accessCounterThreshold die space region) (.inr rfl)
  | weightContextEnable ctx => exact exec_next (i := .weightContextEnable ctx) (.inr rfl)
  | routeEntry ctx => exact exec_next (i := .routeEntry ctx) (.inr rfl)
  | retireEntry ctx => exact exec_next (i := .retireEntry ctx) (.inr rfl)
  | slotLoad ctx k => exact exec_next (i := .slotLoad ctx k true) (.inr rfl)
  | stopComplete => exact exec_next (i := .stopComplete) (.inr rfl)
  | scrubProgress i => exact exec_next (i := .scrubProgress i 4096) (.inr rfl)
  | doorbell => exact State.answerBell_next
  | lateAccess | groupForm | acornFault | atsDone => exact ⟨_, rfl⟩

/-! A step. -/

theorem internal_next : ∃ t, internal s = .next t := by
  unfold internal
  split
  · exact Due.run_next
  · exact ⟨_, rfl⟩

theorem issueFrom_next {core : Nat} {r : TeamRef} {u : State} (h : s.select core = some r) (hu : u.teams = s.teams) (hc : u.crews = s.crews) :
    ∃ t, issueFrom u r = .next t := by
  obtain ⟨-, t, c, ht, hcrew, -⟩ := State.select_some h
  have ht' : u.teamAt r = some t := by rw [State.teamAt, hu]; exact ht
  have hc' : u.crewAt t.crew = some c := by rw [State.crewAt, hc]; exact hcrew
  cases hi : t.issues r with
  | some i =>
    rw [issueFrom_of_issues ht' hi]
    exact exec_next (.inl (by rw [State.issuer_taken hc']; rfl))
  | none => exact ⟨_, issueFrom_of_badWord ht' hi⟩

theorem issueOn_next {core : Nat} : ∃ t, issueOn s core = .next t := by
  unfold issueOn
  split
  · rename_i r h
    exact issueFrom_next h rfl rfl
  · exact ⟨_, rfl⟩

theorem unscheduled_next : ∃ t, unscheduled s = .next t := by
  unfold unscheduled
  dsimp only
  split
  · exact internal_next
  · rename_i r h
    obtain ⟨core, hcore⟩ := State.select_of_selectAny h
    split
    · exact internal_next
    · exact issueFrom_next hcore rfl rfl

theorem Input.act_next {e : Input} : ∃ t, e.act s = .next t := by
  cases e with
  | event i =>
    cases hi : isEvent i with
    | true => exact Input.act_event hi ▸ exec_next (.inr hi)
    | false => exact ⟨_, Input.act_noEvent hi⟩
  | integrity | access | migrate => exact ⟨_, rfl⟩

theorem happen_next : ∃ t, happen s = .next t := by
  unfold happen
  split
  · exact Input.act_next
  · split
    · exact internal_next
    · exact issueOn_next
    · exact unscheduled_next

theorem step_next : ∃ t, step s = .next t := by
  obtain ⟨t, h⟩ := happen_next (s := s)
  exact ⟨t.tick, by rw [step, h]; rfl⟩

end Sys2Proof.Machine
end

section
/-! PROOF. Every step of every machine goes on. -/

namespace Sys2Proof.Machine

/-- Settles O58: the team that is chosen has a crew, so that it issues, and what issues and every event have a next state. -/
theorem stepGoesOn : Obligations.StepGoesOn :=
  ⟨fun _ => step_next, fun _ _ => exec_next⟩

end Sys2Proof.Machine
end

section
/-! SUPPORT. Handing registers between teams (R34, R178): what a give holds and what a claim leaves in the registers. -/

namespace Sys2Proof.Machine

variable {s : State} {c : Issuer} {k : BitVec 8} {v : Reg} {n : BitVec 8}

theorem mem_lanesBelow {m : LaneSet} {lanes l : Nat} : l ∈ lanesBelow m lanes ↔ l < lanes ∧ m.getLsbD l = true := by
  simp [lanesBelow]

/-- A give holds the registers of the lanes that are present, and zero for the others. -/
theorem Give.at_giveVals (t : Team) (free first n lanes : Nat) (hn : first + n ≤ 256) {l j : Nat} (hj : j < n) :
    Give.at ⟨first, n, lanes, t.giveVals free first n⟩ l j =
      if l < t.lanes ∧ t.present.getLsbD l = true then t.v free l (first + j) else 0 := by
  have hmem : ∀ p ∈ (lanesBelow t.present t.lanes).flatMap (fun l => (List.range n).map fun i => (regKey l (first + i), t.v free l (first + i))),
      p.1 = regKey l (first + j) → (l < t.lanes ∧ t.present.getLsbD l = true) ∧ p.2 = t.v free l (first + j) := by
    intro p hp hkey
    simp only [List.mem_flatMap, List.mem_map, List.mem_range, mem_lanesBelow] at hp
    obtain ⟨m, hm, i, hi, rfl⟩ := hp
    obtain ⟨rfl, hij⟩ := regKey_inj (by omega) (by omega) hkey
    exact ⟨hm, by rw [hij]⟩
  unfold Give.at Team.giveVals
  split
  · rename_i hl
    refine Sparse.get_setAll_of_mem 0 _ _ _ _ ?_ fun p hp hkey => (hmem p hp hkey).2
    simp only [List.mem_flatMap, List.mem_map, List.mem_range, mem_lanesBelow]
    exact ⟨l, hl, j, hj, rfl⟩
  · rename_i hl
    exact Sparse.get_setAll_of_not_mem 0 _ _ _ fun p hp hkey => hl (hmem p hp hkey).1

/-- A sweep of a run of registers. -/
theorem Team.sweep_holdsRun (t : Team) (free : Nat) (d : Reg) (n : Nat) (val : Nat → Nat → Word) (hn : d.toNat + n ≤ 256) :
    t.HoldsRun (t.sweep free (regRun d n) (fun l => (List.range n).map (fun i => (d.toNat + i, val l i)))) free d n val := by
  intro l r hr
  have key := Team.sweep_vreg t free (regRun d n) (fun l => (List.range n).map (fun i => (d.toNat + i, val l i))) (l := l) (r := r)
    (fun m p hp => by
      obtain ⟨i, hi, rfl⟩ := List.mem_map.1 hp
      have := List.mem_range.1 hi
      omega)
    (fun m p hp q hq h => by
      obtain ⟨i, -, rfl⟩ := List.mem_map.1 hp
      obtain ⟨j, -, rfl⟩ := List.mem_map.1 hq
      rw [Nat.add_left_cancel h]) hr
  split
  · rename_i h
    obtain ⟨ha, hd, hlt⟩ := h
    refine key.1 _ ha (List.mem_map.2 ⟨r - d.toNat, List.mem_range.2 (by omega), ?_⟩)
    rw [Nat.add_sub_cancel' hd]
  · rename_i h
    refine key.2 fun ha hm => h ⟨ha, ?_⟩
    simp only [List.map_map, List.mem_map, List.mem_range, Function.comp] at hm
    omega

theorem Issuer.handOk_le (h : c.handOk k v n = true) : v.toNat + n.toNat ≤ 256 := by
  simp only [Issuer.handOk, Issuer.vRun, Bool.and_eq_true, decide_eq_true_eq] at h
  omega

theorem Team.setStat_giveLost (t : Team) : (t.setStat 1 true).stat = t.stat ||| 2 := rfl

theorem Team.sweep_stat (t : Team) (free : Nat) (regs : List Nat) (f : Nat → List (Nat × Word)) : (t.sweep free regs f).stat = t.stat := rfl

end Sys2Proof.Machine
end

section
/-! PROOF. O16: `give` and `claim` (R34, R178). -/

namespace Sys2Proof.Machine

variable {s : State} {c : Issuer} {k : BitVec 8} {v : Reg} {n : BitVec 8}

/-- The give that a `give` of `n` registers from `v` on leaves in its channel. -/
def Team.gives (t : Team) (free : Nat) (v : Reg) (n : BitVec 8) : Give := ⟨v.toNat, n.toNat, t.lanes, t.giveVals free v.toNat n.toNat⟩

/-- The crew with a give in one of its channels. -/
def Crew.withGive (r : Crew) (key : Nat) (g : Give) : Crew := { r with channels := Sparse.set none r.channels key (some g) }

/-! `give`, case by case. -/

theorem exec_give_illegal (h : s.issuer = some c) (hk : c.handOk k v n = false) : RaisesIllegal (.give k v n) s c := by
  refine (State.issue_of_issuer h _).trans (congrArg Host.Outcome.next ?_)
  simp [hk]

theorem exec_give_retired (h : s.issuer = some c) (hk : c.handOk k v n = true) (hr : s.teamRetired c.crew k.toNat = true) :
    GoesOn (.give k v n) s c 1 c.team := by
  refine ⟨c.team.advance 1 (some (c.team.source s.rf v)), (State.issue_of_issuer h _).trans (congrArg Host.Outcome.next ?_),
    Team.advance_frame _ _ _, Team.advance_pc _ _ _⟩
  simp [hk, hr]

theorem exec_give_full (h : s.issuer = some c) (hk : c.handOk k v n = true) (hr : s.teamRetired c.crew k.toNat = false) {g : Give}
    (hg : Sparse.get none c.crew.channels (channelKey c.team.index k.toNat) = some g) :
    Waits (.give k v n) s c (.give k.toNat) := by
  refine (State.issue_of_issuer h _).trans (congrArg Host.Outcome.next ?_)
  simp only [hk, hr, hg]
  rfl

theorem exec_give_empty (h : s.issuer = some c) (hk : c.handOk k v n = true) (hr : s.teamRetired c.crew k.toNat = false)
    (hg : Sparse.get none c.crew.channels (channelKey c.team.index k.toNat) = none) :
    exec (.give k v n) s = .next ((s.setCrew c.cid (c.crew.withGive (channelKey c.team.index k.toNat) (c.team.gives s.rf v n))).setTeam
      c.ref (c.team.advance 1 (some (c.team.source s.rf v)))) := by
  refine (State.issue_of_issuer h _).trans (congrArg Host.Outcome.next ?_)
  simp only [hk, hr, hg]
  rfl

/-! `claim`, case by case. -/

theorem exec_claim_illegal (h : s.issuer = some c) (hk : c.handOk k v n = false) : RaisesIllegal (.claim k v n) s c := by
  refine (State.issue_of_issuer h _).trans (congrArg Host.Outcome.next ?_)
  simp [hk]

theorem exec_claim_differs (h : s.issuer = some c) (hk : c.handOk k v n = true) {g : Give}
    (hg : Sparse.get none c.crew.channels (channelKey k.toNat c.team.index) = some g) (hn : g.count ≠ n.toNat) :
    RaisesIllegal (.claim k v n) s c := by
  refine (State.issue_of_issuer h _).trans (congrArg Host.Outcome.next ?_)
  simp [hk, hg, hn]

theorem exec_claim_given (h : s.issuer = some c) (hk : c.handOk k v n = true) {g : Give}
    (hg : Sparse.get none c.crew.channels (channelKey k.toNat c.team.index) = some g) (hn : g.count = n.toNat) :
    exec (.claim k v n) s = .next ((s.setCrew c.cid
      { c.crew with channels := Sparse.set none c.crew.channels (channelKey k.toNat c.team.index) none }).setTeam c.ref
      ((c.team.sweep s.rf (regRun v n.toNat) fun l => (List.range n.toNat).map fun j => (v.toNat + j, g.at l j)).advance 1 none)) := by
  refine (State.issue_of_issuer h _).trans (congrArg Host.Outcome.next ?_)
  simp only [hk, hg, hn, ne_eq, not_true_eq_false, if_false]
  rfl

theorem exec_claim_lost (h : s.issuer = some c) (hk : c.handOk k v n = true)
    (hg : Sparse.get none c.crew.channels (channelKey k.toNat c.team.index) = none) (hr : s.teamRetired c.crew k.toNat = true) :
    exec (.claim k v n) s = .next (s.setTeam c.ref
      (((c.team.sweep s.rf (regRun v n.toNat) fun _ => (List.range n.toNat).map fun j => (v.toNat + j, 0)).setStat 1 true).advance 1 none)) := by
  refine (State.issue_of_issuer h _).trans (congrArg Host.Outcome.next ?_)
  simp only [hk, hg, hr]
  rfl

theorem exec_claim_waits (h : s.issuer = some c) (hk : c.handOk k v n = true)
    (hg : Sparse.get none c.crew.channels (channelKey k.toNat c.team.index) = none) (hr : s.teamRetired c.crew k.toNat = false) :
    Waits (.claim k v n) s c (.claim k.toNat) := by
  refine (State.issue_of_issuer h _).trans (congrArg Host.Outcome.next ?_)
  simp only [hk, hg, hr]
  rfl

/-- Settles O16: each clause is one case of `give` or of `claim`; what a give holds and what a claim leaves are lemmas of their own. -/
theorem giveAndClaim : Obligations.GiveAndClaim := by
  refine ⟨fun s c k v n h => ⟨exec_give_illegal h, exec_give_retired h, fun hk hr hf => ?_, fun hk hr hf => ?_⟩,
    fun s c k v n h => ⟨exec_claim_illegal h, fun g hk hg hn => exec_claim_differs h hk hg hn, fun g hk hg hn => ?_, fun hk hg hr => ?_,
      exec_claim_waits h⟩⟩
  · obtain ⟨g, hg⟩ := Option.ne_none_iff_exists'.1 hf
    exact exec_give_full h hk hr hg
  · exact ⟨c.team.gives s.rf v n, _, exec_give_empty h hk hr hf, Team.advance_frame _ _ _, Team.advance_pc _ _ _, rfl,
      fun l j hj => Give.at_giveVals _ _ _ _ _ (Issuer.handOk_le hk) hj⟩
  · refine ⟨_, exec_claim_given h hk hg hn, Team.sweep_frame c.team s.rf _ _ 0 1 false none, ?_, ?_, fun l r hr => ?_⟩
    · rw [Team.advance_pc, Team.sweep_nextPc]
    · rw [Team.advance_stat, Team.sweep_stat]
    · rw [Team.advance_vreg]
      exact Team.sweep_holdsRun _ _ _ _ _ (Issuer.handOk_le hk) l r hr
  · refine ⟨_, exec_claim_lost h hk hg hr, Team.sweep_frame _ _ _ _ _ _ _ _, ?_, ?_, fun l r hr => ?_⟩
    · rw [Team.advance_pc, Team.setStat_nextPc, Team.sweep_nextPc]
    · rw [Team.advance_stat, Team.setStat_giveLost, Team.sweep_stat]
    · rw [Team.advance_vreg, Team.setStat_vreg]
      exact Team.sweep_holdsRun _ _ _ _ (fun _ _ => 0) (Issuer.handOk_le hk) l r hr

end Sys2Proof.Machine
end

section
/-! SUPPORT. The tables of grids, tasks and lock keys: what a change of an entry does to the others. -/

namespace Sys2Proof.Machine

variable {s t : State}

/-! Tasks and grids. -/

@[simp] theorem State.taskAt_setTask_self (id : Nat) (x : Task) : (s.setTask id x).taskAt id = some x := Sparse.get_set_self ..

theorem State.gid_of_gridAt {gid : Word} {g : Grid} (h : s.gridAt gid = some g) : g.gid = gid := by
  simpa using List.find?_some h

/-- Every grid with an identifier becomes `g`. -/
theorem State.gridAt_setGrid_self {g g0 : Grid} (h : s.gridAt g.gid = some g0) : (s.setGrid g).gridAt g.gid = some g := by
  have hf : ∀ l : List Grid, l.find? (fun x => x.gid == g.gid) = some g0 →
      (l.map fun x => if x.gid = g.gid then g else x).find? (fun x => x.gid == g.gid) = some g := by
    intro l
    induction l with
    | nil => simp
    | cons x l ih =>
      intro hl
      by_cases hx : x.gid = g.gid
      · simp [hx]
      · rw [List.find?_cons_of_neg (by simpa using hx)] at hl
        rw [List.map_cons, if_neg hx, List.find?_cons_of_neg (by simpa using hx)]
        exact ih hl
  exact hf s.grids h

theorem State.gridAt_setGrid_ne {g : Grid} {gid : Word} (h : gid ≠ g.gid) : (s.setGrid g).gridAt gid = s.gridAt gid := by
  have hf : ∀ l : List Grid, (l.map fun x => if x.gid = g.gid then g else x).find? (fun x => x.gid == gid) = l.find? (fun x => x.gid == gid) := by
    intro l
    induction l with
    | nil => rfl
    | cons x l ih =>
      by_cases hx : x.gid = g.gid
      · simp [hx, h.symm, ih]
      · simp only [List.map_cons, if_neg hx, List.find?_cons, ih]
  exact hf s.grids

theorem State.gridAt_dropGrid (gid : Word) : (s.dropGrid gid).gridAt gid = none := by
  simp [State.gridAt, State.dropGrid]

/-! Lock keys. -/

theorem State.key_of_keyAt {key : Nat} {e : KeyEntry} (h : s.keyAt key = some e) : e.key = key := by
  simpa using List.find?_some h

/-- An entry that stays is found under its key. -/
theorem State.keyAt_setKey {e : KeyEntry} (h : e.holder ≠ none ∨ e.waiters ≠ []) : (s.setKey e).keyAt e.key = some e := by
  have hf : (e.holder.isNone && e.waiters.isEmpty) = false := by
    rcases h with h | h <;> simp [h]
  have hn : (s.keys.filter fun x => x.key != e.key).find? (fun x => x.key == e.key) = none := by simp
  simp [State.setKey, State.keyAt, hf, List.find?_append, hn]

/-- What a change of an entry leaves in the table. -/
theorem State.mem_setKey {e x : KeyEntry} (h : x ∈ (s.setKey e).keys) : x = e ∨ (x ∈ s.keys ∧ x.key ≠ e.key) := by
  unfold State.setKey at h
  dsimp only at h
  split at h
  · exact .inr (by simpa using h)
  · simpa [or_comm] using h

/-- A change of an entry touches nothing but the table of keys. -/
theorem State.setKey_frame (e : KeyEntry) : s.setKey e = { s with keys := (s.setKey e).keys, keyReleases := (s.setKey e).keyReleases } := by
  unfold State.setKey
  dsimp only
  split <;> rfl

/-- A task neither holds a key nor waits for one. -/
def State.Keyless (s : State) (id : Nat) : Prop := ∀ e ∈ s.keys, e.holder ≠ some id ∧ id ∉ e.waiters

/-- The entry without a task. -/
def KeyEntry.without (e : KeyEntry) (id : Nat) : KeyEntry :=
  { e with holder := if e.holder = some id then none else e.holder, waiters := e.waiters.filter (fun t => t != id) }

theorem KeyEntry.without_free (e : KeyEntry) (id : Nat) : (e.without id).holder ≠ some id ∧ id ∉ (e.without id).waiters := by
  refine ⟨?_, by simp [KeyEntry.without]⟩
  unfold KeyEntry.without
  dsimp only
  split
  · simp
  · assumption

/-- One step of the release of a task's keys. -/
def State.releaseKey (id : Nat) (s : State) (e : KeyEntry) : State :=
  if e.holder == some id || e.waiters.contains id then s.setKey (e.without id) else s

theorem State.releaseKeys_eq (id : Nat) : s.releaseKeys id = s.keys.foldl (State.releaseKey id) s := rfl

/-- The entries still to be looked at are the only ones that may name the task: this holds at each step of the release. -/
theorem State.releaseKey_foldl (id : Nat) : ∀ (es : List KeyEntry) (s : State),
    (∀ x ∈ s.keys, (x.holder ≠ some id ∧ id ∉ x.waiters) ∨ x ∈ es) → (es.foldl (State.releaseKey id) s).Keyless id := by
  intro es
  induction es with
  | nil => exact fun s h x hx => (h x hx).resolve_right (by simp)
  | cons e es ih =>
    intro s h
    refine ih _ fun x hx => ?_
    unfold State.releaseKey at hx
    split at hx
    · obtain rfl | ⟨hx, hk⟩ := State.mem_setKey hx
      · exact .inl (e.without_free id)
      · refine (h x hx).imp_right fun hm => (List.mem_cons.1 hm).resolve_left ?_
        rintro rfl
        exact hk rfl
    · rename_i hc
      refine (h x hx).elim .inl fun hm => (List.mem_cons.1 hm).elim ?_ .inr
      rintro rfl
      exact .inl (by simpa using hc)

theorem State.keyless_releaseKeys (id : Nat) : (s.releaseKeys id).Keyless id :=
  State.releaseKey_foldl id _ s fun _ hx => .inr hx

/-- The release touches nothing but the table of keys. -/
theorem State.releaseKeys_frame (id : Nat) :
    s.releaseKeys id = { s with keys := (s.releaseKeys id).keys, keyReleases := (s.releaseKeys id).keyReleases } := by
  rw [State.releaseKeys_eq]
  refine s.keys.foldlRecOn (motive := fun t : State => t = { s with keys := t.keys, keyReleases := t.keyReleases }) _ rfl fun t ht e _ => ?_
  unfold State.releaseKey
  split
  · rw [State.setKey_frame, ht]
  · exact ht

end Sys2Proof.Machine
end

section
/-! PROOF. The events on lock keys, case by case (R306 to R308). -/

namespace Sys2Proof.Machine

variable {s : State} {id i : Nat} {t : Task}

theorem exec_keyRequest (ht : s.taskAt id = some t) (hp : t.phase = .want i) :
    exec (.keyRequest id) s = .next (if t.gid.isSome then s.keyArrive id t i (t.keys.getD i 0) else s) := by
  change execKeyRequest id s = _
  simp only [execKeyRequest, ht, hp]
  split <;> rfl

theorem exec_keyRequest_some (ht : s.taskAt id = some t) (hp : t.phase = .want i) (hg : t.gid ≠ none) :
    exec (.keyRequest id) s = .next (s.keyArrive id t i (t.keys.getD i 0)) := by
  rw [exec_keyRequest ht hp, if_pos (Option.isSome_iff_ne_none.2 hg)]

theorem State.keyAt_setTask (x : Task) (key : Nat) : (s.setTask id x).keyAt key = s.keyAt key := rfl

theorem State.keyArrive_held {key : Nat} {e : KeyEntry} (h : s.keyAt key = some e) :
    s.keyArrive id t i key = (s.setKey { e with waiters := e.waiters ++ [id] }).setTask id { t with phase := .wait i } := by
  simp only [State.keyArrive, h]

theorem State.keyArrive_new {key : Nat} (h : s.keyAt key = none) (hc : s.keyCount (keyHome key) < 8192) :
    s.keyArrive id t i key = (s.setKey ⟨keyHome key, key, none, [id]⟩).setTask id { t with phase := .wait i } := by
  simp only [State.keyArrive, h, hc, if_true]

/-- The entry that a request needs: awaited by one task, held by none. -/
theorem State.entryBits_new (die key : Nat) : s.entryBits ⟨die, key, none, [id]⟩ = 2 ^ 63 + 2 ^ 11 := by
  simp [State.entryBits]

theorem State.keyArrive_overflow {key : Nat} (h : s.keyAt key = none) (hc : 8192 ≤ s.keyCount (keyHome key)) (hf : s.firm.keys = true) :
    s.keyArrive id t i key = (s.setTask id { t with phase := .overflow i }).setMsys (s.msys.faultPost
      ⟨10, 0, false, false, t.world, t.world, keyHome key, 0, 0, 0, key, 2 ^ 63 + 2 ^ 11, s.msys.assistFaults⟩ (.keys id)) := by
  simp only [State.keyArrive, h, Nat.not_lt.2 hc, hf, if_true, if_false, State.entryBits_new]

theorem State.keyArrive_restart {key : Nat} (h : s.keyAt key = none) (hc : 8192 ≤ s.keyCount (keyHome key)) (hf : s.firm.keys = false) :
    s.keyArrive id t i key = (s.releaseKeys id).setTask id
      { t with phase := .restart (keyHome key) (Sparse.get 0 (s.releaseKeys id).keyReleases (keyHome key)) } := by
  simp [State.keyArrive, h, Nat.not_lt.2 hc, hf]

theorem exec_keyGrant_taken {key : Dword} {e : KeyEntry} {rest : List Nat} (he : s.keyAt key.toNat = some e) (hh : e.holder = none)
    (hw : e.waiters = id :: rest) (ht : s.taskAt id = some t) (hp : t.phase = .wait i) :
    exec (.keyGrant key) s = .next ((s.setKey { e with holder := some id, waiters := rest }).setTask id
      { t with phase := if i + 1 < t.keys.length then .want (i + 1) else .ready }) := by
  have h1 : (s.setKey { e with holder := some id, waiters := rest }).taskAt id = some t := by rw [State.setKey_frame]; exact ht
  change execKeyGrant key s = _
  simp only [execKeyGrant, he, hh, hw, h1, hp]

theorem exec_keyAcquisitionRestart {die n : Nat} (ht : s.taskAt id = some t) (hp : t.phase = .restart die n)
    (hn : n < Sparse.get 0 s.keyReleases die) : exec (.keyAcquisitionRestart id) s = .next (s.setTask id { t with phase := .want 0 }) := by
  change execKeyAcquisitionRestart id s = _
  simp only [execKeyAcquisitionRestart, ht, hp, hn, if_true]

end Sys2Proof.Machine
end

section
/-! SUPPORT. What outlasts the changes that the end or the move of a crew makes to teams, crews and barriers. -/

namespace Sys2Proof.Machine

/-- A property of states that outlasts changes of the teams and crews that there are, and every change outside the tables of crews, teams,
grids, tasks and keys. -/
structure Outlasts (P : State → Prop) : Prop where
  team : ∀ {s : State} {r : TeamRef} {u : Team} (v : Team), s.teamAt r = some u → P s → P (s.setTeam r v)
  crew : ∀ {s : State} {id : Nat} {c : Crew} (d : Crew), s.crewAt id = some c → P s → P (s.setCrew id d)
  rest : ∀ {s : State} (msys : MemSys) (ops : List EngineOp) (bars : List BarState) (counts : List (BarOwner × Nat × Nat))
    (gone : List (Nat × Nat)) (agents : List AgentWrite) (ids : Nat) (queues : List (Nat × Option Queue)), P s →
    P { s with msys := msys, ops := ops, barriers := bars, barCounts := counts, goneGroups := gone, agents := agents, ids := ids, queues := queues }

variable {P : State → Prop} {s : State}

namespace Outlasts

theorem mapTeams (hP : Outlasts P) (h : P s) (cid : Nat) (f : Team → Team) : P (s.mapTeams cid f) := by
  unfold State.mapTeams
  split
  · exact h
  · rename_i c hc
    split
    · refine List.foldlRecOn _ _ h fun t ht i _ => ?_
      split
      · rename_i u hu
        exact hP.team _ hu ht
      · exact ht
    · exact hP.crew _ hc h

theorem settleOps (hP : Outlasts P) (h : P s) (os : List EngineOp) : P (s.settleOps os) :=
  hP.rest _ _ _ _ _ _ _ _ (os.foldlRecOn (motive := P) _ h fun _ ht o _ => hP.mapTeams ht o.crew _)

theorem settleBatch (hP : Outlasts P) (h : P s) (cid team n : Nat) : P (s.settleBatch cid team n) := by
  unfold State.settleBatch
  dsimp only
  split
  · exact hP.settleOps h _
  · exact h

theorem closeBatch (hP : Outlasts P) (h : P s) (cid team : Nat) (t : Team) : P (s.closeBatch cid team t).2 :=
  hP.settleBatch (hP.rest _ _ _ _ _ _ _ _ (hP.mapTeams h cid _)) _ _ _

theorem closeAll (hP : Outlasts P) (h : P s) (cid : Nat) (c : Crew) : P (s.closeAll cid c) := by
  refine List.foldlRecOn _ _ h fun t ht u _ => ?_
  split
  · exact hP.closeBatch ht _ _ _
  · exact ht

theorem foldOps (hP : Outlasts P) (h : P s) (cid : Nat) : P (s.foldOps cid) := hP.settleOps h _

theorem setBarCount (hP : Outlasts P) (h : P s) (n k : Nat) (o : BarOwner) : P (s.setBarCount n k o) := hP.rest _ _ _ _ _ _ _ _ h

theorem barSettle (hP : Outlasts P) (h : P s) (b : BarState) : P (s.barSettle b) := by
  unfold State.barSettle
  split
  · exact b.names.foldlRecOn (motive := P) _ (hP.rest _ _ _ _ _ _ _ _ h) fun _ ht o _ => hP.setBarCount ht _ _ o
  · exact hP.rest _ _ _ _ _ _ _ _ h

theorem barSweep (hP : Outlasts P) (h : P s) : P s.barSweep :=
  s.barriers.foldlRecOn (motive := P) _ h fun _ ht b _ => hP.barSettle ht b

theorem agentFrame (hP : Outlasts P) (h : P s) {t : State} (ht : s.AgentFrame t) : P t := by
  obtain ⟨m, agents, ids, -, rfl⟩ := ht
  exact hP.rest _ _ _ _ _ _ _ _ h

theorem setQueue (hP : Outlasts P) (h : P s) (q : Nat) (x : Queue) : P (s.setQueue q x) := hP.rest _ _ _ _ _ _ _ _ h

theorem queueDone (hP : Outlasts P) (h : P s) (q : Nat) (index : Word) (status : Nat) (gid : Word) (abort : Nat) :
    P (s.queueDone q index status gid abort) := by
  unfold State.queueDone
  split
  · rename_i x hx
    have h1 := hP.agentFrame h (s.agentWrite_frame (queueChan q) 0 x.world (x.doneBase + 16 * (index.toNat % 2 ^ x.log2))
      (completionBytes status gid abort) false)
    unfold State.settleQueue
    split
    · dsimp only
      split
      · exact hP.setQueue h1 _ _
      · exact h1
    · exact h1
  · exact h

end Outlasts

/-! Two such properties. -/

/-- What the dispatchers keep: the grids, the tasks, the lock keys and the place of the next submission. -/
def State.books (s : State) : List Grid × List (Nat × Option Task) × List KeyEntry × Nat := (s.grids, s.tasks, s.keys, s.orders)

theorem outlasts_books (w : List Grid × List (Nat × Option Task) × List KeyEntry × Nat) : Outlasts fun s => s.books = w :=
  ⟨fun _ _ h => h, fun _ _ h => h, fun _ _ _ _ _ _ _ _ h => h⟩

/-- The crew is no more, and its residency slots are empty. -/
def State.Left (s : State) (cid : Nat) (c : Crew) : Prop := s.crewAt cid = none ∧ ∀ k ∈ c.slots, s.teamAt ⟨c.die, c.core, k⟩ = none

theorem outlasts_left (cid : Nat) (c : Crew) : Outlasts fun s => s.Left cid c where
  team := by
    rintro s r u v hu ⟨hc, ht⟩
    refine ⟨hc, fun k hk => (s.teamAt_setTeam_ne v fun he => ?_).trans (ht k hk)⟩
    have h1 := ht k hk
    rw [State.teamAt, he] at h1
    cases h1.symm.trans hu
  crew := by
    rintro s id b d hb ⟨hc, ht⟩
    refine ⟨(s.crewAt_setCrew_ne d fun he => ?_).trans hc, ht⟩
    rw [← he, hc] at hb
    cases hb
  rest := fun _ _ _ _ _ _ _ _ h => h

end Sys2Proof.Machine
end

section
/-! SUPPORT. The end of a crew: what it gives up (R41, R309), and how its grid counts it (R51, R299). -/

namespace Sys2Proof.Machine

variable {s : State} {cid : Nat} {c : Crew}

/-! Its residency slots. -/

@[simp] theorem State.teamAt_clearTeam_self (r : TeamRef) : (s.clearTeam r).teamAt r = none := Sparse.get_set_self ..

theorem State.teamAt_clearTeam_none {r q : TeamRef} (h : s.teamAt q = none) : (s.clearTeam r).teamAt q = none := by
  by_cases he : slotKey q = slotKey r
  · simp [State.teamAt, State.clearTeam, he]
  · exact (Sparse.get_set_ne _ _ _ he).trans h

theorem State.teamAt_clearTeams (die core k : Nat) (l : List Nat) : ∀ s : State, k ∈ l ∨ s.teamAt ⟨die, core, k⟩ = none →
    (l.foldl (fun s i => s.clearTeam ⟨die, core, i⟩) s).teamAt ⟨die, core, k⟩ = none := by
  induction l with
  | nil => exact fun s h => h.resolve_left (by simp)
  | cons i l ih =>
    intro s h
    refine ih _ (h.elim (fun hm => (List.mem_cons.1 hm).symm.imp_right ?_) fun hn => .inr (State.teamAt_clearTeam_none hn))
    rintro rfl
    exact State.teamAt_clearTeam_self _

theorem State.teamAt_clearSlots {k : Nat} (h : k ∈ c.slots) : (s.clearSlots c).teamAt ⟨c.die, c.core, k⟩ = none :=
  State.teamAt_clearTeams _ _ _ _ _ (.inl h)

theorem State.clearSlots_frame (s : State) (c : Crew) : s.clearSlots c = { s with teams := (s.clearSlots c).teams } :=
  c.slots.foldlRecOn (motive := fun t : State => t = { s with teams := t.teams }) _ rfl fun t ht i _ => by rw [ht]; rfl

/-- The crew leaves its slots and its entry. -/
theorem State.left_clear : ((s.clearSlots c).clearCrew cid).Left cid c :=
  ⟨Sparse.get_set_self .., fun _ hk => State.teamAt_clearSlots (s := s) hk⟩

/-! What it gives up. -/

/-- The task of the crew, where it has one, gives up its keys. -/
def State.freeKeys (s : State) (c : Crew) : State :=
  match c.task with
  | some id => s.releaseKeys id
  | none => s

theorem State.freeKeys_frame (s : State) (c : Crew) :
    s.freeKeys c = { s with keys := (s.freeKeys c).keys, keyReleases := (s.freeKeys c).keyReleases } := by
  unfold State.freeKeys
  split
  · exact State.releaseKeys_frame _
  · rfl

theorem State.keyless_freeKeys {id : Nat} (h : c.task = some id) : (s.freeKeys c).Keyless id := by
  simp only [State.freeKeys, h]
  exact State.keyless_releaseKeys id

/-- The crew is taken from the tables, with its name for the sets of members. -/
def State.strike (s : State) (cid : Nat) (c : Crew) : State :=
  ((((s.foldOps cid).noteGone c).clearSlots c).clearCrew cid).dropNames fun o => o == .crew cid

theorem State.removeCrew_eq (s : State) (cid : Nat) (c : Crew) : s.removeCrew cid c = ((s.strike cid c).freeKeys c).barSweep := rfl

theorem State.left_strike (s : State) (cid : Nat) (c : Crew) : (s.strike cid c).Left cid c := State.left_clear

theorem State.strike_books (s : State) (cid : Nat) (c : Crew) :
    (s.strike cid c).books = ((s.noteGone c).grids, s.tasks, s.keys, s.orders) := by
  have h : (s.foldOps cid).books = s.books := (outlasts_books s.books).foldOps rfl cid
  simp only [State.books, Prod.mk.injEq] at h
  obtain ⟨hg, ht, hk, ho⟩ := h
  unfold State.strike
  rw [State.clearSlots_frame]
  simp only [State.books, State.noteGone, State.clearCrew, State.dropNames, hg, ht, hk, ho]

/-- A crew that is removed is no more, its task is without keys, and of what the dispatchers keep only the grids' retired members and the keys
change. -/
theorem State.removeCrew_spec (s : State) (cid : Nat) (c : Crew) :
    (s.removeCrew cid c).Left cid c ∧ (∀ id, c.task = some id → (s.removeCrew cid c).Keyless id) ∧
      (s.removeCrew cid c).books = ((s.noteGone c).grids, s.tasks, (s.removeCrew cid c).keys, s.orders) := by
  have hleft := s.left_strike cid c
  have hbooks := s.strike_books cid c
  rw [State.removeCrew_eq]
  generalize s.strike cid c = u at hleft hbooks
  have hsweep : (u.freeKeys c).barSweep.books = (u.freeKeys c).books := (outlasts_books _).barSweep rfl
  have hkeys : (u.freeKeys c).barSweep.keys = (u.freeKeys c).keys := congrArg (fun w => w.2.2.1) hsweep
  refine ⟨(outlasts_left cid c).barSweep ?_, fun id hid e he => ?_, ?_⟩
  · rw [State.freeKeys_frame]
    exact hleft
  · rw [hkeys] at he
    exact State.keyless_freeKeys hid e he
  · rw [hsweep, hkeys]
    simp only [State.books, Prod.mk.injEq, true_and] at hbooks ⊢
    rw [State.freeKeys_frame]
    exact ⟨hbooks.1, hbooks.2.1, hbooks.2.2.2⟩

/-! How the grid counts it. -/

/-- A property that also outlasts an update of a grid's pages and number. -/
structure OutlastsArea (P : State → Prop) : Prop extends Outlasts P where
  area : ∀ {s : State} {g g0 : Grid} (n : Nat), s.gridAt g.gid = some g0 → g.retired = g0.retired → P s →
    P { s with grids := (s.setGrid { g with seq := n }).grids }

namespace OutlastsArea

variable {P : State → Prop}

theorem areaWrite (hP : OutlastsArea P) (h : P s) {g g0 : Grid} (hg : s.gridAt g.gid = some g0) (hr : g.retired = g0.retired)
    (pages : List Nat) : P (s.areaWrite g pages) := by
  obtain ⟨m, agents, ids, n, held, -, he⟩ := s.areaWrite_frame g pages
  rw [he]
  exact hP.rest _ _ _ _ _ _ _ _ (hP.area n hg hr h)

theorem wake (hP : OutlastsArea P) (h : P s) (hc : s.crewAt cid = some c) {g : Grid} {i : Nat} (hg : s.pageOf c = some (g, i))
    (team : Nat) (d : Reg) (status : Nat) : P (s.wake cid c g i team d status) := by
  have hgrid : s.gridAt c.gid = some g := by
    unfold State.pageOf at hg
    split at hg
    · next hgrid =>
      cases hg
      exact hgrid
    · cases hg
  generalize hq : ({ g.pageAt i with state := if (g.pageAt i).fault then 3 else 2, awaited := none } : PageSt) = q
  have hgq : s.gridAt (g.setPage i q).gid = some g := by rw [← State.gid_of_gridAt hgrid] at hgrid; exact hgrid
  have hA : P (s.areaWrite (g.setPage i q) [i]) := hP.areaWrite h hgq rfl _
  have hcA : (s.areaWrite (g.setPage i q) [i]).crewAt cid = some c := by
    obtain ⟨_, _, _, _, _, -, he⟩ := s.areaWrite_frame (g.setPage i q) [i]
    rw [he]
    exact hc
  unfold State.wake
  simp only [hq]
  split
  · exact hP.rest _ _ _ _ _ _ _ _ (hP.mapTeams (hP.crew _ hcA hA) _ _)
  · exact hP.crew _ hcA hA

theorem wakeAll (hP : OutlastsArea P) (h : P s) (gid : Word) (j : Nat) : P (s.wakeAll gid j) := by
  refine List.foldlRecOn _ _ h fun t ht p _ => ?_
  split
  · next b hb =>
    split
    · next hg =>
      split
      · exact hP.wake ht hb hg _ _ _
      · exact ht
    · exact ht
  · exact ht

end OutlastsArea

theorem outlastsArea_left (cid : Nat) (c : Crew) : OutlastsArea fun s => s.Left cid c :=
  ⟨outlasts_left cid c, fun _ _ _ h => h⟩

/-- The tasks and the lock keys. -/
theorem outlastsArea_tables (w : List (Nat × Option Task) × List KeyEntry) : OutlastsArea fun s => (s.tasks, s.keys) = w :=
  ⟨⟨fun _ _ h => h, fun _ _ h => h, fun _ _ _ _ _ _ _ _ h => h⟩, fun _ _ _ h => h⟩

/-- A grid with a number of retired crews. -/
def State.Retired (s : State) (gid : Word) (n : Nat) : Prop := ∃ g, s.gridAt gid = some g ∧ g.retired = n

theorem State.retired_setGrid {gid : Word} {g g0 : Grid} (hg : s.gridAt g.gid = some g0) {k : Nat} (h : s.Retired gid k)
    (hk : g.gid = gid → g.retired = k) : (s.setGrid g).Retired gid k := by
  by_cases he : gid = g.gid
  · subst he
    exact ⟨g, State.gridAt_setGrid_self hg, hk rfl⟩
  · obtain ⟨b, hb, hr⟩ := h
    exact ⟨b, (State.gridAt_setGrid_ne he).trans hb, hr⟩

theorem outlastsArea_retired (gid : Word) (k : Nat) : OutlastsArea fun s => s.Retired gid k where
  team := fun _ _ h => h
  crew := fun _ _ h => h
  rest := fun _ _ _ _ _ _ _ _ h => h
  area := by
    intro s g g0 n hg hr h
    refine State.retired_setGrid (g := { g with seq := n }) hg h fun he => ?_
    obtain ⟨b, hb, hk⟩ := h
    subst he
    cases hb.symm.trans hg
    exact hr.trans hk

/-- A grid is taken from the table, and its barriers are no more. -/
theorem State.closed_frame (s : State) (g : Grid) (n : Nat) : ∃ gs m bars counts gone, gs = (s.dropGrid g.gid).grids ∧
    ((s.dropGrid g.gid).closeBarriers g n).refreshHeld =
      { s with grids := gs, msys := m, barriers := bars, barCounts := counts, goneGroups := gone } :=
  ⟨_, _, _, _, _, rfl, rfl⟩

/-- A grid that ends is no more. -/
theorem State.gridAt_endGrid (g : Grid) : (s.endGrid g).gridAt g.gid = none := by
  obtain ⟨gs, m, bars, counts, gone, hgs, he⟩ := s.closed_frame g g.gone.length
  have h0 : (((s.dropGrid g.gid).closeBarriers g g.gone.length).refreshHeld).gridAt g.gid = none := by
    rw [he]
    subst hgs
    exact State.gridAt_dropGrid (s := s) g.gid
  have hP : Outlasts fun t => t.gridAt g.gid = none := ⟨fun _ _ h => h, fun _ _ h => h, fun _ _ _ _ _ _ _ _ h => h⟩
  unfold State.endGrid
  dsimp only
  split
  · exact hP.queueDone h0 _ _ _ _ _
  · exact h0

/-- What does not speak of the grids outlasts an update of a state area. -/
theorem Outlasts.areaWrite {P : State → Prop} (hP : Outlasts P) (hg : ∀ (t : State) gs, P t → P { t with grids := gs }) (h : P s) (g : Grid)
    (pages : List Nat) : P (s.areaWrite g pages) := by
  obtain ⟨m, agents, ids, n, held, -, he⟩ := s.areaWrite_frame g pages
  rw [he]
  generalize (s.setGrid { g with seq := n }).grids = gs
  exact hP.rest { m with held := held } s.ops s.barriers s.barCounts s.goneGroups agents ids s.queues (hg s gs h)

/-- What does not speak of the grids outlasts the end of one. -/
theorem Outlasts.endGrid {P : State → Prop} (hP : Outlasts P) (hg : ∀ (t : State) gs, P t → P { t with grids := gs }) (h : P s) (g : Grid) :
    P (s.endGrid g) := by
  have h0 : P ((s.dropGrid g.gid).closeBarriers g g.gone.length).refreshHeld := by
    obtain ⟨gs, m, bars, counts, gone, -, he⟩ := s.closed_frame g g.gone.length
    rw [he]
    exact hP.rest m s.ops bars counts gone s.agents s.ids s.queues (hg s gs h)
  unfold State.endGrid
  dsimp only
  split
  · exact hP.queueDone h0 _ _ _ _ _
  · exact h0

theorem Outlasts.settleGrid {P : State → Prop} (hP : Outlasts P) (hg : ∀ (t : State) gs, P t → P { t with grids := gs }) (h : P s) (gid : Word) :
    P (s.settleGrid gid) := by
  unfold State.settleGrid
  split
  · split
    · exact hP.endGrid hg h _
    · exact h
  · exact h

/-- What does not speak of the grids outlasts the count of a retired crew. -/
theorem OutlastsArea.countRetired {P : State → Prop} (hP : OutlastsArea P) (hg : ∀ (t : State) gs, P t → P { t with grids := gs }) (h : P s) :
    P (s.countRetired c) := by
  unfold State.countRetired
  split
  · exact h
  · next g hgrid =>
    dsimp only
    split
    · exact hP.toOutlasts.settleGrid hg (hP.wakeAll (hP.toOutlasts.areaWrite hg h _ _) _ _) _
    · exact hP.toOutlasts.settleGrid hg (hg s _ h) _

end Sys2Proof.Machine
end

section
/-! PROOF. The retirement of a crew (R41, R51, R299, R309). -/

namespace Sys2Proof.Machine

variable {s : State} {cid : Nat} {c : Crew}

theorem State.retired_settleGrid {gid : Word} {k : Nat} (h : s.Retired gid k) :
    (s.settleGrid gid).gridAt gid = none ∨ (s.settleGrid gid).Retired gid k := by
  unfold State.settleGrid
  split
  · next g hg =>
    split
    · rw [← State.gid_of_gridAt hg]
      exact .inl (State.gridAt_endGrid g)
    · exact .inr h
  · exact .inr h

/-- The grid counts the crew, and ends where that was the last of it. -/
theorem State.retired_countRetired {g : Grid} (hg : s.gridAt c.gid = some g) :
    (s.countRetired c).gridAt c.gid = none ∨ (s.countRetired c).Retired c.gid (g.retired + 1) := by
  have hid := State.gid_of_gridAt hg
  have hset : ∀ u : Grid, u.gid = g.gid → u.retired = g.retired + 1 → (s.setGrid u).Retired c.gid (g.retired + 1) := by
    intro u hu hr
    have h1 := State.gridAt_setGrid_self (s := s) (g := u) (g0 := g) (by rw [hu, hid]; exact hg)
    exact ⟨u, by rw [hu, hid] at h1; exact h1, hr⟩
  unfold State.countRetired
  rw [hg]
  dsimp only
  split
  · refine State.retired_settleGrid ((outlastsArea_retired _ _).wakeAll ?_ _ _)
    generalize hu : Grid.setPage _ _ _ = u
    obtain ⟨m, agents, ids, n, held, -, he⟩ := s.areaWrite_frame u [_]
    rw [he]
    exact hset { u with seq := n } (by subst hu; rfl) (by subst hu; rfl)
  · exact State.retired_settleGrid (hset _ rfl rfl)

/-- A retired member stays in its grid, which is otherwise as it was. -/
theorem State.gridAt_noteGone {gid : Word} {g : Grid} (h : s.gridAt gid = some g) :
    ∃ gone, (s.noteGone c).gridAt gid = some { g with gone := gone } := by
  have hp : ((fun g : Grid => g.gid == gid) ∘ fun g => if g.gid = c.gid then { g with gone := (c.die * 16 + c.core / 4) :: g.gone } else g) =
      fun g => g.gid == gid := by
    funext x
    simp only [Function.comp]
    split <;> rfl
  unfold State.gridAt State.noteGone
  rw [List.find?_map, hp]
  unfold State.gridAt at h
  rw [h, Option.map_some]
  split
  · exact ⟨_, rfl⟩
  · exact ⟨g.gone, rfl⟩

/-- The task of a retired crew is no more. -/
def State.endTask (s : State) (c : Crew) : State :=
  match c.task with
  | some id => { s with tasks := Sparse.set none s.tasks id none }
  | none => s

theorem exec_crewRetire_drained (hc : s.crewAt cid = some c) (hp : c.phase = .leaving) (hd : (s.closeAll cid c).drained cid c = true) :
    exec (.crewRetire cid) s = .next ((((s.closeAll cid c).removeCrew cid c).countRetired c).endTask c) := by
  change execCrewRetire cid s = _
  simp only [execCrewRetire, hc, hp, hd, ne_eq, not_true_eq_false, if_false, if_true]
  rfl

theorem State.endTask_frame : ∃ tasks, s.endTask c = { s with tasks := tasks } ∧ ∀ id, c.task = some id → Sparse.get none tasks id = none := by
  unfold State.endTask
  split
  · next id h => exact ⟨_, rfl, fun i hi => by cases h.symm.trans hi; exact Sparse.get_set_self ..⟩
  · next h => exact ⟨s.tasks, rfl, fun i hi => by cases h.symm.trans hi⟩

theorem exec_crewRetire (hc : s.crewAt cid = some c) (hp : c.phase = .leaving) (hd : (s.closeAll cid c).drained cid c = true) :
    ∃ s', exec (.crewRetire cid) s = .next s' ∧ s'.crewAt cid = none ∧ (∀ k ∈ c.slots, s'.teamAt ⟨c.die, c.core, k⟩ = none) ∧
      (∀ id, c.task = some id → s'.taskAt id = none ∧ ∀ e ∈ s'.keys, e.holder ≠ some id ∧ id ∉ e.waiters) ∧
      (∀ g, s.gridAt c.gid = some g → s'.gridAt c.gid = none ∨ ∃ g', s'.gridAt c.gid = some g' ∧ g'.retired = g.retired + 1) := by
  have hclose : (s.closeAll cid c).books = s.books := (outlasts_books s.books).closeAll rfl cid c
  obtain ⟨hleft, hkeys, hbooks⟩ := (s.closeAll cid c).removeCrew_spec cid c
  generalize hu : (s.closeAll cid c).removeCrew cid c = u at hleft hkeys hbooks
  have hleft' : (u.countRetired c).Left cid c := (outlastsArea_left cid c).countRetired (fun _ _ h => h) hleft
  have htab : ((u.countRetired c).tasks, (u.countRetired c).keys) = (u.tasks, u.keys) :=
    (outlastsArea_tables (u.tasks, u.keys)).countRetired (fun _ _ h => h) rfl
  obtain ⟨tasks, he, ht⟩ := (u.countRetired c).endTask_frame (c := c)
  refine ⟨_, exec_crewRetire_drained hc hp hd, ?_⟩
  rw [hu, he]
  refine ⟨hleft'.1, hleft'.2, fun id hid => ⟨ht id hid, fun e hk => ?_⟩, fun g hg => ?_⟩
  · rw [(Prod.mk.inj htab).2] at hk
    exact hkeys id hid e hk
  · have hgs : s.gridAt c.gid = (s.closeAll cid c).gridAt c.gid := congrArg (fun w => w.1.find? fun g => g.gid == c.gid) hclose.symm
    obtain ⟨gone, hgone⟩ := State.gridAt_noteGone (c := c) (hgs.symm.trans hg)
    have hgu : u.gridAt c.gid = some { g with gone := gone } :=
      (congrArg (fun w => w.1.find? fun g => g.gid == c.gid) hbooks).trans hgone
    have h := State.retired_countRetired hgu
    exact h

end Sys2Proof.Machine
end

section
/-! PROOF. The discard of a task and the move of a crew (R264, R312, R315). -/

namespace Sys2Proof.Machine

variable {s : State} {cid id : Nat} {c : Crew} {t : Task}

/-! A task that returns to Queued. -/

/-- A grid that is forgotten leaves the crews, the tasks, the keys and the order. -/
theorem State.forgetGrid_frame (s : State) (gid : Word) : ∃ gs m bars counts gone,
    s.forgetGrid gid = { s with grids := gs, msys := m, barriers := bars, barCounts := counts, goneGroups := gone } := by
  unfold State.forgetGrid
  split
  · next g hg =>
    obtain ⟨gs, m, bars, counts, gone, -, he⟩ := s.closed_frame g 0
    rw [State.gid_of_gridAt hg] at he
    exact ⟨gs, m, bars, counts, gone, he⟩
  · exact ⟨s.grids, s.msys, s.barriers, s.barCounts, s.goneGroups, rfl⟩

/-- The crews, their teams, the keys and the tasks. -/
def State.holdings (s : State) : List (Nat × Option Crew) × List (Nat × Option Team) × List KeyEntry × List (Nat × Option Task) :=
  (s.crews, s.teams, s.keys, s.tasks)

theorem State.writeArea_holdings (s : State) (world va : Nat) (bs : List Byte) : (s.writeArea world va bs).2.holdings = s.holdings := by
  unfold State.writeArea
  split <;> rfl

/-- The acceptance of a grid leaves the crews, the teams, the keys and the tasks. -/
theorem State.accept_holdings (s : State) (gid : Word) (r : GridRec) (world level : Nat) (origin : Origin) (task : Option Nat) :
    (s.accept gid r world level origin task).holdings = s.holdings := by
  unfold State.accept
  dsimp only
  generalize hx : (if r.paged = true then s.newOrder.2.writeArea world r.stateAddr _ else ([], s.newOrder.2)) = x
  have hx2 : x.2.holdings = s.holdings := by
    subst hx
    split
    · exact State.writeArea_holdings _ _ _ _
    · rfl
  generalize hy : (if r.logBase = 0 then ([], x.2) else x.2.writeArea world r.logBase _) = y
  have hy2 : y.2.holdings = x.2.holdings := by
    subst hy
    split
    · rfl
    · exact State.writeArea_holdings _ _ _ _
  exact hy2.trans hx2

/-- A task that is given a grid, or refused one, leaves the crews, the teams and the keys. -/
theorem State.giveGid_holdings (s : State) (id : Nat) (t : Task) :
    (s.giveGid id t).crews = s.crews ∧ (s.giveGid id t).teams = s.teams ∧ (s.giveGid id t).keys = s.keys := by
  unfold State.giveGid
  split
  · next _ _ g _ _ =>
    split
    · have h := s.accept_holdings g t.record t.world 0 .device (some id)
      simp only [State.holdings, Prod.mk.injEq] at h
      obtain ⟨hc, ht, hk, -⟩ := h
      exact ⟨hc, ht, hk⟩
    · exact ⟨rfl, rfl, rfl⟩
  · exact ⟨rfl, rfl, rfl⟩

theorem State.taskAt_giveGid_refused {g : Word} (hg : t.gid = none) (hf : s.freeGid = some g) (hs : s.gridStatusOf t.raw t.world ≠ 0) :
    (s.giveGid id t).taskAt id = none := by
  simp only [State.giveGid, hg, hf, hs, if_false]
  exact Sparse.get_set_self ..

theorem State.taskAt_giveGid {g : Option Word} (ht : s.taskAt id = some t) (hg : t.gid = none) (hf : s.freeGid = g)
    (hs : g = none ∨ s.gridStatusOf t.raw t.world = 0) : (s.giveGid id t).taskAt id = some { t with gid := g } := by
  cases g with
  | none =>
    simp only [State.giveGid, hg, hf]
    rw [ht, ← hg]
  | some g =>
    simp only [State.giveGid, hg, hf, hs.resolve_left (by simp), if_true]
    exact State.taskAt_setTask_self _ _

/-- A discarded task as it returns to Queued. -/
def Task.queued (t : Task) (order : Nat) : Task := { t with gid := none, order := order, phase := firstPhase t.keys }

theorem State.requeue_eq (ht : s.taskAt id = some t) :
    s.requeue id = (s.newOrder.2.setTask id (t.queued s.orders)).giveGid id (t.queued s.orders) := by
  simp only [State.requeue, ht]
  rfl

theorem State.requeue_holdings (ht : s.taskAt id = some t) :
    (s.requeue id).crews = s.crews ∧ (s.requeue id).teams = s.teams ∧ (s.requeue id).keys = s.keys := by
  rw [State.requeue_eq ht]
  exact State.giveGid_holdings _ _ _

theorem State.taskAt_requeue_refused (ht : s.taskAt id = some t) (hf : s.freeGid ≠ none) (hs : s.gridStatusOf t.raw t.world ≠ 0) :
    (s.requeue id).taskAt id = none := by
  obtain ⟨g, hg⟩ := Option.ne_none_iff_exists'.1 hf
  rw [State.requeue_eq ht]
  exact State.taskAt_giveGid_refused (g := g) rfl hg hs

theorem State.taskAt_requeue (ht : s.taskAt id = some t) (hs : s.freeGid = none ∨ s.gridStatusOf t.raw t.world = 0) :
    (s.requeue id).taskAt id = some { t with gid := s.freeGid, order := s.orders, phase := firstPhase t.keys } := by
  rw [State.requeue_eq ht]
  exact State.taskAt_giveGid (State.taskAt_setTask_self _ _) rfl rfl hs

/-! The discard. -/

theorem exec_taskDiscard_stop (hc : s.crewAt cid = some c) (ht : c.task = some id) (hs : c.stop = none) (hd : c.discardable = true)
    (ho : s.outranked c.die c.cls = true) : exec (.taskDiscard cid) s = .next (s.setCrew cid { c with stop := some (.discard none) }) := by
  change execTaskDiscard cid s = _
  simp only [execTaskDiscard, hc, hs, ht, hd, ho, Bool.and_self, if_true]

theorem exec_taskDiscard_drained {by_ : Option TeamRef} (hc : s.crewAt cid = some c) (ht : c.task = some id)
    (hs : c.stop = some (.discard by_)) (hd : s.drained cid c = true) :
    exec (.taskDiscard cid) s = .next ((((s.removeCrew cid c).forgetGrid c.gid).requeue id).ctxDone by_ 1) := by
  change execTaskDiscard cid s = _
  simp only [execTaskDiscard, hc, hs, ht, hd, if_true]

/-- The end of a `ctxsv` changes at most a team that there is. -/
theorem Outlasts.ctxDone {P : State → Prop} (hP : Outlasts P) (h : P s) (by_ : Option TeamRef) (status : Nat) : P (s.ctxDone by_ status) := by
  unfold State.ctxDone
  split
  · exact h
  · split
    · next hu =>
      split
      · exact hP.team _ hu h
      · exact h
    · exact h

theorem exec_taskDiscard {by_ : Option TeamRef} (hc : s.crewAt cid = some c) (hid : c.task = some id) (hs : c.stop = some (.discard by_))
    (hd : s.drained cid c = true) (ht : s.taskAt id = some t) :
    let freed := (s.removeCrew cid c).forgetGrid c.gid
    ∃ s', exec (.taskDiscard cid) s = .next s' ∧ s'.crewAt cid = none ∧ (∀ k ∈ c.slots, s'.teamAt ⟨c.die, c.core, k⟩ = none) ∧
      (∀ e ∈ s'.keys, e.holder ≠ some id ∧ id ∉ e.waiters) ∧
      (freed.freeGid ≠ none → freed.gridStatusOf t.raw t.world ≠ 0 → s'.taskAt id = none) ∧
      (freed.freeGid = none ∨ freed.gridStatusOf t.raw t.world = 0 →
        s'.taskAt id = some { t with gid := freed.freeGid, order := s.orders, phase := firstPhase t.keys }) := by
  intro freed
  obtain ⟨hleft, hkeys, hbooks⟩ := s.removeCrew_spec cid c
  simp only [State.books, Prod.mk.injEq] at hbooks
  obtain ⟨-, htasks, -, horders⟩ := hbooks
  have hfreed : freed.Left cid c ∧ freed.Keyless id ∧ freed.tasks = s.tasks ∧ freed.orders = s.orders := by
    obtain ⟨gs, m, bars, counts, gone, he⟩ := (s.removeCrew cid c).forgetGrid_frame c.gid
    rw [show freed = _ from he]
    exact ⟨hleft, hkeys id hid, htasks, horders⟩
  obtain ⟨hfl, hfk, hfts, hfo⟩ := hfreed
  have hft : freed.taskAt id = some t := (congrArg (fun w => Sparse.get none w id) hfts).trans ht
  obtain ⟨hqc, hqt, hqk⟩ := State.requeue_holdings hft
  have hql : (freed.requeue id).Left cid c := by
    unfold State.Left State.crewAt State.teamAt
    rw [hqc, hqt]
    exact hfl
  have hdl : ((freed.requeue id).ctxDone by_ 1).Left cid c := (outlasts_left cid c).ctxDone hql by_ 1
  have hdb : ((freed.requeue id).ctxDone by_ 1).books = (freed.requeue id).books := (outlasts_books _).ctxDone rfl by_ 1
  simp only [State.books, Prod.mk.injEq] at hdb
  obtain ⟨-, hdt, hdk, -⟩ := hdb
  refine ⟨_, exec_taskDiscard_drained hc hid hs hd, hdl.1, hdl.2, fun e he => ?_, fun hf hr => ?_, fun hf => ?_⟩
  · rw [hdk, hqk] at he
    exact hfk e he
  · exact (congrArg (fun w => Sparse.get none w id) hdt).trans (State.taskAt_requeue_refused hft hf hr)
  · exact (congrArg (fun w => Sparse.get none w id) hdt).trans ((State.taskAt_requeue hft hf).trans (by rw [hfo]))

end Sys2Proof.Machine
end

section
/-! SUPPORT. A crew takes a core (R366): where its teams stand, and what it is. -/

namespace Sys2Proof.Machine

variable {s : State} {cid : Nat} {c : Crew}

/-- Teams take residency slots of a core. -/
def State.seat (s : State) (die core : Nat) (l : List (Nat × Team)) : State :=
  l.foldl (fun s p => s.setTeam ⟨die, core, p.1⟩ { p.2 with lastIssue := s.clock }) s

theorem State.seat_cons (s : State) (die core : Nat) (p : Nat × Team) (l : List (Nat × Team)) :
    s.seat die core (p :: l) = (s.setTeam ⟨die, core, p.1⟩ { p.2 with lastIssue := s.clock }).seat die core l := rfl

theorem State.seat_frame (s : State) (die core : Nat) (l : List (Nat × Team)) :
    s.seat die core l = { s with teams := (s.seat die core l).teams } :=
  l.foldlRecOn (motive := fun t : State => t = { s with teams := t.teams }) _ rfl fun t ht p _ => by rw [ht]; rfl

theorem slotKey_slot_inj {die core i j : Nat} (h : slotKey ⟨die, core, i⟩ = slotKey ⟨die, core, j⟩) : i = j := by
  simp only [slotKey] at h
  omega

theorem State.teamAt_seat_ne {die core k : Nat} : ∀ {l : List (Nat × Team)} {s : State}, (∀ p ∈ l, p.1 ≠ k) →
    (s.seat die core l).teamAt ⟨die, core, k⟩ = s.teamAt ⟨die, core, k⟩ := by
  intro l
  induction l with
  | nil => exact fun _ => rfl
  | cons p l ih =>
    intro s h
    rw [State.seat_cons, ih fun q hq => h q (List.mem_cons_of_mem _ hq)]
    exact s.teamAt_setTeam_ne _ fun he => h p List.mem_cons_self (slotKey_slot_inj he).symm

/-- A team stands in its slot, behind those that wait there already. -/
theorem State.teamAt_seat {die core : Nat} {p : Nat × Team} : ∀ {l : List (Nat × Team)} {s : State}, (l.map Prod.fst).Nodup → p ∈ l →
    (s.seat die core l).teamAt ⟨die, core, p.1⟩ = some { p.2 with lastIssue := s.clock } := by
  intro l
  induction l with
  | nil => exact fun _ h => absurd h (by simp)
  | cons q l ih =>
    intro s hn hp
    obtain ⟨hq, hn⟩ := List.nodup_cons.1 hn
    rw [State.seat_cons]
    obtain rfl | hp := List.mem_cons.1 hp
    · rw [State.teamAt_seat_ne fun r hr he => hq (List.mem_map.2 ⟨r, hr, he⟩)]
      exact s.teamAt_setTeam_self _ _
    · exact ih hn hp

/-- The slots that a crew takes. -/
def State.slotsFor (s : State) (die core : Nat) (c : Crew) : List Nat := (s.freeSlots die core).take c.teams.length

/-- The crew as it stands on a core. -/
def State.onto (s : State) (c : Crew) (die core : Nat) (phase : Phase) : Crew :=
  { c with phase := phase, die := die, core := core, slots := s.slotsFor die core c, teams := [], stop := none, placedAt := s.clock }

theorem State.putOn_eq (s : State) (cid : Nat) (c : Crew) (die core : Nat) (phase : Phase) : s.putOn cid c die core phase =
    ((s.setMsys (s.msys.setQuad die core c.fuse)).seat die core (List.zip (s.slotsFor die core c) c.teams)).setCrew cid
      (s.onto c die core phase) := by
  have hclock : ((s.setMsys (s.msys.setQuad die core c.fuse)).seat die core (List.zip (s.slotsFor die core c) c.teams)).clock = s.clock := by
    rw [State.seat_frame]
    rfl
  unfold State.onto
  rw [← hclock]
  rfl

theorem State.crewAt_putOn (s : State) (cid : Nat) (c : Crew) (die core : Nat) (phase : Phase) :
    (s.putOn cid c die core phase).crewAt cid = some (s.onto c die core phase) := by
  rw [State.putOn_eq]
  exact State.crewAt_setCrew_self _ _ _

theorem State.freeSlots_nodup (s : State) (die core : Nat) : (s.freeSlots die core).Nodup := List.nodup_range.filter _

/-- Team `k` of the crew stands in the free slot `k`, where there is one. -/
theorem State.teamAt_putOn {die core k : Nat} (phase : Phase) (hk : k < (s.freeSlots die core).length) {u : Team} (hu : c.teams[k]? = some u) :
    (s.putOn cid c die core phase).teamAt ⟨die, core, (s.freeSlots die core).getD k 0⟩ = some { u with lastIssue := s.clock } := by
  have hlt : k < c.teams.length := (List.getElem?_eq_some_iff.1 hu).1
  have hs : (s.slotsFor die core c)[k]? = some ((s.freeSlots die core).getD k 0) := by
    simp [State.slotsFor, hlt, hk]
  have hmem : ((s.freeSlots die core).getD k 0, u) ∈ List.zip (s.slotsFor die core c) c.teams :=
    List.mem_of_getElem? (i := k) (by rw [List.zip, List.getElem?_zipWith, hs, hu])
  have hnd : ((List.zip (s.slotsFor die core c) c.teams).map Prod.fst).Nodup := by
    rw [State.slotsFor, List.map_fst_zip (List.length_take_le _ _)]
    exact (s.freeSlots_nodup die core).sublist (List.take_sublist _ _)
  rw [State.putOn_eq]
  exact State.teamAt_seat (s := s.setMsys (s.msys.setQuad die core c.fuse)) hnd hmem

/-- The sweep of the barriers touches them and their counts only. -/
theorem State.barSweep_frame (s : State) : s.barSweep = { s with barriers := s.barSweep.barriers, barCounts := s.barSweep.barCounts } := by
  refine s.barriers.foldlRecOn (motive := fun t : State => t = { s with barriers := t.barriers, barCounts := t.barCounts }) _ rfl fun t ht b _ => ?_
  unfold State.barSettle
  split
  · refine b.names.foldlRecOn (motive := fun t : State => t = { s with barriers := t.barriers, barCounts := t.barCounts }) _ ?_ fun u hu o _ => ?_
    · rw [ht]
    · rw [hu]
      rfl
  · rw [ht]
    rfl

theorem State.putOn_grids (s : State) (cid : Nat) (c : Crew) (die core : Nat) (phase : Phase) :
    (s.putOn cid c die core phase).grids = s.grids := by
  rw [State.putOn_eq, State.seat_frame]
  rfl

end Sys2Proof.Machine
end

section
/-! PROOF. The move of a crew (R315). -/

namespace Sys2Proof.Machine

variable {s : State} {cid : Nat} {c : Crew}

theorem exec_thermalMigration_stop {core elapsed : Nat} (hc : s.crewAt cid = some c) (hs : c.stop = none) (hm : s.msys.bring.migration = true)
    (he : s.msys.bring.minResidency ≤ elapsed) (hp : c.phase = .resident) (hg : c.gid ≠ 0) (hr : s.mayMove c core = true) :
    exec (.thermalMigration cid core elapsed) s = .next (s.setCrew cid { c with stop := some (.migrate core) }) := by
  change execThermalMigration cid core elapsed s = _
  simp only [execThermalMigration, hc, hs, hm, decide_eq_true he, hp, bne_iff_ne.2 hg, hr, beq_self_eq_true, Bool.and_self, if_true]

/-- The crew as it leaves its core to stand on another. -/
def Crew.moving (c : Crew) (teams : List Team) : Crew := { c with phase := .resident, slots := [], teams := teams, stop := none }

theorem exec_thermalMigration_move {core elapsed k : Nat} (hc : s.crewAt cid = some c) (hs : c.stop = some (.migrate k))
    (hd : s.drained cid c = true) (hr : (s.teamsOf c).all Team.atRest = true) (hm : s.mayMove c k = true) :
    let off := (s.foldOps cid).takeOff cid c .resident
    let on := (off.putOn cid (c.moving (((s.foldOps cid).teamsOf c).map Team.leave)) c.die k .resident).barSweep
    exec (.thermalMigration cid core elapsed) s = .next (on.setMsys (on.msys.acquire c.die k .pkg)) := by
  have hoff : ((s.foldOps cid).takeOff cid c .resident).crewAt cid = some (c.moving (((s.foldOps cid).teamsOf c).map Team.leave)) :=
    State.crewAt_setCrew_self _ _ _
  change execThermalMigration cid core elapsed s = _
  simp only [execThermalMigration, hc, hs, hd, hr, hm, hoff, Bool.and_self, Bool.not_true, Bool.false_eq_true, if_false]
  rfl


theorem exec_thermalMigration {core elapsed k : Nat} (hc : s.crewAt cid = some c) (hs : c.stop = some (.migrate k))
    (hd : s.drained cid c = true) (hr : (s.teamsOf c).all Team.atRest = true) (hm : s.mayMove c k = true) :
    ∃ s' cr, exec (.thermalMigration cid core elapsed) s = .next s' ∧ s'.crewAt cid = some cr ∧ cr.die = c.die ∧ cr.core = k ∧
      cr.phase = .resident ∧ cr.stop = none ∧ cr.placedAt = s.clock ∧ cr.alloc = c.alloc ∧ cr.scratch = c.scratch ∧ cr.tiles = c.tiles ∧
      cr.pps = c.pps ∧ s'.msys.acquire c.die k .pkg = s'.msys := by
  have hclock : ((s.foldOps cid).takeOff cid c .resident).clock = s.clock := by
    have hP : Outlasts fun t => t.clock = s.clock := ⟨fun _ _ h => h, fun _ _ h => h, fun _ _ _ _ _ _ _ _ h => h⟩
    have h1 := hP.foldOps rfl cid
    have h2 : ((s.foldOps cid).clearSlots c).clock = (s.foldOps cid).clock := by rw [State.clearSlots_frame]
    exact h2.trans h1
  generalize hoff : (s.foldOps cid).takeOff cid c .resident = off at hclock
  generalize hcm : c.moving (((s.foldOps cid).teamsOf c).map Team.leave) = cm
  refine ⟨_, off.onto cm c.die k .resident, exec_thermalMigration_move hc hs hd hr hm, ?_, ?_⟩
  · rw [hoff, hcm, State.crewAt_setMsys, State.barSweep_frame]
    exact State.crewAt_putOn _ _ _ _ _ _
  · rw [hoff, hcm, State.setMsys_msys, MemSys.acquire_acquire]
    subst hcm
    exact ⟨rfl, rfl, rfl, rfl, hclock, rfl, rfl, rfl, rfl, rfl⟩

end Sys2Proof.Machine
end

section
/-! PROOF. The placement of crews (R36 to R40, R304). -/

namespace Sys2Proof.Machine

variable {s u : State} {g : Grid} {die core i : Nat}

/-! A crew at its launch. -/

theorem launchTeam_sreg {cid k level : Nat} {d : TeamDecl} {pc : VAddr} {arg : Nat} {more : List (Nat × Word)} (hmore : ∀ p ∈ more, 2 ≤ p.1) :
    (launchTeam cid k level d pc (launchRegs arg more)).sreg 0 = BitVec.ofNat 32 arg ∧
      (launchTeam cid k level d pc (launchRegs arg more)).sreg 1 = BitVec.ofNat 32 (arg / 2 ^ 32) := by
  have hin : ∀ p ∈ launchRegs arg more, p = (0, BitVec.ofNat 32 arg) ∨ p = (1, BitVec.ofNat 32 (arg / 2 ^ 32)) ∨ 2 ≤ p.1 := by
    intro p hp
    simp only [launchRegs, List.cons_append, List.nil_append, List.mem_cons] at hp
    exact hp.imp_right (Or.imp_right (hmore p))
  refine ⟨Sparse.get_setAll_of_mem 0 _ _ _ _ (by simp [launchRegs]) fun p hp hk => ?_,
    Sparse.get_setAll_of_mem 0 _ _ _ _ (by simp [launchRegs]) fun p hp hk => ?_⟩
  · obtain rfl | rfl | h := hin p hp
    · rfl
    · cases hk
    · omega
  · obtain rfl | rfl | h := hin p hp
    · cases hk
    · rfl
    · omega

/-- Crew `i` of a grid stands on a core, launched: the crew, its grid's count, and its teams in the free slots that there were. -/
def State.Launched (s s' : State) (die : Nat) (g : Grid) (i core : Nat) (entry : VAddr) (arg : Nat) : Prop :=
  ∃ cr g', s'.crewAt s.ids = some cr ∧ cr.gid = g.gid ∧ cr.index = BitVec.ofNat 32 i ∧ cr.die = die ∧ cr.core = core ∧ cr.phase = .resident ∧
    cr.world = g.world ∧ cr.task = g.task ∧ cr.alloc = g.record.alloc ∧ cr.slots = (s.freeSlots die core).take g.record.teams.length ∧
    s'.gridAt g.gid = some g' ∧ g'.launched = g.launched + 1 ∧ Sparse.get false g'.placed i = true ∧
    ∀ k, k < g.record.teams.length → k < (s.freeSlots die core).length → ∃ u, s'.teamAt ⟨die, core, (s.freeSlots die core).getD k 0⟩ = some u ∧
      u.crew = s.ids ∧ u.index = k ∧ u.lanes = (g.record.teams.getD k ⟨1, k⟩).lanes ∧ u.mask = firstLanes u.lanes ∧ u.present = u.mask ∧
      u.pc = entry ∧ u.level = g.level ∧ u.sreg 0 = BitVec.ofNat 32 arg ∧ u.sreg 1 = BitVec.ofNat 32 (arg / 2 ^ 32) ∧ u.vregs = []

/-- The grid with one more crew launched. -/
def Grid.launching (g : Grid) (placed : List (Nat × Bool)) : Grid := { g with placed := placed, launched := g.launched + 1 }

theorem State.launched_launchCrew {placed : List (Nat × Bool)} {more : List (Nat × Word)} {scratch : List (Nat × Byte)} (entry : VAddr) (arg : Nat)
    (m : MemSys) (hi : u.ids = s.ids) (ht : u.teams = s.teams) (hg : u.gridAt g.gid = some (g.launching placed))
    (hp : Sparse.get false placed i = true) (hmore : ∀ p ∈ more, 2 ≤ p.1) :
    s.Launched (((u.launchCrew (g.launching placed) i die core none entry arg more scratch).2).setMsys m) die g i core entry arg := by
  have hfree : s.freeSlots die core = u.newId.2.freeSlots die core := by
    unfold State.freeSlots State.teamAt
    rw [← ht]
    rfl
  generalize hc : (g.launching placed).newCrew u.ids i none entry arg more scratch = c
  have hl : ((u.launchCrew (g.launching placed) i die core none entry arg more scratch).2).setMsys m =
      (u.newId.2.putOn u.ids c die core .resident).setMsys m := by subst hc; rfl
  have hlen : c.teams.length = g.record.teams.length := by subst hc; simp [Grid.newCrew, Grid.launching]
  rw [hl, State.Launched, ← hi]
  refine ⟨u.newId.2.onto c die core .resident, g.launching placed, ?_, ?_⟩
  · rw [State.crewAt_setMsys]
    exact State.crewAt_putOn _ _ _ _ _ _
  have hgrid : ((u.newId.2.putOn u.ids c die core .resident).setMsys m).gridAt g.gid = some (g.launching placed) :=
    (congrArg (fun l => l.find? fun x => x.gid == g.gid) (u.newId.2.putOn_grids u.ids c die core .resident)).trans hg
  have hslots : (u.newId.2.onto c die core .resident).slots = (s.freeSlots die core).take g.record.teams.length := by
    rw [hfree, ← hlen]
    rfl
  have hteam : ∀ k, k < g.record.teams.length → c.teams[k]? =
      some (launchTeam u.ids k g.level (g.record.teams.getD k ⟨1, k⟩) entry (launchRegs arg more)) := by
    intro k hk
    subst hc
    simp [Grid.newCrew, Grid.launching, hk]
  have hcrew : c.gid = g.gid ∧ c.index = BitVec.ofNat 32 i ∧ c.world = g.world ∧ c.task = g.task ∧ c.alloc = g.record.alloc := by
    subst hc
    exact ⟨rfl, rfl, rfl, rfl, rfl⟩
  obtain ⟨hgid, hindex, hworld, htask, halloc⟩ := hcrew
  refine ⟨hgid, hindex, rfl, rfl, rfl, hworld, htask, halloc, hslots, hgrid, rfl, hp, fun k hk hks => ?_⟩
  rw [hfree] at hks ⊢
  have hs := launchTeam_sreg (cid := u.ids) (k := k) (level := g.level) (d := g.record.teams.getD k ⟨1, k⟩) (pc := entry) (arg := arg) hmore
  exact ⟨_, State.teamAt_putOn (cid := u.ids) .resident hks (hteam k hk), rfl, rfl, rfl, rfl, rfl, rfl, rfl, hs.1, hs.2, rfl⟩

/-! The event. -/

theorem State.mayLaunch_of (h : s.firm.iface ≠ .error) : s.mayLaunch = true := bne_iff_ne.2 h

theorem exec_crewPlacement_gid {id : Nat} {t : Task} (hf : s.firm.iface ≠ .error) (hr : s.nextRelanding die = none)
    (hn : s.needsGid die = some (id, t)) : exec (.crewPlacement die) s = .next (s.giveGid id t) := by
  change execCrewPlacement die s = _
  simp only [execCrewPlacement, State.mayLaunch_of hf, hr, hn]
  rfl

theorem exec_crewPlacement_crew {tk : Option (Nat × Task)} {r : GridRec} {pl : Place} (hf : s.firm.iface ≠ .error)
    (hr : s.nextRelanding die = none) (hn : s.needsGid die = none) (hc : s.nextCand die = some ⟨some g, tk, i, r, pl⟩) (hcoop : r.coop = false)
    (hroom : s.findRoom die r.fuse r.use (r.coreOrder i) = some core) : exec (.crewPlacement die) s = .next (s.placeCrew g i die core) := by
  change execCrewPlacement die s = _
  simp only [execCrewPlacement, State.mayLaunch_of hf, hr, hn, hc, hcoop, hroom]
  rfl

theorem exec_crewPlacement_coop {tk : Option (Nat × Task)} {r : GridRec} {pl : Place} {t : State} (hf : s.firm.iface ≠ .error)
    (hr : s.nextRelanding die = none) (hn : s.needsGid die = none) (hc : s.nextCand die = some ⟨some g, tk, i, r, pl⟩) (hcoop : r.coop = true)
    (hfirst : s.coopFirst g = true) (ht : s.placeCoop g = some t) : exec (.crewPlacement die) s = .next t := by
  change execCrewPlacement die s = _
  generalize hp : s.placeCoop g = p at ht
  subst ht
  simp only [execCrewPlacement, State.mayLaunch_of hf, hr, hn, hc, hcoop, hfirst, hp]
  rfl

theorem exec_crewPlacement_task {id : Nat} {t : Task} {r : GridRec} {pl : Place} (hf : s.firm.iface ≠ .error)
    (hr : s.nextRelanding die = none) (hn : s.needsGid die = none) (hc : s.nextCand die = some ⟨none, some (id, t), i, r, pl⟩)
    (htg : t.gid = some g.gid) (hg : s.gridAt g.gid = some g) (hroom : s.findRoom die r.fuse r.use (List.range 64) = some core) :
    exec (.crewPlacement die) s = .next (s.placeTask id t g core) := by
  change execCrewPlacement die s = _
  simp only [execCrewPlacement, State.mayLaunch_of hf, hr, hn, hc, htg, Option.bind_some, hg, hroom]
  rfl

theorem State.launched_placeCrew (hg : s.gridAt g.gid = some g) :
    s.Launched (s.placeCrew g i die core) die g i core g.record.entry g.record.arg :=
  State.launched_launchCrew (u := s.setGrid (g.launching (Sparse.set false g.placed i true))) g.record.entry g.record.arg _ rfl rfl
    (State.gridAt_setGrid_self (g := g.launching _) hg) (Sparse.get_set_self ..) (by simp)

theorem State.launched_placeTask {id : Nat} {t : Task} (hg : s.gridAt g.gid = some g) :
    s.Launched (s.placeTask id t g core) t.die g 0 core g.record.entry t.arg := by
  refine State.launched_launchCrew (u := (s.setGrid (g.launching [(0, true)])).setTask id { t with phase := .running }) g.record.entry t.arg _ rfl rfl
    (State.gridAt_setGrid_self (g := g.launching _) hg) rfl fun p hp => ?_
  split at hp
  · simp at hp
  · rw [List.mem_singleton.1 hp]

end Sys2Proof.Machine
end

section
/-! PROOF. O48: crews and lock keys. -/

namespace Sys2Proof.Machine

/-- Settles O48: each clause is one case of an event; what the crew, its slots, its grid, its task and the keys are then, the lemmas on the
launch, the end and the move of a crew say. -/
theorem crewsAndKeys : Obligations.CrewsAndKeys := by
  refine ⟨fun s die hf hr hn => ⟨fun g tk i r pl core hc hcoop hg hroom => ?_, fun g tk i r pl t hc hcoop hfirst ht => ?_,
      fun id t i r pl g core hc hdie htg hg hroom => ?_⟩,
    fun s die id t hf hr hn => exec_crewPlacement_gid hf hr hn, fun s cid c => exec_crewRetire,
    fun s cid id c hc hid => ⟨exec_taskDiscard_stop hc hid, fun by_ t hs hd ht => exec_taskDiscard hc hid hs hd ht⟩,
    fun s cid core elapsed c hc => ⟨exec_thermalMigration_stop hc, fun k => exec_thermalMigration hc⟩,
    fun s id i t ht hp hg => ?_, fun s id i t ht hp hg => ⟨fun e he => ?_, fun hk hn => ?_, fun hk hn hf => ?_, fun hk hn hf => ?_⟩,
    fun s key e id i rest t he hh hw ht hp => ?_, fun s id die n t ht hp hn => ?_⟩
  · obtain ⟨cr, g', h⟩ := State.launched_placeCrew (i := i) (die := die) (core := core) hg
    exact ⟨_, cr, g', exec_crewPlacement_crew hf hr hn hc hcoop hroom, h⟩
  · exact exec_crewPlacement_coop hf hr hn hc hcoop hfirst ht
  · obtain ⟨cr, g', h⟩ := State.launched_placeTask (id := id) (t := t) (core := core) hg
    subst hdie
    exact ⟨_, cr, g', exec_crewPlacement_task hf hr hn hc htg hg hroom, h⟩
  · rw [exec_keyRequest ht hp, hg]
    rfl
  · rw [exec_keyRequest_some ht hp hg, State.keyArrive_held he]
    refine ⟨_, rfl, State.taskAt_setTask_self _ _, ?_⟩
    rw [State.keyAt_setTask, ← State.key_of_keyAt he]
    exact State.keyAt_setKey (.inr (by simp))
  · rw [exec_keyRequest_some ht hp hg, State.keyArrive_new hk hn]
    refine ⟨_, rfl, State.taskAt_setTask_self _ _, ?_⟩
    rw [State.keyAt_setTask]
    exact State.keyAt_setKey (e := ⟨keyHome (t.keys.getD i 0), t.keys.getD i 0, none, [id]⟩) (.inr (List.cons_ne_nil _ _))
  · rw [exec_keyRequest_some ht hp hg, State.keyArrive_restart hk hn hf]
    exact ⟨_, rfl, State.taskAt_setTask_self _ _, State.keyless_releaseKeys id⟩
  · rw [exec_keyRequest_some ht hp hg, State.keyArrive_overflow hk hn hf]
    exact ⟨_, rfl, State.taskAt_setTask_self _ _, rfl, rfl⟩
  · refine ⟨_, exec_keyGrant_taken he hh hw ht hp, ?_, State.taskAt_setTask_self _ _⟩
    rw [State.keyAt_setTask, ← State.key_of_keyAt he]
    exact State.keyAt_setKey (.inl (by simp))
  · exact ⟨_, exec_keyAcquisitionRestart ht hp hn, State.taskAt_setTask_self _ _⟩

end Sys2Proof.Machine
end

section
/-! PROOF. O32: a crew that is stopped for a cycle, and an instruction that one of its teams has begun (R67). -/

namespace Sys2Proof.Machine

variable {s : State} {r : TeamRef} {t : Team} {c : Crew}

/-- An instruction of which some lanes are done is taken up again whatever stops the crew: R67 lets each team come to an instruction boundary. -/
theorem State.mayIssue_of_replay (hp : c.phase = .resident) (hr : t.replay.isSome = true) (ht : t.present ≠ 0) (hn : t.pending = none)
    (hk : t.clause = none) (hw : t.wait = none) : s.mayIssue r t c = true := by
  have hruns : c.runs t = true := by simp [Crew.runs, hp, hr]
  have hheader : t.headerWaits = false := by simp [Team.headerWaits, hk]
  have hover : s.waitOver r t c = true := by simp [State.waitOver, hw]
  simpa [State.mayIssue, hruns, hn, hheader, hover] using ht

/-- Refutes O32: no team of a crew that is stopped for a cycle issues, says its last clause, but a team with lane 0 of an access done and lane 1 still
to be served (`replay`) issues that access again, so as to come to rest. -/
theorem not_awaitParksAndWakes : ¬ Obligations.AwaitParksAndWakes := by
  rintro ⟨-, -, hstop⟩
  have hissues := State.mayIssue_of_replay (s := .reset) (r := ⟨0, 0, 0⟩) (t := { loaderTeam with replay := some (2, 1) })
    (c := { loaderCrew with faulted := true, stop := some .awaitCycle, await := some (0, 1, 5) }) rfl rfl (by decide +kernel) rfl rfl rfl
  rw [hstop _ _ _ _ (.inr rfl)] at hissues
  cases hissues

end Sys2Proof.Machine
end

section
/-! SUPPORT. A crew that is re-landed (R72): when its teams have last issued (log 86), and what the device keeps beside its image (log 12). -/

namespace Sys2Proof.Machine

variable {s u : State} {cid i core slot : Nat} {c : Crew} {g : Grid} {bs : List Byte}

/-! The image. -/

/-- The time of a team's last issue is no part of the image: a team that is read back has that of the record. -/
theorem Crew.lastIssue_landed {k : Nat} {t : Team} (ht : (c.landed cid bs).teams[k]? = some t) :
    t.lastIssue = ((c.teams.map Team.lastIssue)[k]?).getD 0 := by
  simp only [Crew.landed, Crew.ofImage, List.getElem?_map, Option.map_eq_some_iff] at ht
  obtain ⟨j, hj, rfl⟩ := ht
  obtain ⟨-, rfl⟩ := List.getElem?_eq_some_iff.1 hj
  simp only [Team.ofImage, List.getElem_range, List.getD_eq_getElem?_getD, List.getElem?_map]
  cases c.teams[k]? <;> rfl

/-- Each team that the header names comes back. -/
theorem Crew.landed_team {k : Nat} (hk : k < (headerWords (leNat (bs.take 256))).length) : ∃ t, (c.landed cid bs).teams[k]? = some t := by
  simp [Crew.landed, Crew.ofImage, hk]

/-! The core that the crew takes. -/

/-- The free slots of a core depend on the teams alone. -/
theorem State.freeSlots_congr (h : u.teams = s.teams) (die core : Nat) : u.freeSlots die core = s.freeSlots die core := by
  unfold State.freeSlots State.teamAt
  rw [h]

/-- An update of a state area leaves the teams and the time. -/
theorem State.areaWrite_teams (s : State) (g : Grid) (pages : List Nat) :
    (s.areaWrite g pages).teams = s.teams ∧ (s.areaWrite g pages).clock = s.clock := by
  obtain ⟨m, agents, ids, n, held, -, he⟩ := s.areaWrite_frame g pages
  rw [he]
  exact ⟨rfl, rfl⟩

theorem State.teamAt_barSweep (r : TeamRef) : s.barSweep.teamAt r = s.teamAt r := by
  rw [State.barSweep_frame]
  rfl

/-- When the team in a slot has last issued. -/
def State.issuedAt (s : State) (r : TeamRef) : Option Nat := (s.teamAt r).map Team.lastIssue

theorem State.issuedAt_setMsys (m : MemSys) (r : TeamRef) : (s.setMsys m).issuedAt r = s.issuedAt r := rfl

/-- A change of a crew's teams that leaves the times of their last issues leaves those of every slot. -/
theorem State.issuedAt_mapTeams {f : Team → Team} (hf : ∀ t, (f t).lastIssue = t.lastIssue) (r : TeamRef) :
    (s.mapTeams cid f).issuedAt r = s.issuedAt r := by
  unfold State.mapTeams
  split
  · rfl
  · next b _ =>
    split
    · refine List.foldlRecOn (motive := fun v : State => v.issuedAt r = s.issuedAt r) _ _ rfl fun v hv k _ => ?_
      split
      · next t ht =>
        rw [← hv]
        by_cases hk : slotKey r = slotKey (b.refAt k)
        · simp only [State.issuedAt, State.teamAt, hk] at ht ⊢
          simp [State.setTeam, ht, hf]
        · rw [State.issuedAt, State.teamAt_setTeam_ne _ _ hk, State.issuedAt]
      · exact hv
    · rfl

/-- The end of an `await` is no issue. -/
theorem Team.awaited_lastIssue (t : Team) (d : Reg) (status : Nat) : (t.awaited d status).lastIssue = t.lastIssue := rfl

/-- A crew that lands takes the core with its image, and then its `await` ends. -/
theorem State.landCrew_eq (s : State) (cid : Nat) (c : Crew) (g : Grid) (i core : Nat) (bs : List Byte) : ∃ q m,
    let on := ((s.areaWrite q [i]).putOn cid (c.landed cid bs) c.die core .resident).barSweep
    s.landCrew cid c g i core bs = State.setMsys (match c.woken with
      | some (team, d, status) => on.mapTeam cid team fun t => t.awaited d status
      | none => on) m :=
  ⟨_, _, rfl⟩

/-- The teams of a crew that has landed count as having issued at that moment (log 86). -/
theorem State.issuedAt_landCrew {k : Nat} {t : Team} (ht : (c.landed cid bs).teams[k]? = some t) (hk : k < (s.freeSlots c.die core).length) :
    (s.landCrew cid c g i core bs).issuedAt ⟨c.die, core, (s.freeSlots c.die core).getD k 0⟩ = some s.clock := by
  obtain ⟨q, m, he⟩ := s.landCrew_eq cid c g i core bs
  obtain ⟨hteams, hclock⟩ := s.areaWrite_teams q [i]
  have hon := State.teamAt_putOn (cid := cid) .resident ((State.freeSlots_congr hteams c.die core).symm ▸ hk) ht
  rw [State.freeSlots_congr hteams, hclock, ← State.teamAt_barSweep] at hon
  rw [he, State.issuedAt_setMsys]
  cases c.woken with
  | none => rw [State.issuedAt, hon, Option.map_some]
  | some w =>
    dsimp only
    rw [State.mapTeam, State.issuedAt_mapTeams, State.issuedAt, hon, Option.map_some]
    intro t
    rw [apply_ite Team.lastIssue, Team.awaited_lastIssue, ite_self]

/-! The event. -/

theorem exec_reLanding {m : MemSys} (hc : s.crewAt cid = some c) (hn : (s.nextRelanding c.die).any (fun p => p.1 == cid) = true)
    (hroom : s.findRoom c.die c.fuse c.use (List.range 64) = some core) (hg : s.pageOf c = some (g, i)) (hp : g.parkOf cid = some slot)
    (hr : s.msys.agentRead (freeAt s 42200) c.die g.world ((g.record.parkBase + slot * g.record.imageSize) % 2 ^ 57) g.record.imageSize = .ok (bs, m)) :
    exec (.reLanding cid) s = .next ((s.setMsys m).landCrew cid c g i core bs) := by
  change execReLanding cid s = _
  simp only [execReLanding, hc, hn, hroom, hg, hp, hr]
  rfl

/-- The teams that land count as having issued in the step that lands them. -/
theorem State.issuedAt_reLanding {m : MemSys} (hc : s.crewAt cid = some c) (hn : (s.nextRelanding c.die).any (fun p => p.1 == cid) = true)
    (hroom : s.findRoom c.die c.fuse c.use (List.range 64) = some core) (hg : s.pageOf c = some (g, i)) (hp : g.parkOf cid = some slot)
    (hr : s.msys.agentRead (freeAt s 42200) c.die g.world ((g.record.parkBase + slot * g.record.imageSize) % 2 ^ 57) g.record.imageSize = .ok (bs, m))
    (he : exec (.reLanding cid) s = .next u) {k : Nat} {t : Team} (ht : (c.landed cid bs).teams[k]? = some t)
    (hk : k < (s.freeSlots c.die core).length) : u.issuedAt ⟨c.die, core, (s.freeSlots c.die core).getD k 0⟩ = some s.clock := by
  rw [exec_reLanding hc hn hroom hg hp hr] at he
  cases he
  exact State.issuedAt_landCrew (s := s.setMsys m) ht hk

end Sys2Proof.Machine
end

section
/-! PROOF. O49: a machine in which a woken crew re-lands after the first step. -/

namespace Sys2Proof.Machine

/-- The record of a grid of one page, whose crew has one team of a word. -/
def parkedRecord : GridRec where
  paged := true
  entry := 0x1000
  faultEntry := 0x1800
  arg := 0
  coop := false
  fuse := false
  cls := 3
  threshold := 0
  teams := [⟨32, 0⟩]
  alloc := ⟨8, 0, 0, 0, 16384, 1⟩
  group := 0
  logBase := 0
  gx := 1
  gy := 1
  gz := 1
  tileBase := 0
  strideX := 0
  strideY := 0
  strideZ := 0
  count := 1
  listAddr := 0x3000
  parkBase := 0x10000
  parkSlots := 1
  stateAddr := 0x4000
  pwin := 0

/-- The grid, with crew 0 in its park slot. -/
def parkedGrid : Grid where
  gid := 1
  record := parkedRecord
  world := 0
  level := 0
  origin := .device
  order := 0
  task := none
  placed := []
  launched := 1
  retired := 0
  corrected := 0
  uncorrectable := 0
  abort := none
  seq := 0
  home := 0
  stateLines := []
  logLines := []
  blocks := []
  pages := [(0, some { PageSt.initial with state := 2 })]
  park := [(0, some 0)]
  logSeq := []
  log := []
  gone := []

/-- The crew, which has been evicted and then woken with status 0. -/
def wokenCrew : Crew := { loaderCrew with
  phase := .evicted, slots := [], teams := [loaderTeam], alloc := parkedRecord.alloc, page := some ⟨0, 0, 0, 0, 0, 0⟩, woken := some (0, 5, 0) }

/-- The memory, whose first 2 MiB are mapped to themselves, with the crew's image. -/
def parkedMemory : MemSys := { MemSys.initial with
  tlb := [⟨0, none, 0, 0, 512, 0x43B, 1⟩]
  frames := (List.range 512).map fun i => (i, 0x4000)
  mem := ((wokenCrew.image wokenCrew.teams MemSys.initial [] 0 0).zipIdx 0x10000).filterMap fun x => if x.1 = 0 then none else some (x.2, x.1) }

/-- The machine, one step after the team has last issued. -/
def wokenState : State := { State.reset.setCrew 0 wokenCrew with msys := parkedMemory, grids := [parkedGrid], clock := 1 }

/-- The image can be read, and its header names the team. -/
theorem wokenState_read : ∃ bs m, wokenState.msys.agentRead (freeAt wokenState 42200) 0 0 0x10000 parkedRecord.imageSize = .ok (bs, m) ∧
    0 < (headerWords (leNat (bs.take 256))).length := by
  have h : (wokenState.msys.agentRead (freeAt wokenState 42200) 0 0 0x10000 parkedRecord.imageSize).toOption.any
      (fun x => decide (0 < (headerWords (leNat (x.1.take 256))).length)) = true := by decide +kernel
  generalize wokenState.msys.agentRead _ _ _ _ _ = x at h
  cases x with
  | error f => cases h
  | ok x => exact ⟨x.1, x.2, rfl, of_decide_eq_true h⟩

/-- Refutes O49: its last clause makes each team of a crew that has landed the team of the image, but for the end of its `await`; such a team counts
as having issued at its landing (log 86), so that it has another `lastIssue` wherever time has passed since the eviction. -/
theorem not_pageEvents : ¬ Obligations.PageEvents := by
  rintro ⟨-, -, -, -, -, hcrew⟩
  have hc : wokenState.crewAt 0 = some wokenCrew := rfl
  have hg : wokenState.pageOf wokenCrew = some (parkedGrid, 0) := by decide +kernel
  have hn : (wokenState.nextRelanding 0).any (fun p => p.1 == 0) = true := by decide +kernel
  have hroom : wokenState.findRoom 0 wokenCrew.fuse wokenCrew.use (List.range 64) = some 0 := by decide +kernel
  have hp : parkedGrid.parkOf 0 = some 0 := by decide +kernel
  have hfree : 0 < (wokenState.freeSlots 0 0).length := by decide +kernel
  obtain ⟨bs, m, hr, hwords⟩ := wokenState_read
  obtain ⟨t, ht⟩ := Crew.landed_team (c := wokenCrew) (cid := 0) hwords
  obtain ⟨-, -, -, hland⟩ := hcrew _ _ _ _ _ hc hg
  obtain ⟨s', -, -, hexec, -, -, -, -, -, -, -, hteams⟩ := (hland 0 0 hn hroom hp).1 bs m hr
  have hnow := State.issuedAt_reLanding hc hn hroom hg hp hr hexec ht hfree
  have himage := congrArg (Option.map Team.lastIssue) (hteams 0 t ht hfree)
  have hkept : (if t.index = 0 then t.awaited 5 0 else t).lastIssue = 0 := by
    rw [apply_ite Team.lastIssue, Team.awaited_lastIssue, ite_self]
    exact Crew.lastIssue_landed ht
  exact Nat.zero_ne_one (hkept.symm.trans (Option.some.inj (himage.symm.trans hnow)))

end Sys2Proof.Machine
end

section
/-! SUPPORT. The launch of a team without further values (R40, R74), and the set of its first lanes (R24). -/

namespace Sys2Proof.Machine

/-- The uniform file of a team launched with an argument address alone. -/
theorem launchTeam_sreg_ite (cid i level : Nat) (d : TeamDecl) (pc : VAddr) (arg r : Nat) :
    (launchTeam cid i level d pc (launchRegs arg [])).sreg r =
      if r = 0 then BitVec.ofNat 32 arg else if r = 1 then BitVec.ofNat 32 (arg / 2 ^ 32) else 0 := by
  obtain ⟨hlow, hhigh⟩ := launchTeam_sreg (cid := cid) (k := i) (level := level) (d := d) (pc := pc) (arg := arg) (more := []) (by simp)
  split
  · rename_i h0
    rw [h0, hlow]
  · rename_i h0
    split
    · rename_i h1
      rw [h1, hhigh]
    · rename_i h1
      refine Sparse.get_setAll_of_not_mem 0 _ _ _ ?_
      simp [launchRegs, Ne.symm h0, Ne.symm h1]

theorem getLsbD_firstLanes (n : Nat) {l : Nat} (hl : l < 1024) : (firstLanes n).getLsbD l = decide (l < n) := by
  rw [firstLanes, BitVec.getLsbD_ofNat, Nat.testBit_two_pow_sub_one]
  simp [hl]

/-- Memory and the list of dirty host lines are empty after reset. -/
theorem State.reset_inv : State.reset.Inv := ⟨rfl, by simp [MemSys.dirtyOk, State.reset, MemSys.initial]⟩

end Sys2Proof.Machine
end

section
/-! PROOF. O60: what reset and the launch of a team leave. -/

namespace Sys2Proof.Machine

/-- Settles O60: the tables of the machine after reset are empty, so that every read gives the default; of a launched team only s0:1 and the
lanes need an argument. -/
theorem resetAndLaunchValues : Obligations.ResetAndLaunchValues :=
  ⟨⟨State.reset_inv, fun _ => rfl, fun _ => rfl, fun _ _ => rfl, rfl, fun _ => rfl⟩,
    fun cid i level d pc arg => ⟨fun _ _ => rfl, launchTeam_sreg_ite cid i level d pc arg, rfl, rfl, rfl, rfl, rfl, rfl, rfl, rfl,
      fun _ hl => getLsbD_firstLanes d.lanes hl⟩⟩

end Sys2Proof.Machine
end

section
/-! SUPPORT. Instructions of the team's own registers that make the team another one or are illegal, and the read of `x.stat` (R79). -/

namespace Sys2Proof.Machine

/-- An instruction whose meaning is another team at the same place. -/
theorem GoesOn.of_done {i : Instr} {s : State} {c : Issuer} {n : Nat} {src : Option Reg} {f : Issuer → TeamRes} {t : Team}
    (h : s.issuer = some c) (he : exec i s = s.teamOp n src f) (hf : f c = .done t) (hn : t.nextPc n = c.team.nextPc n) :
    GoesOn i s c n t :=
  ⟨_, he.trans (State.teamOp_done h hf), Team.advance_frame _ _ _, (Team.advance_pc _ _ _).trans hn⟩

/-- An instruction that is no legal one for the team. -/
theorem RaisesIllegal.of_illegal {i : Instr} {s : State} {c : Issuer} {n : Nat} {src : Option Reg} {f : Issuer → TeamRes}
    (h : s.issuer = some c) (he : exec i s = s.teamOp n src f) (hf : f c = .illegal) : RaisesIllegal i s c :=
  he.trans (State.teamOp_illegal h hf)

/-- A result of one word that no clamp has changed is a plain write of its register. -/
theorem Team.uniformResult_word (t : Team) (d : Reg) (x : Nat) :
    t.uniformResult false d (x, false) = t.writeS d.toNat (BitVec.ofNat 32 x) := rfl

/-! The read of `x.stat`. -/

theorem Team.readStat_sreg (t : Team) (d : Reg) (r : Nat) :
    (t.readStat d).sreg r = if r = d.toNat then t.stat.zeroExtend 32 else t.sreg r := Sparse.get_set ..

theorem Team.readStat_stillPending (t : Team) (d : Reg) : (t.readStat d).stillPending = t.stillPending := contest_pending _ _

theorem Team.readStat_eq (t : Team) (d : Reg) :
    t.readStat d = { t with sregs := (t.readStat d).sregs, inflight := (t.readStat d).inflight, stat := 0 } := rfl

theorem Team.readStat_frame (t : Team) (d : Reg) (n : Nat) (src : Option (Reg × List Word)) : t.FrameS ((t.readStat d).advance n src) := by
  have hadv := Team.advance_frame (t.readStat d) n src
  refine ⟨?_, ?_⟩
  · rw [hadv]
    exact t.readStat_stillPending d
  · rw [hadv]
    rfl

end Sys2Proof.Machine
end

section
/-! PROOF. O14: `setm`, `getm`, `part` and the special registers (R76 to R79, R175 to R177). -/

namespace Sys2Proof.Machine

variable {s : State} {c : Issuer}

/-! `setm`, `getm` and `part`, case by case. -/

/-- The value that `setm` would give `mode`: the bits of the register that exist there (R76). -/
def Issuer.modeFrom (c : Issuer) (free : Nat) (a : Reg) : Word := c.team.s free a.toNat &&& modeMask

/-- A value that `mode` may not take: a rounding mode that does not exist, or a guard register that the crew lacks (R77). -/
def Issuer.badMode (c : Issuer) (x : Word) : Prop := 5 ≤ bitsOf x.toNat 16 3 ∨ (guardOn x = true ∧ c.crew.alloc.regs ≤ guardReg x)

theorem exec_setm_illegal {a : Reg} (h : s.issuer = some c) (hx : c.badMode (c.modeFrom s.rf a)) : RaisesIllegal (.setm a) s c :=
  .of_illegal h rfl (if_pos hx)

theorem exec_setm {a : Reg} (h : s.issuer = some c) (hx : ¬ c.badMode (c.modeFrom s.rf a)) :
    GoesOn (.setm a) s c 1 { c.team with mode := c.modeFrom s.rf a } :=
  .of_done h rfl (if_neg hx) rfl

theorem exec_getm_mode (d : Reg) {k : BitVec 8} (h : s.issuer = some c) (hk : k.toNat = 0) :
    UniformResult (.getm d k) s c 1 false d (c.team.mode.toNat, false) := by
  refine .of_done h rfl ?_
  simp [hk, Team.uniformResult_word]

theorem exec_getm_part (d : Reg) {k : BitVec 8} (h : s.issuer = some c) (hk : k.toNat = 1) :
    UniformResult (.getm d k) s c 1 false d (c.team.part.toNat, false) := by
  refine .of_done h rfl ?_
  simp [hk, Team.uniformResult_word]

theorem exec_getm_illegal (d : Reg) {k : BitVec 8} (h : s.issuer = some c) (hk : 2 ≤ k.toNat) : RaisesIllegal (.getm d k) s c := by
  refine .of_illegal h rfl ?_
  split
  · omega
  · omega
  · rfl

theorem exec_part {k : BitVec 3} (h : s.issuer = some c) (hk : 1 ≤ k.toNat ∧ k.toNat ≤ 5) :
    GoesOn (.part k) s c 1 { c.team with part := k } :=
  .of_done h rfl (if_neg (by omega)) rfl

theorem exec_part_illegal {k : BitVec 3} (h : s.issuer = some c) (hk : ¬ (1 ≤ k.toNat ∧ k.toNat ≤ 5)) : RaisesIllegal (.part k) s c :=
  .of_illegal h rfl (if_pos (by omega))

/-! `rdsp`, register by register. -/

theorem exec_rdsp_lane {d : Reg} (h : s.issuer = some c) (hd : c.vOk false d = true) :
    VectorResult (.rdsp d 0) s c 1 false d fun l => (l % 32, false) :=
  .of_done h rfl rfl (if_pos hd)

theorem exec_rdsp_word {d : Reg} (h : s.issuer = some c) (hd : c.vOk false d = true) :
    VectorResult (.rdsp d 1) s c 1 false d fun l => (l / 32, false) :=
  .of_done h rfl rfl (if_pos hd)

theorem exec_rdsp_lane_illegal {d : Reg} (h : s.issuer = some c) (hd : ¬ c.vOk false d = true) : RaisesIllegal (.rdsp d 0) s c :=
  .of_illegal h rfl (if_neg hd)

theorem exec_rdsp_word_illegal {d : Reg} (h : s.issuer = some c) (hd : ¬ c.vOk false d = true) : RaisesIllegal (.rdsp d 1) s c :=
  .of_illegal h rfl (if_neg hd)

theorem exec_rdsp_paddr {d : Reg} (h : s.issuer = some c) (hd : evenReg d = true) :
    UniformResult (.rdsp d 11) s c 1 true d (c.crew.page.elim 0 PageInfo.paddr, false) :=
  .of_done h rfl (if_pos hd)

theorem exec_rdsp_paddr_illegal {d : Reg} (h : s.issuer = some c) (hd : ¬ evenReg d = true) : RaisesIllegal (.rdsp d 11) s c :=
  .of_illegal h rfl (if_neg hd)

theorem exec_rdsp_stat (d : Reg) {n : BitVec 8} (h : s.issuer = some c) (hn : n.toNat = 16) :
    exec (.rdsp d n) s = .next (s.setTeam c.ref ((c.team.readStat d).advance 1 none)) :=
  (rfl : exec (.rdsp d n) s = s.teamOp 1 none _).trans (State.teamOp_done h (by simp [hn]))

theorem exec_xstatRead (d : Reg) (h : s.issuer = some c) : exec (.xstatRead d) s = .next (s.setTeam c.ref (c.team.readStat d)) :=
  State.issue_of_issuer h _

theorem exec_rdsp_illegal (d : Reg) {n : BitVec 8} (h : s.issuer = some c) (hn : 18 ≤ n.toNat) : RaisesIllegal (.rdsp d n) s c :=
  .of_illegal h rfl (if_pos hn)

/-- The special registers with one value of 32 bits for the whole team, `x.stat` aside (R78). -/
def teamSpecials : List (BitVec 8) := [2, 3, 4, 5, 6, 7, 8, 9, 10, 12, 13, 14, 15, 17]

theorem teamSpecials_number : ∀ n ∈ teamSpecials, n.toNat < 18 ∧ n.toNat ≠ 0 ∧ n.toNat ≠ 1 ∧ n.toNat ≠ 11 ∧ n.toNat ≠ 16 := by decide

theorem exec_rdsp_special (d : Reg) {n : BitVec 8} (h : s.issuer = some c) (hn : n ∈ teamSpecials) :
    UniformResult (.rdsp d n) s c 1 false d (c.special s.msys.pkg n.toNat, false) := by
  obtain ⟨hlt, hlane, hword, hpaddr, hstat⟩ := teamSpecials_number n hn
  refine .of_done h rfl ?_
  simp [Nat.not_le.2 hlt, hlane, hword, hpaddr, hstat, Team.uniformResult_word]

/-- Settles O14: each clause is one case of its instruction; the registers with one value for the team are one case, whose values
`Issuer.special` lists. -/
theorem modeAndSpecialRegisters : Obligations.ModeAndSpecialRegisters := by
  intro s c h
  refine ⟨fun a => ?_, fun d => ⟨exec_getm_mode d h rfl, exec_getm_part d h rfl, fun k => exec_getm_illegal d h⟩, fun k => ?_, fun d => ?_, fun d => ?_,
    fun d => ?_, fun d => ?_, fun d => ?_, fun d n => exec_rdsp_illegal d h⟩
  · dsimp only
    split
    · exact exec_setm_illegal h ‹_›
    · exact exec_setm h ‹_›
  · split
    · exact exec_part h ‹_›
    · exact exec_part_illegal h ‹_›
  · split
    · exact ⟨exec_rdsp_lane h ‹_›, exec_rdsp_word h ‹_›⟩
    · exact ⟨exec_rdsp_lane_illegal h ‹_›, exec_rdsp_word_illegal h ‹_›⟩
  · split
    · exact exec_rdsp_paddr h ‹_›
    · exact exec_rdsp_paddr_illegal h ‹_›
  · intro p hp
    obtain ⟨n, hn, rfl⟩ := List.mem_map.1 (show p ∈ teamSpecials.map fun n => (n, c.special s.msys.pkg n.toNat) from hp)
    exact exec_rdsp_special d h hn
  · refine ⟨_, exec_rdsp_stat d h rfl, Team.readStat_frame _ _ _ _, Team.advance_pc _ _ _, Team.advance_stat _ _ _, fun r => ?_⟩
    rw [Team.advance_sreg, Team.readStat_sreg]
  · exact ⟨_, exec_xstatRead d h, rfl, Team.readStat_sreg _ _, Team.readStat_eq _ _, Team.readStat_stillPending _ _⟩

end Sys2Proof.Machine
end

section
/-! SUPPORT. The integer operations by value (R88, R163, R179 to R185): views and narrowing, and the bits of logic and shifts. -/

namespace Sys2Proof.Machine

/-! Views and narrowing (R88, R163). -/

theorem truncBits_eq_toNat (x : Int) (w : Nat) : truncBits x w = (BitVec.ofInt w x).toNat := by
  rw [truncBits, BitVec.toNat_ofInt]

theorem truncBits_lt (x : Int) (w : Nat) : truncBits x w < 2 ^ w := by
  rw [truncBits_eq_toNat]
  exact (BitVec.ofInt w x).isLt

theorem truncBits_dvd (x : Int) (w : Nat) : (2 ^ w : Int) ∣ x - truncBits x w := by
  have h0 : 0 ≤ x % (2 ^ w : Int) := Int.emod_nonneg _ (by positivity)
  have h : (truncBits x w : Int) = x % 2 ^ w := by simp [truncBits, h0]
  rw [h]
  exact Int.dvd_self_sub_emod

theorem toSigned_eq_toInt (w x : Nat) : toSigned w x = (BitVec.ofNat w x).toInt := by
  unfold toSigned
  rw [BitVec.toInt_eq_toNat_cond, BitVec.toNat_ofNat]
  rcases w with _ | w
  · simp [Nat.mod_one]
  · have h : 2 ^ (w + 1) = 2 * 2 ^ w := by rw [Nat.pow_succ']
    simp only [Nat.add_sub_cancel, h, Nat.mul_lt_mul_left (by decide : 0 < 2)]

theorem viewInt_true (w x : Nat) : viewInt w true x = (BitVec.ofNat w x).toInt := toSigned_eq_toInt w x
theorem viewInt_false (w x : Nat) : viewInt w false x = (x % 2 ^ w : Nat) := rfl

theorem viewInt_fits {w : Nat} (_hw : 0 < w) (sgn : Bool) (x : Nat) : Fits w sgn (viewInt w sgn x) := by
  cases sgn with
  | false =>
    have h : x % 2 ^ w < 2 ^ w := Nat.mod_lt _ (by positivity)
    rw [viewInt_false]
    exact ⟨by positivity, by exact_mod_cast h⟩
  | true =>
    rw [viewInt_true]
    exact ⟨BitVec.le_toInt _, BitVec.toInt_lt⟩

theorem viewInt_dvd (w : Nat) (sgn : Bool) (x : Nat) : (2 ^ w : Int) ∣ viewInt w sgn x - x := by
  have h : ((x % 2 ^ w : Nat) : Int) = (x : Int) % 2 ^ w := by simp
  have hd : (2 ^ w : Int) ∣ ((x % 2 ^ w : Nat) : Int) - x := by
    rw [h]
    exact Int.dvd_emod_sub_self
  cases sgn with
  | false => exact hd
  | true =>
    show (2 ^ w : Int) ∣ toSigned w x - x
    unfold toSigned
    split
    · exact hd
    · have : ((x % 2 ^ w : Nat) : Int) - (2 ^ w : Nat) - x = (x % 2 ^ w : Nat) - x - 2 ^ w := by push_cast; ring
      rw [this]
      exact dvd_sub_self_right.2 hd

/-- Two values of one view that agree modulo 2^w are the same. -/
theorem Fits.eq_of_dvd {w : Nat} (hw : 0 < w) {sgn : Bool} {x y : Int} (hx : Fits w sgn x) (hy : Fits w sgn y) (h : (2 ^ w : Int) ∣ x - y) : x = y := by
  have hpow : (2 ^ w : Int) = 2 * 2 ^ (w - 1) := by rw [← pow_succ', Nat.sub_add_cancel hw]
  have habs : |x - y| < 2 ^ w := by
    rw [abs_lt]
    cases sgn <;> simp only [Fits, Bool.false_eq_true, if_true, if_false] at hx hy <;> constructor <;> linarith
  exact sub_eq_zero.1 (Int.eq_zero_of_abs_lt_dvd h habs)

theorem viewInt_truncBits {w : Nat} (hw : 0 < w) {sgn : Bool} {z : Int} (hz : Fits w sgn z) : viewInt w sgn (truncBits z w) = z := by
  refine (viewInt_fits hw sgn _).eq_of_dvd hw hz ?_
  have h := dvd_sub (viewInt_dvd w sgn (truncBits z w)) (truncBits_dvd z w)
  rwa [show viewInt w sgn (truncBits z w) - truncBits z w - (z - truncBits z w) = viewInt w sgn (truncBits z w) - z by ring] at h

theorem truncBits_viewInt {w : Nat} (sgn : Bool) {x : Nat} (hx : x < 2 ^ w) : truncBits (viewInt w sgn x) w = x := by
  have h := dvd_sub (viewInt_dvd w sgn x) (truncBits_dvd (viewInt w sgn x) w)
  rw [show viewInt w sgn x - x - (viewInt w sgn x - truncBits (viewInt w sgn x) w) = (truncBits (viewInt w sgn x) w : Int) - x by ring] at h
  have hlt := truncBits_lt (viewInt w sgn x) w
  have hmod : (truncBits (viewInt w sgn x) w : Int) ≡ x [ZMOD (2 ^ w : Nat)] := (Int.modEq_iff_dvd.2 (by exact_mod_cast h)).symm
  exact Nat.ModEq.eq_of_lt_of_lt (Int.natCast_modEq_iff.1 hmod) hlt hx

theorem satInt_of_fits {w : Nat} {sgn : Bool} {z : Int} (h : Fits w sgn z) : satInt w sgn z = z := by
  cases sgn <;> simp only [Fits, satInt, intMin, intMax, Bool.false_eq_true, if_true, if_false] at h ⊢ <;> push_cast <;> omega

theorem satInt_of_not_fits {w : Nat} {sgn : Bool} {z : Int} (h : ¬ Fits w sgn z) :
    satInt w sgn z = if z < 0 then intMin w sgn else intMax w sgn := by
  have hp : (0 : Int) < 2 ^ w := by positivity
  have hq : (0 : Int) < 2 ^ (w - 1) := by positivity
  cases sgn <;> simp only [Fits, satInt, intMin, intMax, Bool.false_eq_true, if_true, if_false] at h ⊢ <;> (push_cast; split) <;> omega

theorem satInt_fits (w : Nat) (sgn : Bool) (z : Int) : Fits w sgn (satInt w sgn z) := by
  have hp : (0 : Int) < 2 ^ w := by positivity
  have hq : (0 : Int) < 2 ^ (w - 1) := by positivity
  cases sgn <;> simp only [Fits, satInt, intMin, intMax, Bool.false_eq_true, if_true, if_false] <;> push_cast <;> omega

theorem satInt_eq_iff {w : Nat} {sgn : Bool} {z : Int} : satInt w sgn z = z ↔ Fits w sgn z :=
  ⟨fun h => h ▸ satInt_fits w sgn z, satInt_of_fits⟩

theorem narrowInt_lt (sat : Bool) (w : Nat) (sgn : Bool) (z : Int) : (narrowInt sat w sgn z).1 < 2 ^ w := by
  cases sat
  · exact truncBits_lt _ _
  · exact truncBits_lt _ _

theorem narrowInt_clamps (sat : Bool) (w : Nat) (sgn : Bool) (z : Int) : (narrowInt sat w sgn z).2 = true ↔ sat = true ∧ ¬ Fits w sgn z := by
  cases sat with
  | false => simp [narrowInt]
  | true => simp [narrowInt, satInt_eq_iff]

theorem narrowInt_wraps {sat : Bool} {w : Nat} {sgn : Bool} {z : Int} (h : (narrowInt sat w sgn z).2 = false) :
    (2 ^ w : Int) ∣ z - (narrowInt sat w sgn z).1 := by
  cases sat with
  | false => exact truncBits_dvd z w
  | true =>
    have hs : satInt w sgn z = z := by simpa [narrowInt] using h
    show (2 ^ w : Int) ∣ z - truncBits (satInt w sgn z) w
    rw [hs]
    exact truncBits_dvd z w

theorem viewInt_narrowInt {sat : Bool} {w : Nat} (hw : 0 < w) {sgn : Bool} {z : Int} (h : (narrowInt sat w sgn z).2 = true) :
    viewInt w sgn (narrowInt sat w sgn z).1 = if z < 0 then intMin w sgn else intMax w sgn := by
  obtain ⟨rfl, hz⟩ := (narrowInt_clamps _ _ _ _).1 h
  exact (viewInt_truncBits hw (satInt_fits w sgn z)).trans (satInt_of_not_fits hz)

theorem plain_viewInt {w : Nat} (sgn : Bool) {x : Nat} (hx : x < 2 ^ w) : plain w (viewInt w sgn x) = (x, false) := by
  rw [plain, truncBits_viewInt sgn hx]

/-! Bits. -/

theorem testBit_ofBitList (l : List Bool) (j : Nat) : (ofBitList l).testBit j = l.getD j false := by
  induction l generalizing j with
  | nil => simp [ofBitList]
  | cons b l ih =>
    have hb : ofBitList (b :: l) = Nat.bit b (ofBitList l) := by
      rw [Nat.bit_val, ofBitList, Nat.add_comm]
      cases b <;> rfl
    rw [hb]
    cases j with
    | zero => simp
    | succ j => simp [Nat.testBit_bit_succ, ih]

theorem ofBitList_lt (l : List Bool) : ofBitList l < 2 ^ l.length := by
  refine Nat.lt_pow_two_of_testBit _ fun i hi => ?_
  rw [testBit_ofBitList, List.getD_eq_default _ _ hi]

theorem bitList_length (w x : Nat) : (bitList w x).length = w := by simp [bitList]

theorem bitList_getElem (w x i : Nat) (h : i < (bitList w x).length) : (bitList w x)[i] = x.testBit i := by simp [bitList]

theorem leadingFalse_eq_findIdx (l : List Bool) : leadingFalse l = l.findIdx id := by
  induction l with
  | nil => rfl
  | cons b l ih => cases b <;> simp [leadingFalse, List.findIdx_cons, ih, Nat.add_comm]

theorem testBit_not {w x j : Nat} (hj : j < w) : (2 ^ w - 1 - x % 2 ^ w).testBit j = !x.testBit j := by
  have h : x % 2 ^ w < 2 ^ w := Nat.mod_lt _ (by positivity)
  rw [Nat.sub_sub, Nat.add_comm, Nat.testBit_two_pow_sub_succ h, Nat.testBit_mod_two_pow]
  simp [hj]

theorem testBit_shlBits {w a sh j : Nat} (hj : j < w) : (shlBits w a sh).testBit j = (decide (sh ≤ j) && a.testBit (j - sh)) := by
  unfold shlBits
  split
  · have : ¬ sh ≤ j := by omega
    simp [this]
  · rw [Nat.testBit_mod_two_pow, Nat.testBit_mul_two_pow]
    simp [hj]

theorem testBit_shrBits {w a sh j : Nat} (ha : a < 2 ^ w) : (shrBits w a sh).testBit j = a.testBit (j + sh) := by
  unfold shrBits
  split
  · rw [Nat.zero_testBit, Nat.testBit_lt_two_pow (ha.trans_le (Nat.pow_le_pow_right (by decide) (by omega)))]
  · rw [Nat.mod_eq_of_lt ha, Nat.testBit_div_two_pow, Nat.add_comm]

theorem sarBits_eq_sshiftRight (w a sh : Nat) : sarBits w a sh = ((BitVec.ofNat w a).sshiftRight (min sh w)).toNat := by
  have h : toSigned w a / ((2 ^ min sh w : Nat) : Int) = ((BitVec.ofNat w a).sshiftRight (min sh w)).toInt := by
    rw [BitVec.toInt_sshiftRight, Int.shiftRight_eq_div_pow, toSigned_eq_toInt]
  show truncBits (toSigned w a / ((2 ^ min sh w : Nat) : Int)) w = _
  rw [h, truncBits_eq_toNat, BitVec.ofInt_toInt]

theorem testBit_sarBits {w a sh j : Nat} (hj : j < w) : (sarBits w a sh).testBit j = a.testBit (min (j + sh) (w - 1)) := by
  rw [sarBits_eq_sshiftRight, BitVec.testBit_toNat, BitVec.getLsbD_sshiftRight]
  have hlt : ∀ i, i < w → (BitVec.ofNat w a).getLsbD i = a.testBit i := fun i hi => by rw [BitVec.getLsbD_ofNat, decide_eq_true hi, Bool.true_and]
  have hnot : ¬ w ≤ j := by omega
  simp only [hnot, decide_false, Bool.not_false, Bool.true_and]
  split
  · rw [hlt _ ‹_›]
    congr 1
    omega
  · rw [BitVec.msb_eq_getLsbD_last, hlt _ (by omega)]
    congr 1
    omega

theorem rotBits_eq {w a sh : Nat} (hw : 0 < w) (ha : a < 2 ^ w) :
    rotBits w a sh = 2 ^ (sh % w) * (a % 2 ^ (w - sh % w)) + a / 2 ^ (w - sh % w) := by
  have hs : sh % w < w := Nat.mod_lt _ hw
  have hpow : 2 ^ w = 2 ^ (sh % w) * 2 ^ (w - sh % w) := by rw [← Nat.pow_add, Nat.add_sub_cancel' hs.le]
  unfold rotBits
  rw [Nat.mod_eq_of_lt ha, Nat.mul_comm a, hpow, Nat.mul_mod_mul_left]

theorem rotBits_tail_lt {w a s : Nat} (hs : s ≤ w) (ha : a < 2 ^ w) : a / 2 ^ (w - s) < 2 ^ s := by
  rw [Nat.div_lt_iff_lt_mul (by positivity), ← Nat.pow_add, Nat.add_sub_cancel' hs]
  exact ha

theorem rotBits_lt {w a sh : Nat} (hw : 0 < w) (ha : a < 2 ^ w) : rotBits w a sh < 2 ^ w := by
  have hs : sh % w < w := Nat.mod_lt _ hw
  have h1 := rotBits_tail_lt hs.le ha
  have h2 : a % 2 ^ (w - sh % w) < 2 ^ (w - sh % w) := Nat.mod_lt _ (by positivity)
  calc rotBits w a sh = 2 ^ (sh % w) * (a % 2 ^ (w - sh % w)) + a / 2 ^ (w - sh % w) := rotBits_eq hw ha
    _ < 2 ^ (sh % w) * (a % 2 ^ (w - sh % w)) + 2 ^ (sh % w) := Nat.add_lt_add_left h1 _
    _ = 2 ^ (sh % w) * (a % 2 ^ (w - sh % w) + 1) := by ring
    _ ≤ 2 ^ (sh % w) * 2 ^ (w - sh % w) := Nat.mul_le_mul_left _ h2
    _ = 2 ^ w := by rw [← Nat.pow_add, Nat.add_sub_cancel' hs.le]

theorem testBit_rotBits {w a sh j : Nat} (hj : j < w) (ha : a < 2 ^ w) : (rotBits w a sh).testBit j = a.testBit ((j + (w - sh % w)) % w) := by
  have hw : 0 < w := by omega
  have hs : sh % w < w := Nat.mod_lt _ hw
  rw [rotBits_eq hw ha, Nat.testBit_two_pow_mul_add _ (rotBits_tail_lt hs.le ha)]
  split
  · rw [Nat.testBit_div_two_pow, Nat.mod_eq_of_lt (a := j + (w - sh % w)) (by omega), Nat.add_comm]
  · have hm : (j + (w - sh % w)) % w = j - sh % w := by
      rw [show j + (w - sh % w) = j - sh % w + w by omega, Nat.add_mod_right, Nat.mod_eq_of_lt (by omega)]
    rw [hm, Nat.testBit_mod_two_pow]
    simp [show j - sh % w < w - sh % w by omega]

theorem clz_eq {w a : Nat} (ha : a < 2 ^ w) (h0 : a ≠ 0) : leadingFalse (bitList w a).reverse = w - 1 - a.log2 := by
  have hlog : a.log2 < w := (Nat.log2_lt h0).2 ha
  have hget : ∀ i (hi : i < (bitList w a).reverse.length), (bitList w a).reverse[i] = a.testBit (w - 1 - i) := fun i hi => by
    rw [List.getElem_reverse, bitList_getElem, bitList_length]
  rw [leadingFalse_eq_findIdx, List.findIdx_eq (by simp [bitList_length]; omega)]
  refine ⟨?_, fun j hj => ?_⟩
  · rw [hget, show w - 1 - (w - 1 - a.log2) = a.log2 by omega]
    exact Nat.testBit_log2 h0
  · rw [hget]
    exact Nat.testBit_lt_two_pow ((Nat.log2_lt h0).1 (by omega))

theorem leadingFalse_bitList_zero (w : Nat) : leadingFalse (bitList w 0) = w ∧ leadingFalse (bitList w 0).reverse = w := by
  have h : bitList w 0 = List.replicate w false := by simp [bitList, List.map_const']
  have hl : leadingFalse (List.replicate w false) = w := by
    rw [leadingFalse_eq_findIdx, List.findIdx_eq_length_of_false (by simp), List.length_replicate]
  rw [h, List.reverse_replicate]
  exact ⟨hl, hl⟩

/-- The first 1 bit of a number that is not 0. -/
theorem ctz_spec {w a : Nat} (ha : a < 2 ^ w) (h0 : a ≠ 0) :
    a.testBit (leadingFalse (bitList w a)) = true ∧ ∀ j < leadingFalse (bitList w a), a.testBit j = false := by
  rw [leadingFalse_eq_findIdx]
  have hlt : (bitList w a).findIdx id < (bitList w a).length := by
    refine List.findIdx_lt_length_of_exists ⟨true, ?_, rfl⟩
    exact List.mem_map.2 ⟨a.log2, List.mem_range.2 ((Nat.log2_lt h0).2 ha), Nat.testBit_log2 h0⟩
  refine ⟨?_, fun j hj => ?_⟩
  · exact (bitList_getElem w a _ hlt).symm.trans (List.findIdx_getElem (w := hlt))
  · have h := List.not_of_lt_findIdx hj
    rw [bitList_getElem] at h
    simpa using h

theorem popc_eq (w a : Nat) : ((bitList w a).filter id).length = ((List.range w).filter a.testBit).length := by
  rw [bitList, List.filter_map, List.length_map]
  rfl

theorem testBit_brev {w a j : Nat} (hj : j < w) : (ofBitList (bitList w a).reverse).testBit j = a.testBit (w - 1 - j) := by
  have hr : j < (bitList w a).reverse.length := by rwa [List.length_reverse, bitList_length]
  rw [testBit_ofBitList, ← List.getElem_eq_getD (h := hr) false, List.getElem_reverse, bitList_getElem, bitList_length]

theorem shlBits_lt (w a sh : Nat) : shlBits w a sh < 2 ^ w := by
  unfold shlBits
  split
  · positivity
  · exact Nat.mod_lt _ (by positivity)

theorem shrBits_lt (w a sh : Nat) : shrBits w a sh < 2 ^ w := by
  unfold shrBits
  split
  · positivity
  · exact (Nat.div_le_self _ _).trans_lt (Nat.mod_lt _ (by positivity))

/-- A result of `w` bits, told bit by bit. -/
def Result.HasBits (w : Nat) (r : Result) (bit : Nat → Bool) : Prop := r.2 = false ∧ r.1 < 2 ^ w ∧ ∀ j < w, r.1.testBit j = bit j

theorem Result.hasBits_shl (w a sh : Nat) : Result.HasBits w (shlBits w a sh, false) fun j => decide (sh ≤ j) && a.testBit (j - sh) :=
  ⟨rfl, shlBits_lt w a sh, fun _ => testBit_shlBits⟩

theorem Result.hasBits_shr {w a : Nat} (ha : a < 2 ^ w) (sh : Nat) : Result.HasBits w (shrBits w a sh, false) fun j => a.testBit (j + sh) :=
  ⟨rfl, shrBits_lt w a sh, fun _ _ => testBit_shrBits ha⟩

theorem Result.hasBits_sar (w a sh : Nat) : Result.HasBits w (sarBits w a sh, false) fun j => a.testBit (min (j + sh) (w - 1)) :=
  ⟨rfl, truncBits_lt _ _, fun _ => testBit_sarBits⟩

theorem Result.hasBits_and {w a : Nat} (b : Nat) (ha : a < 2 ^ w) : Result.HasBits w (a &&& b, false) fun j => a.testBit j && b.testBit j :=
  ⟨rfl, Nat.and_le_left.trans_lt ha, fun _ _ => Nat.testBit_and ..⟩

theorem Result.hasBits_or {w a b : Nat} (ha : a < 2 ^ w) (hb : b < 2 ^ w) :
    Result.HasBits w (a ||| b, false) fun j => a.testBit j || b.testBit j :=
  ⟨rfl, Nat.or_lt_two_pow ha hb, fun _ _ => Nat.testBit_or ..⟩

theorem Result.hasBits_xor {w a b : Nat} (ha : a < 2 ^ w) (hb : b < 2 ^ w) :
    Result.HasBits w (a ^^^ b, false) fun j => a.testBit j != b.testBit j :=
  ⟨rfl, Nat.xor_lt_two_pow ha hb, fun _ _ => Nat.testBit_xor ..⟩

/-! High products, order, immediates. -/

/-- The high part `q` of a product, to which `z` is added, taken modulo 2^w. -/
theorem plain_high (w : Nat) (p z : Int) :
    (plain w (p / (2 ^ w : Nat) + z)).2 = false ∧ (plain w (p / (2 ^ w : Nat) + z)).1 < 2 ^ w ∧
      ∃ q : Int, q * 2 ^ w ≤ p ∧ p < (q + 1) * 2 ^ w ∧ (2 ^ w : Int) ∣ q + z - (plain w (p / (2 ^ w : Nat) + z)).1 := by
  have hpos : (0 : Int) < 2 ^ w := by positivity
  refine ⟨rfl, truncBits_lt _ _, p / (2 ^ w : Nat), ?_, ?_, truncBits_dvd _ _⟩
  · push_cast
    exact Int.ediv_mul_le _ hpos.ne'
  · push_cast
    exact Int.lt_ediv_add_one_mul_self _ hpos

theorem toSigned_sixteen {imm : Nat} (h : imm < 2 ^ 16) : toSigned 16 imm = if imm < 2 ^ 15 then (imm : Int) else imm - 2 ^ 16 := by
  rw [toSigned, Nat.mod_eq_of_lt h]
  rfl

theorem viewInt_word (sgn : Bool) {k : Nat} (h : k < 2 ^ 32) : viewInt 32 sgn k = if sgn = true ∧ 2 ^ 31 ≤ k then (k : Int) - 2 ^ 32 else (k : Int) := by
  cases sgn with
  | false => rw [viewInt_false, Nat.mod_eq_of_lt h, if_neg (by simp)]
  | true =>
    show toSigned 32 k = _
    rw [toSigned, Nat.mod_eq_of_lt h]
    simp only [true_and, Nat.reducePow, Nat.reduceSub]
    (split; split) <;> omega

theorem getLsbD_movhBits (old : Word) (imm : BitVec 16) {j : Nat} (hj : j < 32) :
    (movhBits old imm).getLsbD j = if j < 16 then old.getLsbD j else imm.getLsbD (j - 16) := by
  rw [movhBits, BitVec.getLsbD_append, BitVec.getLsbD_extractLsb']
  split <;> simp [*]

end Sys2Proof.Machine
end

section
/-! PROOF. O54: what the integer operations deliver. -/

namespace Sys2Proof.Machine

theorem boolNat_eq_toNat (b : Bool) : boolNat b = b.toNat := by cases b <;> rfl

theorem isFloatView_of_isInt {et : EType} (h : et.isInt = true) : isFloatView et = false := by rw [isFloatView, h]; rfl

/-- Settles O54: views, narrowing and bits by the laws above, operation by operation. -/
theorem integerValues : Obligations.IntegerValues := by
  intro w hw sgn sat a b e ha hb he
  have hpos : 0 < w := by omega
  have hle : 2 ^ 16 ≤ 2 ^ w := Nat.pow_le_pow_right (by decide) (by omega)
  refine ⟨⟨viewInt_fits hpos sgn a, viewInt_dvd w sgn a⟩, fun z => ⟨narrowInt_lt sat w sgn z, narrowInt_clamps sat w sgn z, narrowInt_wraps, fun h => ?_⟩,
    ⟨rfl, rfl, rfl, rfl, rfl, rfl⟩, ⟨?_, plain_high w _ _⟩, ?_,
    ⟨boolNat_eq_toNat _, boolNat_eq_toNat _, boolNat_eq_toNat _, boolNat_eq_toNat _⟩, ?_,
    ⟨Result.hasBits_shl w a _, Result.hasBits_shr ha _, Result.hasBits_sar w a _, rfl, rotBits_lt hpos ha, fun j hj => testBit_rotBits hj ha⟩,
    ⟨popc_eq w a, ?_, fun h0 => ⟨clz_eq ha h0, ctz_spec ha h0⟩⟩, fun c _ => ?_, fun imm himm => ?_,
    fun n _ => ⟨Result.hasBits_shl w a n, Result.hasBits_shr ha n, Result.hasBits_sar w a n⟩, fun old imm j => getLsbD_movhBits old imm, ?_, ?_, ?_⟩
  · show viewInt w sgn (narrowInt sat w sgn z).1 = _
    rw [viewInt_narrowInt hpos h, intMin, intMax]
    push_cast
    rfl
  · have h := plain_high w (viewInt w sgn a * viewInt w sgn b) 0
    rwa [add_zero] at h
  · show viewInt w sgn (plain w (if _ then _ else _)).1 = _ ∧ viewInt w sgn (plain w (if _ then _ else _)).1 = _ ∧
      (plain w (if _ then _ else _)).1 ∈ _ ∧ (plain w (if _ then _ else _)).1 ∈ _
    by_cases h : viewInt w sgn a ≤ viewInt w sgn b
    · simp [h, plain_viewInt sgn ha, plain_viewInt sgn hb]
    · simp [h, plain_viewInt sgn ha, plain_viewInt sgn hb, le_of_not_ge h]
  · have hnot : ∀ x, 2 ^ w - 1 - x % 2 ^ w < 2 ^ w := fun x => by have := Nat.two_pow_pos w; omega
    refine ⟨Result.hasBits_and b ha, Result.hasBits_or ha hb, Result.hasBits_xor ha hb, ⟨rfl, Nat.and_le_left.trans_lt ha, fun j hj => ?_⟩,
      ⟨rfl, hnot a, fun j hj => testBit_not hj⟩, ⟨rfl, ?_, fun j hj => testBit_brev hj⟩, rfl, ha, fun j _ => rfl⟩
    · exact (Nat.testBit_and ..).trans (congrArg _ (testBit_not hj))
    · have h := ofBitList_lt (bitList w a).reverse
      rwa [List.length_reverse, bitList_length] at h
  · rintro rfl
    exact (leadingFalse_bitList_zero w).symm
  · show (if c ≠ 0 then a else b, false) = _
    by_cases h : c = 0 <;> simp [h]
  · have hz := toSigned_sixteen himm
    have hi : imm < 2 ^ w := himm.trans_le hle
    refine ⟨?_, ?_, Result.hasBits_and imm ha, Result.hasBits_or ha hi, Result.hasBits_xor ha hi, truncBits_lt _ _, ?_⟩
    · exact congrArg (fun z => narrowInt sat w sgn (viewInt w sgn a + z)) hz
    · exact congrArg (fun z => narrowInt sat w sgn (viewInt w sgn a * z)) hz
    · rw [← hz]
      exact truncBits_dvd _ _
  · rintro dt st - rfl rfl
    rfl
  · intro k hk
    refine ⟨truncBits_lt _ _, ?_⟩
    rw [← viewInt_word sgn hk]
    exact truncBits_dvd _ _
  · rintro et hint rfl rfl
    have hv := isFloatView_of_isInt hint
    refine ⟨⟨Nat.mod_lt _ (by positivity), ?_⟩, ?_, ?_, rfl, rfl, rfl, rfl, rfl, rfl⟩
    · show (2 ^ et.width : Int) ∣ (a : Int) + b - ((a + b) % 2 ^ et.width : Nat)
      push_cast
      exact Int.dvd_self_sub_emod
    · show viewInt _ _ (if isFloatView et = true then _ else if viewInt _ _ b < viewInt _ _ a then b else a) = _
      rw [hv, if_neg Bool.false_ne_true, apply_ite (viewInt et.width et.signed)]
      omega
    · show viewInt _ _ (if isFloatView et = true then _ else if viewInt _ _ a < viewInt _ _ b then b else a) = _
      rw [hv, if_neg Bool.false_ne_true, apply_ite (viewInt et.width et.signed)]
      omega

end Sys2Proof.Machine
end

section
/-! SUPPORT. Rounding over the reals (R90, R95): the magnitudes of a format, exact fractions, and what `roundFrac` delivers. -/

namespace Sys2Proof.Machine

/-- The magnitudes that the format would have without an upper end, by their encodings (R90, R95). -/
noncomputable def FloatFmt.ladder (f : FloatFmt) (k : Nat) : ℝ :=
  if k < 2 ^ f.mbits then k * (2 : ℝ) ^ f.minExp
  else ((2 ^ f.mbits + k % 2 ^ f.mbits : Nat) : ℝ) * (2 : ℝ) ^ (f.minExp + (k / 2 ^ f.mbits : Nat) - 1)

/-- The encoding, without its sign, of what was rounded to the magnitude `n`: above the greatest the mode decides (R95). -/
def FloatFmt.capped (f : FloatFmt) (mode : RMode) (neg : Bool) (n : Nat) : Nat :=
  if n ≤ f.maxBits then n
  else if f.special = .ieee ∧ (mode = .rne ∨ mode = .rna ∨ (mode = .rup ∧ neg = false) ∨ (mode = .rdn ∧ neg = true)) then f.infBits
  else f.maxBits

theorem FloatFmt.rounds_iff {f : FloatFmt} {mode : RMode} {x : ℝ} {r : Nat} :
    f.Rounds mode x r ↔ ∃ neg n, RoundsAmong f.ladder mode x neg n ∧ r = f.signBits neg + f.capped mode neg n := Iff.rfl

/-- The encoding of n units of 2^(minExp + j), where n has the format's number of bits or j is 0. -/
theorem FloatFmt.ladder_scaled (f : FloatFmt) {j n : Nat} (hn : n ≤ 2 ^ (f.mbits + 1)) (hj : j = 0 ∨ 2 ^ f.mbits ≤ n) :
    f.ladder (j * 2 ^ f.mbits + n) = n * (2 : ℝ) ^ (f.minExp + j) := by
  have hpos : 0 < 2 ^ f.mbits := by positivity
  rw [pow_succ] at hn
  rcases Nat.lt_or_ge n (2 ^ f.mbits) with hlt | hge
  · obtain rfl : j = 0 := hj.resolve_right (by omega)
    simp [ladder, hlt]
  · obtain ⟨r, rfl⟩ := Nat.exists_eq_add_of_le hge
    have hnot : ¬ j * 2 ^ f.mbits + (2 ^ f.mbits + r) < 2 ^ f.mbits := by omega
    have hk : j * 2 ^ f.mbits + (2 ^ f.mbits + r) = r + (j + 1) * 2 ^ f.mbits := by ring
    rw [ladder, if_neg hnot, hk, Nat.add_mul_mod_self_right, Nat.add_mul_div_right _ _ hpos]
    rcases Nat.lt_or_ge r (2 ^ f.mbits) with hr | hr
    · rw [Nat.mod_eq_of_lt hr, Nat.div_eq_of_lt hr]
      congr 2
      push_cast
      ring
    · obtain rfl : r = 2 ^ f.mbits := by omega
      rw [Nat.mod_self, Nat.div_self hpos]
      have he : f.minExp + ((1 + (j + 1) : Nat) : Int) - 1 = f.minExp + j + 1 := by push_cast; ring
      rw [he, zpow_add_one₀ two_ne_zero]
      push_cast
      ring

/-- Every index stands for some units of 2^(minExp + j), and so does its successor. -/
theorem FloatFmt.exists_scaled (f : FloatFmt) (k : Nat) :
    ∃ j n, k = j * 2 ^ f.mbits + n ∧ n < 2 ^ (f.mbits + 1) ∧ (j = 0 ∨ 2 ^ f.mbits ≤ n) := by
  have hpos : 0 < 2 ^ f.mbits := by positivity
  have hr := Nat.mod_lt k hpos
  have hk := Nat.div_add_mod' k (2 ^ f.mbits)
  rw [pow_succ]
  rcases Nat.lt_or_ge k (2 ^ f.mbits) with hlt | hge
  · exact ⟨0, k, by omega, by omega, .inl rfl⟩
  · obtain ⟨j, hj⟩ : ∃ j, k / 2 ^ f.mbits = j + 1 := Nat.exists_eq_succ_of_ne_zero (Nat.div_pos hge hpos).ne'
    rw [hj, Nat.succ_mul] at hk
    exact ⟨j, 2 ^ f.mbits + k % 2 ^ f.mbits, by omega, by omega, .inr (by omega)⟩

/-- A magnitude and its successor are neighbouring multiples of one power of two, which is at least 2^minExp and, where it is more, stands
M places below the leading bit. -/
theorem FloatFmt.ladder_step (f : FloatFmt) (k : Nat) : ∃ j n : Nat, n < 2 ^ (f.mbits + 1) ∧ (j = 0 ∨ 2 ^ f.mbits ≤ n) ∧
    f.ladder k = n * (2 : ℝ) ^ (f.minExp + j) ∧ f.ladder (k + 1) = (n + 1 : Nat) * (2 : ℝ) ^ (f.minExp + j) := by
  obtain ⟨j, n, rfl, hn, hj⟩ := f.exists_scaled k
  exact ⟨j, n, hn, hj, f.ladder_scaled hn.le hj, f.ladder_scaled (j := j) (n := n + 1) hn (hj.imp_right fun h => by omega)⟩

theorem FloatFmt.ladder_strictMono (f : FloatFmt) : StrictMono f.ladder := by
  refine strictMono_nat_of_lt_succ fun k => ?_
  obtain ⟨j, n, -, -, hk, hk'⟩ := f.ladder_step k
  rw [hk, hk']
  push_cast
  have : (0 : ℝ) < 2 ^ (f.minExp + j) := by positivity
  linarith [add_one_mul (n : ℝ) ((2 : ℝ) ^ (f.minExp + j))]

/-- What has no more bits than the format, and none below its least, is a magnitude of it. -/
theorem FloatFmt.exists_ladder_eq (f : FloatFmt) (j : Nat) : ∀ {m : Nat}, m < 2 ^ (f.mbits + 1) → ∃ k, f.ladder k = m * (2 : ℝ) ^ (f.minExp + j) := by
  induction j with
  | zero => exact fun hm => ⟨_, f.ladder_scaled hm.le (.inl rfl)⟩
  | succ j ih =>
    intro m hm
    rcases Nat.lt_or_ge m (2 ^ f.mbits) with hlt | hge
    · obtain ⟨k, hk⟩ := ih (m := 2 * m) (by rw [pow_succ]; omega)
      refine ⟨k, hk.trans ?_⟩
      push_cast
      rw [← add_assoc, zpow_add_one₀ two_ne_zero]
      ring
    · exact ⟨_, f.ladder_scaled hm.le (.inr hge)⟩

/-! Fractions. -/

theorem scaleFrac_pos {num den : Nat} (a : Int) (hd : 0 < den) : 0 < (scaleFrac num den a).2 := by
  cases a with
  | ofNat k => exact hd
  | negSucc k => exact Nat.mul_pos hd (by positivity)

theorem scaleFrac_num_pos {num den : Nat} (a : Int) (hn : 0 < num) : 0 < (scaleFrac num den a).1 := by
  cases a with
  | ofNat k => exact Nat.mul_pos hn (by positivity)
  | negSucc k => exact hn

theorem scaleFrac_val (num den : Nat) (a : Int) :
    ((scaleFrac num den a).1 : ℝ) / (scaleFrac num den a).2 = (num : ℝ) / den * (2 : ℝ) ^ a := by
  cases a with
  | ofNat k =>
    show ((num * 2 ^ k : Nat) : ℝ) / den = _
    rw [Int.ofNat_eq_natCast, zpow_natCast]
    push_cast
    ring
  | negSucc k =>
    show (num : ℝ) / ((den * 2 ^ (k + 1) : Nat) : ℝ) = _
    rw [zpow_negSucc]
    push_cast
    rw [div_mul_eq_div_div, div_eq_mul_inv (_ / _)]

/-- The binary logarithm of a fraction. -/
theorem floorLog2_spec {num den : Nat} (hn : 0 < num) (hd : 0 < den) :
    (2 : ℝ) ^ floorLog2 num den ≤ (num : ℝ) / den ∧ (num : ℝ) / den < (2 : ℝ) ^ (floorLog2 num den + 1) := by
  have hlo : ∀ x : Nat, 0 < x → (2 : ℝ) ^ (x.log2 : Int) ≤ x := fun x hx => by
    rw [zpow_natCast]; exact_mod_cast Nat.log2_self_le hx.ne'
  have hhi : ∀ x : Nat, (x : ℝ) < (2 : ℝ) ^ ((x.log2 : Int) + 1) := fun x => by
    have h : x < 2 ^ (x.log2 + 1) := Nat.lt_log2_self
    exact_mod_cast h
  have hdR : (0 : ℝ) < den := by exact_mod_cast hd
  have hval := scaleFrac_val num den (-((num.log2 : Int) - den.log2))
  have hy : (0 : ℝ) < (scaleFrac num den (-((num.log2 : Int) - den.log2))).2 := by exact_mod_cast scaleFrac_pos _ hd
  have hup : (num : ℝ) / den < (2 : ℝ) ^ ((num.log2 : Int) - den.log2 + 1) := by
    rw [div_lt_iff₀ hdR]
    calc (num : ℝ) < 2 ^ ((num.log2 : Int) + 1) := hhi num
      _ = 2 ^ ((num.log2 : Int) - den.log2 + 1) * 2 ^ (den.log2 : Int) := by rw [← zpow_add₀ two_ne_zero]; congr 1; ring
      _ ≤ _ := mul_le_mul_of_nonneg_left (hlo den hd) (by positivity)
  have hdown : (2 : ℝ) ^ ((num.log2 : Int) - den.log2 - 1) ≤ (num : ℝ) / den := by
    rw [le_div_iff₀ hdR]
    calc (2 : ℝ) ^ ((num.log2 : Int) - den.log2 - 1) * den ≤ 2 ^ ((num.log2 : Int) - den.log2 - 1) * 2 ^ ((den.log2 : Int) + 1) :=
          mul_le_mul_of_nonneg_left (hhi den).le (by positivity)
      _ = 2 ^ (num.log2 : Int) := by rw [← zpow_add₀ two_ne_zero]; congr 1; ring
      _ ≤ num := hlo num hn
  have hscale : ((scaleFrac num den (-((num.log2 : Int) - den.log2))).1 : ℝ) < (scaleFrac num den (-((num.log2 : Int) - den.log2))).2 ↔
      (num : ℝ) / den < 2 ^ ((num.log2 : Int) - den.log2) := by
    rw [← div_lt_one hy, hval, zpow_neg, ← div_eq_mul_inv, div_lt_one (by positivity)]
  unfold floorLog2
  dsimp only
  split
  next hlt => exact ⟨hdown, by rw [sub_add_cancel]; exact hscale.1 (Nat.cast_lt.2 hlt)⟩
  next hge => exact ⟨not_lt.1 fun h => hge (Nat.cast_lt.1 (hscale.2 h)), hup⟩

/-! Rounding to a neighbour. -/

/-- `roundsUp` is `GoesUp` for the fraction x/y between its integer part and the next integer, in any unit. -/
theorem roundsUp_iff {mode : RMode} {neg : Bool} {x y : Nat} (hy : 0 < y) {u : ℝ} (hu : 0 < u) :
    roundsUp mode neg (x / y) (x % y) y = true ↔
      GoesUp mode neg (x / y % 2 = 1) ((x / y : Nat) * u) ((x : ℝ) / y * u) ((x / y + 1 : Nat) * u) := by
  have hyR : (0 : ℝ) < y := by exact_mod_cast hy
  have hx : (x : ℝ) / y = (x / y : Nat) + ((x % y : Nat) : ℝ) / y := by
    have h : (x : ℝ) = y * (x / y : Nat) + (x % y : Nat) := by exact_mod_cast (Nat.div_add_mod x y).symm
    rw [div_eq_iff hyR.ne', add_mul, div_mul_cancel₀ _ hyR.ne']
    linarith
  generalize x / y = n at hx ⊢
  generalize x % y = r at hx ⊢
  have hdiff : 2 * ((x : ℝ) / y * u) - (n * u + (n + 1 : Nat) * u) = (2 * r - y) * (u / y) := by
    rw [hx]
    push_cast
    field_simp
    ring
  have hlow : (x : ℝ) / y * u - n * u = r * (u / y) := by
    rw [hx]
    field_simp
    ring
  have huy : 0 < u / y := div_pos hu hyR
  have half_lt : y < 2 * r ↔ n * u + (n + 1 : Nat) * u < 2 * ((x : ℝ) / y * u) := by
    rw [← sub_pos (b := n * u + (n + 1 : Nat) * u), hdiff, mul_pos_iff_of_pos_right huy, sub_pos]
    exact_mod_cast Iff.rfl
  have half_eq : 2 * r = y ↔ n * u + (n + 1 : Nat) * u = 2 * ((x : ℝ) / y * u) := by
    rw [eq_comm (a := n * u + _), ← sub_eq_zero (b := n * u + _), hdiff, mul_eq_zero_iff_right huy.ne', sub_eq_zero]
    exact_mod_cast Iff.rfl
  have above : r ≠ 0 ↔ n * u < (x : ℝ) / y * u := by
    rw [← sub_pos, hlow, mul_pos_iff_of_pos_right huy, Nat.cast_pos, Nat.pos_iff_ne_zero]
  cases mode with
  | rne => simp only [roundsUp, GoesUp, Bool.or_eq_true, Bool.and_eq_true, decide_eq_true_eq, half_lt, half_eq]
  | rna => 
    simp only [roundsUp, GoesUp, decide_eq_true_eq, le_iff_lt_or_eq, half_lt, half_eq, eq_comm (a := y)]
  | rtz => simp [roundsUp, GoesUp]
  | rup => simp only [roundsUp, GoesUp, Bool.and_eq_true, Bool.not_eq_true', decide_eq_true_eq, above]
  | rdn => simp only [roundsUp, GoesUp, Bool.and_eq_true, decide_eq_true_eq, above]

/-- A fraction between its neighbours k and k + 1 among the magnitudes, which are its integer part and the next integer in the unit u. -/
theorem roundsAmong_of_frac {v : Nat → ℝ} {mode : RMode} {neg : Bool} {k x y : Nat} {u z : ℝ} (hy : 0 < y) (hu : 0 < u)
    (hk : v k = (x / y : Nat) * u) (hk' : v (k + 1) = (x / y + 1 : Nat) * u) (hodd : k % 2 = x / y % 2) (hz : |z| = (x : ℝ) / y * u)
    (hneg : neg = true ↔ z < 0) :
    RoundsAmong v mode z neg (if roundsUp mode neg (x / y) (x % y) y = true then k + 1 else k) := by
  have hyR : (0 : ℝ) < y := by exact_mod_cast hy
  have hup := roundsUp_iff (mode := mode) (neg := neg) (x := x) hy hu
  refine ⟨hneg, k, ?_, ?_, ?_⟩
  · rw [hk, hz]
    refine mul_le_mul_of_nonneg_right ?_ hu.le
    exact Nat.cast_div_le
  · rw [hk', hz, mul_lt_mul_iff_left₀ hu, div_lt_iff₀ hyR]
    exact_mod_cast Nat.lt_mul_of_div_lt (Nat.lt_succ_self _) hy
  · rw [hk, hk', hz, hodd, ← hup]
    exact ⟨fun h => if_pos h, fun h => if_neg h⟩

theorem overflowBits_eq (f : FloatFmt) (mode : RMode) (neg : Bool) {n : Nat} (hn : f.maxBits < n) :
    overflowBits f mode neg = f.signBits neg + f.capped mode neg n := by
  unfold overflowBits FloatFmt.capped
  rw [if_neg (Nat.not_le.2 hn)]
  by_cases hs : f.special = .ieee
  · cases mode <;> cases neg <;> simp [hs]
  · simp [hs]

/-- `roundFrac` in units of 2^(minExp + j), of which the fraction has x/y. -/
theorem roundFrac_eq {f : FloatFmt} (mode : RMode) (neg : Bool) {num den j x y : Nat}
    (hq : max (floorLog2 num den - (f.mbits : Int)) f.minExp = f.minExp + j) (hxy : scaleFrac num den (-(f.minExp + j)) = (x, y)) :
    roundFrac f mode neg num den = f.signBits neg +
      f.capped mode neg (if roundsUp mode neg (x / y) (x % y) y = true then j * 2 ^ f.mbits + x / y + 1 else j * 2 ^ f.mbits + x / y) := by
  have hbits : (if roundsUp mode neg (x / y) (x % y) y = true then j * 2 ^ f.mbits + x / y + 1 else j * 2 ^ f.mbits + x / y) =
      j * 2 ^ f.mbits + (if roundsUp mode neg (x / y) (x % y) y = true then x / y + 1 else x / y) := by split <;> rfl
  have hj : (f.minExp + (j : Int) - f.minExp).toNat = j := by omega
  unfold roundFrac
  simp only [hq, hxy, hj, hbits]
  generalize j * 2 ^ f.mbits + (if roundsUp mode neg (x / y) (x % y) y = true then x / y + 1 else x / y) = n
  split
  next h => exact overflowBits_eq f mode neg h
  next h => rw [FloatFmt.capped, if_pos (Nat.not_lt.1 h)]

/-- A fraction in units of 2^(minExp + j) fills the format's bits, or all but these where j is 0. -/
theorem scaled_range {f : FloatFmt} {num den j x y : Nat} (hn : 0 < num) (hd : 0 < den)
    (hq : max (floorLog2 num den - (f.mbits : Int)) f.minExp = f.minExp + j) (hy : 0 < y)
    (hval : (x : ℝ) / y = (num : ℝ) / den * (2 : ℝ) ^ (-(f.minExp + j))) :
    x / y < 2 ^ (f.mbits + 1) ∧ (j = 0 ∨ 2 ^ f.mbits ≤ x / y) := by
  obtain ⟨hlo, hhi⟩ := floorLog2_spec hn hd
  have hyR : (0 : ℝ) < y := by exact_mod_cast hy
  rw [zpow_neg, ← div_eq_mul_inv] at hval
  constructor
  · rw [Nat.div_lt_iff_lt_mul hy]
    have h : (x : ℝ) / y < 2 ^ ((f.mbits + 1 : Nat) : Int) := by
      rw [hval, div_lt_iff₀ (by positivity), ← zpow_add₀ two_ne_zero]
      exact hhi.trans_le (zpow_le_zpow_right₀ one_le_two (by push_cast; omega))
    rw [div_lt_iff₀ hyR] at h
    exact_mod_cast h
  · refine or_iff_not_imp_left.2 fun hj0 => ?_
    rw [Nat.le_div_iff_mul_le hy]
    have h : (2 : ℝ) ^ (f.mbits : Int) ≤ (x : ℝ) / y := by
      rw [hval, le_div_iff₀ (by positivity), ← zpow_add₀ two_ne_zero]
      exact (zpow_le_zpow_right₀ one_le_two (by omega)).trans hlo
    rw [le_div_iff₀ hyR] at h
    exact_mod_cast h

theorem roundFrac_rounds (f : FloatFmt) (hM : 0 < f.mbits) (mode : RMode) {neg : Bool} {num den : Nat} (hn : 0 < num) (hd : 0 < den) {z : ℝ}
    (hz : |z| = (num : ℝ) / den) (hneg : neg = true ↔ z < 0) : f.Rounds mode z (roundFrac f mode neg num den) := by
  obtain ⟨j, hq⟩ : ∃ j : Nat, max (floorLog2 num den - (f.mbits : Int)) f.minExp = f.minExp + j :=
    ⟨(max (floorLog2 num den - (f.mbits : Int)) f.minExp - f.minExp).toNat, by omega⟩
  have hval := scaleFrac_val num den (-(f.minExp + j))
  have hy := scaleFrac_pos (num := num) (-(f.minExp + j)) hd
  obtain ⟨x, y, hxy⟩ : ∃ x y, scaleFrac num den (-(f.minExp + j)) = (x, y) := ⟨_, _, rfl⟩
  rw [hxy] at hval hy
  dsimp only at hval hy
  obtain ⟨hupper, hlower⟩ := scaled_range hn hd hq hy hval
  have heven : 2 ^ f.mbits % 2 = 0 := by
    obtain ⟨m, hm⟩ := Nat.exists_eq_succ_of_ne_zero hM.ne'
    rw [hm, pow_succ, Nat.mul_mod_left]
  refine f.rounds_iff.2 ⟨neg, _, roundsAmong_of_frac hy (u := (2 : ℝ) ^ (f.minExp + j)) (by positivity) (f.ladder_scaled hupper.le hlower) ?_ ?_ ?_ hneg,
    roundFrac_eq mode neg hq hxy⟩
  · exact f.ladder_scaled (n := x / y + 1) hupper (hlower.imp_right fun h => by omega)
  · rw [Nat.add_mod, Nat.mul_mod, heven, Nat.mul_zero, Nat.zero_mod, Nat.zero_add, Nat.mod_mod]
  · rw [hz, hval, mul_assoc, ← zpow_add₀ two_ne_zero, neg_add_cancel, zpow_zero, mul_one]

end Sys2Proof.Machine
end

section
/-! SUPPORT. Exact values (R90, R93, R103): encodings, products and sums over the reals, and what they are rounded to. -/

namespace Sys2Proof.Machine

/-! Values. -/

/-- The sign of a number as a factor. -/
def signFactor (neg : Bool) : ℝ := if neg then -1 else 1

@[simp] theorem signFactor_true : signFactor true = -1 := rfl
@[simp] theorem signFactor_false : signFactor false = 1 := rfl

theorem signFactor_mul (s t : Bool) : signFactor (s != t) = signFactor s * signFactor t := by
  cases s <;> cases t <;> simp

theorem signFactor_ne_zero (s : Bool) : signFactor s ≠ 0 := by cases s <;> norm_num [signFactor]

theorem abs_signFactor (s : Bool) : |signFactor s| = 1 := by cases s <;> norm_num [signFactor]

theorem Val.is_fin {neg : Bool} {m : Nat} {e : Int} {x : ℝ} : (Val.fin neg m e).Is x ↔ x = signFactor neg * m * (2 : ℝ) ^ e := by
  constructor
  · rintro ⟨neg', m', e', h, hx⟩
    cases h
    exact hx
  · exact fun hx => ⟨neg, m, e, rfl, hx⟩

/-- A finite value, by its parts. -/
theorem Val.Is.exists_fin {v : Val} {x : ℝ} (h : v.Is x) : ∃ s m e, v = .fin s m e ∧ x = signFactor s * m * (2 : ℝ) ^ e := h

theorem Val.is_fin_self (neg : Bool) (m : Nat) (e : Int) : (Val.fin neg m e).Is (signFactor neg * m * (2 : ℝ) ^ e) := Val.is_fin.2 rfl


theorem Val.Is.unique {v : Val} {x y : ℝ} (hx : v.Is x) (hy : v.Is y) : x = y := by
  obtain ⟨s, m, e, rfl, rfl⟩ := hx.exists_fin
  exact (Val.is_fin.1 hy).symm

theorem signFactor_mul_eq_zero {s : Bool} {m : Nat} {e : Int} : signFactor s * m * (2 : ℝ) ^ e = 0 ↔ m = 0 := by
  have h2 : (2 : ℝ) ^ e ≠ 0 := by positivity
  simp [signFactor_ne_zero, h2]

theorem abs_signFactor_mul (s : Bool) (m : Nat) (e : Int) : |signFactor s * m * (2 : ℝ) ^ e| = m * (2 : ℝ) ^ e := by
  rw [abs_mul, abs_mul, abs_signFactor, one_mul, Nat.abs_cast, abs_of_pos (by positivity : (0 : ℝ) < 2 ^ e)]

/-- The sign of a finite value that is not zero. -/
theorem sign_iff {s : Bool} {m : Nat} {e : Int} (hm : m ≠ 0) : s = true ↔ signFactor s * m * (2 : ℝ) ^ e < 0 := by
  have hpos : (0 : ℝ) < m * (2 : ℝ) ^ e := mul_pos (by exact_mod_cast Nat.pos_of_ne_zero hm) (by positivity)
  cases s
  · simp only [signFactor_false, one_mul, Bool.false_eq_true, false_iff, not_lt]
    exact hpos.le
  · simpa using hpos

theorem Val.Is.negate {v : Val} {x : ℝ} (h : v.Is x) : v.negate.Is (-x) := by
  obtain ⟨s, m, e, rfl, rfl⟩ := h.exists_fin
  refine Val.is_fin.2 ?_
  cases s <;> simp

theorem Val.Is.mul {v w : Val} {x y : ℝ} (hv : v.Is x) (hw : w.Is y) : (v.mul w).Is (x * y) := by
  obtain ⟨s, m, e, rfl, rfl⟩ := hv.exists_fin
  obtain ⟨t, n, g, rfl, rfl⟩ := hw.exists_fin
  refine Val.is_fin.2 ?_
  rw [signFactor_mul, zpow_add₀ two_ne_zero]
  push_cast
  ring

theorem Val.mul_nan_left (v : Val) : Val.nan.mul v = .nan := rfl
theorem Val.mul_nan_right (v : Val) : v.mul .nan = .nan := by cases v <;> rfl

theorem Val.inf_mul_zero {s : Bool} {v : Val} (h : v.Is 0) : (Val.inf s).mul v = .nan := by
  obtain ⟨t, m, e, rfl, hx⟩ := h.exists_fin
  exact if_pos (signFactor_mul_eq_zero.1 hx.symm)

theorem Val.zero_mul_inf {s : Bool} {v : Val} (h : v.Is 0) : v.mul (Val.inf s) = .nan := by
  obtain ⟨t, m, e, rfl, hx⟩ := h.exists_fin
  exact if_pos (signFactor_mul_eq_zero.1 hx.symm)

theorem Val.inf_mul_fin {s t : Bool} {m : Nat} {e : Int} (hm : m ≠ 0) : (Val.inf s).mul (.fin t m e) = .inf (s != t) := if_neg hm
theorem Val.fin_mul_inf {s t : Bool} {m : Nat} {e : Int} (hm : m ≠ 0) : (Val.fin t m e).mul (.inf s) = .inf (t != s) := if_neg hm

/-! Encodings. -/

theorem negEnc_eq (f : FloatFmt) (a : Nat) : f.negEnc a = decide (bitsOf a (f.ebits + f.mbits) 1 = 1) := by
  rw [FloatFmt.negEnc, Nat.testBit_eq_decide_div_mod_eq, bitsOf, pow_one]

theorem decodeVal_fin_sign {f : FloatFmt} {a : Nat} {s : Bool} {m : Nat} {e : Int} (h : decodeVal f a = .fin s m e) : s = f.negEnc a := by
  rw [negEnc_eq]
  unfold decodeVal at h
  dsimp only at h
  split_ifs at h <;> (cases h; rfl)

theorem decodeVal_inf_sign {f : FloatFmt} {a : Nat} {s : Bool} (h : decodeVal f a = .inf s) : s = f.negEnc a := by
  rw [negEnc_eq]
  unfold decodeVal at h
  dsimp only at h
  split_ifs at h
  cases h
  rfl

/-- A finite encoding, by its parts. -/
theorem decodeVal_is {f : FloatFmt} {a : Nat} {x : ℝ} (h : (decodeVal f a).Is x) :
    ∃ m e, decodeVal f a = .fin (f.negEnc a) m e ∧ x = signFactor (f.negEnc a) * m * (2 : ℝ) ^ e := by
  obtain ⟨s, m, e, hd, hx⟩ := h.exists_fin
  obtain rfl := decodeVal_fin_sign hd
  exact ⟨m, e, hd, hx⟩

/-- An IEEE format with a mantissa (R90). -/
structure FloatFmt.Ieee (f : FloatFmt) : Prop where
  special : f.special = .ieee
  mbits_pos : 0 < f.mbits
  ebits_pos : 0 < f.ebits

/-- The encoding without its sign. -/
def FloatFmt.magBits (f : FloatFmt) (a : Nat) : Nat := a % 2 ^ (f.ebits + f.mbits)

theorem FloatFmt.magBits_lt (f : FloatFmt) (a : Nat) : f.magBits a < 2 ^ (f.ebits + f.mbits) := Nat.mod_lt _ (by positivity)

theorem bitsOf_exponent (f : FloatFmt) (a : Nat) : bitsOf a f.mbits f.ebits = f.magBits a / 2 ^ f.mbits := by
  rw [FloatFmt.magBits, Nat.add_comm, pow_add, Nat.mod_mul_right_div_self, bitsOf]

theorem bitsOf_mantissa (f : FloatFmt) (a : Nat) : bitsOf a 0 f.mbits = f.magBits a % 2 ^ f.mbits := by
  rw [FloatFmt.magBits, Nat.mod_mod_of_dvd _ (pow_dvd_pow 2 (Nat.le_add_left _ _)), bitsOf, pow_zero, Nat.div_one]

/-- An encoding is its sign and its magnitude. -/
theorem FloatFmt.eq_signBits_add (f : FloatFmt) {a : Nat} (ha : a < 2 ^ f.width) : a = f.signBits (f.negEnc a) + f.magBits a := by
  have hw : 2 ^ f.width = 2 ^ (f.ebits + f.mbits) * 2 := by rw [FloatFmt.width, ← pow_succ]; congr 1; omega
  have hq : a / 2 ^ (f.ebits + f.mbits) < 2 := Nat.div_lt_of_lt_mul (by omega)
  have hdiv := Nat.div_add_mod a (2 ^ (f.ebits + f.mbits))
  rw [FloatFmt.negEnc, Nat.testBit_eq_decide_div_mod_eq, FloatFmt.magBits, FloatFmt.signBits, Nat.mod_eq_of_lt hq]
  rcases Nat.le_one_iff_eq_zero_or_eq_one.1 (Nat.le_of_lt_succ hq) with h | h
  · rw [h] at hdiv ⊢
    simpa using hdiv.symm
  · rw [h] at hdiv ⊢
    simpa using hdiv.symm

theorem FloatFmt.negEnc_signBits_add (f : FloatFmt) (s : Bool) {k : Nat} (hk : k < 2 ^ (f.ebits + f.mbits)) : f.negEnc (f.signBits s + k) = s := by
  cases s with
  | false => simpa [FloatFmt.signBits, FloatFmt.negEnc] using Nat.testBit_lt_two_pow hk
  | true => simp [FloatFmt.signBits, FloatFmt.negEnc, Nat.testBit_two_pow_add_eq, Nat.testBit_lt_two_pow hk]

theorem FloatFmt.magBits_signBits_add (f : FloatFmt) (s : Bool) {k : Nat} (hk : k < 2 ^ (f.ebits + f.mbits)) : f.magBits (f.signBits s + k) = k := by
  cases s <;> simp [FloatFmt.signBits, FloatFmt.magBits, Nat.mod_eq_of_lt hk]

theorem FloatFmt.Ieee.infBits_pos {f : FloatFmt} (hf : f.Ieee) : 0 < f.infBits := by
  have h : 1 < 2 ^ f.ebits := Nat.one_lt_two_pow hf.ebits_pos.ne'
  exact Nat.mul_pos (by omega) (by positivity)

theorem FloatFmt.Ieee.maxBits_eq {f : FloatFmt} (hf : f.Ieee) : f.maxBits = f.infBits - 1 := by
  rw [FloatFmt.maxBits, hf.special, FloatFmt.infBits]

theorem FloatFmt.infBits_lt (f : FloatFmt) : f.infBits < 2 ^ (f.ebits + f.mbits) := by
  rw [pow_add, FloatFmt.infBits]
  exact Nat.mul_lt_mul_of_pos_right (Nat.sub_lt (by positivity) one_pos) (by positivity)

/-- The exponent of an encoding is all ones from that of infinity on. -/
theorem top_iff (f : FloatFmt) {k : Nat} (hk : k < 2 ^ (f.ebits + f.mbits)) : k / 2 ^ f.mbits = 2 ^ f.ebits - 1 ↔ f.infBits ≤ k := by
  have hpos : 0 < 2 ^ f.mbits := by positivity
  rw [FloatFmt.infBits, ← Nat.le_div_iff_mul_le hpos]
  have hlt : k / 2 ^ f.mbits < 2 ^ f.ebits := by rwa [Nat.div_lt_iff_lt_mul hpos, ← pow_add]
  omega

/-- What an encoding below that of infinity stands for. -/
theorem FloatFmt.Ieee.decodeVal_of_lt {f : FloatFmt} (hf : f.Ieee) {a : Nat} (h : f.magBits a < f.infBits) :
    ∃ m e, decodeVal f a = .fin (f.negEnc a) m e ∧ f.ladder (f.magBits a) = m * (2 : ℝ) ^ e ∧ m < 2 ^ (f.mbits + 1) ∧ f.minExp ≤ e := by
  have hr := Nat.mod_lt (f.magBits a) (by positivity : 0 < 2 ^ f.mbits)
  have htop : f.magBits a / 2 ^ f.mbits ≠ 2 ^ f.ebits - 1 := fun h' => by have := (top_iff f (f.magBits_lt a)).1 h'; omega
  have hdiv := Nat.div_add_mod (f.magBits a) (2 ^ f.mbits)
  rw [pow_succ]
  unfold decodeVal
  simp only [bitsOf_exponent, bitsOf_mantissa, hf.special, ← negEnc_eq, htop, decide_false, Bool.false_eq_true, and_false, false_and, if_false,
    reduceCtorEq]
  split
  next h0 =>
    rw [h0] at hdiv
    refine ⟨_, _, rfl, ?_, by omega, le_refl _⟩
    rw [FloatFmt.ladder, if_pos (by omega)]
    congr 2
    omega
  next h0 =>
    have h1 : (1 : Int) ≤ (f.magBits a / 2 ^ f.mbits : Nat) := by exact_mod_cast Nat.pos_of_ne_zero h0
    refine ⟨_, _, rfl, ?_, by omega, by linarith⟩
    have hge : 2 ^ f.mbits ≤ f.magBits a := (Nat.div_pos_iff.1 (Nat.pos_of_ne_zero h0)).2
    rw [FloatFmt.ladder, if_neg (Nat.not_lt.2 hge)]

theorem FloatFmt.Ieee.decodeVal_inf {f : FloatFmt} (hf : f.Ieee) {a : Nat} {s : Bool} (h : decodeVal f a = .inf s) : f.magBits a = f.infBits := by
  have hdiv := Nat.div_add_mod' (f.magBits a) (2 ^ f.mbits)
  unfold decodeVal at h
  simp only [bitsOf_exponent, bitsOf_mantissa, hf.special, true_and, reduceCtorEq, false_and, if_false] at h
  split_ifs at h with htop hm h0
  rw [hm, of_decide_eq_true htop, Nat.add_zero] at hdiv
  exact hdiv.symm

theorem FloatFmt.Ieee.magBits_lt_of_fin {f : FloatFmt} (hf : f.Ieee) {a : Nat} {s : Bool} {m : Nat} {e : Int} (h : decodeVal f a = .fin s m e) :
    f.magBits a < f.infBits := by
  by_contra hge
  have htop := (top_iff f (f.magBits_lt a)).2 (Nat.not_lt.1 hge)
  unfold decodeVal at h
  simp only [bitsOf_exponent, bitsOf_mantissa, hf.special, true_and, htop, decide_true, if_true] at h
  split at h <;> cases h

/-- A finite encoding stands for the magnitude of its place, with its sign. -/
theorem FloatFmt.Ieee.is_ladder {f : FloatFmt} (hf : f.Ieee) {a : Nat} (h : f.magBits a < f.infBits) :
    (decodeVal f a).Is (signFactor (f.negEnc a) * f.ladder (f.magBits a)) := by
  obtain ⟨m, e, hd, hl, -, -⟩ := hf.decodeVal_of_lt h
  rw [hd, hl, ← mul_assoc]
  exact Val.is_fin_self _ _ _

theorem FloatFmt.ladder_zero (f : FloatFmt) : f.ladder 0 = 0 := by
  rw [FloatFmt.ladder, if_pos (by positivity), Nat.cast_zero, zero_mul]

theorem FloatFmt.ladder_nonneg (f : FloatFmt) (k : Nat) : 0 ≤ f.ladder k := by
  rw [← f.ladder_zero]
  exact f.ladder_strictMono.monotone (Nat.zero_le k)

theorem FloatFmt.Ieee.magBits_le_maxBits {f : FloatFmt} (hf : f.Ieee) {a : Nat} (h : f.magBits a < f.infBits) : f.magBits a ≤ f.maxBits := by
  rw [hf.maxBits_eq]
  omega

theorem FloatFmt.Ieee.maxBits_lt {f : FloatFmt} (hf : f.Ieee) : f.maxBits < f.infBits := by
  have := hf.infBits_pos
  rw [hf.maxBits_eq]
  omega

/-- The place of a finite encoding among the magnitudes. -/
theorem FloatFmt.Ieee.abs_eq_ladder {f : FloatFmt} (hf : f.Ieee) {a : Nat} {x : ℝ} (h : (decodeVal f a).Is x) :
    |x| = f.ladder (f.magBits a) ∧ f.magBits a ≤ f.maxBits := by
  obtain ⟨s, m, e, hd, -⟩ := h.exists_fin
  have hlt := hf.magBits_lt_of_fin hd
  refine ⟨?_, hf.magBits_le_maxBits hlt⟩
  rw [h.unique (hf.is_ladder hlt), abs_mul, abs_signFactor, one_mul, abs_of_nonneg (f.ladder_nonneg _)]

/-- An encoding put together from a sign and a magnitude within the range. -/
theorem FloatFmt.Ieee.is_signBits_add {f : FloatFmt} (hf : f.Ieee) (s : Bool) {k : Nat} (hk : k ≤ f.maxBits) :
    (decodeVal f (f.signBits s + k)).Is (signFactor s * f.ladder k) := by
  have hlt : k < f.infBits := hk.trans_lt hf.maxBits_lt
  have hk' : k < 2 ^ (f.ebits + f.mbits) := hlt.trans f.infBits_lt
  have h := hf.is_ladder (a := f.signBits s + k) (by rwa [f.magBits_signBits_add s hk'])
  rwa [f.magBits_signBits_add s hk', f.negEnc_signBits_add s hk'] at h

/-- Zero has the encoding of its sign. -/
theorem FloatFmt.Ieee.eq_signBits_of_is_zero {f : FloatFmt} (hf : f.Ieee) {a : Nat} (ha : a < 2 ^ f.width) (h : (decodeVal f a).Is 0) :
    a = f.signBits (f.negEnc a) := by
  have h0 : f.magBits a = 0 := by
    refine f.ladder_strictMono.injective ?_
    rw [← (hf.abs_eq_ladder h).1, f.ladder_zero, abs_zero]
  have := f.eq_signBits_add ha
  rwa [h0, Nat.add_zero] at this

/-- An infinity has the encoding of its sign and that of +infinity. -/
theorem FloatFmt.Ieee.eq_of_inf {f : FloatFmt} (hf : f.Ieee) {a : Nat} (ha : a < 2 ^ f.width) {s : Bool} (h : decodeVal f a = .inf s) :
    a = f.signBits s + f.infBits := by
  rw [decodeVal_inf_sign h, ← hf.decodeVal_inf h]
  exact f.eq_signBits_add ha

/-! Rounding of exact values. -/

theorem roundVal_rounds {f : FloatFmt} (hM : 0 < f.mbits) (mode : RMode) {v : Val} {x : ℝ} (h : v.Is x) (hx : x ≠ 0) :
    f.Rounds mode x (roundVal f mode v) := by
  obtain ⟨s, m, e, rfl, rfl⟩ := h.exists_fin
  have hm : m ≠ 0 := fun h0 => hx (signFactor_mul_eq_zero.2 h0)
  rw [roundVal, if_neg hm]
  refine roundFrac_rounds f hM mode (scaleFrac_num_pos e (Nat.pos_of_ne_zero hm)) (scaleFrac_pos e one_pos) ?_ (sign_iff hm)
  rw [abs_signFactor_mul, scaleFrac_val, Nat.cast_one, div_one]

theorem roundVal_zero (f : FloatFmt) (mode : RMode) (s : Bool) (e : Int) : roundVal f mode (.fin s 0 e) = f.signBits s := rfl

theorem not_goesUp_self {mode : RMode} {neg : Bool} {odd : Prop} {lo hi : ℝ} (h : lo < hi) : ¬ GoesUp mode neg odd lo lo hi := by
  cases mode with
  | rne =>
    rintro (h' | ⟨h', -⟩)
    · linarith
    · linarith
  | rna => exact fun h' => by linarith [show lo + hi ≤ 2 * lo from h']
  | rtz => exact id
  | rup => exact fun h' => lt_irrefl _ h'.2
  | rdn => exact fun h' => lt_irrefl _ h'.2

/-- What is a magnitude of the format stays itself when it is rounded. -/
theorem FloatFmt.Rounds.eq_of_ladder {f : FloatFmt} {mode : RMode} {x : ℝ} {r k : Nat} (h : f.Rounds mode x r) (hx : |x| = f.ladder k)
    (hk : k ≤ f.maxBits) : r = f.signBits (decide (x < 0)) + k := by
  obtain ⟨neg, n, ⟨hneg, i, hlo, hhi, -, hdown⟩, rfl⟩ := f.rounds_iff.1 h
  rw [hx] at hlo hhi hdown
  obtain rfl : i = k := le_antisymm (f.ladder_strictMono.le_iff_le.1 hlo) (Nat.lt_succ_iff.1 (f.ladder_strictMono.lt_iff_lt.1 hhi))
  obtain rfl := hdown (not_goesUp_self (f.ladder_strictMono (Nat.lt_succ_self i)))
  rw [FloatFmt.capped, if_pos hk, (Bool.eq_iff_iff.2 (by simpa using hneg) : neg = decide (x < 0))]

/-- A value that is a magnitude of the format is rounded to itself, and keeps its sign. -/
theorem FloatFmt.Ieee.roundVal_exact {f : FloatFmt} (hf : f.Ieee) (mode : RMode) {s : Bool} {m : Nat} {e : Int} {k : Nat}
    (hx : (m : ℝ) * (2 : ℝ) ^ e = f.ladder k) (hk : k ≤ f.maxBits) : roundVal f mode (.fin s m e) = f.signBits s + k := by
  rcases Nat.eq_zero_or_pos m with rfl | hm
  · have h0 : k = 0 := f.ladder_strictMono.injective (by rw [← hx, f.ladder_zero, Nat.cast_zero, zero_mul])
    rw [h0]
    rfl
  · have hne : signFactor s * m * (2 : ℝ) ^ e ≠ 0 := fun h => hm.ne' (signFactor_mul_eq_zero.1 h)
    have h := (roundVal_rounds hf.mbits_pos mode (Val.is_fin_self s m e) hne).eq_of_ladder (by rw [abs_signFactor_mul, hx]) hk
    rw [h, (Bool.eq_iff_iff.2 (by simpa using (sign_iff hm.ne').symm) : decide (signFactor s * m * (2 : ℝ) ^ e < 0) = s)]

/-! Exact sums (R93, R103). -/

theorem minExponent_le (vs : List Val) (e : Int) : minExponent vs e ≤ e ∧ ∀ v ∈ vs, minExponent vs e ≤ v.exponent := by
  induction vs generalizing e with
  | nil => exact ⟨le_refl _, by simp⟩
  | cons v vs ih =>
    obtain ⟨h1, h2⟩ := ih (min e v.exponent)
    refine ⟨h1.trans (min_le_left _ _), fun w hw => ?_⟩
    rcases List.mem_cons.1 hw with rfl | hw
    · exact h1.trans (min_le_right _ _)
    · exact h2 w hw

theorem sumUnits_val {g : Int} {vs : List Val} {xs : List ℝ} (h : List.Forall₂ Val.Is vs xs) (hg : ∀ v ∈ vs, g ≤ v.exponent) :
    (sumUnits g vs : ℝ) * (2 : ℝ) ^ g = xs.sum := by
  induction h with
  | nil => simp [sumUnits]
  | @cons v x vs xs hv _ ih =>
    have ih := ih fun w hw => hg w (List.mem_cons_of_mem _ hw)
    have hv' : (v.signedM : ℝ) * (2 : ℝ) ^ ((v.exponent - g).toNat : Int) * (2 : ℝ) ^ g = x := by
      obtain ⟨s, m, e, rfl, rfl⟩ := hv.exists_fin
      have he : ((e - g).toNat : Int) + g = e := by have := hg _ List.mem_cons_self; simp only [Val.exponent] at this; omega
      rw [mul_assoc, ← zpow_add₀ two_ne_zero]
      simp only [Val.exponent, he, Val.signedM]
      cases s <;> simp
    rw [sumUnits, List.sum_cons, ← ih, ← hv', zpow_natCast]
    push_cast
    ring

theorem any_isNaN_of_finite {vs : List Val} {xs : List ℝ} (h : List.Forall₂ Val.Is vs xs) : vs.any Val.isNaN = false ∧ ∀ s, vs.any (Val.isInf s) = false := by
  induction h with
  | nil => simp
  | cons hv _ ih =>
    obtain ⟨s, m, e, rfl, -⟩ := hv.exists_fin
    exact ⟨by simp [Val.isNaN, ih.1], fun t => by simp [Val.isInf, ih.2 t]⟩

/-- The sign of an exact zero sum (R93). -/
def zeroSign (mode : RMode) (vs : List Val) : Bool :=
  if vs.all (Val.isZero false) then false else if vs.all (Val.isZero true) then true else decide (mode = .rdn)

theorem exactSum_finite {mode : RMode} {vs : List Val} {xs : List ℝ} (h : List.Forall₂ Val.Is vs xs) :
    (exactSum mode vs).Is xs.sum ∧ (xs.sum = 0 → exactSum mode vs = .fin (zeroSign mode vs) 0 0) := by
  obtain ⟨hnan, hinf⟩ := any_isNaN_of_finite h
  have hsum := sumUnits_val h (minExponent_le vs 0).2
  have h2 : (0 : ℝ) < 2 ^ minExponent vs 0 := by positivity
  unfold exactSum
  simp only [hnan, hinf, Bool.false_eq_true, if_false, Bool.and_self]
  split
  next h0 =>
    rw [h0, Int.cast_zero, zero_mul] at hsum
    have hz : (if vs.all (Val.isZero false) = true then Val.fin false 0 0
        else if vs.all (Val.isZero true) = true then .fin true 0 0 else .fin (decide (mode = .rdn)) 0 0) = .fin (zeroSign mode vs) 0 0 := by
      unfold zeroSign
      split_ifs <;> rfl
    rw [hz, ← hsum]
    exact ⟨Val.is_fin.2 (by simp), fun _ => rfl⟩
  next h0 =>
    refine ⟨Val.is_fin.2 ?_, fun hs => absurd hs ?_⟩
    · rw [← hsum, Nat.cast_natAbs, Int.cast_abs]
      congr 1
      rcases lt_or_ge (sumUnits (minExponent vs 0) vs) 0 with hlt | hge
      · rw [decide_eq_true hlt, abs_of_neg (by exact_mod_cast hlt), signFactor_true]
        ring
      · rw [decide_eq_false (not_lt.2 hge), abs_of_nonneg (by exact_mod_cast hge), signFactor_false, one_mul]
    · rw [← hsum]
      exact mul_ne_zero (by exact_mod_cast h0) h2.ne'

/-- A sum that is not zero is rounded once (R102, R103). -/
theorem sumRound_rounds {f : FloatFmt} (hM : 0 < f.mbits) (mode : RMode) {vs : List Val} {xs : List ℝ} (h : List.Forall₂ Val.Is vs xs)
    (hs : xs.sum ≠ 0) : f.Rounds mode xs.sum (sumRound f mode vs) := roundVal_rounds hM mode (exactSum_finite h).1 hs

theorem sumRound_zero (f : FloatFmt) (mode : RMode) {vs : List Val} {xs : List ℝ} (h : List.Forall₂ Val.Is vs xs) (hs : xs.sum = 0) :
    sumRound f mode vs = f.signBits (zeroSign mode vs) := by
  rw [sumRound, (exactSum_finite h).2 hs, roundVal_zero]

theorem sumRound_nan (f : FloatFmt) (mode : RMode) {vs : List Val} (h : Val.nan ∈ vs) : sumRound f mode vs = f.nanBits := by
  have hn : vs.any Val.isNaN = true := List.any_eq_true.2 ⟨_, h, rfl⟩
  rw [sumRound, exactSum, if_pos hn, roundVal]

theorem sumRound_infs (f : FloatFmt) (mode : RMode) {vs : List Val} (s : Bool) (h : Val.inf s ∈ vs) (h' : Val.inf (!s) ∈ vs) :
    sumRound f mode vs = f.nanBits := by
  have hany : ∀ t, vs.any (Val.isInf t) = true := fun t => by
    rcases Bool.eq_or_eq_not t s with rfl | rfl
    · exact List.any_eq_true.2 ⟨_, h, by simp [Val.isInf]⟩
    · exact List.any_eq_true.2 ⟨_, h', by simp [Val.isInf]⟩
  rw [sumRound, exactSum]
  simp only [hany, Bool.and_self, if_true, ite_self, roundVal]

theorem sumRound_inf {f : FloatFmt} (hf : f.special = .ieee) (mode : RMode) {vs : List Val} {s : Bool} (h : Val.inf s ∈ vs) (hnan : Val.nan ∉ vs)
    (h' : Val.inf (!s) ∉ vs) : sumRound f mode vs = f.signBits s + f.infBits := by
  have hn : vs.any Val.isNaN = false := by
    rw [List.any_eq_false]
    rintro (_ | _ | _) hv
    · exact absurd hv hnan
    · simp [Val.isNaN]
    · simp [Val.isNaN]
  have hs : vs.any (Val.isInf s) = true := List.any_eq_true.2 ⟨_, h, by simp [Val.isInf]⟩
  have hns : vs.any (Val.isInf (!s)) = false := by
    rw [List.any_eq_false]
    rintro (_ | t | _) hv
    · simp [Val.isInf]
    · rintro ht
      obtain rfl : t = !s := by simpa [Val.isInf] using ht
      exact h' hv
    · simp [Val.isInf]
  have hsome : exactSum mode vs = .inf s := by
    unfold exactSum
    cases s
    · rw [Bool.not_false] at hns
      simp only [hn, hs, hns, Bool.false_eq_true, if_false, Bool.and_false, if_true]
    · rw [Bool.not_true] at hns
      simp only [hn, hs, hns, Bool.false_eq_true, if_false, Bool.false_and, if_true]
  rw [sumRound, hsome, roundVal, if_pos hf]

end Sys2Proof.Machine
end

section
/-! SUPPORT. Rounding to an integer, and square roots (R95, R196, R197). -/

namespace Sys2Proof.Machine

/-! Integers. -/

theorem roundsToInt_zero (mode : RMode) : RoundsToInt mode 0 0 := by
  have hnot : ¬ GoesUp mode false (0 % 2 = 1) ((0 : Nat) : ℝ) ((0 : Nat) : ℝ) ((0 + 1 : Nat) : ℝ) := not_goesUp_self (by norm_num)
  rw [Nat.cast_zero] at hnot
  refine ⟨false, 0, ⟨by simp, 0, by simp, by simp, fun h => absurd h ?_, fun _ => rfl⟩, rfl⟩
  simpa only [abs_zero, Nat.cast_zero] using hnot

theorem roundsUp_zero (mode : RMode) (neg : Bool) (n : Nat) {d : Nat} (hd : 0 < d) : roundsUp mode neg n 0 d = false := by
  cases mode <;> simp [roundsUp] <;> omega

/-- The magnitude of a fraction rounded to an integer. -/
def roundNat (mode : RMode) (neg : Bool) (num den : Nat) : Nat :=
  if roundsUp mode neg (num / den) (num % den) den = true then num / den + 1 else num / den

theorem roundIntFrac_eq (mode : RMode) (neg : Bool) (num den : Nat) :
    roundIntFrac mode neg num den = if neg then -(roundNat mode neg num den : Int) else roundNat mode neg num den := rfl

theorem roundNat_of_dvd {mode : RMode} {neg : Bool} {num den : Nat} (hd : 0 < den) (h : num % den = 0) : roundNat mode neg num den = num / den := by
  rw [roundNat, h, roundsUp_zero mode neg _ hd]
  rfl

theorem Val.Is.roundsToInt {v : Val} {x : ℝ} (h : v.Is x) (mode : RMode) : RoundsToInt mode x (v.roundInt mode) := by
  obtain ⟨s, m, e, rfl, rfl⟩ := h.exists_fin
  have hd : 0 < (scaleFrac m 1 e).2 := scaleFrac_pos e one_pos
  have hval := scaleFrac_val m 1 e
  rw [Nat.cast_one, div_one] at hval
  show RoundsToInt mode _ (roundIntFrac mode s (scaleFrac m 1 e).1 (scaleFrac m 1 e).2)
  rw [roundIntFrac_eq]
  rcases Nat.eq_zero_or_pos m with rfl | hm
  · have h0 : (scaleFrac 0 1 e).1 = 0 := by
      have : ((scaleFrac 0 1 e).1 : ℝ) = 0 := by
        rw [Nat.cast_zero, zero_mul, div_eq_zero_iff] at hval
        exact hval.resolve_right (by exact_mod_cast hd.ne')
      exact_mod_cast this
    have hn : roundNat mode s (scaleFrac 0 1 e).1 (scaleFrac 0 1 e).2 = 0 := by
      rw [roundNat_of_dvd hd (by rw [h0, Nat.zero_mod]), h0, Nat.zero_div]
    rw [hn, signFactor_mul_eq_zero.2 rfl]
    simpa using roundsToInt_zero mode
  · exact ⟨s, _, roundsAmong_of_frac hd one_pos (mul_one _).symm (mul_one _).symm rfl (by rw [abs_signFactor_mul, hval, mul_one]) (sign_iff hm.ne'),
      rfl⟩

/-! The vector formats. -/

/-- The formats of the float views (R189). -/
def vectorFmts : List FloatFmt := [ff16, ffbf16, ff32, ff64]

theorem ieee_of_mem {f : FloatFmt} (hf : f ∈ vectorFmts) : f.Ieee := by
  have h : ∀ f ∈ vectorFmts, f.special = .ieee ∧ 0 < f.mbits ∧ 0 < f.ebits := by decide
  obtain ⟨h1, h2, h3⟩ := h f hf
  exact ⟨h1, h2, h3⟩

/-- The encoding of 2^M lies within the range of a vector format. -/
theorem ints_le_maxBits {f : FloatFmt} (hf : f ∈ vectorFmts) : (f.bias + f.mbits - 1) * 2 ^ f.mbits + 2 ^ f.mbits ≤ f.maxBits := by
  have h : ∀ f ∈ vectorFmts, (f.bias + f.mbits - 1) * 2 ^ f.mbits + 2 ^ f.mbits ≤ f.maxBits := by decide
  exact h f hf

/-- The integers up to 2^M are magnitudes of a vector format. -/
theorem exists_ladder_nat {f : FloatFmt} (hf : f ∈ vectorFmts) {n : Nat} (hn : n ≤ 2 ^ f.mbits) : ∃ k ≤ f.maxBits, f.ladder k = n := by
  have hM := (ieee_of_mem hf).mbits_pos
  have hexp : f.minExp + ((f.bias + f.mbits - 1 : Nat) : Int) = 0 := by rw [FloatFmt.minExp]; omega
  obtain ⟨k, hk⟩ := f.exists_ladder_eq (f.bias + f.mbits - 1) (m := n) (hn.trans_lt (Nat.pow_lt_pow_right (by decide) (Nat.lt_succ_self _)))
  have htop := f.ladder_scaled (j := f.bias + f.mbits - 1) (n := 2 ^ f.mbits) (Nat.pow_le_pow_right (by decide) (Nat.le_succ _)) (.inr le_rfl)
  rw [hexp, zpow_zero, mul_one] at hk htop
  refine ⟨k, ?_, hk⟩
  rw [← f.ladder_strictMono.le_iff_le, hk]
  calc (n : ℝ) ≤ (2 ^ f.mbits : Nat) := by exact_mod_cast hn
    _ = f.ladder _ := htop.symm
    _ ≤ _ := f.ladder_strictMono.monotone (ints_le_maxBits hf)

/-- The magnitude of a finite value rounded to an integer. -/
theorem exists_ladder_roundNat {f : FloatFmt} (hf : f ∈ vectorFmts) (mode : RMode) {a : Nat} {s : Bool} {m : Nat} {e : Int} (h : decodeVal f a = .fin s m e) :
    ∃ k ≤ f.maxBits, f.ladder k = roundNat mode s (scaleFrac m 1 e).1 (scaleFrac m 1 e).2 := by
  have hi := ieee_of_mem hf
  obtain ⟨m', e', hd, hl, hlt, -⟩ := hi.decodeVal_of_lt (hi.magBits_lt_of_fin h)
  rw [h] at hd
  obtain ⟨-, rfl, rfl⟩ := Val.fin.inj hd
  cases e with
  | ofNat k =>
    refine ⟨_, hi.magBits_le_maxBits (hi.magBits_lt_of_fin h), hl.trans ?_⟩
    have hn : roundNat mode s (scaleFrac m 1 (.ofNat k)).1 (scaleFrac m 1 (.ofNat k)).2 = m * 2 ^ k :=
      (roundNat_of_dvd one_pos (Nat.mod_one _)).trans (Nat.div_one _)
    rw [hn, Int.ofNat_eq_natCast, zpow_natCast]
    push_cast
    rfl
  | negSucc k =>
    refine exists_ladder_nat hf ?_
    have hhalf : m / 2 ^ (k + 1) < 2 ^ f.mbits := by
      rw [Nat.div_lt_iff_lt_mul (by positivity), ← pow_add]
      exact hlt.trans_le (Nat.pow_le_pow_right (by decide) (by omega))
    have hdef : (scaleFrac m 1 (.negSucc k)).1 / (scaleFrac m 1 (.negSucc k)).2 = m / 2 ^ (k + 1) := by rw [scaleFrac, Nat.one_mul]
    unfold roundNat
    rw [hdef]
    split <;> omega

/-- `frnd` of a finite value that is not zero (R196). -/
theorem frndBits_rounds {f : FloatFmt} (hf : f ∈ vectorFmts) (mode : RMode) {a : Nat} {x : ℝ} (h : (decodeVal f a).Is x) (hx : x ≠ 0) :
    ∃ n, RoundsToInt mode x n ∧ (decodeVal f (frndBits f mode a)).Is n ∧ f.negEnc (frndBits f mode a) = f.negEnc a := by
  have hi := ieee_of_mem hf
  obtain ⟨m, e, hd, rfl⟩ := decodeVal_is h
  have hm : m ≠ 0 := fun h0 => hx (signFactor_mul_eq_zero.2 h0)
  obtain ⟨k, hk, hl⟩ := exists_ladder_roundNat hf mode hd
  have hr : (Val.fin (f.negEnc a) m e).roundInt mode = _ := roundIntFrac_eq mode (f.negEnc a) (scaleFrac m 1 e).1 (scaleFrac m 1 e).2
  generalize roundNat mode (f.negEnc a) (scaleFrac m 1 e).1 (scaleFrac m 1 e).2 = n at hl hr
  have habs : ((Val.fin (f.negEnc a) m e).roundInt mode).natAbs = n := by
    rw [hr]
    split <;> simp
  have hbits : frndBits f mode a = f.signBits (f.negEnc a) + k := by
    rw [frndBits, hd]
    simp only [if_neg hm]
    split
    next h0 =>
      have hk0 : k = 0 := by
        refine f.ladder_strictMono.injective ?_
        rw [hl, f.ladder_zero, ← habs, h0, Int.natAbs_zero, Nat.cast_zero]
      rw [hk0, Nat.add_zero]
    next h0 =>
      rw [habs]
      exact hi.roundVal_exact mode (by rw [hl, zpow_zero, mul_one]) hk
  have hlt : k < 2 ^ (f.ebits + f.mbits) := (hk.trans_lt hi.maxBits_lt).trans f.infBits_lt
  refine ⟨_, h.roundsToInt mode, ?_, ?_⟩
  · rw [hbits, hd, hr]
    have hv := hi.is_signBits_add (f.negEnc a) hk
    rw [hl] at hv
    convert hv using 1
    cases f.negEnc a <;> simp
  · rw [hbits, f.negEnc_signBits_add _ hlt]

/-! Square roots. -/

theorem isqrtFrom_spec (n : Nat) : ∀ k r : Nat, r * r ≤ n → n < (r + 2 ^ k) * (r + 2 ^ k) →
    isqrtFrom n k r * isqrtFrom n k r ≤ n ∧ n < (isqrtFrom n k r + 1) * (isqrtFrom n k r + 1)
  | 0, r, hlo, hhi => ⟨hlo, hhi⟩
  | k + 1, r, hlo, hhi => by
    unfold isqrtFrom
    split
    next h => exact isqrtFrom_spec n k _ h (by rwa [Nat.add_assoc, ← Nat.two_mul, ← pow_succ'])
    next h => exact isqrtFrom_spec n k r hlo (Nat.not_le.1 h)

theorem isqrt_spec (n : Nat) : isqrt n * isqrt n ≤ n ∧ n < (isqrt n + 1) * (isqrt n + 1) := by
  refine isqrtFrom_spec n _ 0 (Nat.zero_le n) ?_
  rw [Nat.zero_add, ← pow_add]
  exact Nat.lt_log2_self.trans_le (Nat.pow_le_pow_right (by decide) (by omega))

/-- Two positive numbers that no magnitude of the format and no midpoint between neighbours separates are rounded alike. -/
theorem FloatFmt.Rounds.congr_between {f : FloatFmt} {mode : RMode} {lo hi x x' : ℝ} {r : Nat} (h0 : 0 ≤ lo) (hx : lo < x ∧ x < hi) (hx' : lo < x' ∧ x' < hi)
    (hgap : ∀ k, f.ladder k < hi → lo < f.ladder (k + 1) → f.ladder k ≤ lo ∧ hi ≤ f.ladder (k + 1) ∧
      (f.ladder k + f.ladder (k + 1) ≤ 2 * lo ∨ 2 * hi ≤ f.ladder k + f.ladder (k + 1))) (h : f.Rounds mode x r) : f.Rounds mode x' r := by
  obtain ⟨neg, n, ⟨hneg, k, hk, hk', hup, hdown⟩, rfl⟩ := f.rounds_iff.1 h
  rw [abs_of_pos (h0.trans_lt hx.1)] at hk hk' hup hdown
  obtain ⟨hlo, hhi, hmid⟩ := hgap k (hk.trans_lt hx.2) (hx.1.trans hk')
  have hsame : GoesUp mode neg (k % 2 = 1) (f.ladder k) x' (f.ladder (k + 1)) ↔ GoesUp mode neg (k % 2 = 1) (f.ladder k) x (f.ladder (k + 1)) := by
    have hlt : f.ladder k + f.ladder (k + 1) < 2 * x' ↔ f.ladder k + f.ladder (k + 1) < 2 * x := by
      rcases hmid with h | h <;> constructor <;> intro _ <;> linarith
    have hne : f.ladder k + f.ladder (k + 1) ≠ 2 * x' ∧ f.ladder k + f.ladder (k + 1) ≠ 2 * x := by
      rcases hmid with h | h <;> constructor <;> intro _ <;> linarith
    have habove : f.ladder k < x' ∧ f.ladder k < x := ⟨hlo.trans_lt hx'.1, hlo.trans_lt hx.1⟩
    cases mode <;> simp only [GoesUp, le_iff_lt_or_eq, hlt, hne.1, hne.2, habove.1, habove.2, false_and]
  refine f.rounds_iff.2 ⟨neg, n, ⟨?_, k, ?_, ?_, ?_, ?_⟩, rfl⟩
  · rw [hneg]
    constructor <;> intro _ <;> linarith
  · rw [abs_of_pos (h0.trans_lt hx'.1)]
    linarith
  · rw [abs_of_pos (h0.trans_lt hx'.1)]
    linarith
  · rwa [abs_of_pos (h0.trans_lt hx'.1), hsame]
  · rwa [abs_of_pos (h0.trans_lt hx'.1), hsame]

/-- No magnitude and no midpoint lies strictly within a unit that stands three places below the last bit. -/
theorem FloatFmt.ladder_gap (f : FloatFmt) {s : Nat} {g : Int} (hs : 2 ^ (f.mbits + 4) ≤ s) (k : Nat) (hlo : f.ladder k < (s + 1 : Nat) * (2 : ℝ) ^ g)
    (hhi : s * (2 : ℝ) ^ g < f.ladder (k + 1)) : f.ladder k ≤ s * (2 : ℝ) ^ g ∧ (s + 1 : Nat) * (2 : ℝ) ^ g ≤ f.ladder (k + 1) ∧
      (f.ladder k + f.ladder (k + 1) ≤ 2 * (s * (2 : ℝ) ^ g) ∨ 2 * ((s + 1 : Nat) * (2 : ℝ) ^ g) ≤ f.ladder k + f.ladder (k + 1)) := by
  obtain ⟨j, n, hn, -, hk, hk'⟩ := f.ladder_step k
  have hg : (0 : ℝ) < 2 ^ g := by positivity
  have hexp : g < f.minExp + j := by
    have h : (2 : ℝ) ^ ((f.mbits : Int) + 4 + g) < 2 ^ ((f.mbits : Int) + 1 + (f.minExp + j)) := by
      calc (2 : ℝ) ^ ((f.mbits : Int) + 4 + g) = (2 ^ (f.mbits + 4) : Nat) * 2 ^ g := by rw [zpow_add₀ two_ne_zero]; norm_cast
        _ ≤ s * 2 ^ g := mul_le_mul_of_nonneg_right (by exact_mod_cast hs) hg.le
        _ < _ := hhi
        _ = (n + 1 : Nat) * 2 ^ (f.minExp + j) := hk'
        _ ≤ (2 ^ (f.mbits + 1) : Nat) * 2 ^ (f.minExp + j) := mul_le_mul_of_nonneg_right (by exact_mod_cast hn) (by positivity)
        _ = _ := by rw [zpow_add₀ two_ne_zero ((f.mbits : Int) + 1)]; norm_cast
    have := (zpow_lt_zpow_iff_right₀ one_lt_two).1 h
    omega
  obtain ⟨t, ht⟩ : ∃ t : Nat, (2 : ℝ) ^ (f.minExp + j) = (2 * t : Nat) * 2 ^ g := by
    refine ⟨2 ^ (f.minExp + j - g - 1).toNat, ?_⟩
    have he : f.minExp + j = 1 + ((f.minExp + j - g - 1).toNat : Int) + g := by omega
    rw [he, zpow_add₀ two_ne_zero, zpow_add₀ two_ne_zero, zpow_one, zpow_natCast]
    push_cast
    congr 3
    omega
  have hk : f.ladder k = (n * (2 * t) : Nat) * 2 ^ g := by rw [hk, ht]; push_cast; ring
  have hk' : f.ladder (k + 1) = ((n + 1) * (2 * t) : Nat) * 2 ^ g := by rw [hk', ht]; push_cast; ring
  have hsum : f.ladder k + f.ladder (k + 1) = 2 * (((2 * n + 1) * t : Nat) * 2 ^ g) := by rw [hk, hk']; push_cast; ring
  rw [hsum, mul_le_mul_iff_right₀ two_pos, mul_le_mul_iff_right₀ two_pos, hk, hk', mul_le_mul_iff_left₀ hg, mul_le_mul_iff_left₀ hg, mul_le_mul_iff_left₀ hg,
    mul_le_mul_iff_left₀ hg]
  rw [hk, mul_lt_mul_iff_left₀ hg] at hlo
  rw [hk', mul_lt_mul_iff_left₀ hg] at hhi
  norm_cast at hlo hhi ⊢
  omega

/-- The integer root of a fraction: its square, and that of the next integer, enclose the fraction. -/
theorem isqrt_frac {x y : Nat} (hy : 0 < y) :
    (isqrt (x / y) : ℝ) ^ 2 ≤ (x : ℝ) / y ∧ (x : ℝ) / y < (isqrt (x / y) + 1 : Nat) ^ 2 ∧
      ((isqrt (x / y) * isqrt (x / y) * y == x) = true ↔ (isqrt (x / y) : ℝ) ^ 2 = (x : ℝ) / y) := by
  obtain ⟨hlo, hhi⟩ := isqrt_spec (x / y)
  have hyR : (0 : ℝ) < y := by exact_mod_cast hy
  rw [le_div_iff₀ hyR, div_lt_iff₀ hyR, eq_div_iff hyR.ne', beq_iff_eq, sq, sq]
  refine ⟨?_, ?_, ?_⟩
  · exact_mod_cast (Nat.le_div_iff_mul_le hy).1 hlo
  · exact_mod_cast (Nat.div_lt_iff_lt_mul hy).1 hhi
  · exact_mod_cast Iff.rfl

/-- The root that `roundSqrt` takes has more bits than the format. -/
theorem isqrt_ge {M : Nat} {num den x y : Nat} {k : Int} (hn : 0 < num) (hd : 0 < den) (hy : 0 < y) (hk : k = (M : Int) + 4 - floorLog2 num den / 2)
    (hval : (x : ℝ) / y = (num : ℝ) / den * (2 : ℝ) ^ (2 * k)) : 2 ^ (M + 4) ≤ isqrt (x / y) := by
  have h : ((2 ^ (M + 4) : Nat) : ℝ) ^ 2 < (isqrt (x / y) + 1 : Nat) ^ 2 := by
    calc ((2 ^ (M + 4) : Nat) : ℝ) ^ 2 = (2 : ℝ) ^ (2 * ((M : Int) + 4)) := by rw [zpow_mul]; norm_cast; rw [← pow_mul, ← pow_mul, Nat.mul_comm]
      _ ≤ (2 : ℝ) ^ (floorLog2 num den + 2 * k) := zpow_le_zpow_right₀ one_le_two (by omega)
      _ = (2 : ℝ) ^ floorLog2 num den * (2 : ℝ) ^ (2 * k) := zpow_add₀ two_ne_zero _ _
      _ ≤ (x : ℝ) / y := by rw [hval]; exact mul_le_mul_of_nonneg_right (floorLog2_spec hn hd).1 (by positivity)
      _ < _ := (isqrt_frac hy).2.1
  have := lt_of_pow_lt_pow_left₀ 2 (by positivity) h
  exact Nat.le_of_lt_succ (by exact_mod_cast this)

theorem roundSqrt_rounds {f : FloatFmt} (hM : 0 < f.mbits) (mode : RMode) {num den : Nat} (hn : 0 < num) (hd : 0 < den) :
    f.Rounds mode (√((num : ℝ) / den)) (roundSqrt f mode num den) := by
  obtain ⟨k, hk⟩ : ∃ k : Int, k = (f.mbits : Int) + 4 - floorLog2 num den / 2 := ⟨_, rfl⟩
  have hval := scaleFrac_val num den (2 * k)
  have hy := scaleFrac_pos (num := num) (2 * k) hd
  obtain ⟨x, y, hxy⟩ : ∃ x y, scaleFrac num den (2 * k) = (x, y) := ⟨_, _, rfl⟩
  rw [hxy] at hval hy
  dsimp only at hval hy
  obtain ⟨hlo, hhi, hexact⟩ := isqrt_frac (x := x) hy
  have hge := isqrt_ge hn hd hy hk hval
  have hdef : roundSqrt f mode num den = roundFrac f mode false
      (scaleFrac (2 * isqrt (x / y) + if isqrt (x / y) * isqrt (x / y) * y == x then 0 else 1) 2 (-k)).1
      (scaleFrac (2 * isqrt (x / y) + if isqrt (x / y) * isqrt (x / y) * y == x then 0 else 1) 2 (-k)).2 := by
    unfold roundSqrt
    simp only [← hk, hxy]
  rw [hdef]
  generalize isqrt (x / y) = s at *
  have hspos : 0 < s := lt_of_lt_of_le (by positivity) hge
  have h2 : (0 : ℝ) < 2 ^ (-k) := by positivity
  have hroot : √((num : ℝ) / den) = √((x : ℝ) / y) * 2 ^ (-k) := by
    rw [hval, mul_comm 2 k, zpow_mul, Real.sqrt_mul (by positivity), zpow_ofNat, Real.sqrt_sq (by positivity), mul_assoc, ← zpow_add₀ two_ne_zero,
      add_neg_cancel, zpow_zero, mul_one]
  have hfrac : ∀ t : Nat, 0 < t → f.Rounds mode ((t : ℝ) / 2 * 2 ^ (-k)) (roundFrac f mode false (scaleFrac t 2 (-k)).1 (scaleFrac t 2 (-k)).2) :=
    fun t ht => by
      have hpos : (0 : ℝ) ≤ (t : ℝ) / 2 * 2 ^ (-k) := by positivity
      refine roundFrac_rounds f hM mode (scaleFrac_num_pos _ ht) (scaleFrac_pos _ two_pos) ?_ ?_
      · rw [abs_of_nonneg hpos, scaleFrac_val, Nat.cast_ofNat]
      · simpa using hpos
  by_cases hs : (s * s * y == x) = true
  · rw [if_pos hs, Nat.add_zero]
    have h := hfrac (2 * s) (by omega)
    have heq : ((2 * s : Nat) : ℝ) / 2 = s := by push_cast; ring
    rwa [hroot, ← hexact.1 hs, Real.sqrt_sq (by positivity), ← heq]
  · rw [if_neg hs]
    have hlt : (s : ℝ) ^ 2 < (x : ℝ) / y := lt_of_le_of_ne hlo fun h => hs (hexact.2 h)
    refine (hfrac (2 * s + 1) (by omega)).congr_between (lo := s * 2 ^ (-k)) (hi := (s + 1 : Nat) * 2 ^ (-k)) (by positivity) ⟨?_, ?_⟩ ⟨?_, ?_⟩
      (f.ladder_gap hge)
    · rw [mul_lt_mul_iff_left₀ h2]
      push_cast
      linarith
    · rw [mul_lt_mul_iff_left₀ h2]
      push_cast
      linarith
    · rw [hroot, mul_lt_mul_iff_left₀ h2]
      exact Real.lt_sqrt_of_sq_lt hlt
    · rw [hroot, mul_lt_mul_iff_left₀ h2]
      exact (Real.sqrt_lt' (by positivity)).2 hhi

end Sys2Proof.Machine
end

section
/-! SUPPORT. Floating-point elements (R190, R191, R197, R198): zero sums, special functions of special values, conversions. -/

namespace Sys2Proof.Machine

/-! Sums and products of two elements. -/

theorem Val.isZero_fin (t s : Bool) (m : Nat) (e : Int) : (Val.fin s m e).isZero t = ((s == t) && decide (m = 0)) := rfl

theorem sumRound_pair {f : FloatFmt} (hM : 0 < f.mbits) (mode : RMode) {v w : Val} {x y : ℝ} (hv : v.Is x) (hw : w.Is y) (hs : x + y ≠ 0) :
    f.Rounds mode (x + y) (sumRound f mode [v, w]) := by
  have h := sumRound_rounds hM mode (.cons hv (.cons hw .nil))
  rw [List.sum_cons, List.sum_cons, List.sum_nil, add_zero] at h
  exact h hs

/-- The sign of a zero sum of two elements: that of two zeros of one sign, else the mode's (R93, R191). -/
theorem zeroSign_pair {f : FloatFmt} (mode : RMode) {a b : Nat} {x y : ℝ} (ha : (decodeVal f a).Is x) (hb : (decodeVal f b).Is y) (h : x + y = 0) :
    zeroSign mode [decodeVal f a, decodeVal f b] = if x = 0 ∧ f.negEnc a = f.negEnc b then f.negEnc a else decide (mode = .rdn) := by
  obtain ⟨m, e, hda, hx⟩ := decodeVal_is ha
  obtain ⟨n, g, hdb, hy⟩ := decodeVal_is hb
  have hm : x = 0 ↔ m = 0 := hx ▸ signFactor_mul_eq_zero
  have hn : y = 0 ↔ n = 0 := hy ▸ signFactor_mul_eq_zero
  have hxy : x = 0 ↔ y = 0 := ⟨fun h' => by rwa [h', zero_add] at h, fun h' => by rwa [h', add_zero] at h⟩
  rw [hda, hdb, zeroSign]
  by_cases h0 : x = 0
  · have hm0 := hm.1 h0
    have hn0 := hn.1 (hxy.1 h0)
    cases f.negEnc a <;> cases f.negEnc b <;> simp [Val.isZero_fin, hm0, hn0, h0]
  · have hm0 := mt hm.2 h0
    simp [Val.isZero_fin, hm0, h0]

theorem Val.mul_sign {s t : Bool} {m n : Nat} {e g : Int} : (Val.fin s m e).mul (.fin t n g) = .fin (s != t) (m * n) (e + g) := rfl

/-- A zero product takes the sign of the product (R93). -/
theorem roundVal_mul_zero {f g : FloatFmt} (mode : RMode) {a b : Nat} {x y : ℝ} (ha : (decodeVal f a).Is x) (hb : (decodeVal f b).Is y) (h : x * y = 0) :
    roundVal g mode ((decodeVal f a).mul (decodeVal f b)) = g.signBits (f.negEnc a != f.negEnc b) := by
  obtain ⟨m, e, hda, hx⟩ := decodeVal_is ha
  obtain ⟨n, k, hdb, hy⟩ := decodeVal_is hb
  have hmn : m * n = 0 := by
    rcases mul_eq_zero.1 h with h | h
    · rw [signFactor_mul_eq_zero.1 (hx.symm.trans h), Nat.zero_mul]
    · rw [signFactor_mul_eq_zero.1 (hy.symm.trans h), Nat.mul_zero]
  rw [hda, hdb, Val.mul_sign, hmn, roundVal_zero]

/-- An infinity beside a finite value (R93). -/
theorem sumRound_inf_fin {f : FloatFmt} (hf : f.Ieee) (mode : RMode) {s : Bool} {v : Val} {y : ℝ} (h : v.Is y) :
    sumRound f mode [.inf s, v] = f.signBits s + f.infBits := by
  obtain ⟨t, m, e, rfl, -⟩ := h.exists_fin
  exact sumRound_inf hf.special mode (by simp) (by simp) (by simp)

/-! Special functions (R197). -/

theorem SpecialFn.eval_nan (fn : SpecialFn) {f : FloatFmt} (mode : RMode) {a : Nat} (h : decodeVal f a = .nan) : fn.eval f mode a = f.nanBits := by
  rw [SpecialFn.eval, h]

/-- A special function of a finite value that is not zero, in its domain. -/
theorem SpecialFn.eval_of_finite {fn : SpecialFn} {f : FloatFmt} {mode : RMode} {a : Nat} {s : Bool} {m : Nat} {e : Int} {r : Nat}
    (h : decodeVal f a = .fin s m e) (hm : m ≠ 0) (hs : s = false ∨ (fn ≠ .rsq ∧ fn ≠ .sqrt ∧ fn ≠ .log2)) (hr : specialFinite fn f mode s m e = some r) :
    fn.eval f mode a = r := by
  have hdom : ¬ (s = true ∧ (fn = .rsq ∨ fn = .sqrt ∨ fn = .log2)) := by
    rintro ⟨rfl, hfn⟩
    obtain ⟨h1, h2, h3⟩ := hs.resolve_left (by decide)
    exact hfn.elim h1 (Or.rec h2 h3)
  rw [SpecialFn.eval, h]
  simp only [if_neg hm, if_neg hdom, hr]

theorem rcp_rounds {f : FloatFmt} (hM : 0 < f.mbits) (mode : RMode) {a : Nat} {x : ℝ} (h : (decodeVal f a).Is x) (hx : x ≠ 0) :
    f.Rounds mode (1 / x) (SpecialFn.rcp.eval f mode a) := by
  obtain ⟨m, e, hd, rfl⟩ := decodeVal_is h
  have hm : m ≠ 0 := fun h0 => hx (signFactor_mul_eq_zero.2 h0)
  rw [SpecialFn.eval_of_finite hd hm (.inr (by decide)) rfl]
  refine roundFrac_rounds f hM mode (scaleFrac_pos e one_pos) (scaleFrac_num_pos e (Nat.pos_of_ne_zero hm)) ?_ ?_
  · rw [abs_div, abs_one, abs_signFactor_mul, ← one_div_div ((scaleFrac m 1 e).1 : ℝ), scaleFrac_val, Nat.cast_one, div_one]
  · rw [sign_iff hm, one_div, inv_lt_zero]

/-- The parts of a positive value, as the fraction that the root is taken of. -/
theorem decodeVal_pos {f : FloatFmt} {a : Nat} {x : ℝ} (h : (decodeVal f a).Is x) (hx : 0 < x) : ∃ m e, decodeVal f a = .fin false m e ∧ m ≠ 0 ∧
    x = (scaleFrac m 1 e).1 / (scaleFrac m 1 e).2 := by
  obtain ⟨m, e, hd, rfl⟩ := decodeVal_is h
  have hm : m ≠ 0 := fun h0 => hx.ne' (signFactor_mul_eq_zero.2 h0)
  have hs : f.negEnc a = false := by
    rw [Bool.eq_false_iff, ne_eq, sign_iff hm]
    exact not_lt.2 hx.le
  rw [hs] at hd ⊢
  refine ⟨m, e, hd, hm, ?_⟩
  rw [scaleFrac_val, signFactor_false, one_mul, Nat.cast_one, div_one]

theorem sqrt_rounds {f : FloatFmt} (hM : 0 < f.mbits) (mode : RMode) {a : Nat} {x : ℝ} (h : (decodeVal f a).Is x) (hx : 0 < x) :
    f.Rounds mode (√x) (SpecialFn.sqrt.eval f mode a) ∧ f.Rounds mode (1 / √x) (SpecialFn.rsq.eval f mode a) := by
  obtain ⟨m, e, hd, hm, hfrac⟩ := decodeVal_pos h hx
  have hnum := scaleFrac_num_pos (den := 1) e (Nat.pos_of_ne_zero hm)
  have hden := scaleFrac_pos (num := m) e one_pos
  rw [SpecialFn.eval_of_finite hd hm (.inl rfl) rfl, SpecialFn.eval_of_finite hd hm (.inl rfl) rfl]
  constructor
  · rw [hfrac]
    exact roundSqrt_rounds hM mode hnum hden
  · rw [one_div, ← Real.sqrt_inv, hfrac, inv_div]
    exact roundSqrt_rounds hM mode hden hnum

/-- The root, its reciprocal and the logarithm have no value below zero. -/
theorem special_of_neg {f : FloatFmt} (mode : RMode) {a : Nat} {x : ℝ} (h : (decodeVal f a).Is x) (hx : x < 0) {fn : SpecialFn}
    (hfn : fn = .rsq ∨ fn = .sqrt ∨ fn = .log2) : fn.eval f mode a = f.nanBits := by
  obtain ⟨m, e, hd, rfl⟩ := decodeVal_is h
  have hm : m ≠ 0 := fun h0 => hx.ne (signFactor_mul_eq_zero.2 h0)
  rw [SpecialFn.eval, hd]
  simp only [if_neg hm]
  exact if_pos ⟨(sign_iff hm).2 hx, hfn⟩

theorem one_rounds {f : FloatFmt} (hM : 0 < f.mbits) (mode : RMode) (s : Bool) : f.Rounds mode (signFactor s) (roundVal f mode (.fin s 1 0)) :=
  roundVal_rounds hM mode (Val.is_fin.2 (by simp)) (signFactor_ne_zero s)

/-- The special functions of a zero. -/
theorem special_of_zero {f : FloatFmt} (hf : f.Ieee) (mode : RMode) {a : Nat} (ha : a < 2 ^ f.width) (h : (decodeVal f a).Is 0) :
    let fn := fun (o : SpecialFn) => o.eval f mode a
    fn .rcp = f.signBits (f.negEnc a) + f.infBits ∧ fn .rsq = f.signBits (f.negEnc a) + f.infBits ∧ fn .sqrt = a ∧ fn .sin = a ∧ fn .tanh = a ∧
      fn .log2 = f.signBits true + f.infBits ∧ f.Rounds mode 1 (fn .exp2) ∧ f.Rounds mode 1 (fn .cos) := by
  intro fn
  obtain ⟨m, e, hd, hx⟩ := decodeVal_is h
  obtain rfl := signFactor_mul_eq_zero.1 hx.symm
  have hself := hf.eq_signBits_of_is_zero ha h
  have hone : f.Rounds mode 1 (roundVal f mode (.fin false 1 0)) := one_rounds hf.mbits_pos mode false
  have hfn : ∀ o, fn o = SpecialFn.eval o f mode a := fun _ => rfl
  simp only [hfn, SpecialFn.eval, hd, if_true, true_and]
  exact ⟨hself.symm, hself.symm, hself.symm, hone, hone⟩

/-- The special functions of an infinity. -/
theorem special_of_inf {f : FloatFmt} (hf : f.Ieee) (mode : RMode) {a : Nat} (ha : a < 2 ^ f.width) {s : Bool} (h : decodeVal f a = .inf s) :
    let fn := fun (o : SpecialFn) => o.eval f mode a
    fn .rcp = f.signBits s ∧ fn .sin = f.nanBits ∧ fn .cos = f.nanBits ∧ (s = true → fn .exp2 = f.signBits false ∧
      fn .sqrt = f.nanBits ∧ fn .rsq = f.nanBits ∧ fn .log2 = f.nanBits ∧ f.Rounds mode (-1) (fn .tanh)) ∧
    (s = false → fn .exp2 = a ∧ fn .sqrt = a ∧ fn .rsq = f.signBits false ∧ fn .log2 = a ∧ f.Rounds mode 1 (fn .tanh)) := by
  intro fn
  have hself := hf.eq_of_inf ha h
  have hfn : ∀ o, fn o = SpecialFn.eval o f mode a := fun _ => rfl
  simp only [hfn, SpecialFn.eval, h, true_and]
  refine ⟨?_, ?_⟩
  · rintro rfl
    exact ⟨rfl, rfl, rfl, rfl, one_rounds hf.mbits_pos mode true⟩
  · rintro rfl
    rw [FloatFmt.signBits, if_neg Bool.false_ne_true, Nat.zero_add] at hself
    exact ⟨hself.symm, hself.symm, rfl, hself.symm, one_rounds hf.mbits_pos mode false⟩

/-- Sums, differences and products with an infinity. -/
theorem arith_of_inf {f : FloatFmt} (hf : f.Ieee) (mode : RMode) {a b : Nat} (ha : a < 2 ^ f.width) {s : Bool} (h : decodeVal f a = .inf s) {y : ℝ}
    (hy : (decodeVal f b).Is y) :
    FltV3.elem .add f mode a b = a ∧ FltV3.elem .sub f mode a b = a ∧
      (y ≠ 0 → FltV3.elem .mul f mode a b = f.signBits (s != f.negEnc b) + f.infBits) := by
  have hself := hf.eq_of_inf ha h
  refine ⟨?_, ?_, fun h0 => ?_⟩
  · exact (congrArg (fun v => sumRound f mode [v, _]) h).trans ((sumRound_inf_fin hf mode hy).trans hself.symm)
  · exact (congrArg (fun v => sumRound f mode [v, _]) h).trans ((sumRound_inf_fin hf mode hy.negate).trans hself.symm)
  · obtain ⟨m, e, hd, rfl⟩ := decodeVal_is hy
    have hm : m ≠ 0 := fun hm => h0 (signFactor_mul_eq_zero.2 hm)
    rw [FltV3.elem, h, hd, Val.inf_mul_fin hm, roundVal, if_pos hf.special]

/-! Conversions (R97, R98, R198). -/

theorem Val.is_ofInt (mode : RMode) {z : Int} (hz : z ≠ 0) : (Val.ofInt mode z).Is z := by
  rw [Val.ofInt, if_neg hz]
  refine Val.is_fin.2 ?_
  rw [zpow_zero, mul_one, Nat.cast_natAbs, Int.cast_abs]
  rcases lt_or_ge z 0 with hlt | hge
  · rw [decide_eq_true hlt, abs_of_neg (by exact_mod_cast hlt), signFactor_true]
    ring
  · rw [decide_eq_false (not_lt.2 hge), abs_of_nonneg (by exact_mod_cast hge), signFactor_false, one_mul]

/-- The order of two finite values is that of the reals. -/
theorem Val.cmp_pos_iff {v w : Val} {x y : ℝ} (hv : v.Is x) (hw : w.Is y) : 0 < v.cmp w ↔ y < x := by
  obtain ⟨s, m, e, rfl, -⟩ := hv.exists_fin
  obtain ⟨t, n, g, rfl, -⟩ := hw.exists_fin
  show 0 < sumUnits (min e g) [_] - sumUnits (min e g) [_] ↔ _
  have hx := sumUnits_val (g := min e g) (.cons hv .nil) (by simp [Val.exponent])
  have hy := sumUnits_val (g := min e g) (.cons hw .nil) (by simp [Val.exponent])
  rw [List.sum_cons, List.sum_nil, add_zero] at hx hy
  rw [← hx, ← hy, mul_lt_mul_iff_left₀ (by positivity), sub_pos, Int.cast_lt]

/-- The greatest magnitude of an IEEE format. -/
theorem FloatFmt.Ieee.ladder_maxBits {f : FloatFmt} (hf : f.Ieee) (he : 1 < f.ebits) :
    f.ladder f.maxBits = (2 ^ (f.mbits + 1) - 1 : Nat) * (2 : ℝ) ^ (f.minExp + (2 ^ f.ebits - 3 : Nat)) := by
  have h4 : 4 ≤ 2 ^ f.ebits := Nat.pow_le_pow_right (n := 2) (i := 2) (by decide) he
  have hpos : 0 < 2 ^ f.mbits := by positivity
  have hmax : f.maxBits = (2 ^ f.ebits - 3) * 2 ^ f.mbits + (2 ^ (f.mbits + 1) - 1) := by
    obtain ⟨t, ht⟩ := Nat.exists_eq_add_of_le h4
    rw [hf.maxBits_eq, FloatFmt.infBits, ht, pow_succ, show 4 + t - 1 = t + 1 + 2 by omega, show 4 + t - 3 = t + 1 by omega, Nat.add_mul]
    omega
  rw [hmax, f.ladder_scaled (by omega) (.inr (by rw [pow_succ]; omega))]

/-- A finite encoding is what its value is rounded to. -/
theorem FloatFmt.Ieee.roundVal_decodeVal {f : FloatFmt} (hf : f.Ieee) (mode : RMode) {a : Nat} (h : f.magBits a < f.infBits) :
    roundVal f mode (decodeVal f a) = f.signBits (f.negEnc a) + f.magBits a := by
  obtain ⟨m, e, hd, hl, -, -⟩ := hf.decodeVal_of_lt h
  rw [hd, hf.roundVal_exact mode hl.symm (hf.magBits_le_maxBits h)]

/-- The greatest value, as an encoding. -/
theorem FloatFmt.Ieee.negEnc_maxBits {f : FloatFmt} (hf : f.Ieee) : f.negEnc f.maxBits = false ∧ f.magBits f.maxBits = f.maxBits := by
  have hlt := hf.maxBits_lt.trans f.infBits_lt
  have hsign := f.negEnc_signBits_add false hlt
  rw [FloatFmt.signBits, if_neg Bool.false_ne_true, Nat.zero_add] at hsign
  exact ⟨hsign, Nat.mod_eq_of_lt hlt⟩

/-- Narrowing of a finite value with no bound but the format's greatest (R97). -/
theorem narrowVal_finite {f : FloatFmt} (hf : f.Ieee) (mode : RMode) {s : Bool} {m : Nat} {e : Int} :
    (m * (2 : ℝ) ^ e ≤ f.ladder f.maxBits → narrowVal f mode (.fin false 0 0) (.fin s m e) = (roundVal f mode (.fin s m e), false)) ∧
    (f.ladder f.maxBits < m * (2 : ℝ) ^ e → narrowVal f mode (.fin false 0 0) (.fin s m e) = (f.signBits s + f.maxBits, true)) := by
  obtain ⟨hsign, hmag⟩ := hf.negEnc_maxBits
  have hlt : f.magBits f.maxBits < f.infBits := hmag.trans_lt hf.maxBits_lt
  have hmax := hf.is_ladder hlt
  have hself := hf.roundVal_decodeVal .rtz hlt
  rw [hsign, hmag] at hmax hself
  rw [signFactor_false, one_mul] at hmax
  rw [FloatFmt.signBits, if_neg Bool.false_ne_true, Nat.zero_add] at hself
  have hcmp : 0 < (Val.fin false m e).cmp (decodeVal f f.maxBits) ↔ f.ladder f.maxBits < m * (2 : ℝ) ^ e :=
    Val.cmp_pos_iff (Val.is_fin.2 (by rw [signFactor_false, one_mul])) hmax
  have hdef : narrowVal f mode (.fin false 0 0) (.fin s m e) =
      if 0 < (Val.fin false m e).cmp (decodeVal f f.maxBits) then (f.signBits s + roundVal f .rtz (decodeVal f f.maxBits), true)
      else (roundVal f mode (.fin s m e), false) := rfl
  exact ⟨fun h => by rw [hdef, if_neg (hcmp.not.2 (not_lt.2 h))], fun h => by rw [hdef, if_pos (hcmp.2 h), hself]⟩

/-- A finite `f32` value is a magnitude of `f64`. -/
theorem exists_ladder_widen {a m : Nat} {s : Bool} {e : Int} (h : decodeVal ff32 a = .fin s m e) : ∃ k ≤ ff64.maxBits, ff64.ladder k = m * (2 : ℝ) ^ e := by
  have h32 : ff32.Ieee := ieee_of_mem (by decide)
  have h64 : ff64.Ieee := ieee_of_mem (by decide)
  obtain ⟨m', e', hd, hl, hm, he⟩ := h32.decodeVal_of_lt (h32.magBits_lt_of_fin h)
  rw [h] at hd
  obtain ⟨-, rfl, rfl⟩ := Val.fin.inj hd
  have hmin : ff32.minExp = -149 ∧ ff64.minExp = -1074 := by decide
  have hexp : ff64.minExp + ((e + 1074).toNat : Int) = e := by omega
  obtain ⟨k, hk⟩ := ff64.exists_ladder_eq (e + 1074).toNat (m := m) (hm.trans (by decide))
  rw [hexp] at hk
  refine ⟨k, ?_, hk⟩
  rw [← ff64.ladder_strictMono.le_iff_le, hk, ← hl]
  calc ff32.ladder (ff32.magBits a) ≤ ff32.ladder ff32.maxBits :=
        ff32.ladder_strictMono.monotone (h32.magBits_le_maxBits (h32.magBits_lt_of_fin h))
    _ = (2 ^ 24 - 1 : Nat) * (2 : ℝ) ^ (104 : Int) := h32.ladder_maxBits (by decide)
    _ ≤ (2 ^ 53 - 1 : Nat) * (2 : ℝ) ^ (971 : Int) :=
        mul_le_mul (by norm_num) (zpow_le_zpow_right₀ one_le_two (by decide)) (by positivity) (by positivity)
    _ = ff64.ladder ff64.maxBits := (h64.ladder_maxBits (by decide)).symm

theorem ladder_maxBits_ff32 : ff32.ladder ff32.maxBits = (2 - 2 ^ (-23 : Int)) * 2 ^ 127 := by
  have h : ff32.ladder ff32.maxBits = (2 ^ 24 - 1 : Nat) * (2 : ℝ) ^ (104 : Int) := (ieee_of_mem (f := ff32) (by decide)).ladder_maxBits (by decide)
  rw [h]
  norm_num

/-! `cvt`, pair by pair. -/

theorem cvtOk_of_int_src {dt st : EType} (h : cvtOk dt st = true) (hs : st.isInt = true) : dt.isInt = false ∧ dt.fmt ∈ vectorFmts := by
  cases st <;> cases hs <;> cases dt <;> first | exact ⟨rfl, by decide⟩ | cases h

theorem etype_width_pos (et : EType) : 0 < et.width := by cases et <;> decide

theorem cvtBits_of_int_src {dt st : EType} (hd : dt.isInt = false) (hs : st.isInt = true) (mode : RMode) (sat : Bool) (a : Nat) :
    cvtBits dt st mode sat a = (roundVal dt.fmt mode (Val.ofInt mode (viewInt st.width st.signed a)), false) := by
  rw [cvtBits, hd, hs]
  rfl

theorem cvtBits_of_int_dst {dt : EType} (hd : dt.isInt = true) (st : EType) (mode : RMode) (sat : Bool) (a : Nat) :
    cvtBits dt st mode sat a =
      (truncBits (valToInt mode dt.width dt.signed (decodeVal st.fmt a)).1 dt.width, (valToInt mode dt.width dt.signed (decodeVal st.fmt a)).2 && sat) := by
  rw [cvtBits, if_pos hd]

theorem valToInt_finite (mode : RMode) (w : Nat) (sgn : Bool) {v : Val} {x : ℝ} (h : v.Is x) :
    valToInt mode w sgn v = (satInt w sgn (v.roundInt mode), decide (satInt w sgn (v.roundInt mode) ≠ v.roundInt mode)) := by
  obtain ⟨s, m, e, rfl, -⟩ := h.exists_fin
  rfl

theorem viewInt_intMin {w : Nat} (hw : 0 < w) (sgn : Bool) : viewInt w sgn (truncBits (intMin w sgn) w) = intMin w sgn := by
  refine viewInt_truncBits hw ?_
  have hp : (0 : Int) < 2 ^ w := by positivity
  have hq : (0 : Int) < 2 ^ (w - 1) := by positivity
  cases sgn <;> simp [Fits, intMin]

theorem viewInt_intMax {w : Nat} (hw : 0 < w) (sgn : Bool) : viewInt w sgn (truncBits (intMax w sgn) w) = intMax w sgn := by
  refine viewInt_truncBits hw ?_
  have hp : (1 : Int) ≤ 2 ^ w := one_le_pow₀ (by decide)
  have hq : (1 : Int) ≤ 2 ^ (w - 1) := one_le_pow₀ (by decide)
  cases sgn
  · simpa [Fits, intMax] using hp
  · simp [Fits, intMax]

end Sys2Proof.Machine
end

section
/-! PROOF. O5: floating-point instructions, conversions and dot products. -/

namespace Sys2Proof.Machine

/-! What each instruction runs. -/

theorem exec_fltV3 : ∀ p ∈ fltV3Rows, ∀ d a b s, exec (p.1 d a b) s = fltV3 p.2 1 d (.v a) (.v b) s := by
  intro p hp d a b s
  fin_cases hp <;> rfl

theorem exec_fltV2 : ∀ p ∈ fltV2Rows, ∀ d a s, exec (p.1 d a) s = fltV2 p.2 1 d (.v a) s := by
  intro p hp d a s
  fin_cases hp <;> rfl

/-- An instruction with one result in the active lanes where its operands are legal, and illegal elsewhere. -/
theorem vectorResult_or_illegal {s : State} {c : Issuer} {i : Instr} {n : Nat} {src : Option Reg} {f : Issuer → TeamRes} {wide ok : Bool} {d : Reg}
    {val : Nat → Result} (h : s.issuer = some c) (he : exec i s = s.teamOp n src f)
    (hf : f c = if ok = true then .done (c.team.sweepResult s.rf wide d val) else .illegal) (hd : ok = true → sOk wide d = true) :
    if ok = true then VectorResult i s c n wide d val else RaisesIllegal i s c := by
  split
  next hok => exact .of_done h he (hd hok) (hf.trans (if_pos hok))
  next hok => exact .of_illegal h he (hf.trans (if_neg hok))

/-- The conversions to an integer type: rounded, then clamped (R98). -/
theorem cvtBits_to_int {dt : EType} (hd : dt.isInt = true) (st : EType) (mode : RMode) (sat : Bool) (a : Nat) {x : ℝ} (h : (decodeVal st.fmt a).Is x) :
    ∃ n, RoundsToInt mode x n ∧ viewInt dt.width dt.signed (cvtBits dt st mode sat a).1 = satInt dt.width dt.signed n ∧
      ((cvtBits dt st mode sat a).2 = true ↔ sat = true ∧ ¬ Fits dt.width dt.signed n) := by
  refine ⟨_, h.roundsToInt mode, ?_, ?_⟩
  · rw [cvtBits_of_int_dst hd, valToInt_finite mode _ _ h]
    exact viewInt_truncBits (etype_width_pos dt) (satInt_fits _ _ _)
  · rw [cvtBits_of_int_dst hd, valToInt_finite mode _ _ h]
    simp only [Bool.and_eq_true, decide_eq_true_eq, ne_eq, satInt_eq_iff, and_comm]

theorem cvtBits_widen (mode : RMode) (sat : Bool) {a : Nat} {x : ℝ} (h : (decodeVal ff32 a).Is x) :
    (decodeVal ff64 (cvtBits .f64 .f32 mode sat a).1).Is x := by
  obtain ⟨s, m, e, hd, rfl⟩ := h.exists_fin
  obtain ⟨k, hk, hl⟩ := exists_ladder_widen hd
  have h64 : ff64.Ieee := ieee_of_mem (by decide)
  show (decodeVal ff64 (roundVal ff64 mode (decodeVal ff32 a))).Is _
  rw [hd, h64.roundVal_exact mode hl.symm hk, mul_assoc, ← hl]
  exact h64.is_signBits_add s hk

theorem cvtBits_narrow (mode : RMode) (sat : Bool) {a : Nat} {x : ℝ} (h : (decodeVal ff64 a).Is x) :
    (|x| ≤ ff32.ladder ff32.maxBits → (cvtBits .f32 .f64 mode sat a).2 = false ∧ (x ≠ 0 → ff32.Rounds mode x (cvtBits .f32 .f64 mode sat a).1)) ∧
    (ff32.ladder ff32.maxBits < |x| → cvtBits .f32 .f64 mode sat a = (ff32.signBits (ff64.negEnc a) + ff32.maxBits, sat)) := by
  obtain ⟨m, e, hd, hx⟩ := decodeVal_is h
  have h32 : ff32.Ieee := ieee_of_mem (by decide)
  obtain ⟨hin, hout⟩ := narrowVal_finite h32 mode (s := ff64.negEnc a) (m := m) (e := e)
  have hdef : cvtBits .f32 .f64 mode sat a =
      ((narrowVal ff32 mode (.fin false 0 0) (decodeVal ff64 a)).1, (narrowVal ff32 mode (.fin false 0 0) (decodeVal ff64 a)).2 && sat) := rfl
  have habs : |x| = m * (2 : ℝ) ^ e := by rw [hx, abs_signFactor_mul]
  rw [hdef, habs]
  refine ⟨fun hle => ?_, fun hlt => ?_⟩
  · rw [hd, hin hle]
    exact ⟨rfl, roundVal_rounds h32.mbits_pos mode (hd ▸ h)⟩
  · rw [hd, hout hlt, Bool.true_and]

/-- Settles O5: the instructions are sweeps of their element functions; these round exact values once, and the special values go case by case. -/
theorem vectorFloatingPoint : Obligations.VectorFloatingPoint := by
  refine ⟨fun s c h => ⟨fun p hp d a b => ?_, fun p hp d a => ?_, fun d a b e ub uc => ?_⟩,
    fun s c h => ⟨fun d a dt st => ?_, fun p hp d a b e ub uc => ?_, fun p hp d a b e ub uc => ?_, fun d a b e ub uc => ?_⟩,
    fun f hf mode a b e ha hb he => ⟨fun x y z hx hy hz => ?_, fun hn => ?_, fun hn => ?_, fun s hs => ?_⟩, fun mode sat a dt st hok => ⟨?_, ?_, ?_, ?_⟩⟩
  · refine vectorResult_or_illegal h (exec_fltV3 p hp d a b s) rfl fun hok => ?_
    simp only [Bool.and_eq_true] at hok
    exact Issuer.vOk_even hok.1.1
  · refine vectorResult_or_illegal h (exec_fltV2 p hp d a s) rfl fun hok => ?_
    simp only [Bool.and_eq_true] at hok
    exact Issuer.vOk_even hok.1
  · refine vectorResult_or_illegal h rfl rfl fun hok => ?_
    simp only [Bool.and_eq_true] at hok
    exact Issuer.vOk_even hok.1.1.1
  · refine vectorResult_or_illegal h rfl rfl fun hok => ?_
    simp only [Bool.and_eq_true] at hok
    exact Issuer.vOk_even hok.1.2
  · fin_cases hp
    · exact vectorResult_or_illegal h rfl rfl fun _ => rfl
    · exact vectorResult_or_illegal h rfl rfl fun _ => rfl
  · fin_cases hp
    · exact vectorResult_or_illegal h rfl rfl fun _ => rfl
    · exact vectorResult_or_illegal h rfl rfl fun _ => rfl
  · exact vectorResult_or_illegal h rfl rfl fun _ => rfl
  · have hi := ieee_of_mem hf
    have hM := hi.mbits_pos
    refine ⟨sumRound_pair hM mode hx hy, fun h => ?_, roundVal_rounds hM mode (hx.mul hy), sumRound_pair hM mode (hx.mul hy) hz, roundVal_mul_zero mode hx hy,
      fun h => ?_, frndBits_rounds hf mode hx, rcp_rounds hM mode hx, sqrt_rounds hM mode hx, fun h => ⟨special_of_neg mode hx h (.inr (.inl rfl)),
        special_of_neg mode hx h (.inl rfl), special_of_neg mode hx h (.inr (.inr rfl))⟩, fun h => ?_⟩
    · rw [sub_eq_add_neg] at h ⊢
      exact sumRound_pair hM mode hx hy.negate h
    · exact (sumRound_zero f mode (.cons hx (.cons hy .nil)) (by simpa using h)).trans (congrArg _ (zeroSign_pair mode hx hy h))
    · rw [h] at hx
      exact special_of_zero hi mode ha hx
  · have hadd : Val.nan ∈ [decodeVal f a, decodeVal f b] := by simp [hn]
    have hsub : Val.nan ∈ [decodeVal f a, (decodeVal f b).negate] := by simp [hn]
    refine ⟨sumRound_nan f mode hadd, sumRound_nan f mode hsub, ?_, ?_, fun o => o.eval_nan mode hn⟩
    · show roundVal f mode ((decodeVal f a).mul _) = _
      rw [hn, Val.mul_nan_left, roundVal]
    · show frndBits f mode a = _
      rw [frndBits, hn]
  · have hadd : Val.nan ∈ [decodeVal f a, decodeVal f b] := by simp [hn]
    have hsub : Val.nan ∈ [decodeVal f a, (decodeVal f b).negate] := by simp [hn, Val.negate]
    refine ⟨sumRound_nan f mode hadd, sumRound_nan f mode hsub, ?_⟩
    show roundVal f mode (Val.mul _ (decodeVal f b)) = _
    rw [hn, Val.mul_nan_right, roundVal]
  · have hi := ieee_of_mem hf
    refine ⟨fun hb' => ?_, fun hb' => ?_, fun h0 => ?_, fun y hy => arith_of_inf hi mode ha hs hy, ?_, special_of_inf hi mode ha hs⟩
    · exact sumRound_infs f mode s (by simp [hs]) (by simp [hb', Val.negate])
    · exact sumRound_infs f mode s (by simp [hs]) (by simp [hb'])
    · show roundVal f mode ((decodeVal f a).mul _) = _
      rw [hs, Val.inf_mul_zero h0, roundVal]
    · show frndBits f mode a = _
      rw [frndBits, hs]
  · intro hs hz
    obtain ⟨hd, hfmt⟩ := cvtOk_of_int_src hok hs
    rw [cvtBits_of_int_src hd hs]
    exact ⟨rfl, roundVal_rounds (ieee_of_mem hfmt).mbits_pos mode (Val.is_ofInt mode hz) (by exact_mod_cast hz)⟩
  · intro hd lo hi
    have hlo : intMin dt.width dt.signed = lo := by
      simp only [intMin, lo]
      push_cast
      rfl
    have hhi : intMax dt.width dt.signed = hi := by
      simp only [intMax, hi]
      push_cast
      rfl
    refine ⟨fun x hx => ?_, fun hn => ?_, fun s hs => ?_⟩
    · obtain ⟨n, hr, hv, hc⟩ := cvtBits_to_int hd st mode sat a hx
      exact ⟨n, hr, by rw [hv, satInt, hlo, hhi], hc⟩
    · rw [cvtBits_of_int_dst hd, hn]
      rfl
    · rw [cvtBits_of_int_dst hd, hs, ← hlo, ← hhi]
      cases s
      · exact ⟨viewInt_intMax (etype_width_pos dt) _, rfl⟩
      · exact ⟨viewInt_intMin (etype_width_pos dt) _, rfl⟩
  · rintro rfl rfl
    exact ⟨rfl, fun x hx => cvtBits_widen mode sat hx⟩
  · rintro rfl rfl x hx
    rw [← ladder_maxBits_ff32]
    exact cvtBits_narrow mode sat hx

end Sys2Proof.Machine
end

section
/-! SUPPORT. Tiles (R216, R218): where the elements stand, and folds that change one place after another. -/

namespace Sys2Proof.Machine

/-! Places of elements. -/

/-- The words of element (i, j) of a tile or tile pair. -/
def tileWords (t unit n i j y : Nat) : Prop := ∃ h, h < t ∧ y = tileElem t unit n i j + h

theorem tileElem_one (unit n i j : Nat) : tileElem 1 unit n i j = (unit * 32 + n) * 64 + (8 * i + j) := rfl
theorem tileElem_two (unit n i j : Nat) : tileElem 2 unit n i j = (unit * 32 + (n + j / 4)) * 64 + 2 * (4 * i + j % 4) := rfl

/-- Elements of one tile share no word. -/
theorem tileWords_inj {t unit n i j i' j' y : Nat} (ht : t = 1 ∨ t = 2) (hi : i < 8) (hi' : i' < 8) (hj : j < 8) (hj' : j' < 8)
    (h : tileWords t unit n i j y) (h' : tileWords t unit n i' j' y) : i = i' ∧ j = j' := by
  obtain ⟨k, hk, rfl⟩ := h
  obtain ⟨k', hk', he⟩ := h'
  rcases ht with rfl | rfl
  · rw [tileElem_one, tileElem_one] at he
    omega
  · rw [tileElem_two, tileElem_two] at he
    omega

/-- Tiles of different units or words share no word. -/
theorem tileWords_tile_inj {t unit unit' n w w' i j i' j' y : Nat} (ht : t = 1 ∨ t = 2) (hi : i < 8) (hi' : i' < 8) (hj : j < 8) (hj' : j' < 8)
    (hw : n + t * w + t ≤ 32) (hw' : n + t * w' + t ≤ 32) (h : tileWords t unit (n + t * w) i j y) (h' : tileWords t unit' (n + t * w') i' j' y) :
    unit = unit' ∧ w = w' := by
  obtain ⟨k, hk, rfl⟩ := h
  obtain ⟨k', hk', he⟩ := h'
  rcases ht with rfl | rfl
  · rw [tileElem_one, tileElem_one] at he
    omega
  · rw [tileElem_two, tileElem_two] at he
    omega

/-! Reads and writes of elements. -/

theorem tileGet_one (tiles : List (Nat × Word)) (unit n i j : Nat) :
    tileGet tiles 1 unit n i j = (Sparse.get 0 tiles (tileElem 1 unit n i j)).toNat := by simp [tileGet]

theorem tileGet_two (tiles : List (Nat × Word)) (unit n i j : Nat) : tileGet tiles 2 unit n i j =
    (Sparse.get 0 tiles (tileElem 2 unit n i j)).toNat + 2 ^ 32 * (Sparse.get 0 tiles (tileElem 2 unit n i j + 1)).toNat := by simp [tileGet]

theorem tileGet_congr {t unit n i j : Nat} {tiles tiles' : List (Nat × Word)} (ht : t = 1 ∨ t = 2)
    (h : ∀ y, tileWords t unit n i j y → Sparse.get 0 tiles y = Sparse.get 0 tiles' y) : tileGet tiles t unit n i j = tileGet tiles' t unit n i j := by
  rcases ht with rfl | rfl
  · rw [tileGet_one, tileGet_one, h (tileElem 1 unit n i j) ⟨0, by decide, rfl⟩]
  · rw [tileGet_two, tileGet_two, h (tileElem 2 unit n i j) ⟨0, by decide, rfl⟩, h _ ⟨1, by decide, rfl⟩]

theorem get_tileSet_of_not {t unit n i j x y : Nat} {tiles : List (Nat × Word)} (ht : t = 1 ∨ t = 2) (h : ¬ tileWords t unit n i j y) :
    Sparse.get 0 (tileSet tiles t unit n i j x) y = Sparse.get 0 tiles y := by
  have hne : ∀ k < t, y ≠ tileElem t unit n i j + k := fun k hk he => h ⟨k, hk, he⟩
  rcases ht with rfl | rfl
  · exact Sparse.get_set_ne 0 _ _ (hne 0 (by decide))
  · exact (Sparse.get_set_ne 0 _ _ (hne 1 (by decide))).trans (Sparse.get_set_ne 0 _ _ (hne 0 (by decide)))

theorem tileGet_tileSet {t unit n i j x : Nat} {tiles : List (Nat × Word)} (ht : t = 1 ∨ t = 2) :
    tileGet (tileSet tiles t unit n i j x) t unit n i j = x % 2 ^ (32 * t) := by
  rcases ht with rfl | rfl
  · rw [tileGet_one, tileSet, if_neg (by decide), Sparse.get_set_self, BitVec.toNat_ofNat]
  · rw [tileGet_two, tileSet, if_pos rfl, Sparse.get_set_self, Sparse.get_set_ne 0 _ _ (by omega), Sparse.get_set_self, BitVec.toNat_ofNat,
      BitVec.toNat_ofNat]
    have h := Nat.mod_mul (a := 2 ^ 32) (b := 2 ^ 32) (x := x)
    rw [show 2 ^ (32 * 2) = 2 ^ 32 * 2 ^ 32 by norm_num, h]

/-! Folds that change one place after another. -/

/-- Steps that change disjoint places, each as its own place tells, may be told from the start and the end of the fold. -/
theorem foldl_disjoint {ι : Type} {step : List (Nat × Word) → ι → List (Nat × Word)} {place : ι → Nat → Prop}
    {P : ι → List (Nat × Word) → List (Nat × Word) → Prop}
    (hlocal : ∀ i a a' b b', (∀ y, place i y → Sparse.get 0 a y = Sparse.get 0 a' y) → (∀ y, place i y → Sparse.get 0 b y = Sparse.get 0 b' y) →
      P i a b → P i a' b') : ∀ (l : List ι) (a : List (Nat × Word)),
    (∀ i ∈ l, ∀ a, P i a (step a i) ∧ ∀ y, ¬ place i y → Sparse.get 0 (step a i) y = Sparse.get 0 a y) →
    l.Pairwise (fun i i' => ∀ y, place i y → ¬ place i' y) →
    (∀ i ∈ l, P i a (l.foldl step a)) ∧ ∀ y, (∀ i ∈ l, ¬ place i y) → Sparse.get 0 (l.foldl step a) y = Sparse.get 0 a y
  | [], a, _, _ => ⟨by simp, fun _ _ => rfl⟩
  | i :: l, a, hstep, hdis => by
    obtain ⟨hi, hl⟩ := List.pairwise_cons.1 hdis
    obtain ⟨hP, hframe⟩ := foldl_disjoint hlocal l (step a i) (fun k hk => hstep k (List.mem_cons_of_mem _ hk)) hl
    obtain ⟨hPi, hout⟩ := hstep i List.mem_cons_self a
    rw [List.foldl_cons]
    refine ⟨fun k hk => ?_, fun y hy => ?_⟩
    · rcases List.mem_cons.1 hk with rfl | hk
      · exact hlocal k _ _ _ _ (fun _ _ => rfl) (fun y hy => (hframe y fun i' hi' => hi i' hi' y hy).symm) hPi
      · exact hlocal k _ _ _ _ (fun y hy => hout y fun h => hi k hk y h hy) (fun _ _ => rfl) (hP k hk)
    · rw [hframe y fun k hk => hy k (List.mem_cons_of_mem _ hk), hout y (hy i List.mem_cons_self)]

/-! One K-step (R220). -/

/-- The elements that a K-step changes: those of its rows, in order. -/
def KStep.cells (k : KStep) : List (KRow × Nat) := k.rows.flatMap fun x => (List.range 8).map fun j => (x, j)

/-- One element of a K-step. -/
def KStep.setCell (k : KStep) (b : List Byte) (tiles : List (Nat × Word)) (p : KRow × Nat) : List (Nat × Word) :=
  tileSet tiles k.width k.unit k.tile p.1.row p.2 (kStep k.fa k.fb (tileGet tiles k.width k.unit k.tile p.1.row p.2) (k.pairs b p.1 p.2))

theorem KStep.run_eq_cells (k : KStep) (b : List Byte) (tiles : List (Nat × Word)) : k.run b tiles = k.cells.foldl (k.setCell b) tiles := by
  rw [KStep.cells, List.foldl_flatMap]
  simp only [List.foldl_map]
  rfl

theorem KStep.mem_cells {k : KStep} {p : KRow × Nat} : p ∈ k.cells ↔ p.1 ∈ k.rows ∧ p.2 < 8 := by
  obtain ⟨x, j⟩ := p
  simp [KStep.cells]

/-- The words that a K-step changes. -/
def KStep.words (k : KStep) (y : Nat) : Prop := ∃ x ∈ k.rows, ∃ j < 8, tileWords k.width k.unit k.tile x.row j y

/-- The rows of a K-step are rows of a tile, each once, in tiles of one or two words an element. -/
structure KStep.Ok (k : KStep) : Prop where
  width : k.width = 1 ∨ k.width = 2
  nodup : (k.rows.map KRow.row).Nodup
  row_lt : ∀ x ∈ k.rows, x.row < 8

/-- What a K-step with the B given makes of its elements. -/
def KStep.Result (k : KStep) (b : List Byte) (tiles tiles' : List (Nat × Word)) : Prop :=
  ∀ x ∈ k.rows, ∀ j, j < 8 → tileGet tiles' k.width k.unit k.tile x.row j =
    kStep k.fa k.fb (tileGet tiles k.width k.unit k.tile x.row j) (k.pairs b x j) % 2 ^ (32 * k.width)

theorem KStep.cells_pairwise {k : KStep} (hk : k.Ok) : k.cells.Pairwise fun p p' =>
    ∀ y, tileWords k.width k.unit k.tile p.1.row p.2 y → ¬ tileWords k.width k.unit k.tile p'.1.row p'.2 y := by
  have hne : k.cells.Pairwise fun p p' => p.1.row ≠ p'.1.row ∨ p.2 ≠ p'.2 := by
    rw [KStep.cells, List.pairwise_flatMap]
    refine ⟨fun x _ => ?_, ?_⟩
    · rw [List.pairwise_map]
      exact List.nodup_range.imp fun h => .inr h
    · refine (List.pairwise_map.1 hk.nodup).imp fun h p hp p' hp' => .inl ?_
      obtain ⟨j, -, rfl⟩ := List.mem_map.1 hp
      obtain ⟨j', -, rfl⟩ := List.mem_map.1 hp'
      exact h
  refine hne.imp_of_mem fun {p p'} hp hp' hdiff y h h' => ?_
  obtain ⟨hx, hj⟩ := KStep.mem_cells.1 hp
  obtain ⟨hx', hj'⟩ := KStep.mem_cells.1 hp'
  obtain ⟨hi, hjj⟩ := tileWords_inj hk.width (hk.row_lt _ hx) (hk.row_lt _ hx') hj hj' h h'
  exact hdiff.elim (· hi) (· hjj)

theorem KStep.run_result {k : KStep} (hk : k.Ok) (b : List Byte) (tiles : List (Nat × Word)) :
    k.Result b tiles (k.run b tiles) ∧ ∀ y, ¬ k.words y → Sparse.get 0 (k.run b tiles) y = Sparse.get 0 tiles y := by
  have h := foldl_disjoint (step := k.setCell b) (place := fun p => tileWords k.width k.unit k.tile p.1.row p.2)
    (P := fun p a a' => tileGet a' k.width k.unit k.tile p.1.row p.2 =
      kStep k.fa k.fb (tileGet a k.width k.unit k.tile p.1.row p.2) (k.pairs b p.1 p.2) % 2 ^ (32 * k.width))
    (fun p a a' u u' ha hu h => by rw [← tileGet_congr hk.width ha, ← tileGet_congr hk.width hu, h]) k.cells tiles
    (fun p _ a => ⟨tileGet_tileSet hk.width, fun y hy => get_tileSet_of_not hk.width hy⟩) (KStep.cells_pairwise hk)
  rw [KStep.run_eq_cells]
  refine ⟨fun x hx j hj => h.1 (x, j) (KStep.mem_cells.2 ⟨hx, hj⟩), fun y hy => h.2 y fun p hp hw => hy ?_⟩
  obtain ⟨hx, hj⟩ := KStep.mem_cells.1 hp
  exact ⟨p.1, hx, p.2, hj, hw⟩

/-! The K-steps of a matrix instruction (R219, R224, R227). -/

/-- The lanes of a K-step. -/
theorem mem_kStepOf_rows {fa fb : Fmt} {t n w q : Nat} {row : Nat → Nat × Option Nat} {lanes : List Nat} {x : KRow} :
    x ∈ (kStepOf fa fb t n row lanes w q).rows ↔ ∃ l ∈ lanes, laneWord l = w ∧ laneUnit l = q ∧ x = ⟨laneRow l, (row l).1, (row l).2⟩ := by
  simp only [kStepOf, List.mem_map, List.mem_filter, Bool.and_eq_true, beq_iff_eq]
  constructor
  · rintro ⟨l, ⟨hl, hw, hq⟩, rfl⟩
    exact ⟨l, hl, hw, hq, rfl⟩
  · rintro ⟨l, hl, hw, hq, rfl⟩
    exact ⟨l, ⟨hl, hw, hq⟩, rfl⟩

theorem mem_kSteps {fa fb : Fmt} {t n : Nat} {row : Nat → Nat × Option Nat} {lanes : List Nat} {k : KStep} :
    k ∈ kSteps fa fb t n row lanes ↔ ∃ w < 32, ∃ q < 4, k = kStepOf fa fb t n row lanes w q ∧ k.rows ≠ [] := by
  simp only [kSteps, List.mem_filter, List.mem_flatMap, List.mem_map, List.mem_range, Bool.not_eq_true', List.isEmpty_eq_false_iff]
  constructor
  · rintro ⟨⟨w, hw, q, hq, rfl⟩, hne⟩
    exact ⟨w, hw, q, hq, rfl, hne⟩
  · rintro ⟨w, hw, q, hq, rfl, hne⟩
    exact ⟨⟨w, hw, q, hq, rfl⟩, hne⟩

/-- The K-step of an active lane. -/
theorem kStepOf_mem {fa fb : Fmt} {t n : Nat} {row : Nat → Nat × Option Nat} {lanes : List Nat} {l : Nat} (hl : l ∈ lanes) (hw : laneWord l < 32) :
    kStepOf fa fb t n row lanes (laneWord l) (laneUnit l) ∈ kSteps fa fb t n row lanes := by
  have hq : laneUnit l < 4 := by unfold laneUnit; omega
  exact mem_kSteps.2 ⟨_, hw, _, hq, rfl, List.ne_nil_of_mem (mem_kStepOf_rows.2 ⟨l, hl, rfl, rfl, rfl⟩)⟩

theorem lane_eq_of_place {l l' : Nat} (hw : laneWord l = laneWord l') (hq : laneUnit l = laneUnit l') (hr : laneRow l = laneRow l') : l = l' := by
  unfold laneWord at hw
  unfold laneUnit at hq
  unfold laneRow at hr
  omega

theorem kStepOf_ok {fa fb : Fmt} {t : Nat} (ht : t = 1 ∨ t = 2) (n : Nat) (row : Nat → Nat × Option Nat) {lanes : List Nat} (hl : lanes.Nodup) (w q : Nat) :
    (kStepOf fa fb t n row lanes w q).Ok where
  width := ht
  nodup := by
    rw [kStepOf, List.map_map]
    refine (hl.filter _).map_on fun l hl l' hl' he => ?_
    simp only [List.mem_filter, Bool.and_eq_true, beq_iff_eq] at hl hl'
    exact lane_eq_of_place (hl.2.1.trans hl'.2.1.symm) (hl.2.2.trans hl'.2.2.symm) he
  row_lt := fun x hx => by
    obtain ⟨l, -, -, -, rfl⟩ := mem_kStepOf_rows.1 hx
    exact Nat.mod_lt _ (by decide)

/-- The words of the K-steps of one instruction are disjoint. -/
theorem kSteps_pairwise {fa fb : Fmt} {t : Nat} (ht : t = 1 ∨ t = 2) {n : Nat} {row : Nat → Nat × Option Nat} {lanes : List Nat}
    (hfit : ∀ l ∈ lanes, n + t * laneWord l + t ≤ 32) :
    (kSteps fa fb t n row lanes).Pairwise fun k k' => ∀ y, k.words y → ¬ k'.words y := by
  refine List.Pairwise.filter _ ?_
  have hdis : ∀ w q w' q', (w ≠ w' ∨ q ≠ q') → ∀ y, (kStepOf fa fb t n row lanes w q).words y → ¬ (kStepOf fa fb t n row lanes w' q').words y := by
    rintro w q w' q' hne y ⟨x, hx, j, hj, hy⟩ ⟨x', hx', j', hj', hy'⟩
    obtain ⟨l, hl, rfl, rfl, rfl⟩ := mem_kStepOf_rows.1 hx
    obtain ⟨l', hl', rfl, rfl, rfl⟩ := mem_kStepOf_rows.1 hx'
    obtain ⟨hq, hw⟩ := tileWords_tile_inj ht (Nat.mod_lt _ (by decide)) (Nat.mod_lt _ (by decide)) hj hj' (hfit l hl) (hfit l' hl') hy hy'
    exact hne.elim (· hw) (· hq)
  rw [List.pairwise_flatMap]
  refine ⟨fun w _ => ?_, ?_⟩
  · rw [List.pairwise_map]
    exact List.nodup_range.imp fun h => hdis _ _ _ _ (.inr h)
  · refine List.nodup_range.imp fun h k hk k' hk' => ?_
    obtain ⟨q, -, rfl⟩ := List.mem_map.1 hk
    obtain ⟨q', -, rfl⟩ := List.mem_map.1 hk'
    exact hdis _ _ _ _ (.inl h)

theorem KStep.Result.congr {k : KStep} (hk : k.Ok) {b : List Byte} {a a' u u' : List (Nat × Word)}
    (ha : ∀ y, k.words y → Sparse.get 0 a y = Sparse.get 0 a' y) (hu : ∀ y, k.words y → Sparse.get 0 u y = Sparse.get 0 u' y)
    (h : k.Result b a u) : k.Result b a' u' := fun x hx j hj => by
  rw [← tileGet_congr hk.width fun y hy => ha y ⟨x, hx, j, hj, hy⟩, ← tileGet_congr hk.width fun y hy => hu y ⟨x, hx, j, hj, hy⟩]
  exact h x hx j hj

/-- All K-steps of an instruction, with the B given for each (R220). -/
theorem kSteps_run {fa fb : Fmt} {t : Nat} (ht : t = 1 ∨ t = 2) {n : Nat} {row : Nat → Nat × Option Nat} {lanes : List Nat} (hl : lanes.Nodup)
    (hfit : ∀ l ∈ lanes, n + t * laneWord l + t ≤ 32) (b : KStep → List Byte) (tiles : List (Nat × Word)) :
    (∀ k ∈ kSteps fa fb t n row lanes, k.Result (b k) tiles ((kSteps fa fb t n row lanes).foldl (fun a k => k.run (b k) a) tiles)) ∧
    ∀ y, (∀ k ∈ kSteps fa fb t n row lanes, ¬ k.words y) →
      Sparse.get 0 ((kSteps fa fb t n row lanes).foldl (fun a k => k.run (b k) a) tiles) y = Sparse.get 0 tiles y := by
  have hok : ∀ k ∈ kSteps fa fb t n row lanes, k.Ok := fun k hk => by
    obtain ⟨w, -, q, -, rfl, -⟩ := mem_kSteps.1 hk
    exact kStepOf_ok ht n row hl w q
  have h := foldl_disjoint (step := fun a k => k.run (b k) a) (place := KStep.words) (P := fun k a a' => k.Ok → k.Result (b k) a a')
    (fun k a a' u u' ha hu h hk => (h hk).congr hk ha hu) (kSteps fa fb t n row lanes) tiles
    (fun k hk a => ⟨fun hk => (KStep.run_result hk (b k) a).1, (KStep.run_result (hok k hk) (b k) a).2⟩) (kSteps_pairwise ht hfit)
  exact ⟨fun k hk => h.1 k hk (hok k hk), h.2⟩

end Sys2Proof.Machine
end

section
/-! SUPPORT. What a matrix instruction accepts (R220, R224, log 4): its parts of B and its K-steps, late or at once. -/

namespace Sys2Proof.Machine

/-! Accesses that write no register. -/

/-- What accepting an access that writes no register changes of the accesses so far. -/
theorem LaneSeq.put_late {q : LaneSeq} {free : Nat} {r : TeamRef} {world : Nat} {a : LateAcc} (hk : a.keys = []) (hr : ∀ bs, a.results bs = []) :
    (q.put free r world false a).writes = q.writes ∧ (q.put free r world false a).choices = q.choices.drop 1 ∧
      ((q.put free r world false a).late = q.late ∨ (q.put free r world false a).late = q.late ++ [a]) := by
  unfold LaneSeq.put
  simp only [Bool.false_and, Bool.false_eq_true, if_false, Bool.not_false, Bool.true_and, hk, hr, List.map_nil, List.append_nil]
  split
  · exact ⟨rfl, rfl, .inr rfl⟩
  · exact ⟨rfl, rfl, .inl rfl⟩

/-- Where nothing is late, no timing choice says so and no unit is busy, an access is performed at once. -/
structure LaneSeq.Prompt (q : LaneSeq) : Prop where
  late : q.late = []
  choices : ∀ x ∈ q.choices, x = false
  busy : q.busy = []

theorem LaneSeq.Prompt.put {q : LaneSeq} (h : q.Prompt) (free : Nat) (r : TeamRef) (world : Nat) (a : LateAcc) :
    q.put free r world false a =
      { q with m := (a.kind.perform free r world a.places a.kind.bytes q.m q.crew).2.1, crew := (a.kind.perform free r world a.places a.kind.bytes q.m q.crew).2.2
               got := a.kind.gives (a.kind.perform free r world a.places a.kind.bytes q.m q.crew).1 q.got, choices := q.choices.drop 1
               writes := q.writes ++ a.results (a.kind.perform free r world a.places a.kind.bytes q.m q.crew).1 } := by
  have hhead : q.choices.headD false = false := by
    cases hc : q.choices with
    | nil => rfl
    | cons x xs => exact h.choices x (hc ▸ List.mem_cons_self)
  have hunit : a.unit.any q.busy.contains = false := by
    rw [h.busy]
    cases a.unit <;> rfl
  unfold LaneSeq.put
  simp only [h.late, List.any_nil, hunit, hhead, Bool.false_eq_true, if_false, Bool.and_false, Bool.or_self]

theorem LaneSeq.Prompt.of_put {q : LaneSeq} (h : q.Prompt) (free : Nat) (r : TeamRef) (world : Nat) (a : LateAcc) : (q.put free r world false a).Prompt := by
  rw [h.put]
  exact ⟨h.late, fun x hx => h.choices x (List.mem_of_mem_drop hx), h.busy⟩

/-! Parts and K-steps. -/

/-- What a matrix instruction may have late: a part of B, by its unit, or a K-step (R224, log 4). -/
def MatrixLate (s : State) (us : List Target) (ks : List KStep) (x : LateAcc) : Prop :=
  x.id = s.fresh ∧ x.rel = false ∧ ((∃ k p, x.kind = .part 0 (8 * k) ∧ us[k]? = some p ∧ x.places = [p]) ∨
    (∃ data, ∃ k ∈ ks, x.kind = .take 0 data (.step k) ∧ x.places = []))

/-- What has been accepted of a matrix instruction: no register is to be written, and what is late is its own. -/
structure LaneSeq.IsMatrix (q : LaneSeq) (s : State) (t : Team) (us : List Target) (ks : List KStep) : Prop where
  writes : q.writes = []
  late : ∃ rest, q.late = t.late ++ rest ∧ ∀ x ∈ rest, MatrixLate s us ks x
  choices : ∃ k, q.choices = s.late.drop k

variable {s : State} {c : Issuer} {us : List Target} {ks : List KStep}

theorem LaneSeq.IsMatrix.put {q : LaneSeq} {t : Team} (h : q.IsMatrix s t us ks) {free : Nat} {r : TeamRef} {world : Nat} {a : LateAcc} (hk : a.keys = [])
    (hr : ∀ bs, a.results bs = []) (ha : MatrixLate s us ks a) : (q.put free r world false a).IsMatrix s t us ks := by
  obtain ⟨hw, hc, hl⟩ := LaneSeq.put_late (q := q) (free := free) (r := r) (world := world) hk hr
  obtain ⟨rest, hrest, hmem⟩ := h.late
  obtain ⟨k, hk⟩ := h.choices
  refine ⟨hw.trans h.writes, ?_, ⟨k + 1, by rw [hc, hk, List.drop_drop]⟩⟩
  rcases hl with hl | hl
  · exact ⟨rest, hl.trans hrest, hmem⟩
  · refine ⟨rest ++ [a], by rw [hl, hrest, List.append_assoc], fun x hx => ?_⟩
    rcases List.mem_append.1 hx with hx | hx
    · exact hmem x hx
    · obtain rfl := List.mem_singleton.1 hx
      exact ha

theorem Issuer.putParts_isMatrix {t : Team} : ∀ (ps : List Target) (i : Nat) (q : LaneSeq), us.drop i = ps → q.IsMatrix s t us ks →
    (c.putParts s 0 i ps q).IsMatrix s t us ks
  | [], _, _, _, h => h
  | p :: ps, i, q, hi, h => by
    have hp : us[i]? = some p := by
      rw [← List.head?_drop, hi]
      rfl
    exact Issuer.putParts_isMatrix ps (i + 1) _ (by rw [← List.tail_drop, hi, List.tail_cons])
      (h.put rfl (fun _ => rfl) ⟨rfl, rfl, .inl ⟨i, p, rfl, hp, rfl⟩⟩)

theorem foldl_putTaker_isMatrix {t : Team} : ∀ (l : List KStep) (q : LaneSeq), (∀ k ∈ l, k ∈ ks) → q.IsMatrix s t us ks →
    (l.foldl (fun q k => c.putTaker s 0 (.step k) q) q).IsMatrix s t us ks
  | [], _, _, h => h
  | k :: l, _, hl, h => foldl_putTaker_isMatrix l _ (fun k hk => hl k (List.mem_cons_of_mem _ hk))
      (h.put rfl (fun _ => rfl) ⟨rfl, rfl, .inr ⟨_, k, hl k List.mem_cons_self, rfl, rfl⟩⟩)

theorem Issuer.matrixSeq_isMatrix (m : MemSys) : (c.matrixSeq s m us ks).IsMatrix s c.team us ks :=
  foldl_putTaker_isMatrix ks _ (fun _ hk => hk) (c.putParts_isMatrix us 0 _ (List.drop_zero ..) ⟨rfl, ⟨[], by simp [Issuer.seq], by simp⟩, ⟨0, rfl⟩⟩)

/-! Where nothing is late. -/

theorem LateKind.perform_part (l off free : Nat) (r : TeamRef) (world : Nat) (p : Target) (bs : List Byte) (m : MemSys) (crew : Crew) :
    (LateKind.part l off).perform free r world [p] bs m crew = ((p.read free r world false m crew).1, (p.read free r world false m crew).2, crew) := by
  simp [LateKind.perform, LateKind.act, LateKind.taken]

/-- A part that is performed at once. -/
theorem LaneSeq.Prompt.putPart {q : LaneSeq} (h : q.Prompt) (i : Nat) (p : Target) :
    c.putPart s 0 i false p q = { q with m := (p.read (freeAt s (10000 + i)) c.ref c.crew.world false q.m q.crew).2
                                         got := Sparse.setRun 0 q.got (8 * i) (p.read (freeAt s (10000 + i)) c.ref c.crew.world false q.m q.crew).1
                                         choices := q.choices.drop 1 } := by
  have hi : 10000 + 0 * 8 + i = 10000 + i := by omega
  have hr : ∀ bs, LateAcc.results ⟨s.fresh, [p], false, .part 0 (8 * i)⟩ bs = [] := fun _ => rfl
  rw [Issuer.putPart, h.put]
  simp only [hi, LateKind.perform_part, LateKind.gives, hr, List.append_nil]

/-- A K-step that is performed at once. -/
theorem LaneSeq.Prompt.putTaker {q : LaneSeq} (h : q.Prompt) (k : KStep) :
    c.putTaker s 0 (.step k) q =
      { q with crew := { q.crew with tiles := k.run (Sparse.run 0 q.got 0 k.bytesB) q.crew.tiles }, choices := q.choices.drop 1 } := by
  rw [Issuer.putTaker, h.put]
  simp only [LateKind.perform, LateKind.taken, Taker.take, LateKind.gives, LateAcc.results, List.append_nil]

theorem length_loadRelaxed (m : MemSys) (free die core world : Nat) (msd : Bool) (pa n : Nat) : (m.loadRelaxed free die core world msd pa n).1.length ≤ n := by
  unfold MemSys.loadRelaxed
  dsimp only
  split
  · exact (m.length_readN n _).le
  · split
    · split
      · exact List.length_take_le _ _
      · exact (m.length_readN n _).le
    · exact (m.length_readN n _).le

theorem length_run {α : Type} (d : α) (m : List (Nat × α)) (n : Nat) : ∀ i, (Sparse.run d m i n).length = n := by
  induction n with
  | zero => exact fun _ => rfl
  | succ n ih => exact fun i => congrArg (· + 1) (ih (i + 1))

theorem Target.length_read (p : Target) (free : Nat) (r : TeamRef) (world : Nat) (m : MemSys) (crew : Crew) :
    (p.read free r world false m crew).1.length ≤ p.len := by
  unfold Target.read
  split
  · exact (length_run ..).le
  · exact length_loadRelaxed ..

theorem getD_run {α : Type} (d : α) (m : List (Nat × α)) (n : Nat) : ∀ i j, j < n → (Sparse.run d m i n).getD j d = Sparse.get d m (i + j) := by
  induction n with
  | zero => exact fun i j hj => absurd hj (Nat.not_lt_zero j)
  | succ n ih =>
    intro i j hj
    cases j with
    | zero => rfl
    | succ j => exact (ih (i + 1) j (Nat.lt_of_succ_lt_succ hj)).trans (by rw [Nat.add_assoc, Nat.add_comm 1 j])

/-- A table into which a run has been written. -/
theorem get_setRun {α : Type} [DecidableEq α] (d : α) (m : List (Nat × α)) (i j : Nat) (vs : List α) :
    Sparse.get d (Sparse.setRun d m i vs) j = if i ≤ j ∧ j < i + vs.length then vs.getD (j - i) d else Sparse.get d m j := by
  split
  next h =>
    obtain ⟨k, rfl⟩ := Nat.exists_eq_add_of_le h.1
    rw [Nat.add_sub_cancel_left, Sparse.get_setRun_in d vs m i k (by omega), List.getD_eq_getElem]
  next h => exact Sparse.get_setRun_out d vs m i j (by omega)

/-- The parts of B, where nothing is late: they are read one after another, and the bytes stand in the order of the units. -/
theorem LaneSeq.Prompt.putParts : ∀ (ps : List Target) (i : Nat) (q : LaneSeq), q.Prompt → q.crew = c.crew → (∀ p ∈ ps, p.len = 8) →
    (∀ y, 8 * i ≤ y → Sparse.get 0 q.got y = 0) →
    (c.putParts s 0 i ps q).Prompt ∧ (c.putParts s 0 i ps q).crew = c.crew ∧ (c.putParts s 0 i ps q).m = (c.readUnits s i ps q.m).2 ∧
      ∀ y, Sparse.get 0 (c.putParts s 0 i ps q).got y = if y < 8 * i then Sparse.get 0 q.got y else (c.readUnits s i ps q.m).1.getD (y - 8 * i) 0
  | [], i, q, h, hc, _, hz => ⟨h, hc, rfl, fun y => by
      show Sparse.get 0 q.got y = _
      split
      next => rfl
      next hy => rw [hz y (Nat.not_lt.1 hy)]; rfl⟩
  | p :: ps, i, q, h, hc, hlen, hz => by
    obtain ⟨bs, hbs⟩ : ∃ bs, bs = (p.read (freeAt s (10000 + i)) c.ref c.crew.world false q.m c.crew).1 := ⟨_, rfl⟩
    have hshort : bs.length ≤ 8 := by
      rw [hbs, ← hlen p List.mem_cons_self]
      exact p.length_read ..
    have hput := h.putPart (c := c) (s := s) i p
    rw [hc, ← hbs] at hput
    have hq : (c.putPart s 0 i false p q).Prompt := h.of_put _ _ _ _
    have hgot : ∀ y, Sparse.get 0 (c.putPart s 0 i false p q).got y = if 8 * i ≤ y ∧ y < 8 * i + bs.length then bs.getD (y - 8 * i) 0 else Sparse.get 0 q.got y :=
      fun y => by rw [hput]; exact get_setRun ..
    obtain ⟨h1, h2, h3, h4⟩ := LaneSeq.Prompt.putParts ps (i + 1) _ hq (by rw [hput]) (fun p hp => hlen p (List.mem_cons_of_mem _ hp)) fun y hy => by
      rw [hgot, if_neg (by omega)]
      exact hz y (by omega)
    have hm : (c.putPart s 0 i false p q).m = (p.read (freeAt s (10000 + i)) c.ref c.crew.world false q.m c.crew).2 := by rw [hput]
    rw [hm] at h3 h4
    refine ⟨h1, h2, h3, fun y => (h4 y).trans ?_⟩
    have hdef : (c.readUnits s i (p :: ps) q.m).1 = (List.range 8).map (bs.getD · 0) ++
        (c.readUnits s (i + 1) ps (p.read (freeAt s (10000 + i)) c.ref c.crew.world false q.m c.crew).2).1 := by
      rw [hbs]
      rfl
    have hunit : ((List.range 8).map (bs.getD · 0)).length = 8 := rfl
    have hbyte : ∀ j < 8, ((List.range 8).map (bs.getD · 0)).getD j 0 = bs.getD j 0 := fun j hj => by
      rw [List.getD_eq_getElem _ _ (hj.trans_eq hunit.symm), List.getElem_map, List.getElem_range]
    rw [hdef, hgot]
    rcases Nat.lt_or_ge y (8 * i) with hy | hy
    · rw [if_pos (by omega), if_neg (by omega), if_pos hy]
    · rw [if_neg (Nat.not_lt.2 hy)]
      rcases Nat.lt_or_ge y (8 * (i + 1)) with hy' | hy'
      · rw [if_pos hy', List.getD_append _ _ _ _ (by rw [hunit]; omega), hbyte _ (by omega)]
        split
        next => rfl
        next h => rw [hz y hy, List.getD_eq_default _ _ (by omega)]
      · rw [if_neg (Nat.not_lt.2 hy'), List.getD_append_right _ _ _ _ (by rw [hunit]; omega), hunit]
        congr 1

theorem foldl_putTaker_prompt : ∀ (l : List KStep) (q : LaneSeq), q.Prompt →
    (l.foldl (fun q k => c.putTaker s 0 (.step k) q) q).late = [] ∧ (l.foldl (fun q k => c.putTaker s 0 (.step k) q) q).m = q.m ∧
    (l.foldl (fun q k => c.putTaker s 0 (.step k) q) q).crew =
      { q.crew with tiles := l.foldl (fun a k => k.run (Sparse.run 0 q.got 0 k.bytesB) a) q.crew.tiles }
  | [], q, h => ⟨h.late, rfl, rfl⟩
  | k :: l, q, h => by
    have hput := h.putTaker (c := c) (s := s) k
    obtain ⟨hl, hm, hc⟩ := foldl_putTaker_prompt l (c.putTaker s 0 (.step k) q) (h.of_put _ _ _ _)
    exact ⟨hl, hm.trans (by rw [hput]), hc.trans (by rw [hput]; rfl)⟩

/-- A matrix instruction where nothing is late: B is read, and the K-steps run one after another (R220). -/
theorem Issuer.matrixSeq_prompt (m : MemSys) (hlate : c.team.late = []) (hchoices : ∀ x ∈ s.late, x = false)
    (hbusy : ∀ y, y < 4 → s.stepFirst c.ref c.crew.cls s.fresh y = false) (hlen : ∀ p ∈ us, p.len = 8) :
    ∃ got, (∀ y, Sparse.get 0 got y = (c.readUnits s 0 us m).1.getD y 0) ∧ (c.matrixSeq s m us ks).late = [] ∧
      (c.matrixSeq s m us ks).m = (c.readUnits s 0 us m).2 ∧
      (c.matrixSeq s m us ks).crew = { c.crew with tiles := ks.foldl (fun a k => k.run (Sparse.run 0 got 0 k.bytesB) a) c.crew.tiles } := by
  have hseq : (c.seq s m 0).Prompt := by
    refine ⟨hlate, hchoices, List.filter_eq_nil_iff.2 fun y hy => ?_⟩
    rw [hbusy y (List.mem_range.1 hy)]
    exact Bool.false_ne_true
  obtain ⟨hq, hcrew, hm, hgot⟩ := LaneSeq.Prompt.putParts (c := c) (s := s) us 0 _ hseq rfl hlen fun _ _ => rfl
  obtain ⟨h1, h2, h3⟩ := foldl_putTaker_prompt (c := c) (s := s) ks _ hq
  refine ⟨_, fun y => ?_, h1, h2.trans hm, h3.trans (by rw [hcrew])⟩
  rw [hgot, if_neg (by omega), Nat.mul_zero, Nat.sub_zero]
  rfl

/-! The columns of B. -/

/-- Bytes that are told by their places give one number, whatever stands behind them. -/
theorem leNat_eq_of_getD : ∀ (n : Nat) (xs ys : List Byte), (∀ i < n, xs.getD i 0 = ys.getD i 0) → leNat (xs.take n) = leNat (ys.take n) := by
  have hcons : ∀ (n : Nat) (xs : List Byte), leNat (xs.take (n + 1)) = (xs.getD 0 0).toNat + 256 * leNat ((xs.drop 1).take n) := fun n xs => by
    cases xs <;> simp [leNat]
  intro n
  induction n with
  | zero => exact fun _ _ _ => rfl
  | succ n ih =>
    intro xs ys h
    rw [hcons, hcons, h 0 (Nat.succ_pos n), ih (xs.drop 1) (ys.drop 1) fun i hi => ?_]
    simpa [List.getD_eq_getElem?_getD, Nat.add_comm] using h (i + 1) (Nat.succ_lt_succ hi)

theorem columnB_run {got : List (Nat × Byte)} {bs : List Byte} (h : ∀ y, Sparse.get 0 got y = bs.getD y 0) {len n j : Nat} (hj : n * j + n ≤ len) :
    columnB (Sparse.run 0 got 0 len) n j = columnB bs n j := by
  refine leNat_eq_of_getD n _ _ fun i hi => ?_
  have hrun := getD_run 0 got len 0 (n * j + i) (by omega)
  rw [Nat.zero_add, h] at hrun
  simpa [List.getD_eq_getElem?_getD] using hrun

end Sys2Proof.Machine
end

section
/-! SUPPORT. The value of a K-step (R102, R103, R216, R219): elements of a row, fused steps, and exact sums rounded once. -/

namespace Sys2Proof.Machine

/-! Elements of a row (R216). -/

theorem rowElem_floatPack (x k : Nat) : ∀ p ∈ floatPacks,
    fmtK p.1 = 8 * p.2.2.1 ∧ rowElem p.1 x k = x / 2 ^ (32 / p.2.2.1 * k + p.2.2.2) % 2 ^ p.2.1.width := by
  intro p hp
  fin_cases hp <;> exact ⟨rfl, rfl⟩

theorem rowElem_intPack (x k : Nat) : ∀ p ∈ intPacks, fmtK p.1 = 8 * p.2.2.2 ∧ rowElem p.1 x k = x / 2 ^ (p.2.1 * k) % 2 ^ p.2.1 := by
  intro p hp
  fin_cases hp <;> exact ⟨rfl, rfl⟩

/-! Integer formats. -/

theorem intElem_of_pack (x : Nat) : ∀ p ∈ intPacks, intElem p.1 x = viewInt p.2.1 p.2.2.1 x := by
  intro p hp
  fin_cases hp <;> rfl

theorem foldl_add_eq (g : Nat × Nat → Int) (ps : List (Nat × Nat)) : ∀ c : Int, ps.foldl (fun c p => c + g p) c = c + (ps.map g).sum := by
  induction ps with
  | nil => exact fun c => (add_zero c).symm
  | cons p ps ih => exact fun c => (ih _).trans (by rw [List.map_cons, List.sum_cons, add_assoc])

theorem kStep_intPack (c : Nat) (ps : List (Nat × Nat)) : ∀ p ∈ intPacks, ∀ p' ∈ intPacks,
    kStep p.1 p'.1 c ps = truncBits (c + (ps.map fun x => viewInt p.2.1 p.2.2.1 x.1 * viewInt p'.2.1 p'.2.2.1 x.2).sum) 32 := by
  intro p hp p' hp'
  have hdef : kStep p.1 p'.1 c ps = truncBits (ps.foldl (fun c x => c + intElem p.1 x.1 * intElem p'.1 x.2) (c : Int)) 32 := by
    fin_cases hp <;> rfl
  simp only [hdef, foldl_add_eq, intElem_of_pack _ p hp, intElem_of_pack _ p' hp']

/-! Formats whose products are summed exactly (R103). -/

/-- The product that a pair of elements adds. -/
def pairVal (f g : FloatFmt) (x : Nat × Nat) : Val := (decodeVal f x.1).mul (decodeVal g x.2)

theorem fltElem_of_pack (x : Nat) : ∀ p ∈ floatPacks, fltElem p.1 x = decodeVal p.2.1 x := by
  intro p hp
  fin_cases hp <;> rfl

theorem kStep_floatPack (c : Nat) (ps : List (Nat × Nat)) : ∀ p ∈ floatPacks, ∀ p' ∈ floatPacks, p.1 ≠ .f32 →
    kStep p.1 p'.1 c ps = sumRound ff32 .rne (decodeVal ff32 c :: ps.map (pairVal p.2.1 p'.2.1)) := by
  intro p hp p' hp' h32
  have hdef : kStep p.1 p'.1 c ps = sumRound ff32 .rne (decodeVal ff32 c :: ps.map fun x => (fltElem p.1 x.1).mul (fltElem p'.1 x.2)) := by
    fin_cases hp
    · exact absurd rfl h32
    all_goals rfl
  simp only [hdef, fltElem_of_pack _ p hp, fltElem_of_pack _ p' hp']
  rfl

/-- The pair makes no sum: an operand is NaN, or an infinity meets a zero (R103). -/
def PairOdd (f g : FloatFmt) (x : Nat × Nat) : Prop :=
  decodeVal f x.1 = .nan ∨ decodeVal g x.2 = .nan ∨ (∃ s, decodeVal f x.1 = .inf s ∧ (decodeVal g x.2).Is 0) ∨
    ∃ s, decodeVal g x.2 = .inf s ∧ (decodeVal f x.1).Is 0

/-- The sign of a product of two elements. -/
def pairNeg (f g : FloatFmt) (x : Nat × Nat) : Bool := f.negEnc x.1 != g.negEnc x.2

theorem pairVal_odd {f g : FloatFmt} {x : Nat × Nat} (h : PairOdd f g x) : pairVal f g x = .nan := by
  rw [pairVal]
  rcases h with h | h | ⟨s, h, h0⟩ | ⟨s, h, h0⟩
  · rw [h, Val.mul_nan_left]
  · rw [h, Val.mul_nan_right]
  · rw [h, Val.inf_mul_zero h0]
  · rw [h, Val.zero_mul_inf h0]

/-- A finite encoding that is no zero, or an infinity, beside an infinity. -/
theorem pairVal_inf {f g : FloatFmt} {x : Nat × Nat} (hodd : ¬ PairOdd f g x) {s : Bool} (h : decodeVal f x.1 = .inf s ∨ decodeVal g x.2 = .inf s) :
    pairVal f g x = .inf (pairNeg f g x) := by
  simp only [PairOdd, not_or, not_exists, not_and] at hodd
  obtain ⟨hnan, hnan', hzero, hzero'⟩ := hodd
  rw [pairVal, pairNeg]
  rcases h with h | h
  · rw [h, ← decodeVal_inf_sign h]
    cases hb : decodeVal g x.2 with
    | nan => exact absurd hb hnan'
    | inf t => rw [← decodeVal_inf_sign hb]; rfl
    | fin t m e =>
      rw [← decodeVal_fin_sign hb]
      exact Val.inf_mul_fin fun hm => hzero s h (by rw [hb]; exact Val.is_fin.2 (signFactor_mul_eq_zero.2 hm).symm)
  · rw [h, ← decodeVal_inf_sign h]
    cases ha : decodeVal f x.1 with
    | nan => exact absurd ha hnan
    | inf t => rw [← decodeVal_inf_sign ha]; rfl
    | fin t m e =>
      rw [← decodeVal_fin_sign ha]
      exact Val.fin_mul_inf fun hm => hzero' s h (by rw [ha]; exact Val.is_fin.2 (signFactor_mul_eq_zero.2 hm).symm)

/-- What a product that is no number, or an infinity, comes from. -/
theorem pairVal_eq_nan {f g : FloatFmt} {x : Nat × Nat} (h : pairVal f g x = .nan) : PairOdd f g x := by
  by_contra hodd
  cases ha : decodeVal f x.1 with
  | nan => exact hodd (.inl ha)
  | inf s => rw [pairVal_inf hodd (.inl ha)] at h; cases h
  | fin s m e =>
    cases hb : decodeVal g x.2 with
    | nan => exact hodd (.inr (.inl hb))
    | inf t => rw [pairVal_inf hodd (.inr hb)] at h; cases h
    | fin t n k => rw [pairVal, ha, hb] at h; cases h

theorem pairVal_eq_inf {f g : FloatFmt} {x : Nat × Nat} {s : Bool} (h : pairVal f g x = .inf s) :
    pairNeg f g x = s ∧ ∃ t, decodeVal f x.1 = .inf t ∨ decodeVal g x.2 = .inf t := by
  have hodd : ¬ PairOdd f g x := fun hodd => by rw [pairVal_odd hodd] at h; cases h
  have hsome : ∃ t, decodeVal f x.1 = .inf t ∨ decodeVal g x.2 = .inf t := by
    by_contra hnone
    simp only [not_exists, not_or] at hnone
    cases ha : decodeVal f x.1 with
    | nan => exact hodd (.inl ha)
    | inf t => exact (hnone t).1 ha
    | fin t m e =>
      cases hb : decodeVal g x.2 with
      | nan => exact hodd (.inr (.inl hb))
      | inf t' => exact (hnone t').2 hb
      | fin t' n k => rw [pairVal, ha, hb] at h; cases h
  obtain ⟨t, ht⟩ := hsome
  rw [pairVal_inf hodd ht] at h
  exact ⟨Val.inf.inj h, t, ht⟩

variable {f g : FloatFmt} {c : Nat} {ps : List (Nat × Nat)}

/-- The addends of an element: what the tile holds, and the products (R103). -/
def addends (f g : FloatFmt) (c : Nat) (ps : List (Nat × Nat)) : List Val := decodeVal ff32 c :: ps.map (pairVal f g)

theorem nan_mem_addends : Val.nan ∈ addends f g c ps ↔ decodeVal ff32 c = .nan ∨ ∃ x ∈ ps, PairOdd f g x := by
  rw [addends, List.mem_cons, List.mem_map]
  exact or_congr eq_comm (exists_congr fun x => and_congr_right fun _ => ⟨pairVal_eq_nan, pairVal_odd⟩)

theorem inf_mem_addends (hodd : Val.nan ∉ addends f g c ps) {s : Bool} : Val.inf s ∈ addends f g c ps ↔
    decodeVal ff32 c = .inf s ∨ ∃ x ∈ ps, pairNeg f g x = s ∧ ∃ t, decodeVal f x.1 = .inf t ∨ decodeVal g x.2 = .inf t := by
  rw [nan_mem_addends, not_or] at hodd
  rw [addends, List.mem_cons, List.mem_map]
  refine or_congr eq_comm (exists_congr fun x => and_congr_right fun hx => ⟨pairVal_eq_inf, ?_⟩)
  rintro ⟨rfl, t, ht⟩
  exact pairVal_inf (fun h => hodd.2 ⟨x, hx, h⟩) ht

/-- The reals that the addends stand for. -/
theorem addends_are {z : ℝ} {x y : Nat × Nat → ℝ} (hz : (decodeVal ff32 c).Is z) (h : ∀ e ∈ ps, (decodeVal f e.1).Is (x e) ∧ (decodeVal g e.2).Is (y e)) :
    List.Forall₂ Val.Is (addends f g c ps) (z :: ps.map fun e => x e * y e) := by
  refine .cons hz ?_
  rw [List.forall₂_map_left_iff, List.forall₂_map_right_iff, List.forall₂_same]
  exact fun e he => (h e he).1.mul (h e he).2

theorem isZero_true_iff {a : Nat} {x : ℝ} (h : (decodeVal f a).Is x) (s : Bool) : (decodeVal f a).isZero s = true ↔ f.negEnc a = s ∧ x = 0 := by
  obtain ⟨m, e, hd, rfl⟩ := decodeVal_is h
  rw [hd, Val.isZero_fin, signFactor_mul_eq_zero, Bool.and_eq_true, beq_iff_eq, decide_eq_true_eq]

theorem isZero_pairVal_iff {e : Nat × Nat} {x y : ℝ} (hx : (decodeVal f e.1).Is x) (hy : (decodeVal g e.2).Is y) (s : Bool) :
    (pairVal f g e).isZero s = true ↔ pairNeg f g e = s ∧ x * y = 0 := by
  obtain ⟨m, k, hd, rfl⟩ := decodeVal_is hx
  obtain ⟨n, l, hd', rfl⟩ := decodeVal_is hy
  rw [pairVal, hd, hd', Val.mul_sign, Val.isZero_fin, Bool.and_eq_true, beq_iff_eq, decide_eq_true_eq, Nat.mul_eq_zero, mul_eq_zero,
    signFactor_mul_eq_zero, signFactor_mul_eq_zero, pairNeg]

/-- The sign of a sum that is exactly zero, when ties go to even: −0 only where every addend is −0 (R93). -/
theorem zeroSign_addends {z : ℝ} {x y : Nat × Nat → ℝ} (hz : (decodeVal ff32 c).Is z)
    (h : ∀ e ∈ ps, (decodeVal f e.1).Is (x e) ∧ (decodeVal g e.2).Is (y e)) :
    zeroSign .rne (addends f g c ps) = true ↔ z = 0 ∧ ff32.negEnc c = true ∧ ∀ e ∈ ps, x e * y e = 0 ∧ pairNeg f g e = true := by
  have hall : ∀ s, (addends f g c ps).all (Val.isZero s) = true ↔ (ff32.negEnc c = s ∧ z = 0) ∧ ∀ e ∈ ps, pairNeg f g e = s ∧ x e * y e = 0 := fun s => by
    rw [addends, List.all_cons, Bool.and_eq_true, isZero_true_iff hz, List.all_map, List.all_eq_true]
    exact and_congr_right fun _ => forall₂_congr fun e he => isZero_pairVal_iff (h e he).1 (h e he).2 s
  have hbelow : (addends f g c ps).all (Val.isZero true) = true ↔ z = 0 ∧ ff32.negEnc c = true ∧ ∀ e ∈ ps, x e * y e = 0 ∧ pairNeg f g e = true := by
    rw [hall, and_comm (a := ff32.negEnc c = true), and_assoc]
    exact and_congr_right fun _ => and_congr_right fun _ => forall₂_congr fun e he => and_comm
  rw [← hbelow, zeroSign]
  split
  next h0 =>
    refine iff_of_false Bool.false_ne_true fun h1 => ?_
    exact Bool.false_ne_true (((hall false).1 h0).1.1.symm.trans ((hall true).1 h1).1.1)
  next =>
    split
    next h1 => exact iff_of_true rfl h1
    next h1 => exact iff_of_false (by decide) h1

/-- A K-step of a format whose products are summed exactly, with the special values (R103). -/
theorem sumRound_addends :
    let r := sumRound ff32 .rne (addends f g c ps)
    let odd := decodeVal ff32 c = .nan ∨ ∃ x ∈ ps, PairOdd f g x
    let inf := fun s => decodeVal ff32 c = .inf s ∨ ∃ x ∈ ps, pairNeg f g x = s ∧ ∃ t, decodeVal f x.1 = .inf t ∨ decodeVal g x.2 = .inf t
    (odd ∨ (inf false ∧ inf true) → r = ff32.nanBits) ∧ (∀ s, ¬ odd → inf s → ¬ inf (!s) → r = ff32.signBits s + ff32.infBits) := by
  intro r odd inf
  refine ⟨fun h => ?_, fun s hodd hs hns => ?_⟩
  · by_cases hn : Val.nan ∈ addends f g c ps
    · exact sumRound_nan ff32 .rne hn
    · obtain ⟨h0, h1⟩ := h.resolve_left (mt nan_mem_addends.2 hn)
      exact sumRound_infs ff32 .rne false ((inf_mem_addends hn).2 h0) ((inf_mem_addends hn).2 h1)
  · have hn : Val.nan ∉ addends f g c ps := mt nan_mem_addends.1 hodd
    exact sumRound_inf rfl .rne ((inf_mem_addends hn).2 hs) hn (mt (inf_mem_addends hn).1 hns)

theorem sumRound_addends_finite {z : ℝ} {x y : Nat × Nat → ℝ} (hz : (decodeVal ff32 c).Is z)
    (h : ∀ e ∈ ps, (decodeVal f e.1).Is (x e) ∧ (decodeVal g e.2).Is (y e)) :
    let r := sumRound ff32 .rne (addends f g c ps)
    let sum := z + (ps.map fun e => x e * y e).sum
    let below := z = 0 ∧ ff32.negEnc c = true ∧ ∀ e ∈ ps, x e * y e = 0 ∧ pairNeg f g e = true
    (sum ≠ 0 → ff32.Rounds .rne sum r) ∧ (sum = 0 → below → r = 2 ^ 31) ∧ (sum = 0 → ¬ below → r = 0) := by
  intro r sum below
  have hsum := addends_are hz h
  refine ⟨fun hne => sumRound_rounds (by decide) .rne hsum hne, fun h0 hb => ?_, fun h0 hb => ?_⟩
  · exact (sumRound_zero ff32 .rne hsum h0).trans (congrArg _ ((zeroSign_addends hz h).2 hb))
  · exact (sumRound_zero ff32 .rne hsum h0).trans (congrArg _ (Bool.eq_false_iff.2 (mt (zeroSign_addends hz h).1 hb)))

end Sys2Proof.Machine
end

section
/-! SUPPORT. A matrix instruction as it issues and ends (R80, R83, R149, R217, R220, R223, R224): its read of B, the latches and the other teams. -/

namespace Sys2Proof.Machine

/-! Active lanes. -/

theorem Team.active_pairwise (t : Team) (free : Nat) : (t.active free).Pairwise (· < ·) :=
  (List.pairwise_lt_range.filter _).filter _

theorem Team.active_nodup (t : Team) (free : Nat) : (t.active free).Nodup := (t.active_pairwise free).imp fun h => h.ne

/-- An active lane stands in a word that the team occupies. -/
theorem Team.laneWord_lt_words {t : Team} {free l : Nat} (h : l ∈ t.active free) : laneWord l < t.words := by
  rw [Team.mem_active] at h
  simp only [Team.isActive, Bool.and_eq_true, decide_eq_true_eq] at h
  have hl := h.1.1
  unfold laneWord Team.words
  omega

/-! The reuse-A latches (R83, R223). -/

/-- The latch of unit `q` after the instruction. -/
def Team.latchStep (t : Team) (free : Nat) (a : Reg) (m : Table ReuseA) (q : Nat) : Table ReuseA :=
  match (t.unitWords free q).getLast? with
  | some w => Sparse.set none m q (if t.reuseHint then some (t.operandA free w q a) else none)
  | none => m

theorem Team.reuseAfter_eq (t : Team) (free : Nat) (a : Reg) : t.reuseAfter free a = (List.range 4).foldl (t.latchStep free a) t.reuse := rfl

/-- What the latch of unit `q` holds after the instruction, where it held `x`. -/
def Team.latchVal (t : Team) (free : Nat) (a : Reg) (q : Nat) (x : Option ReuseA) : Option ReuseA :=
  (t.unitWords free q).getLast?.elim x fun w => if t.reuseHint then some (t.operandA free w q a) else none

theorem Team.get_latchStep (t : Team) (free : Nat) (a : Reg) (m : Table ReuseA) (p q : Nat) :
    Sparse.get none (t.latchStep free a m p) q = if q = p then t.latchVal free a q (Sparse.get none m q) else Sparse.get none m q := by
  unfold Team.latchStep Team.latchVal
  by_cases hq : q = p
  · rw [if_pos hq, hq]
    cases (t.unitWords free p).getLast? with
    | none => rfl
    | some w => exact Sparse.get_set_self ..
  · rw [if_neg hq]
    cases (t.unitWords free p).getLast? with
    | none => rfl
    | some w => exact Sparse.get_set_ne _ _ _ hq

theorem Team.get_foldl_latchStep (t : Team) (free : Nat) (a : Reg) (q : Nat) : ∀ (l : List Nat) (m : Table ReuseA), l.Nodup →
    Sparse.get none (l.foldl (t.latchStep free a) m) q = if q ∈ l then t.latchVal free a q (Sparse.get none m q) else Sparse.get none m q
  | [], _, _ => rfl
  | p :: l, m, hl => by
    obtain ⟨hp, hl⟩ := List.nodup_cons.1 hl
    rw [List.foldl_cons, t.get_foldl_latchStep free a q l _ hl, t.get_latchStep]
    by_cases hq : q = p
    · subst hq
      simp [hp]
    · simp [hq]

theorem Team.get_reuseAfter (t : Team) (free : Nat) (a : Reg) {q : Nat} (hq : q < 4) :
    Sparse.get none (t.reuseAfter free a) q = t.latchVal free a q (Sparse.get none t.reuse q) := by
  rw [t.reuseAfter_eq, t.get_foldl_latchStep free a q _ _ List.nodup_range, if_pos (List.mem_range.2 hq)]

theorem Team.mem_unitWords {t : Team} {free q w : Nat} : w ∈ t.unitWords free q ↔ ∃ l, t.isActive free l = true ∧ laneUnit l = q ∧ laneWord l = w := by
  simp only [Team.unitWords, List.mem_map, List.mem_filter, Team.mem_active, beq_iff_eq]
  exact exists_congr fun l => and_assoc

/-- The last word of the active lanes of a unit is the greatest. -/
theorem Team.unitWords_getLast {t : Team} {free l : Nat} (hl : t.isActive free l = true)
    (hmax : ∀ l', t.isActive free l' = true → laneUnit l' = laneUnit l → laneWord l' ≤ laneWord l) :
    (t.unitWords free (laneUnit l)).getLast? = some (laneWord l) := by
  have hmem : laneWord l ∈ t.unitWords free (laneUnit l) := Team.mem_unitWords.2 ⟨l, hl, rfl, rfl⟩
  have hsorted : (t.unitWords free (laneUnit l)).Pairwise (· ≤ ·) := by
    rw [Team.unitWords, List.pairwise_map]
    exact ((t.active_pairwise free).filter _).imp fun h => Nat.div_le_div_right h.le
  cases hlast : (t.unitWords free (laneUnit l)).getLast? with
  | none => rw [List.getLast?_eq_none_iff.1 hlast] at hmem; cases hmem
  | some w =>
    have hsplit := List.dropLast_append_getLast? w hlast
    obtain ⟨l', hl', hq, rfl⟩ := Team.mem_unitWords.1 (List.mem_of_getLast? hlast)
    rw [← hsplit] at hmem hsorted
    refine congrArg some (le_antisymm (hmax l' hl' hq) ?_)
    rcases List.mem_append.1 hmem with h | h
    · exact (List.pairwise_append.1 hsorted).2.2 _ h _ List.mem_cons_self
    · exact (List.mem_singleton.1 h).le

/-- The latch of a unit that ran keeps the A of its last word where the hint says so; that of another unit stays. -/
theorem Team.reuseAfter_unit (t : Team) (free : Nat) (a : Reg) {q : Nat} (hq : q < 4) :
    ((∀ l, t.isActive free l = true → laneUnit l ≠ q) → Sparse.get none (t.reuseAfter free a) q = Sparse.get none t.reuse q) ∧
    (∀ l, t.isActive free l = true → laneUnit l = q → (∀ l', t.isActive free l' = true → laneUnit l' = q → laneWord l' ≤ laneWord l) →
      Sparse.get none (t.reuseAfter free a) q = if t.reuseHint = true then some (t.operandA free (laneWord l) q a) else none) := by
  rw [t.get_reuseAfter free a hq, Team.latchVal]
  refine ⟨fun hnone => ?_, fun l hl hu hmax => ?_⟩
  · have hempty : t.unitWords free q = [] := List.eq_nil_iff_forall_not_mem.2 fun w hw => by
      obtain ⟨l, hl, hu, -⟩ := Team.mem_unitWords.1 hw
      exact hnone l hl hu
    rw [hempty]
    rfl
  · subst hu
    rw [Team.unitWords_getLast hl hmax]
    rfl

/-! The latches of the other teams (R83, R224, R295). -/

theorem get_map_keys {α : Type} {g : Nat → Option α → Option α} (hg : ∀ k, g k none = none) (k : Nat) : ∀ m : Table α,
    Sparse.get none (m.map fun p => (p.1, g p.1 p.2)) k = g k (Sparse.get none m k)
  | [] => (hg k).symm
  | (i, v) :: m => by
    rw [List.map_cons, Sparse.get_cons, Sparse.get_cons, get_map_keys hg k m]
    split
    · exact (hg k).symm
    · split
      next h => rw [h]
      next => rfl

variable {s : State} {c : Issuer}

/-- What slot `k` holds once a matrix instruction has run: another team of the core keeps the latches that do not go. -/
def State.latchesKept (s : State) (c : Issuer) (k : Nat) (x : Option Team) : Option Team :=
  if k / 16 = slotKey c.ref / 16 ∧ k ≠ slotKey c.ref then
    x.map fun t => { t with reuse := t.reuse.filter fun x => !s.latchGoes c x.1 t } else x

theorem State.takeUnits_teams : (s.takeUnits c).teams = s.teams.map fun p => (p.1, s.latchesKept c p.1 p.2) := by
  refine List.map_congr_left fun p _ => ?_
  unfold State.latchesKept
  split <;> rfl

theorem State.teamAt_takeUnits (r : TeamRef) : (s.takeUnits c).teamAt r = s.latchesKept c (slotKey r) (s.teamAt r) := by
  rw [State.teamAt, State.takeUnits_teams]
  exact get_map_keys (fun k => by unfold State.latchesKept; split <;> rfl) _ _

theorem State.latchGoes_iff {q : Nat} {t : Team} : s.latchGoes c q t = true ↔ (∃ l, c.team.isActive s.rf l = true ∧ laneUnit l = q) ∧
    (c.team.reuseHint = true ∨ ∃ y, s.crewAt t.crew = some y ∧ (y.cls < c.crew.cls ∨ y.world ≠ c.crew.world)) := by
  have hran : (!(c.team.unitWords s.rf q).isEmpty) = true ↔ ∃ l, c.team.isActive s.rf l = true ∧ laneUnit l = q := by
    rw [Bool.not_eq_true', List.isEmpty_eq_false_iff]
    constructor
    · intro hne
      obtain ⟨w, hw⟩ := List.exists_mem_of_ne_nil _ hne
      obtain ⟨l, hl, hu, -⟩ := Team.mem_unitWords.1 hw
      exact ⟨l, hl, hu⟩
    · rintro ⟨l, hl, hu⟩
      exact List.ne_nil_of_mem (Team.mem_unitWords.2 ⟨l, hl, hu, rfl⟩)
  rw [State.latchGoes, Bool.and_eq_true, hran, Bool.or_eq_true]
  refine and_congr_right fun _ => or_congr_right ?_
  cases s.crewAt t.crew with
  | none => simp
  | some y => simp

/-! Issue and the read of B. -/

theorem State.longIssue_free (h : c.team.flagFree) (k : Option Nat → State) : s.longIssue c k = k c.team.flagSlot := by
  unfold State.longIssue
  cases hf : c.team.flagSlot with
  | none => rfl
  | some f => exact if_neg (by rw [h f hf]; exact Bool.false_ne_true)

theorem State.longIssue_busy {f : Nat} (hf : c.team.flagSlot = some f) (hset : c.team.flags.getLsbD f = true) (k : Option Nat → State) :
    s.longIssue c k = s.stall c (.flag f) := by
  unfold State.longIssue
  rw [hf]
  exact if_pos hset

/-- The instruction in flight writes no register (R149). -/
theorem Team.launch_launched (t : Team) (id : Nat) (unready : List Nat) : t.Launched (t.launch id t.flagSlot unready []) id [] [] := by
  unfold Team.Launched Team.launch
  cases t.flagSlot <;> simp [pendWrites, Sparse.setAll]

theorem Team.launch_eq (t : Team) (id : Nat) (flag : Option Nat) (unready : List Nat) (ws : List (Nat × Word)) :
    t.launch id flag unready ws = { t with inflight := (t.launch id flag unready ws).inflight, flags := (t.launch id flag unready ws).flags } := by
  unfold Team.launch
  split <;> rfl

/-- B is read (R217, R229): from scratchpad, or from global memory once its pieces are translated. -/
def ReadsB (s : State) (c : Issuer) (spad : Bool) (b : Reg) (len : Nat) (us : List Target) (m : MemSys) : Prop :=
  let off := (c.team.s s.rf b.toNat).toNat
  let va := c.team.s64 s.rf b.toNat % 2 ^ 57
  (spad = true ∧ off % len = 0 ∧ off + len ≤ c.crew.alloc.scratch ∧ c.scratchConflict s.msys false off len = false ∧
    us = (List.range (len / 8)).map (fun i => ⟨true, false, off + 8 * i, 8⟩) ∧ m = s.msys) ∨
  (spad = false ∧ evenReg b = true ∧ va % len = 0 ∧ s.msys.conflict c.ref.die c.ref.core [] false false va len = false ∧
    ∃ ps, c.pieces s.msys (freeAt s 1) false false (linePieces (len + 1) va len) = .ok (m, ps) ∧ us = m.units ps)

theorem ReadsB.readB {spad : Bool} {b : Reg} {len : Nat} {us : List Target} {m : MemSys} (h : ReadsB s c spad b len us m)
    (k : MemSys → List Target → State) : s.readB c spad b len k = k m us := by
  unfold State.readB
  rcases h with ⟨rfl, hal, hin, hfree, rfl, rfl⟩ | ⟨rfl, -, hal, hfree, ps, hps, rfl⟩
  · have hok : c.scratchCheck s.msys false (c.team.s s.rf b.toNat).toNat len = .ok () := by
      rw [Issuer.scratchCheck, if_neg (not_not.2 hal), if_neg (Nat.not_lt.2 hin), hfree, if_neg Bool.false_ne_true]
    simp only [if_true, hok]
    rfl
  · simp only [Bool.false_eq_true, if_false, hal, ne_eq, not_true_eq_false, State.whole, hfree, Bool.false_and, hps]

theorem ReadsB.unit_len {spad : Bool} {b : Reg} {len : Nat} {us : List Target} {m : MemSys} (h : ReadsB s c spad b len us m) : ∀ p ∈ us, p.len = 8 := by
  intro p hp
  rcases h with ⟨-, -, -, -, rfl, -⟩ | ⟨-, -, -, -, ps, -, rfl⟩
  · obtain ⟨i, -, rfl⟩ := List.mem_map.1 hp
    rfl
  · obtain ⟨x, -, hp⟩ := List.mem_flatMap.1 hp
    obtain ⟨i, -, rfl⟩ := List.mem_map.1 hp
    rfl

/-- Where the read of B stops the instruction (R128, R217, R229, R239). -/
theorem readB_stops {i : Instr} {spad : Bool} {b : Reg} {len : Nat} {k : MemSys → List Target → State} (he : exec i s = .next (s.readB c spad b len k)) :
    let off := (c.team.s s.rf b.toNat).toNat
    let va := c.team.s64 s.rf b.toNat % 2 ^ 57
    let free := c.scratchConflict s.msys false off len = false
    let in_ := off + len ≤ c.crew.alloc.scratch
    (spad = true → (off % len ≠ 0 → Raises i s c .misaligned off) ∧ (off % len = 0 → ¬ in_ → Raises i s c .worldViolation off) ∧
      (off % len = 0 → in_ → ¬ free → Raises i s c .rangeConflict off)) ∧
    (spad = false → (va % len ≠ 0 → Raises i s c .misaligned va) ∧ (va % len = 0 → WholeStops i s c 3 false false false va len)) := by
  intro off va free in_
  refine ⟨?_, ?_⟩
  · rintro rfl
    have hfails : ∀ trap, c.scratchCheck s.msys false off len = .error (.trap trap off) → Raises i s c trap off := fun trap h => by
      rw [Raises, he]
      unfold State.readB
      simp only [if_true]
      rw [show c.scratchCheck s.msys false (c.team.s s.rf b.toNat).toNat len = _ from h]
      rfl
    refine ⟨fun h => hfails _ (if_pos h), fun h hin => hfails _ ?_, fun h hin hfree => hfails _ ?_⟩
    · rw [Issuer.scratchCheck, if_neg (not_not.2 h), if_pos (Nat.not_le.1 hin)]
    · rw [Issuer.scratchCheck, if_neg (not_not.2 h), if_neg (Nat.not_lt.2 hin), if_pos (Bool.not_eq_false _ ▸ hfree)]
  · rintro rfl
    have hread : s.readB c false b len k = if va % len ≠ 0 then s.raise c .misaligned 0 va 0 else
        s.whole c 3 false false false va len fun m ps => k m (m.units ps) := rfl
    refine ⟨fun h => he.trans (congrArg _ (hread.trans (if_pos h))), fun h => ?_⟩
    have hwhole := he.trans (congrArg _ (hread.trans (if_neg (not_not.2 h))))
    refine ⟨fun hl => hwhole.trans (congrArg _ (if_pos hl)), fun _ hw => absurd hw Bool.false_ne_true, fun f hl _ hp => hwhole.trans ?_⟩
    unfold State.whole
    simp only [hl, Bool.false_eq_true, if_false, Bool.false_and, hp]

end Sys2Proof.Machine
end

section
/-! SUPPORT. The team, the other teams and the tiles once a matrix instruction has run (R83, R149, R216 to R220, R224, R227). -/

namespace Sys2Proof.Machine

variable {s : State} {c : Issuer}

/-! The team. -/

/-- The team once a matrix instruction has been accepted. -/
def Issuer.matrixTeam (c : Issuer) (s : State) (a : Reg) (q : LaneSeq) : Team :=
  Team.advance { c.launched s c.team.flagSlot q with reuse := c.team.reuseAfter s.rf a } 2 (some (c.team.source s.rf a))

theorem State.endMatrix_eq (a : Reg) (ks : List KStep) (m : MemSys) (us : List Target) : s.endMatrix c c.team.flagSlot a ks m us =
    ((s.takeUnits c).afterLanes c (fun m => m) (c.matrixSeq s m us ks)).setTeam c.ref (c.matrixTeam s a (c.matrixSeq s m us ks)) := rfl

theorem Issuer.matrixTeam_frame (a : Reg) {q : LaneSeq} (hq : q.writes = []) :
    let t := c.team
    let u := c.matrixTeam s a q
    u = { t with inflight := u.inflight, flags := u.flags, reuse := u.reuse, hold := u.hold, pc := u.pc, clause := u.clause, replay := none
                 yielded := u.yielded, late := q.late } ∧
      t.Launched u s.fresh [] [] ∧ u.pc = t.nextPc 2 ∧ u.reuse = t.reuseAfter s.rf a := by
  intro t u
  obtain ⟨v, hv⟩ : ∃ v, v = t.launch s.fresh t.flagSlot (q.unready s.fresh) q.writes := ⟨_, rfl⟩
  have hlaunch : v = { t with inflight := v.inflight, flags := v.flags } := by
    rw [hv]
    exact t.launch_eq ..
  have hu : u = Team.advance { v with late := q.late, reuse := t.reuseAfter s.rf a } 2 (some (t.source s.rf a)) := by
    rw [hv]
    rfl
  have hframe := Team.advance_frame { v with late := q.late, reuse := t.reuseAfter s.rf a } 2 (some (t.source s.rf a))
  rw [← hu] at hframe
  have hpc : u.pc = Team.nextPc { v with late := q.late, reuse := t.reuseAfter s.rf a } 2 := by
    rw [hu, Team.advance_pc]
  have hin : u.inflight = v.inflight := by rw [hframe]
  have hflags : u.flags = v.flags := by rw [hframe]
  have hreuse : u.reuse = t.reuseAfter s.rf a := by rw [hframe]
  refine ⟨?_, ?_, ?_, hreuse⟩
  · rw [hin, hflags, hreuse]
    refine hframe.trans ?_
    rw [hlaunch]
  · have h := t.launch_launched s.fresh (q.unready s.fresh)
    rw [hq] at hv
    rw [← hv] at h
    exact ⟨hin.trans h.1, hflags.trans h.2⟩
  · rw [hpc, hlaunch]
    rfl

/-! The other teams. -/

/-- Another team keeps all but its latches, and those of its latches that do not go (R83, R224). -/
theorem State.takeUnits_others {r : TeamRef} (hr : slotKey r ≠ slotKey c.ref) :
    let s1 := s.takeUnits c
    (slotKey r / 16 ≠ slotKey c.ref / 16 → s1.teamAt r = s.teamAt r) ∧ (s.teamAt r = none → s1.teamAt r = none) ∧
      ∀ t', s.teamAt r = some t' → ∃ t1, s1.teamAt r = some t1 ∧ t1 = { t' with reuse := t1.reuse } ∧
        (slotKey r / 16 = slotKey c.ref / 16 → ∀ x, x ∈ t1.reuse ↔ x ∈ t'.reuse ∧ ¬ ((∃ l, c.team.isActive s.rf l = true ∧ laneUnit l = x.1) ∧
          (c.team.reuseHint = true ∨ ∃ y, s.crewAt t'.crew = some y ∧ (y.cls < c.crew.cls ∨ y.world ≠ c.crew.world)))) := by
  intro s1
  have hteam : s1.teamAt r = s.latchesKept c (slotKey r) (s.teamAt r) := State.teamAt_takeUnits r
  by_cases hcore : slotKey r / 16 = slotKey c.ref / 16
  · have hkept : s1.teamAt r = (s.teamAt r).map fun t => { t with reuse := t.reuse.filter fun x => !s.latchGoes c x.1 t } :=
      hteam.trans (if_pos ⟨hcore, hr⟩)
    refine ⟨fun h => absurd hcore h, fun h => by rw [hkept, h]; rfl, fun t' ht => ⟨_, by rw [hkept, ht]; rfl, rfl, fun _ x => ?_⟩⟩
    rw [List.mem_filter, Bool.not_eq_true', ← Bool.not_eq_true, State.latchGoes_iff]
  · have hsame : s1.teamAt r = s.teamAt r := hteam.trans (if_neg fun h => hcore h.1)
    exact ⟨fun _ => hsame, fun h => hsame.trans h, fun t' ht => ⟨t', hsame.trans ht, rfl, fun h => absurd h hcore⟩⟩

/-! The tiles. -/

variable {fa fb : Fmt} {w n : Nat} {lanes : List Nat}

/-- All K-steps of an instruction, told lane by lane (R216, R218, R220). -/
theorem kSteps_run_lanes (hw : w = 1 ∨ w = 2) {row : Nat → Nat × Option Nat} (hl : lanes.Nodup) (hfit : ∀ l ∈ lanes, n + w * laneWord l + w ≤ 32)
    (b : KStep → List Byte) (tiles : List (Nat × Word)) :
    let tiles' := (kSteps fa fb w n row lanes).foldl (fun a k => k.run (b k) a) tiles
    (∀ l ∈ lanes, ∀ j, j < 8 → tileGet tiles' w (laneUnit l) (n + w * laneWord l) (laneRow l) j =
      let k := kStepOf fa fb w n row lanes (laneWord l) (laneUnit l)
      kStep fa fb (tileGet tiles w (laneUnit l) (n + w * laneWord l) (laneRow l) j) (k.pairs (b k) ⟨laneRow l, (row l).1, (row l).2⟩ j) % 2 ^ (32 * w)) ∧
    ∀ y, (∀ l ∈ lanes, ∀ j, j < 8 → ∀ h, h < w → y ≠ tileElem w (laneUnit l) (n + w * laneWord l) (laneRow l) j + h) →
      Sparse.get 0 tiles' y = Sparse.get 0 tiles y := by
  intro tiles'
  obtain ⟨hres, hframe⟩ := kSteps_run (fa := fa) (fb := fb) (row := row) hw hl hfit b tiles
  refine ⟨fun l hmem j hj => ?_, fun y hy => hframe y ?_⟩
  · have hword : laneWord l < 32 := by
      have h := hfit l hmem
      rcases hw with rfl | rfl <;> omega
    exact hres _ (kStepOf_mem hmem hword) _ (mem_kStepOf_rows.2 ⟨l, hmem, rfl, rfl, rfl⟩) j hj
  · rintro k hk ⟨x, hx, j, hj, h, hh, hplace⟩
    obtain ⟨w', -, q, -, rfl, -⟩ := mem_kSteps.1 hk
    obtain ⟨l, hmem, rfl, rfl, rfl⟩ := mem_kStepOf_rows.1 hx
    exact hy l hmem j hj h hh hplace

/-! What meets in an element (R216, R217, R227). -/

section

variable {got : List (Nat × Byte)} {bs : List Byte} (hgot : ∀ y, Sparse.get 0 got y = bs.getD y 0) (rowA : Nat → Nat) (idx : Nat → Nat) {l j : Nat}

include hgot

theorem kStepOf_pairs_dense (hj : j < 8) :
    let k := kStepOf fa fb w n (fun l => (rowA l, none)) lanes (laneWord l) (laneUnit l)
    k.pairs (Sparse.run 0 got 0 k.bytesB) ⟨laneRow l, rowA l, none⟩ j =
      (List.range (fmtK fa)).map fun i => (rowElem fa (rowA l) i, rowElem fb (columnB bs 32 j) i) := by
  intro k
  have hlen : k.bytesB = 256 := if_neg fun h => by
    obtain ⟨x, hx, hsome⟩ := List.any_eq_true.1 h
    obtain ⟨l, -, -, -, rfl⟩ := mem_kStepOf_rows.1 hx
    exact Bool.false_ne_true hsome
  rw [hlen, ← columnB_run hgot (len := 256) (by omega)]
  rfl

theorem kStepOf_pairs_sparse (hl : l ∈ lanes) (hj : j < 8) :
    let k := kStepOf fa fb w n (fun l => (rowA l, some (idx l))) lanes (laneWord l) (laneUnit l)
    k.pairs (Sparse.run 0 got 0 k.bytesB) ⟨laneRow l, rowA l, some (idx l)⟩ j =
      (List.range (fmtK fa)).map fun i => (rowElem fa (rowA l) i, rowElem fb (columnB bs 64 j) (4 * (i / 2) + bitsOf (idx l) (2 * i) 2)) := by
  intro k
  have hlen : k.bytesB = 512 := if_pos (List.any_eq_true.2 ⟨_, mem_kStepOf_rows.2 ⟨l, hl, rfl, rfl, rfl⟩, rfl⟩)
  rw [hlen, ← columnB_run hgot (len := 512) (by omega)]
  rfl

end

/-- A matrix instruction where nothing is late, told lane by lane (R220). -/
theorem Issuer.matrixSeq_prompt_lanes {us : List Target} (m : MemSys) (hlate : c.team.late = []) (hchoices : ∀ x ∈ s.late, x = false)
    (hbusy : ∀ y, y < 4 → s.stepFirst c.ref c.crew.cls s.fresh y = false) (hlen : ∀ p ∈ us, p.len = 8) (hw : w = 1 ∨ w = 2)
    (hfit : ∀ l ∈ c.team.active s.rf, n + w * laneWord l + w ≤ 32) (row : Nat → Nat × Option Nat) {pairs : List Byte → Nat → Nat → List (Nat × Nat)}
    (hpairs : ∀ got bs, (∀ y, Sparse.get 0 got y = bs.getD y 0) → ∀ l ∈ c.team.active s.rf, ∀ j, j < 8 →
      let k := kStepOf fa fb w n row (c.team.active s.rf) (laneWord l) (laneUnit l)
      k.pairs (Sparse.run 0 got 0 k.bytesB) ⟨laneRow l, (row l).1, (row l).2⟩ j = pairs bs l j) :
    let q := c.matrixSeq s m us (kSteps fa fb w n row (c.team.active s.rf))
    let bs := (c.readUnits s 0 us m).1
    q.late = [] ∧ q.m = (c.readUnits s 0 us m).2 ∧ q.crew = { c.crew with tiles := q.crew.tiles } ∧
      (∀ l j, c.team.isActive s.rf l = true → j < 8 → tileGet q.crew.tiles w (laneUnit l) (n + w * laneWord l) (laneRow l) j =
        kStep fa fb (tileGet c.crew.tiles w (laneUnit l) (n + w * laneWord l) (laneRow l) j) (pairs bs l j) % 2 ^ (32 * w)) ∧
      ∀ x, (∀ l j, c.team.isActive s.rf l = true → j < 8 → ∀ h, h < w → x ≠ tileElem w (laneUnit l) (n + w * laneWord l) (laneRow l) j + h) →
        Sparse.get 0 q.crew.tiles x = Sparse.get 0 c.crew.tiles x := by
  intro q bs
  obtain ⟨got, hgot, h1, h2, h3⟩ := Issuer.matrixSeq_prompt (ks := kSteps fa fb w n row (c.team.active s.rf)) m hlate hchoices hbusy hlen
  obtain ⟨hcells, hframe⟩ := kSteps_run_lanes (fa := fa) (fb := fb) (row := row) hw (c.team.active_nodup s.rf) hfit
    (fun k => Sparse.run 0 got 0 k.bytesB) c.crew.tiles
  have htiles : q.crew.tiles = _ := congrArg Crew.tiles h3
  refine ⟨h1, h2, by rw [htiles]; exact h3, fun l j hl hj => ?_, fun x hx => ?_⟩
  · rw [htiles, hcells l ((Team.mem_active ..).2 hl) j hj]
    simp only [hpairs got bs hgot l ((Team.mem_active ..).2 hl) j hj]
  · rw [htiles]
    exact hframe x fun l hl j hj => hx l j ((Team.mem_active ..).1 hl) hj

/-! Legality and the interlock (R150, R157, R218, R225). -/

/-- An active lane's tile fits the crew's allocation. -/
theorem Issuer.tilesOk_fit {n : BitVec 8} (h : c.tilesOk n w = true) (haccs : c.crew.alloc.accs ≤ 32) {l : Nat} (hl : l ∈ c.team.active s.rf) :
    n.toNat + w * laneWord l + w ≤ 32 := by
  simp only [Issuer.tilesOk, Bool.and_eq_true, decide_eq_true_eq] at h
  have hmul : w * (laneWord l + 1) ≤ w * c.team.words := Nat.mul_le_mul_left w (Team.laneWord_lt_words hl)
  rw [Nat.mul_add, Nat.mul_one] at hmul
  omega

theorem Team.locked_granules {t : Team} : t.locked .granules = true ↔ ∃ x ∈ t.late, ∃ l data k, x.kind = .take l data (.granule k) := by
  rw [Team.locked, List.any_eq_true]
  refine exists_congr fun x => and_congr_right fun _ => ?_
  cases hk : x.kind with
  | take l data y => cases y <;> simp [Taker.guards]
  | _ => simp

variable {n : BitVec 8} {a b : Reg} {slot : BitVec 3} {spad : Bool}

/-- `mma` is legal. -/
def Issuer.MmaOk (c : Issuer) (n : BitVec 8) (a b : Reg) (fa fb : Fmt) (spad : Bool) : Prop :=
  mmaPair fa fb = true ∧ c.vRun a 8 = true ∧ (fa = .f64 → evenReg a = true) ∧ (spad = true ∨ evenReg b = true) ∧
    c.tilesOk n (if fa = .f64 then 2 else 1) = true

/-- `mmas` is legal. -/
def Issuer.MmasOk (c : Issuer) (n : BitVec 8) (a b : Reg) (fa : Fmt) (slot : BitVec 3) (spad : Bool) : Prop :=
  mmasFmt fa = true ∧ c.vRun a 8 = true ∧ (spad = true ∨ evenReg b = true) ∧ c.tilesOk n 1 = true ∧
    slot.toNat + (c.team.words - 1) / 4 < c.crew.alloc.granules

theorem exec_mma (h : s.issuer = some c) :
    (¬ c.MmaOk n a b fa fb spad → RaisesIllegal (.mma n a b fa fb spad) s c) ∧
    (c.MmaOk n a b fa fb spad → exec (.mma n a b fa fb spad) s = .next (s.longIssue c fun flag => s.readB c spad b 256 (s.endMatrix c flag a
      (kSteps fa fb (if fa = .f64 then 2 else 1) n.toNat (fun l => (c.team.rowA s.rf l a, none)) (c.team.active s.rf))))) := by
  have hbool : (!mmaPair fa fb || !c.vRun a 8 || (fa == .f64 && !evenReg a) || !(spad || evenReg b) || !c.tilesOk n (if fa = .f64 then 2 else 1)) = true
      ↔ ¬ c.MmaOk n a b fa fb spad := by
    simp only [Issuer.MmaOk, Bool.or_eq_true, Bool.and_eq_true, Bool.not_eq_true', ← Bool.not_eq_true, beq_iff_eq]
    tauto
  have hexec : exec (.mma n a b fa fb spad) s = _ := State.issue_of_issuer h _
  exact ⟨fun hok => hexec.trans (congrArg _ (if_pos (hbool.2 hok))), fun hok => hexec.trans (congrArg _ (if_neg fun hn => hbool.1 hn hok))⟩

theorem exec_mmas (h : s.issuer = some c) :
    (¬ c.MmasOk n a b fa slot spad → RaisesIllegal (.mmas n a b fa slot spad) s c) ∧
    (c.MmasOk n a b fa slot spad → c.team.locked .granules = true → Waits (.mmas n a b fa slot spad) s c (.interlock .granules)) ∧
    (c.MmasOk n a b fa slot spad → ¬ c.team.locked .granules = true → exec (.mmas n a b fa slot spad) s = .next (s.longIssue c fun flag =>
      s.readB c spad b 512 (s.endMatrix c flag a (kSteps fa fa 1 n.toNat
        (fun l => (c.team.rowA s.rf l a, some (c.crew.metaRow (laneUnit l) slot.toNat (laneWord l) (laneRow l)))) (c.team.active s.rf))))) := by
  have hbool : (!mmasFmt fa || !c.vRun a 8 || !(spad || evenReg b) || !c.tilesOk n 1
      || decide (c.crew.alloc.granules ≤ slot.toNat + (c.team.words - 1) / 4)) = true ↔ ¬ c.MmasOk n a b fa slot spad := by
    simp only [Issuer.MmasOk, Bool.or_eq_true, Bool.not_eq_true', ← Bool.not_eq_true, decide_eq_true_eq, ← Nat.not_lt]
    tauto
  have hexec : exec (.mmas n a b fa slot spad) s = _ := State.issue_of_issuer h _
  refine ⟨fun hok => hexec.trans (congrArg _ (if_pos (hbool.2 hok))), fun hok hl => ?_, fun hok hl => ?_⟩
  · exact hexec.trans (congrArg _ ((if_neg fun hn => hbool.1 hn hok).trans (if_pos hl)))
  · exact hexec.trans (congrArg _ ((if_neg fun hn => hbool.1 hn hok).trans (if_neg hl)))

end Sys2Proof.Machine
end

section
/-! PROOF. O33: the matrix instructions, their late parts, and the value of a K-step. -/

namespace Sys2Proof.Machine

/-- The formats whose steps are fused, in order (R102). -/
theorem kStep_fused (c : Nat) (ps : List (Nat × Nat)) : ∀ p : Fmt × FloatFmt, p ∈ [(Fmt.f64, ff64), (.f32, ff32)] → kStep p.1 p.1 c [] = c ∧
    ∀ x, kStep p.1 p.1 c (x :: ps) = kStep p.1 p.1 (fmaBits p.2 .rne x.1 x.2 c) ps := by
  intro p hp
  fin_cases hp <;> exact ⟨rfl, fun _ => rfl⟩

/-- A part of B stands before what takes it, and feeds it (R220, log 4). -/
theorem LateAcc.behind_part {a b : LateAcc} {l off : Nat} {data : List (Nat × Byte)} {x : Taker} (ha : a.kind = .part l off) (hb : b.kind = .take l data x)
    (hid : a.id = b.id) (bs : List Byte) : b.behind a = true ∧ a.fed bs b = { b with kind := .take l (Sparse.setRun 0 data off bs) x } := by
  have htakes : b.takes a = true := by simp [LateAcc.takes, ha, hb, hid]
  refine ⟨by rw [LateAcc.behind, htakes, Bool.or_true], ?_⟩
  simp only [LateAcc.fed, hb, htakes, if_true, ha, LateKind.gives]

/-- K-steps of one octet unit are performed in order (R150, R224). -/
theorem LateAcc.behind_step {a b : LateAcc} {l l' : Nat} {data data' : List (Nat × Byte)} {k k' : KStep} (ha : a.kind = .take l data (.step k))
    (hb : b.kind = .take l' data' (.step k')) (hu : k.unit = k'.unit) : a.behind b = true := by
  have ht : a.tile = some k.unit := by rw [LateAcc.tile, ha]
  have ht' : b.tile = some k.unit := by rw [LateAcc.tile, hb, hu]
  simp [LateAcc.behind, ht, ht']

/-- Settles O33: a matrix instruction reads B and ends with its K-steps, and those are told lane by lane where nothing is late; the value of a K-step
goes format by format. -/
theorem matrixSteps : Obligations.MatrixSteps := by
  refine ⟨?_, fun a b l off data x bs ha hb hid => LateAcc.behind_part ha hb hid bs, fun a b l l' data data' k k' ha hb hu => LateAcc.behind_step ha hb hu,
    fun l data k c hw hnodup hrow => ?_, fun x k => ⟨rowElem_floatPack x k, rowElem_intPack x k, rfl, rfl⟩, fun c ps => ⟨kStep_fused c ps, ?_, ?_⟩⟩
  · intro s c n a b fa fb slot spad us m h haccs t off va got stops steps w ok oks locked
    have hlocked : t.locked .granules = true ↔ locked := Team.locked_granules
    obtain ⟨hill, hmma⟩ := exec_mma (n := n) (a := a) (b := b) (fa := fa) (fb := fb) (spad := spad) h
    obtain ⟨hills, hwait, hmmas⟩ := exec_mmas (n := n) (a := a) (b := b) (fa := fa) (slot := slot) (spad := spad) h
    have hsteps : ∀ i w f g row pairs len, exec i s = .next (s.readB c spad b len (s.endMatrix c t.flagSlot a (kSteps f g w n.toNat row (t.active s.rf)))) →
        ReadsB s c spad b len us m → w = 1 ∨ w = 2 → c.tilesOk n w = true → (∀ got bs, (∀ y, Sparse.get 0 got y = bs.getD y 0) →
          ∀ l ∈ t.active s.rf, ∀ j, j < 8 → let k := kStepOf f g w n.toNat row (t.active s.rf) (laneWord l) (laneUnit l)
            k.pairs (Sparse.run 0 got 0 k.bytesB) ⟨laneRow l, (row l).1, (row l).2⟩ j = pairs bs l j) → steps i w f g row pairs := by
      intro i w f g row pairs len he hB hw htiles hpairs
      have hq := Issuer.matrixSeq_isMatrix (s := s) (c := c) (us := us) (ks := kSteps f g w n.toNat row (t.active s.rf)) m
      obtain ⟨hframe, hlaunched, hpc, hreuse⟩ := Issuer.matrixTeam_frame (s := s) (c := c) a hq.writes
      refine ⟨c.matrixTeam s a _, by rw [he, hB.readB, State.endMatrix_eq], hframe, hlaunched, hpc, hq.late, rfl, hq.choices,
        fun r hr => State.takeUnits_others hr, fun y hy => ?_, fun hlate hchoices hbusy => ?_⟩
      · rw [hreuse]
        exact t.reuseAfter_unit s.rf a hy
      · exact Issuer.matrixSeq_prompt_lanes m hlate hchoices hbusy hB.unit_len hw (fun l hl => Issuer.tilesOk_fit htiles haccs hl) row hpairs
    refine ⟨hill, hills, fun hok hl => hwait hok (hlocked.2 hl), fun f hf hset => ⟨fun hok => ?_, fun hok hl => ?_⟩,
      fun hfree => ⟨fun hok => ?_, fun hok hl => ?_⟩, fun hok hfree hgot => ?_, fun hok hl hfree hgot => ?_⟩
    · exact (hmma hok).trans (congrArg _ (State.longIssue_busy hf hset _))
    · exact (hmmas hok (mt hlocked.1 hl)).trans (congrArg _ (State.longIssue_busy hf hset _))
    · exact readB_stops ((hmma hok).trans (congrArg _ (State.longIssue_free hfree _)))
    · exact readB_stops ((hmmas hok (mt hlocked.1 hl)).trans (congrArg _ (State.longIssue_free hfree _)))
    · have hw : w = 1 ∨ w = 2 := by
        by_cases h64 : fa = .f64
        · exact .inr (if_pos h64)
        · exact .inl (if_neg h64)
      obtain ⟨-, -, -, -, htiles⟩ := id hok
      exact hsteps _ w fa fb _ _ 256 ((hmma hok).trans (congrArg _ (State.longIssue_free hfree _))) hgot hw htiles
        fun got bs hbs l _ j hj => kStepOf_pairs_dense hbs _ hj
    · obtain ⟨-, -, -, htiles, -⟩ := id hok
      exact hsteps _ 1 fa fa _ _ 512 ((hmmas hok (mt hlocked.1 hl)).trans (congrArg _ (State.longIssue_free hfree _))) hgot (.inl rfl) htiles
        fun got bs hbs l hl j hj => kStepOf_pairs_sparse hbs _ _ hl hj
  · intro b c'
    obtain ⟨hres, hframe⟩ := KStep.run_result ⟨hw, hnodup, hrow⟩ b c.tiles
    refine ⟨rfl, hres, fun y hy => hframe y ?_⟩
    rintro ⟨x, hx, j, hj, h, hh, hplace⟩
    exact hy x hx j h hj hh hplace
  · intro p hp p' hp' h32 r a b neg odd inf
    have hr : r = sumRound ff32 .rne (addends p.2.1 p'.2.1 c ps) := kStep_floatPack c ps p hp p' hp' h32
    rw [hr]
    exact ⟨sumRound_addends.1, sumRound_addends.2, fun z x y hz h => sumRound_addends_finite hz h⟩
  · intro p hp p' hp'
    rw [kStep_intPack c ps p hp p' hp']
    exact ⟨truncBits_lt _ 32, truncBits_dvd _ 32⟩

end Sys2Proof.Machine
end

section
/-! SUPPORT. One lane's access to global memory and to the scratchpad (R112, R128, R239, R325): where it goes no further, and what an accepted one
has made of the memory system. -/

namespace Sys2Proof.Machine

variable {m n : MemSys} {s : State} {c : Issuer}

/-! What translating and counting leave (R327, R334). -/

theorem MemSys.Used.trans {o : MemSys} (h : m.Used n) (h' : n.Used o) : m.Used o := by
  unfold MemSys.Used at *
  rw [h', h]

theorem MemSys.Used.norm (h : m.Used n) : n.norm = m.norm := MemSys.norm_congr (by rw [h])

theorem MemSys.used_tlbKeep (m : MemSys) (die : Nat) (core : Option Nat) (space va : Nat) (leaf : Dword) (lvl : Nat) :
    m.Used (m.tlbKeep die core space va leaf lvl) := by
  unfold MemSys.tlbKeep MemSys.tlbKeep.go
  repeat' split
  all_goals rfl

theorem MemSys.used_tlbFill (m : MemSys) (a : Access) (va : Nat) (leaf : Dword) (lvl : Nat) : m.Used (m.tlbFill a va leaf lvl) := by
  have h : m.Used ((m.walksFill a.die a.world va).tlbKeep a.die none a.world va leaf lvl) :=
    MemSys.Used.trans (n := m.walksFill a.die a.world va) rfl (MemSys.used_tlbKeep _ _ _ _ _ _ _)
  unfold MemSys.tlbFill
  split
  · exact h.trans (MemSys.used_tlbKeep _ _ _ _ _ _ _)
  · exact h

theorem MemSys.used_count (m : MemSys) (die space world va : Nat) (leaf : Dword) : m.Used (m.count die space world va leaf) := by
  unfold MemSys.count MemSys.evictCounter
  dsimp only
  repeat' split
  all_goals rfl

theorem Issuer.used_usePiece (c : Issuer) (m : MemSys) (write needMsd : Bool) (va : Nat) (leaf : Dword) (lvl : Nat) :
    m.Used (c.usePiece m write needMsd va leaf lvl) :=
  (m.used_tlbFill _ va leaf lvl).trans (MemSys.used_count _ _ _ _ _ _)

/-! A lane's piece of global memory. -/

theorem Issuer.piece_of_xlate_error {free : Nat} {write : Bool} {va len : Nat} {e : LaneFail} (hl : m.conflict c.ref.die c.ref.core [] false write va len = false)
    (h : c.xlatePiece m free write false va = .error e) : c.piece m free write false va len = .error e := by
  rw [Issuer.piece, if_neg (by simp [hl]), h]

theorem Issuer.piece_of_xlate_ok {free : Nat} {write : Bool} {va len pa lvl : Nat} {leaf : Dword} (hl : m.conflict c.ref.die c.ref.core [] false write va len = false)
    (h : c.xlatePiece m free write false va = .ok (pa, leaf, lvl)) : c.piece m free write false va len =
      if write && m.isHeld pa then .error (.trap .worldViolation va) else .ok (c.usePiece m write false va leaf lvl, pa, leaf) := by
  rw [Issuer.piece, if_neg (by simp [hl]), h]

/-- A lane whose piece decides how it goes on: the piece's failure is the lane's. -/
theorem LaneAccess.of_piece {q : LaneSeq} {l va len : Nat} {write : Bool} {r : Except LaneFail LaneSeq} {P : MemSys → Nat → Dword → Prop}
    (hfail : ∀ e, c.piece q.m (laneFree s l 0) write false va len = .error e → r = .error e)
    (hok : ∀ m pa leaf, c.piece q.m (laneFree s l 0) write false va len = .ok (m, pa, leaf) → P m pa leaf) :
    LaneAccess c s q l write va len r P := by
  unfold LaneAccess
  refine ⟨fun hl => hfail _ (by rw [Issuer.piece, if_pos hl]), fun hl => ?_⟩
  have hl0 : q.m.conflict c.ref.die c.ref.core [] false write va len = false := by simpa using hl
  refine ⟨fun cause hx => ?_, fun hx => ?_, fun hx => ?_, fun pa leaf lvl hx => ?_⟩
  · exact hfail _ (Issuer.piece_of_xlate_error hl0 (by rw [Issuer.xlatePiece, hx]))
  · exact hfail _ (Issuer.piece_of_xlate_error hl0 (by rw [Issuer.xlatePiece, hx]))
  · exact hfail _ (Issuer.piece_of_xlate_error hl0 (by rw [Issuer.xlatePiece, hx]))
  · have h := Issuer.piece_of_xlate_ok (m := q.m) (free := laneFree s l 0) (write := write) hl0 (by rw [Issuer.xlatePiece, hx])
    refine ⟨fun hw hh => hfail _ (h.trans (if_pos (by simp [hw, hh]))), fun hw => ⟨_, c.used_usePiece q.m write false va leaf lvl, ?_⟩⟩
    exact hok _ _ _ (h.trans (if_neg (by rcases hw with hw | hw <;> simp [hw])))

/-- A piece that is accepted has only been translated and counted. -/
theorem Issuer.used_piece {free : Nat} {write needMsd : Bool} {va len pa : Nat} {leaf : Dword}
    (h : c.piece m free write needMsd va len = .ok (n, pa, leaf)) : m.Used n := by
  unfold Issuer.piece at h
  repeat' split at h
  all_goals cases h
  exact c.used_usePiece _ _ _ _ _ _

theorem orderAcquires_eq (o : Order) : orderAcquires o = decide (o = .acq ∨ o = .ar) := by cases o <;> rfl
theorem orderReleases_eq (o : Order) : orderReleases o = decide (o = .rel ∨ o = .ar) := by cases o <;> rfl

theorem Issuer.storeLane_misaligned {d a b : Reg} {off : BitVec 16} {len regs : Nat} {rel : Bool} {q : LaneSeq} {l : Nat}
    (h : c.team.globalAddr s.rf l a b off % len ≠ 0) :
    c.storeLane s d a b off len regs rel q l = .error (.trap .misaligned (c.team.globalAddr s.rf l a b off)) := by
  rw [Issuer.storeLane, if_pos h]

theorem Issuer.storeLane_access {d a b : Reg} {off : BitVec 16} {len regs : Nat} {rel : Bool} {q : LaneSeq} {l : Nat}
    (h : c.team.globalAddr s.rf l a b off % len = 0) :
    LaneAccess c s q l true (c.team.globalAddr s.rf l a b off) len (c.storeLane s d a b off len regs rel q l) fun m pa leaf =>
      c.storeLane s d a b off len regs rel q l = .ok (c.put s l (m.isBell (q.m.norm pa)) [⟨false, leafMsd leaf, q.m.norm pa, len⟩]
        (rel || m.isReply (q.m.norm pa)) (.store ((c.team.regBytes s.rf l d.toNat regs).take len)) { q with m := m }) := by
  refine LaneAccess.of_piece (fun e he => ?_) fun m pa leaf he => ?_
  · simp only [Issuer.storeLane, h, he, ne_eq, not_true, if_false]
  · simp [Issuer.storeLane, h, he, Issuer.putStore, MemSys.place, (Issuer.used_piece he).norm]

theorem Issuer.atomicLane_misaligned {op : AtomOp} {d a b x : Reg} {o : Order} {off : BitVec 16} {q : LaneSeq} {l : Nat}
    (h : c.team.globalAddr s.rf l a b off % c.team.viewLen ≠ 0) :
    c.atomicLane s op d a b x o off q l = .error (.trap .misaligned (c.team.globalAddr s.rf l a b off)) := by
  rw [Issuer.atomicLane]
  exact if_pos h

theorem Issuer.atomicLane_access {op : AtomOp} {d a b x : Reg} {o : Order} {off : BitVec 16} {q : LaneSeq} {l : Nat}
    (h : c.team.globalAddr s.rf l a b off % c.team.viewLen = 0) : let t := c.team
    LaneAccess c s q l true (t.globalAddr s.rf l a b off) t.viewLen (c.atomicLane s op d a b x o off q l) fun m pa leaf =>
      c.atomicLane s op d a b x o off q l = .ok (c.put s l (decide (o = .acq ∨ o = .ar)) [⟨false, leafMsd leaf, q.m.norm pa, t.viewLen⟩]
        (decide (o = .rel ∨ o = .ar)) (.atomic (laneKeys l d.toNat (t.viewLen / 4)) op t.mode (t.read s.rf l t.et.wide (.v x))
          (t.read s.rf l t.et.wide (.v d))) { q with m := m }) := by
  refine LaneAccess.of_piece (fun e he => ?_) fun m pa leaf he => ?_
  · simp only [Issuer.atomicLane, h, he, ne_eq, not_true, if_false]
  · simp only [Issuer.atomicLane, h, he, ne_eq, not_true, if_false, MemSys.place, (Issuer.used_piece he).norm, orderAcquires_eq, orderReleases_eq]

/-! What a store and an atomic do as they are performed (R113, R118). -/

/-- An access to one place is the act on it. -/
theorem LateKind.perform_one {k : LateKind} (hk : k.taken = id) (free : Nat) (r : TeamRef) (world : Nat) (p : Target) (bs : List Byte) (m : MemSys)
    (crew : Crew) : k.perform free r world [p] bs m crew = k.act free r world p (bs.take p.len) m crew := by
  simp [LateKind.perform, hk]

/-- The value that an atomic reads is the one that stands at the home before it. -/
theorem MemSys.atomic_old (m : MemSys) (die core world : Nat) (msd : Bool) (pa len : Nat) (f : Nat → Nat) :
    (m.atomic die core world msd pa len f).1 = m.readNat (m.norm pa) len := by
  have ha : m.Agrees (if msd then m.number true (m.norm pa) else m.l1Drop (m.l1Of die core (m.norm pa)) (lineOf (m.norm pa))) := by
    split
    · exact m.agrees_number _ _
    · exact m.agrees_l1Drop _ _
  exact ha.readNat _ _

theorem getElem?_regsOf {keys : List Nat} {k : Nat} (h : k < keys.length) (bs : List Byte) :
    (regsOf keys bs)[k]? = some (keys.getD k 0, BitVec.ofNat 32 (leNat ((bs.drop (4 * k)).take 4))) := by
  simp [regsOf, h]

end Sys2Proof.Machine
end

section
/-! PROOF. O21: what a store and an atomic of one lane write (R113, R118, R128, R239, R246, R247). -/

namespace Sys2Proof.Machine

/-- Settles O21: a lane's access goes no further where its piece does not, and one place is performed by its act alone. -/
theorem storeAndAtomicLane : Obligations.StoreAndAtomicLane := by
  refine ⟨fun s c op d a b e o off len regs rel q l => ?_, fun free world r p bs m crew keys op mode x cmp id rel hp => ⟨?_, ?_⟩⟩
  · exact ⟨⟨Issuer.storeLane_misaligned, Issuer.storeLane_access⟩, Issuer.atomicLane_misaligned, Issuer.atomicLane_access⟩
  · rw [LateKind.perform_one rfl]
    simp only [LateKind.act, hp, Bool.false_eq_true, if_false]
  · dsimp only
    rw [LateKind.perform_one rfl, List.take_nil]
    refine ⟨rfl, rfl, fun k hk => ?_⟩
    rw [← m.atomic_old r.die r.core world p.msd p.addr p.len (op.eval (etypeOf mode) x cmp)]
    exact getElem?_regsOf hk _

end Sys2Proof.Machine
end

section
/-! PROOF. O23: the scratchpad accesses of one lane (R112, R128, R238, R246). -/

namespace Sys2Proof.Machine

variable {m : MemSys} {s : State} {c : Issuer}

/-! The checks, in their order. -/

theorem Issuer.scratchCheck_misaligned {write : Bool} {o n : Nat} (h : o % n ≠ 0) :
    c.scratchCheck m write o n = .error (.trap .misaligned o) := by
  rw [Issuer.scratchCheck, if_pos h]

theorem Issuer.scratchCheck_outside {write : Bool} {o n : Nat} (h : o % n = 0) (hout : c.crew.alloc.scratch < o + n) :
    c.scratchCheck m write o n = .error (.trap .worldViolation o) := by
  rw [Issuer.scratchCheck, if_neg (not_not.2 h), if_pos hout]

theorem Issuer.scratchCheck_inside {write : Bool} {o n : Nat} (h : o % n = 0) (hin : o + n ≤ c.crew.alloc.scratch) :
    c.scratchCheck m write o n = if c.scratchConflict m write o n then .error (.trap .rangeConflict o) else .ok () := by
  rw [Issuer.scratchCheck, if_neg (not_not.2 h), if_neg (by omega)]

/-! One lane. -/

section

variable {d a b : Reg} {off : BitVec 16} {q : LaneSeq} {l : Nat}

theorem Issuer.ldsLane_error {e : LaneFail} (h : c.scratchCheck q.m false (c.team.scratchAddr s.rf l a b off) c.team.viewLen = .error e) :
    c.ldsLane s d a b off q l = .error e := by
  simp only [Issuer.ldsLane, h]

theorem Issuer.ldsLane_accepted (h : c.scratchCheck q.m false (c.team.scratchAddr s.rf l a b off) c.team.viewLen = .ok ()) :
    c.ldsLane s d a b off q l = .ok (c.put s l false [⟨true, false, c.team.scratchAddr s.rf l a b off, c.team.viewLen⟩] false
      (.load (laneKeys l d.toNat (c.team.viewLen / 4)) none false) q) := by
  simp only [Issuer.ldsLane, h]

theorem Issuer.stsLane_error {e : LaneFail} (h : c.scratchCheck q.m true (c.team.scratchAddr s.rf l a b off) c.team.viewLen = .error e) :
    c.stsLane s d a b off q l = .error e := by
  simp only [Issuer.stsLane, h]

theorem length_regBytes (t : Team) (free lane d n : Nat) : (t.regBytes free lane d n).length = 4 * n := by
  simp [Team.regBytes, List.length_flatMap, Nat.mul_comm]

theorem Team.four_dvd_viewLen (t : Team) : 4 * (t.viewLen / 4) = t.viewLen := by
  unfold Team.viewLen
  split <;> rfl

/-- A store of the scratchpad puts all the bytes of its registers. -/
theorem Issuer.stsLane_accepted (h : c.scratchCheck q.m true (c.team.scratchAddr s.rf l a b off) c.team.viewLen = .ok ()) :
    c.stsLane s d a b off q l = .ok (c.put s l false [⟨true, false, c.team.scratchAddr s.rf l a b off, c.team.viewLen⟩] false
      (.store (c.team.regBytes s.rf l d.toNat (c.team.viewLen / 4))) q) := by
  have hlen : (c.team.regBytes s.rf l d.toNat (c.team.viewLen / 4)).length ≤ c.team.viewLen := by
    rw [length_regBytes, Team.four_dvd_viewLen]
  simp only [Issuer.stsLane, h, List.take_of_length_le hlen]

end

/-- Settles O23: the checks of both accesses are one, and a store that is performed writes a run of the crew's scratchpad. -/
theorem scratchpadLane : Obligations.ScratchpadLane := by
  refine ⟨fun s c d a b off q l => ⟨fun h => ?_, fun h hout => ?_, fun h hin => ⟨fun hc => ?_, fun hc => ?_, fun hc => ?_, fun hc => ?_⟩⟩,
    fun free world r p bs m crew hp hlen => ?_⟩
  · exact ⟨Issuer.ldsLane_error (Issuer.scratchCheck_misaligned h), Issuer.stsLane_error (Issuer.scratchCheck_misaligned h)⟩
  · exact ⟨Issuer.ldsLane_error (Issuer.scratchCheck_outside h hout), Issuer.stsLane_error (Issuer.scratchCheck_outside h hout)⟩
  · exact Issuer.ldsLane_error ((Issuer.scratchCheck_inside h hin).trans (if_pos hc))
  · exact Issuer.stsLane_error ((Issuer.scratchCheck_inside h hin).trans (if_pos hc))
  · exact Issuer.ldsLane_accepted ((Issuer.scratchCheck_inside h hin).trans (if_neg (by simp [hc])))
  · exact Issuer.stsLane_accepted ((Issuer.scratchCheck_inside h hin).trans (if_neg (by simp [hc])))
  · dsimp only
    rw [LateKind.perform_one rfl, List.take_of_length_le hlen.le]
    simp only [LateKind.act, hp, if_true, true_and]
    intro i
    rw [get_setRun, hlen]

end Sys2Proof.Machine
end

section
/-! SUPPORT. Engine batches (R124, R139, R257 to R259): the teams of a crew as one is changed, operations as they leave the table, and the scopes of
batches. -/

namespace Sys2Proof.Machine

variable {s : State} {c : Issuer}

/-! The issuing team stands in its slot, and its crew in its table. -/

theorem State.issuer_issuerAt (h : s.issuer = some c) : s.issuerAt c.ref = some c := by
  unfold State.issuer at h
  split at h
  · next r _ =>
    have hr : c.ref = r := by
      unfold State.issuerAt at h
      repeat' split at h
      all_goals cases h
      rfl
    rw [hr, h]
  · cases h

theorem State.crewAt_of_issuerAt {r : TeamRef} (h : s.issuerAt r = some c) : s.crewAt c.cid = some c.crew := by
  unfold State.issuerAt at h
  split at h
  · split at h
    · next hc =>
      cases h
      exact hc
    · cases h
  · cases h

/-! The teams of a crew as they are changed. -/

/-- A change of the teams of a crew changes teams and crews, and nothing else. -/
theorem State.mapTeams_frame (s : State) (cid : Nat) (f : Team → Team) :
    ∃ teams crews, s.mapTeams cid f = { s with teams := teams, crews := crews } := by
  unfold State.mapTeams
  split
  · exact ⟨_, _, rfl⟩
  · split
    · refine List.foldlRecOn (motive := fun x : State => ∃ teams crews, x = { s with teams := teams, crews := crews }) _ _ ⟨_, _, rfl⟩ ?_
      rintro x ⟨teams, crews, rfl⟩ i -
      split
      · exact ⟨_, _, rfl⟩
      · exact ⟨_, _, rfl⟩
    · exact ⟨_, _, rfl⟩

theorem State.mapTeam_ops (s : State) (cid i : Nat) (f : Team → Team) : (s.mapTeam cid i f).ops = s.ops := by
  obtain ⟨teams, crews, h⟩ := s.mapTeams_frame cid fun t => if t.index = i then f t else t
  rw [State.mapTeam, h]

theorem State.mapTeam_msys (s : State) (cid i : Nat) (f : Team → Team) : (s.mapTeam cid i f).msys = s.msys := by
  obtain ⟨teams, crews, h⟩ := s.mapTeams_frame cid fun t => if t.index = i then f t else t
  rw [State.mapTeam, h]

/-- The slots of a crew are different residency slots. -/
theorem Crew.slotKey_refAt_ne {k : Crew} (hn : k.slots.Nodup) {i j : Nat} (hi : i < k.slots.length) (hj : j < k.slots.length) (h : i ≠ j) :
    slotKey (k.refAt i) ≠ slotKey (k.refAt j) := by
  intro he
  have hs : k.slots.getD i 0 = k.slots.getD j 0 := by
    simp only [slotKey, Crew.refAt] at he
    omega
  rw [List.getD_eq_getElem _ _ hi, List.getD_eq_getElem _ _ hj] at hs
  exact h ((hn.getElem_inj_iff).1 hs)

/-- The team in a slot is changed, where there is one. -/
def State.mapAt (s : State) (r : TeamRef) (f : Team → Team) : State :=
  match s.teamAt r with
  | some t => s.setTeam r (f t)
  | none => s

theorem State.mapAt_crews (s : State) (r : TeamRef) (f : Team → Team) : (s.mapAt r f).crews = s.crews := by
  unfold State.mapAt
  split <;> rfl

theorem State.teamAt_mapAt_self (s : State) (r : TeamRef) (f : Team → Team) : (s.mapAt r f).teamAt r = (s.teamAt r).map f := by
  unfold State.mapAt
  split
  · next ht => rw [ht, State.teamAt_setTeam_self, Option.map_some]
  · next ht => rw [ht, Option.map_none]

theorem State.teamAt_mapAt_ne (s : State) {r q : TeamRef} (f : Team → Team) (h : slotKey q ≠ slotKey r) : (s.mapAt r f).teamAt q = s.teamAt q := by
  unfold State.mapAt
  split
  · exact s.teamAt_setTeam_ne _ h
  · rfl

/-- A crew on its core has its teams changed slot by slot. -/
theorem State.mapTeams_onCore {cid : Nat} {k : Crew} (hc : s.crewAt cid = some k) (hon : k.onCore = true) (f : Team → Team) :
    s.mapTeams cid f = (List.range k.slots.length).foldl (fun x i => x.mapAt (k.refAt i) f) s := by
  unfold State.mapTeams
  simp only [hc, hon, if_true]
  rfl

/-- Each team of a crew on its core is changed once. -/
theorem State.teamAt_mapTeams {cid : Nat} {k : Crew} (hc : s.crewAt cid = some k) (hon : k.onCore = true) (hn : k.slots.Nodup) {j : Nat}
    (hj : j < k.slots.length) (f : Team → Team) : (s.mapTeams cid f).teamAt (k.refAt j) = (s.teamAt (k.refAt j)).map f := by
  have key : ∀ (is : List Nat) (x : State), is.Nodup → (∀ i ∈ is, i < k.slots.length) →
      (is.foldl (fun x i => x.mapAt (k.refAt i) f) x).teamAt (k.refAt j) =
        if j ∈ is then (x.teamAt (k.refAt j)).map f else x.teamAt (k.refAt j) := by
    intro is
    induction is with
    | nil => exact fun x _ _ => rfl
    | cons i is ih =>
      intro x hnd hlt
      obtain ⟨hi, hnd'⟩ := List.nodup_cons.1 hnd
      rw [List.foldl_cons, ih _ hnd' fun i' h' => hlt i' (List.mem_cons_of_mem _ h')]
      by_cases hij : j = i
      · subst hij
        rw [if_neg hi, if_pos List.mem_cons_self, State.teamAt_mapAt_self]
      · rw [State.teamAt_mapAt_ne _ _ (Crew.slotKey_refAt_ne hn hj (hlt i List.mem_cons_self) hij)]
        simp only [List.mem_cons, hij, false_or]
  rw [State.mapTeams_onCore hc hon, key _ s List.nodup_range fun i hi => List.mem_range.1 hi, if_pos (List.mem_range.2 hj)]

theorem State.crewAt_mapTeams {cid : Nat} {k : Crew} (hc : s.crewAt cid = some k) (hon : k.onCore = true) (f : Team → Team) (id : Nat) :
    (s.mapTeams cid f).crewAt id = s.crewAt id := by
  rw [State.mapTeams_onCore hc hon]
  refine List.foldlRecOn (motive := fun x : State => x.crewAt id = s.crewAt id) _ _ rfl fun x hx i _ => ?_
  rw [State.crewAt, State.mapAt_crews]
  exact hx

/-! Operations that leave the table. -/

theorem State.foldl_mapTeam {α : Type} (g : State → α → State) (hg : ∀ x a, (g x a).ops = x.ops ∧ (g x a).msys = x.msys) (l : List α) (s : State) :
    (l.foldl g s).ops = s.ops ∧ (l.foldl g s).msys = s.msys :=
  List.foldlRecOn (motive := fun x : State => x.ops = s.ops ∧ x.msys = s.msys) _ _ ⟨rfl, rfl⟩ fun x hx a _ =>
    ⟨(hg x a).1.trans hx.1, (hg x a).2.trans hx.2⟩

theorem State.settleOps_ops (s : State) (os : List EngineOp) :
    (s.settleOps os).ops = s.ops.filter (fun o => !(os.map EngineOp.id).contains o.id) :=
  congrArg (List.filter _) (State.foldl_mapTeam _ (fun x _ => ⟨x.mapTeam_ops _ _ _, x.mapTeam_msys _ _ _⟩) os s).1

theorem State.settleOps_msys (s : State) (os : List EngineOp) : (s.settleOps os).msys = s.msys.unlock (os.map EngineOp.id) :=
  congrArg (MemSys.unlock · _) (State.foldl_mapTeam _ (fun x _ => ⟨x.mapTeam_ops _ _ _, x.mapTeam_msys _ _ _⟩) os s).2

/-! A batch is closed (R124, R257). -/

/-- The operation is one of the team's open batch. -/
def EngineOp.isOpen (cid team : Nat) (o : EngineOp) : Bool := o.crew == cid && o.team == team && o.batch == none

/-- What the team's log of batches is once its open batch is closed. -/
def State.closedLog (s : State) (cid : Nat) (t : Team) : BatchLog :=
  ⟨t.batches.last + 1, (⟨t.batches.last + 1, t.batches.openDone, (s.ops.filter (EngineOp.isOpen cid t.index)).foldl
    (fun x o => Nat.max x (ctlScope o.w0)) t.batches.openScope⟩ :: t.batches.counts).take 64, 0, 0, t.batches.widest⟩

/-- The open batch has taken its number, before it completes where it can. -/
def State.closing (s : State) (cid : Nat) (t : Team) : State :=
  { s.mapTeam cid t.index (fun u => { u with batches := s.closedLog cid t }) with
      ops := s.ops.map (fun o => if EngineOp.isOpen cid t.index o then { o with batch := some (t.batches.last + 1) } else o) }

theorem State.closeBatch_eq (s : State) (cid : Nat) (t : Team) :
    s.closeBatch cid t.index t = (t.batches.last + 1, (s.closing cid t).settleBatch cid t.index (t.batches.last + 1)) := by
  simp only [State.closeBatch, State.mapTeam_ops]
  rfl

theorem State.settleBatch_cases (s : State) (cid team n : Nat) :
    let os := s.ops.filter (fun o => o.crew == cid && o.team == team && o.batch == some n)
    ((∀ o ∈ os, o.phase = .ended) ∧ s.settleBatch cid team n = s.settleOps os) ∨
      ((∃ o ∈ os, o.phase ≠ .ended) ∧ s.settleBatch cid team n = s) := by
  intro os
  by_cases h : os.all (fun o => o.phase == .ended) = true
  · exact .inl ⟨by simpa using h, if_pos h⟩
  · refine .inr ⟨?_, if_neg h⟩
    simpa using h

/-- An operation of the open batch is, closed, one of the batch with the next number, and no operation of the open batch is left. -/
theorem State.mem_closing_ops {cid : Nat} {t : Team} {o : EngineOp} (ho : o ∈ (s.closing cid t).ops) : EngineOp.isOpen cid t.index o = false := by
  obtain ⟨x, -, rfl⟩ := List.mem_map.1 ho
  by_cases hx : EngineOp.isOpen cid t.index x = true
  · rw [if_pos hx]
    simp [EngineOp.isOpen]
  · rw [if_neg hx]
    simpa using hx

theorem State.closed_mem {cid : Nat} {t : Team} {o : EngineOp} (ho : o ∈ s.ops) (hm : EngineOp.isOpen cid t.index o = true) :
    ({ o with batch := some (t.batches.last + 1) } : EngineOp) ∈
      (s.closing cid t).ops.filter (fun x => x.crew == cid && x.team == t.index && x.batch == some (t.batches.last + 1)) := by
  refine List.mem_filter.2 ⟨List.mem_map.2 ⟨o, ho, if_pos hm⟩, ?_⟩
  simp only [EngineOp.isOpen, Bool.and_eq_true] at hm
  simp [beq_iff_eq.1 hm.1.1, beq_iff_eq.1 hm.1.2]

/-- A batch that is closed with an operation that runs stays in the table. -/
theorem State.settleBatch_closing_running {cid : Nat} {t : Team} {o : EngineOp} (ho : o ∈ s.ops) (hm : EngineOp.isOpen cid t.index o = true)
    (hp : o.phase ≠ .ended) : (s.closing cid t).settleBatch cid t.index (t.batches.last + 1) = s.closing cid t := by
  rcases (s.closing cid t).settleBatch_cases cid t.index (t.batches.last + 1) with ⟨hall, -⟩ | ⟨-, h⟩
  · exact absurd (hall _ (State.closed_mem ho hm)) hp
  · exact h

/-- A batch all of whose operations have ended completes as it is closed, and its locks are released. -/
theorem State.settleBatch_closing_unlocked {cid : Nat} {t : Team} (hall : ∀ o ∈ s.ops, o.crew = cid → o.team = t.index → o.phase = .ended)
    {o : EngineOp} (ho : o ∈ s.ops) (hm : EngineOp.isOpen cid t.index o = true) :
    ∀ l ∈ ((s.closing cid t).settleBatch cid t.index (t.batches.last + 1)).msys.locks, l.op ≠ o.id := by
  rcases (s.closing cid t).settleBatch_cases cid t.index (t.batches.last + 1) with ⟨-, h⟩ | ⟨⟨x, hx, hp⟩, -⟩
  · intro l hl he
    rw [h, State.settleOps_msys] at hl
    have hl' := (List.mem_filter.1 hl).2
    simp only [Bool.not_eq_true', List.contains_eq_mem, decide_eq_false_iff_not] at hl'
    exact hl' (List.mem_map.2 ⟨_, State.closed_mem ho hm, he.symm⟩)
  · obtain ⟨hx, hb⟩ := List.mem_filter.1 hx
    obtain ⟨y, hy, rfl⟩ := List.mem_map.1 hx
    refine absurd (hall y hy ?_ ?_) ?_ <;> by_cases hy' : EngineOp.isOpen cid t.index y = true <;> simp_all

theorem State.settleBatch_ops_open {cid team n : Nat} (h : ∀ o ∈ s.ops, EngineOp.isOpen cid team o = false) :
    ∀ o ∈ (s.settleBatch cid team n).ops, EngineOp.isOpen cid team o = false := by
  intro o ho
  rcases s.settleBatch_cases cid team n with ⟨-, he⟩ | ⟨-, he⟩
  · rw [he, State.settleOps_ops] at ho
    exact h o (List.mem_filter.1 ho).1
  · rw [he] at ho
    exact h o ho

/-- The crew stands as it did, and of its team in the issuing slot only the log of batches has changed, in which `n` is the last number. -/
def State.ClosedFor (s : State) (c : Issuer) (n : Nat) : Prop :=
  s.crewAt c.cid = some c.crew ∧ ∃ b : BatchLog, b.last = n ∧ s.teamAt c.ref = some { c.team with batches := b }

section

variable (hon : c.crew.onCore = true) (hn : c.crew.slots.Nodup) (hslot : ∃ k, k < c.crew.slots.length ∧ c.crew.refAt k = c.ref)

include hon hn hslot

theorem State.teamAt_mapTeam_issuer (hc : s.crewAt c.cid = some c.crew) (i : Nat) (f : Team → Team) :
    (s.mapTeam c.cid i f).teamAt c.ref = (s.teamAt c.ref).map fun t => if t.index = i then f t else t := by
  obtain ⟨k, hk, hr⟩ := hslot
  rw [← hr]
  exact State.teamAt_mapTeams hc hon hn hk _

theorem State.ClosedFor.add {n : Nat} (h : s.ClosedFor c n) (i : Nat) (num : Option Nat) (done scope : Nat) :
    (s.mapTeam c.cid i (fun t => { t with batches := t.batches.add num done scope })).ClosedFor c n := by
  obtain ⟨hc, b, hb, ht⟩ := h
  refine ⟨(State.crewAt_mapTeams hc hon _ _).trans hc, ?_⟩
  rw [State.teamAt_mapTeam_issuer hon hn hslot hc, ht, Option.map_some]
  split
  · refine ⟨b.add num done scope, ?_, rfl⟩
    cases num <;> exact hb
  · exact ⟨b, hb, rfl⟩

theorem State.ClosedFor.settleBatch {n : Nat} (h : s.ClosedFor c n) (i k : Nat) : (s.settleBatch c.cid i k).ClosedFor c n := by
  rcases s.settleBatch_cases c.cid i k with ⟨-, he⟩ | ⟨-, he⟩
  · rw [he]
    refine List.foldlRecOn (motive := fun x : State => x.ClosedFor c n) _ _ h fun x hx o ho => ?_
    have hcrew : o.crew = c.cid := by
      have := (List.mem_filter.1 ho).2
      simp only [Bool.and_eq_true, beq_iff_eq] at this
      exact this.1.1
    rw [hcrew]
    exact hx.add hon hn hslot _ _ _ _
  · rw [he]
    exact h

/-- The team of the issuing slot as its open batch is closed. -/
theorem State.teamAt_closing (hc : s.crewAt c.cid = some c.crew) (ht : s.teamAt c.ref = some c.team) :
    (s.closing c.cid c.team).crewAt c.cid = some c.crew ∧
      (s.closing c.cid c.team).teamAt c.ref = some { c.team with batches := s.closedLog c.cid c.team } := by
  refine ⟨(State.crewAt_mapTeams hc hon _ _).trans hc, (State.teamAt_mapTeam_issuer hon hn hslot hc _ _).trans ?_⟩
  rw [ht, Option.map_some, if_pos rfl]

end

@[simp] theorem Team.advance_batches (t : Team) (n : Nat) (src : Option (Reg × List Word)) : (t.advance n src).batches = t.batches := by
  rw [Team.advance_frame t n src]

/-! Scopes of batches (R139). -/

theorem foldl_max_le {l : List Nat} {a x : Nat} : l.foldl Nat.max a ≤ x ↔ a ≤ x ∧ ∀ n ∈ l, n ≤ x := by
  induction l generalizing a with
  | nil => simp
  | cons n l ih =>
    rw [List.foldl_cons, ih]
    simp [and_assoc]

/-- The scope code of the batches up to `k` is the least that bounds those of the log. -/
theorem BatchLog.scopeCode_le {b : BatchLog} {k x : Nat} : b.scopeCode k ≤ x ↔ ∀ p ∈ b.widest, p.1 ≤ k → p.2 ≤ x := by
  rw [BatchLog.scopeCode, foldl_max_le]
  simp only [List.mem_map, List.mem_filter, decide_eq_true_eq, Nat.zero_le, true_and]
  exact ⟨fun h p hp hk => h _ ⟨p, ⟨hp, hk⟩, rfl⟩, fun h _ ⟨p, ⟨hp, hk⟩, he⟩ => he ▸ h p hp hk⟩

theorem BatchLog.le_scopeCode {b : BatchLog} {k : Nat} {p : Nat × Nat} (hp : p ∈ b.widest) (hk : p.1 ≤ k) : p.2 ≤ b.scopeCode k :=
  BatchLog.scopeCode_le.1 le_rfl p hp hk

theorem BatchLog.scopeCode_mono {b : BatchLog} {m k : Nat} (h : m ≤ k) : b.scopeCode m ≤ b.scopeCode k :=
  BatchLog.scopeCode_le.2 fun _ hp hm => BatchLog.le_scopeCode hp (hm.trans h)

theorem BatchLog.widen_of_le {b : BatchLog} {m scope : Nat} (h : scope ≤ b.scopeCode m) : b.widen m scope = b := if_pos h

theorem BatchLog.mem_widen {b : BatchLog} {m scope : Nat} (h : ¬ scope ≤ b.scopeCode m) {p : Nat × Nat} :
    p ∈ (b.widen m scope).widest ↔ p = (m, scope) ∨ (p ∈ b.widest ∧ (p.1 < m ∨ scope < p.2)) := by
  simp [BatchLog.widen, if_neg h]

/-- An operation of a batch never narrows the scope of the batches up to a number. -/
theorem BatchLog.scopeCode_le_widen (b : BatchLog) (m scope k : Nat) : b.scopeCode k ≤ (b.widen m scope).scopeCode k := by
  by_cases h : scope ≤ b.scopeCode m
  · rw [BatchLog.widen_of_le h]
  · refine BatchLog.scopeCode_le.2 fun p hp hk => ?_
    by_cases hkept : p.1 < m ∨ scope < p.2
    · exact BatchLog.le_scopeCode ((BatchLog.mem_widen h).2 (.inr ⟨hp, hkept⟩)) hk
    · have hnew : scope ≤ (b.widen m scope).scopeCode k :=
        BatchLog.le_scopeCode (p := (m, scope)) ((BatchLog.mem_widen h).2 (.inl rfl)) (by dsimp only; omega)
      omega

theorem BatchLog.le_scopeCode_widen (b : BatchLog) {m scope k : Nat} (hm : m ≤ k) : scope ≤ (b.widen m scope).scopeCode k := by
  by_cases h : scope ≤ b.scopeCode m
  · rw [BatchLog.widen_of_le h]
    exact h.trans (BatchLog.scopeCode_mono hm)
  · exact BatchLog.le_scopeCode (p := (m, scope)) ((BatchLog.mem_widen h).2 (.inl rfl)) hm

theorem BatchLog.scopeCode_widen_le (b : BatchLog) (m scope k : Nat) :
    (b.widen m scope).scopeCode k ≤ Nat.max (b.scopeCode k) (if m ≤ k then scope else 0) := by
  by_cases h : scope ≤ b.scopeCode m
  · rw [BatchLog.widen_of_le h]
    exact Nat.le_max_left _ _
  · refine BatchLog.scopeCode_le.2 fun p hp hk => ?_
    rcases (BatchLog.mem_widen h).1 hp with rfl | ⟨hp, -⟩
    · rw [if_pos hk]
      exact Nat.le_max_right _ _
    · exact (BatchLog.le_scopeCode hp hk).trans (Nat.le_max_left _ _)

theorem BatchLog.scopeTo_code (b : BatchLog) {k : Nat} (h : b.scopeCode k < 6) : (b.scopeTo k).code.toNat = b.scopeCode k := by
  unfold BatchLog.scopeTo
  generalize b.scopeCode k = x at h
  interval_cases x <;> rfl

end Sys2Proof.Machine
end

section
/-! PROOF. O38: `bclose`, `bwait` and `bcnt` (R124, R139, R257 to R259). -/

namespace Sys2Proof.Machine

variable {s : State} {c : Issuer} {d a : Reg}

/-! `bclose`, case by case. -/

theorem exec_bclose_last (h : s.issuer = some c) (hl : c.team.batches.last + 1 = 2 ^ 32) : RaisesIllegal (.bclose d) s c :=
  (State.issue_of_issuer h _).trans (congrArg Host.Outcome.next (if_pos hl))

theorem exec_bclose_full (h : s.issuer = some c) (hl : c.team.batches.last + 1 ≠ 2 ^ 32)
    (hfull : 64 ≤ (s.openBatches c.cid c.team.index).length) : Waits (.bclose d) s c .bclose :=
  (State.issue_of_issuer h _).trans (congrArg Host.Outcome.next ((if_neg hl).trans (if_pos hfull)))

/-- A `bclose` that closes leaves what `closeBatch` leaves, but for the issuing team, which takes the number. -/
theorem exec_bclose (h : s.issuer = some c) (hl : c.team.batches.last + 1 ≠ 2 ^ 32) (hroom : (s.openBatches c.cid c.team.index).length < 64)
    {u : Team} (hu : (((s.setTeam c.ref c.team).closing c.cid c.team).settleBatch c.cid c.team.index (c.team.batches.last + 1)).teamAt c.ref = some u) :
    exec (.bclose d) s = .next ((((s.setTeam c.ref c.team).closing c.cid c.team).settleBatch c.cid c.team.index (c.team.batches.last + 1)).setTeam c.ref
      ((u.writeS d.toNat (BitVec.ofNat 32 (c.team.batches.last + 1))).advance 1 none)) := by
  refine (State.issue_of_issuer h _).trans (congrArg Host.Outcome.next ?_)
  simp only [if_neg hl, if_neg (Nat.not_le.2 hroom), State.closeBatch_eq, hu]

/-! `bwait` and `bcnt`, case by case. -/

theorem exec_bwait_beyond (h : s.issuer = some c) (hn : c.team.batches.last < (c.team.s s.rf a.toNat).toNat) : RaisesIllegal (.bwait a) s c :=
  (State.issue_of_issuer h _).trans (congrArg Host.Outcome.next (if_pos hn))

theorem exec_bwait_open (h : s.issuer = some c) (hn : (c.team.s s.rf a.toNat).toNat ≤ c.team.batches.last)
    (ho : ∃ b ∈ s.openBatches c.cid c.team.index, b ≤ (c.team.s s.rf a.toNat).toNat) :
    Waits (.bwait a) s c (.batch (c.team.s s.rf a.toNat).toNat) :=
  (State.issue_of_issuer h _).trans (congrArg Host.Outcome.next ((if_neg (Nat.not_lt.2 hn)).trans (if_pos (by simpa using ho))))

theorem exec_bwait_done (h : s.issuer = some c) (hn : (c.team.s s.rf a.toNat).toNat ≤ c.team.batches.last)
    (ho : ∀ b ∈ s.openBatches c.cid c.team.index, (c.team.s s.rf a.toNat).toNat < b) :
    Makes (.bwait a) s (s.setMsys (s.msys.acquire c.ref.die c.ref.core (c.team.batches.scopeTo (c.team.s s.rf a.toNat).toNat))) c c.team := by
  refine ⟨_, (State.issue_of_issuer h _).trans (congrArg Host.Outcome.next ((if_neg (Nat.not_lt.2 hn)).trans (if_neg ?_))),
    Team.advance_frame _ _ _, Team.advance_pc _ _ _⟩
  simpa using ho

theorem exec_bcnt_illegal (h : s.issuer = some c) (hi : evenReg d = false ∨ (c.team.s s.rf a.toNat).toNat = 0 ∨
    c.team.batches.last < (c.team.s s.rf a.toNat).toNat) : RaisesIllegal (.bcnt d a) s c := by
  refine (State.issue_of_issuer h _).trans (congrArg Host.Outcome.next (if_pos ?_))
  rcases hi with hi | hi | hi <;> simp [hi]

/-- A `bcnt` of a closed batch delivers the batch's bytes. -/
theorem exec_bcnt (h : s.issuer = some c) (hd : evenReg d = true) (h0 : (c.team.s s.rf a.toNat).toNat ≠ 0)
    (hn : (c.team.s s.rf a.toNat).toNat ≤ c.team.batches.last) :
    UniformResult (.bcnt d a) s c 1 true d (s.batchBytes c.cid c.team (c.team.s s.rf a.toNat).toNat, false) := by
  have he : exec (.bcnt d a) s = s.teamOp 1 none (fun c => .done (c.team.uniformResult true d
      (s.batchBytes c.cid c.team (c.team.s s.rf a.toNat).toNat, false))) := by
    rw [State.teamOp_done h rfl]
    refine (State.issue_of_issuer h _).trans (congrArg Host.Outcome.next ?_)
    rw [if_neg (by simp [hd, h0, hn])]
    rfl
  exact UniformResult.of_done h he rfl

/-- Settles O38: each clause is one case of its instruction; that of a `bclose` that closes tells the team and the table of operations apart. -/
theorem batches : Obligations.Batches := by
  intro s c d a h t n next mine open_
  refine ⟨exec_bclose_last h, exec_bclose_full h, fun hl hroom hon hn hslot => ?_, exec_bwait_beyond h, exec_bwait_open h, exec_bwait_done h,
    exec_bcnt_illegal h, fun hd h0 hle => ⟨fun p hp => ?_, fun hp => ?_⟩,
    fun b m scope k => ⟨b.scopeCode_le_widen m scope k, b.le_scopeCode_widen, b.scopeCode_widen_le m scope k⟩, fun b k => b.scopeTo_code⟩
  · let s1 := s.setTeam c.ref c.team
    have hc : s.crewAt c.cid = some c.crew := State.crewAt_of_issuerAt (State.issuer_issuerAt h)
    obtain ⟨hcl, htl⟩ := State.teamAt_closing (s := s1) hon hn hslot hc (s.teamAt_setTeam_self c.ref c.team)
    have hclosed : (s1.closing c.cid c.team).ClosedFor c next := ⟨hcl, _, rfl, htl⟩
    obtain ⟨-, b, hb, hu⟩ := hclosed.settleBatch hon hn hslot c.team.index next
    refine ⟨_, _, exec_bclose h hl hroom hu, State.teamAt_setTeam_self _ _ _, ?_, ?_, fun r => ?_, ?_, fun o ho hm hp => ?_, fun hall o ho hm => ?_⟩
    · rw [Team.advance_pc]
      rfl
    · rw [Team.advance_batches]
      exact hb
    · rw [Team.advance_sreg]
      exact Sparse.get_set ..
    · exact State.settleBatch_ops_open fun o ho => State.mem_closing_ops ho
    · have hrun := State.settleBatch_closing_running (s := s1) ho hm hp
      have hlog : b = s1.closedLog c.cid c.team := by
        rw [hrun, htl] at hu
        have := Option.some.inj hu
        exact (congrArg Team.batches this).symm
      refine ⟨by rw [State.setTeam_ops, hrun]; rfl, by rw [State.setTeam_msys, hrun]; exact State.mapTeam_msys _ _ _ _, ?_, ?_⟩
      · rw [Team.advance_batches]
        exact congrArg BatchLog.counts hlog
      · rw [Team.advance_batches]
        exact show b.widest = c.team.batches.widest from hlog ▸ rfl
    · exact State.settleBatch_closing_unlocked (s := s1) hall ho hm
  · have hr := exec_bcnt h hd h0 hle
    rwa [State.batchBytes, hp] at hr
  · have hr := exec_bcnt h hd h0 hle
    rwa [State.batchBytes, hp] at hr

end Sys2Proof.Machine
end

section
/-! PROOF. O37: the engine port (R120 to R122, R126, R127, R139, R256, R264). -/

namespace Sys2Proof.Machine

variable {s : State} {c : Issuer} {k : BitVec 8} {a : Reg}

/-! Words of a command. -/

theorem exec_stp_beyond (h : s.issuer = some c) (hk : 4 < k.toNat) : RaisesIllegal (.stp k a) s c := by
  refine (State.issue_of_issuer h _).trans (congrArg Host.Outcome.next ?_)
  split
  · rw [State.portWrite, if_neg (by omega), if_pos hk]
  · rfl

theorem exec_stp_odd (h : s.issuer = some c) (ha : evenReg a = false) (hk : k.toNat ≤ 4) :
    exec (.stp k a) s = .next (s.illegal { c with team := c.team.dropPort }) :=
  (State.issue_of_issuer h _).trans (congrArg Host.Outcome.next ((if_neg (by simp [ha])).trans (congrArg s.illegal (if_neg (by omega)))))

theorem exec_stp_even (h : s.issuer = some c) (ha : evenReg a = true) :
    exec (.stp k a) s = .next (s.portWrite c k.toNat (c.team.s64 s.rf a.toNat)) :=
  (State.issue_of_issuer h _).trans (congrArg Host.Outcome.next (if_pos ha))

theorem State.portWrite_twice {k v : Nat} (hk : k < 4) (hw : c.team.port.written.getLsbD k = true) :
    s.portWrite c k v = s.raise { c with team := c.team.dropPort } .portSequence k 0 0 := by
  rw [State.portWrite, if_neg (by omega), if_neg (by omega), if_pos hw]

theorem State.portWrite_stage {k v : Nat} (hk : k < 4) (hw : c.team.port.written.getLsbD k = false) :
    s.portWrite c k v = s.setTeam c.ref ({ c.team with port := c.team.port.word k (BitVec.ofNat 64 v) }.advance 1 none) := by
  rw [State.portWrite, if_neg (by omega), if_neg (by omega), if_neg (by simp [hw])]

/-! The go, check by check (R122, R127). -/

/-- A go word, and a go that has waited, both carry out the go. -/
theorem exec_go (hat : s.issuerAt c.ref = some c) (ha : evenReg a = true) : let s' := s.go c (c.team.s64 s.rf a.toNat)
    (s.issuer = some c → exec (.stp 4 a) s = .next s') ∧
    (∀ t0 k0 n, s.teamAt c.ref = some t0 → t0.wait = some (.rangeLock n) → t0.current = some (.stp k0 a) → c.crew.phase = .resident →
      c.crew.stop = none → (s.locksOn c.ref.die c.ref.core).length + n ≤ 32 → exec (.engineOperationStart c.ref) s = .next s') := by
  refine ⟨fun h => exec_stp_even h ha, fun t0 k0 n ht hw hi hp hs hroom => ?_⟩
  show execEngineOperationStart c.ref s = _
  simp only [execEngineOperationStart, ht, hat, hw, hi]
  rw [if_pos ⟨hp, hs, hroom⟩]

section

variable {v : Nat}

theorem State.go_sequence (h : c.team.port.written ≠ 15 ∨ 2 ≤ v) :
    s.go c v = s.raise { c with team := c.team.dropPort } .portSequence 4 0 0 := by
  rw [State.go, if_pos h]

variable (hw : c.team.port.written = 15) (hv : v < 2)

include hw hv

theorem State.go_illegal (h : c.team.port.cmd.legal false = false ∨ c.goForbidden c.team.port.cmd = true) :
    s.go c v = s.illegal { c with team := c.team.dropPort } := by
  rw [State.go, if_neg (by simp [hw, hv]), if_pos (by simpa using h)]

variable (hl : c.team.port.cmd.legal false = true) (hf : c.goForbidden c.team.port.cmd = false)

include hl hf

theorem State.go_misaligned (h : c.team.port.cmd.misaligned = true) :
    s.go c v = s.raise { c with team := c.team.dropPort } .misaligned 0 c.team.port.cmd.w2 0 := by
  rw [State.go, if_neg (by simp [hw, hv]), if_neg (by simp [hl, hf]), if_pos h]

variable (hm : c.team.port.cmd.misaligned = false)

include hm

theorem State.go_outside {off : Nat} (h : c.team.port.cmd.outside c.crew.alloc.scratch = some off) :
    s.go c v = s.raise { c with team := c.team.dropPort } .worldViolation 0 off 0 := by
  simp only [State.go, if_neg (show ¬ (c.team.port.written ≠ 15 ∨ 2 ≤ v) by simp [hw, hv]), hl, hf, hm, h, Bool.not_true, Bool.or_self,
    Bool.false_eq_true, if_false]

/-- A go that passes its checks waits for room in the table, and for the team's accesses, and then starts its operation. -/
theorem State.go_checked (h : c.team.port.cmd.outside c.crew.alloc.scratch = none) : s.go c v =
    if 32 < (s.openLocks c.ref.die c.ref.core).length + c.team.port.cmd.locks.length then
      s.raise { c with team := c.team.dropPort } .portSequence 4 0 0
    else if 32 < (s.locksOn c.ref.die c.ref.core).length + c.team.port.cmd.locks.length then s.stall c (.rangeLock c.team.port.cmd.locks.length)
    else if !c.team.late.isEmpty then s.stall c .accesses
    else s.startOp c c.team.port.cmd (v == 1) := by
  simp only [State.go, if_neg (show ¬ (c.team.port.written ≠ 15 ∨ 2 ≤ v) by simp [hw, hv]), hl, hf, hm, h, Bool.not_true, Bool.or_self,
    Bool.false_eq_true, if_false]

end

/-- Open batches hold no more of the table than all do. -/
theorem State.openLocks_le (s : State) (die core : Nat) : (s.openLocks die core).length ≤ (s.locksOn die core).length :=
  List.length_filter_le _ _

/-- Settles O37: a word is staged or refused, and a go word and a go that has waited carry out one go, whose checks come one by one. -/
theorem enginePort : Obligations.EnginePort := by
  intro s c k a hat t v i empty cmd need runs
  have hgo : ∀ s', s.go c v = s' → evenReg a = true → runs s' := fun s' he ha => he ▸ exec_go hat ha
  refine ⟨fun h => ⟨exec_stp_beyond h, exec_stp_odd h, fun ha hk hw => ?_, fun ha hk hw => ?_⟩, fun ha => ⟨fun hs => ?_, fun hw hv =>
    ⟨fun hi => ?_, fun hl hf => ⟨fun hm => ?_, fun hm => ⟨fun off ho => ?_, fun ho => ⟨fun hfull => ?_, fun hroom hfull => ?_, fun hroom hlate => ?_,
      fun hroom hlate => ?_⟩⟩⟩⟩⟩⟩
  · exact (exec_stp_even h ha).trans (congrArg _ (State.portWrite_twice hk hw))
  · exact ⟨_, (exec_stp_even h ha).trans (congrArg _ (State.portWrite_stage hk hw)), Team.advance_frame _ _ _, Team.advance_pc _ _ _⟩
  · exact hgo _ (State.go_sequence hs) ha
  · exact hgo _ (State.go_illegal hw hv hi) ha
  · exact hgo _ (State.go_misaligned hw hv hl hf hm) ha
  · exact hgo _ (State.go_outside hw hv hl hf hm ho) ha
  · exact hgo _ ((State.go_checked hw hv hl hf hm ho).trans (if_pos hfull)) ha
  · exact hgo _ ((State.go_checked hw hv hl hf hm ho).trans ((if_neg (Nat.not_lt.2 hroom)).trans (if_pos hfull))) ha
  · have hopen := s.openLocks_le c.ref.die c.ref.core
    have hfits : (s.locksOn c.ref.die c.ref.core).length + c.team.port.cmd.locks.length ≤ 32 := hroom
    refine hgo _ ((State.go_checked hw hv hl hf hm ho).trans ((if_neg (by omega)).trans ((if_neg (by omega)).trans (if_pos ?_)))) ha
    simpa using hlate
  · have hopen := s.openLocks_le c.ref.die c.ref.core
    have hfits : (s.locksOn c.ref.die c.ref.core).length + c.team.port.cmd.locks.length ≤ 32 := hroom
    have hnone : c.team.late = [] := hlate
    have hstart : s.go c v = s.startOp c cmd (v == 1) :=
      (State.go_checked hw hv hl hf hm ho).trans ((if_neg (by omega)).trans ((if_neg (by omega)).trans (if_neg (by simp [hnone]))))
    refine ⟨_, _, _, hgo _ hstart ha, Team.advance_frame _ _ _, Team.advance_pc _ _ _, rfl, rfl, rfl, rfl, rfl, rfl, rfl, rfl, rfl,
      BitVec.ofNat_toNat _ _, BitVec.ofNat_toNat _ _, BitVec.ofNat_toNat _ _, BitVec.ofNat_toNat _ _, rfl, rfl, rfl, rfl, rfl, rfl, rfl, rfl, rfl, rfl, ?_⟩
    exact if_congr beq_iff_eq rfl rfl

end Sys2Proof.Machine
end

section
/-! SUPPORT. Engine operations as the table of operations changes (R124, R332): what settling a batch leaves, and how an operation's units end. -/

namespace Sys2Proof.Machine

variable {s t u : State} {o p x y z : EngineOp}

/-! What an operation becomes as its batch settles. -/

/-- `x` is what operation `y` has become: one that has ended stands as it did, and none loses what it has read. -/
def EngineOp.Follows (y x : EngineOp) : Prop := x.id = y.id ∧ x.payload = y.payload ∧ (y.phase = .ended → x = y)

theorem EngineOp.Follows.refl (o : EngineOp) : o.Follows o := ⟨rfl, rfl, fun _ => rfl⟩

theorem EngineOp.Follows.trans (h : z.Follows y) (h' : y.Follows x) : z.Follows x := by
  obtain ⟨hi, hp, he⟩ := h
  obtain ⟨hi', hp', he'⟩ := h'
  refine ⟨hi'.trans hi, hp'.trans hp, fun hz => ?_⟩
  have hy := he hz
  subst hy
  exact he' hz

theorem EngineOp.follows_endFailed (h : o.phase ≠ .ended) : o.Follows o.endFailed := ⟨rfl, rfl, fun he => absurd he h⟩

theorem State.follows_afterReplies (s : State) (resume : Bool) (h : o.phase ≠ .ended) : o.Follows (s.afterReplies resume o) := by
  unfold State.afterReplies
  dsimp only
  split
  · exact ⟨rfl, rfl, fun he => absurd he h⟩
  · exact EngineOp.follows_endFailed h

/-- An operation of a batch after the replies to it follows one of the batch. -/
theorem State.follows_replied (s : State) (resume : Bool) : ∀ (os : List EngineOp) (gone : List Nat), ∀ p ∈ s.replied resume os gone, ∃ o ∈ os, o.Follows p
  | [], _, p, hp => by cases hp
  | o :: os, gone, p, hp => by
    rcases List.mem_cons.1 hp with rfl | hp
    · refine ⟨o, List.mem_cons_self, ?_⟩
      split
      · exact .refl o
      next he =>
        split
        · exact s.follows_afterReplies resume he
        · split
          · exact EngineOp.follows_endFailed he
          · exact .refl o
    · obtain ⟨q, hq, hf⟩ := s.follows_replied resume os _ p hp
      exact ⟨q, List.mem_cons_of_mem _ hq, hf⟩

/-- Settling of batches: range locks are released, the teams' logs count, and operations leave or follow those that stood there. -/
def State.Settles (s t : State) : Prop :=
  (∃ locks, t.msys = { s.msys with locks := locks }) ∧
    (∀ cid c, s.crewAt cid = some c → ∃ teams, t.crewAt cid = some { c with teams := teams }) ∧ ∀ x ∈ t.ops, ∃ y ∈ s.ops, y.Follows x

theorem State.Settles.refl (s : State) : s.Settles s := ⟨⟨_, rfl⟩, fun _ c h => ⟨c.teams, h⟩, fun x hx => ⟨x, hx, .refl x⟩⟩

theorem State.Settles.trans (h : s.Settles t) (h' : t.Settles u) : s.Settles u := by
  obtain ⟨⟨l, hm⟩, hc, ho⟩ := h
  obtain ⟨⟨l', hm'⟩, hc', ho'⟩ := h'
  refine ⟨⟨l', by rw [hm', hm]⟩, fun cid c h => ?_, fun x hx => ?_⟩
  · obtain ⟨teams, h1⟩ := hc cid c h
    obtain ⟨teams', h2⟩ := hc' cid { c with teams := teams } h1
    exact ⟨teams', h2⟩
  · obtain ⟨y, hy, hxy⟩ := ho' x hx
    obtain ⟨z, hz, hyz⟩ := ho y hy
    exact ⟨z, hz, hyz.trans hxy⟩

theorem State.settles_mapTeams (s : State) (cid : Nat) (f : Team → Team) : s.Settles (s.mapTeams cid f) := by
  obtain ⟨teams, crews, he⟩ := s.mapTeams_frame cid f
  refine ⟨⟨s.msys.locks, by rw [he]⟩, fun id c hc => ?_, fun x hx => ⟨x, by rwa [he] at hx, .refl x⟩⟩
  cases hk : s.crewAt cid with
  | none => exact ⟨c.teams, by rw [State.mapTeams, hk]; exact hc⟩
  | some k =>
    by_cases hon : k.onCore = true
    · exact ⟨c.teams, by rw [State.crewAt_mapTeams hk hon]; exact hc⟩
    · have hset : s.mapTeams cid f = s.setCrew cid { k with teams := k.teams.map f } := by
        unfold State.mapTeams
        simp only [hk, if_neg hon]
      rw [hset]
      by_cases hid : id = cid
      · subst hid
        obtain rfl : k = c := Option.some.inj (hk.symm.trans hc)
        exact ⟨_, State.crewAt_setCrew_self _ _ _⟩
      · exact ⟨c.teams, by rw [State.crewAt_setCrew_ne _ _ hid]; exact hc⟩

theorem State.settles_settleOps (s : State) (os : List EngineOp) : s.Settles (s.settleOps os) := by
  have h : s.Settles (os.foldl (fun s o => s.mapTeam o.crew o.team
      (fun t => { t with batches := t.batches.add o.batch o.done (ctlScope o.w0) })) s) :=
    List.foldlRecOn (motive := fun x : State => s.Settles x) _ _ (.refl s) fun x hx o _ => hx.trans (x.settles_mapTeams _ _)
  exact h.trans ⟨⟨_, rfl⟩, fun _ c hc => ⟨c.teams, hc⟩, fun x hx => ⟨x, (List.mem_filter.1 hx).1, .refl x⟩⟩

theorem State.settles_settleBatch (s : State) (cid team n : Nat) : s.Settles (s.settleBatch cid team n) := by
  rcases s.settleBatch_cases cid team n with ⟨-, he⟩ | ⟨-, he⟩ <;> rw [he]
  · exact s.settles_settleOps _
  · exact .refl s

/-! One operation of the table changes. -/

theorem State.mem_setOp (h : x ∈ (s.setOp o).ops) : x = o ∨ x ∈ s.ops := by
  obtain ⟨y, hy, rfl⟩ := List.mem_map.1 h
  split
  · exact .inl rfl
  · exact .inr hy

theorem State.eq_of_mem_setOp (h : x ∈ (s.setOp o).ops) (hi : x.id = o.id) : x = o := by
  obtain ⟨y, -, rfl⟩ := List.mem_map.1 h
  by_cases hy : y.id = o.id
  · exact if_pos hy
  · rw [if_neg hy] at hi
    exact absurd hi hy

theorem State.opAt_id {id : Nat} (h : s.opAt id = some o) : o.id = id := by simpa using List.find?_some h

theorem State.mem_of_opAt {id : Nat} (h : s.opAt id = some o) : o ∈ s.ops := List.mem_of_find?_eq_some h

/-- The operation with an id, as it is changed. -/
theorem State.opAt_setOp {id : Nat} (h : s.opAt id = some o) (hp : p.id = id) : (s.setOp p).opAt id = some p := by
  unfold State.opAt State.setOp at *
  generalize s.ops = l at h ⊢
  induction l with
  | nil => cases h
  | cons y l ih =>
    rw [List.map_cons, List.find?_cons]
    by_cases hy : y.id = id
    · rw [if_pos (hy.trans hp.symm)]
      simp [hp]
    · rw [if_neg (by rwa [hp])]
      have hne : (y.id == id) = false := by simpa using hy
      rw [hne]
      rw [List.find?_cons, hne] at h
      exact ih h

theorem State.mem_setOp_self (h : x ∈ s.ops) (hi : x.id = o.id) : o ∈ (s.setOp o).ops := List.mem_map.2 ⟨x, h, if_pos hi⟩

theorem State.settles_foldl_setOp {ps : List EngineOp} (h : ∀ p ∈ ps, ∃ y ∈ s.ops, y.Follows p) : s.Settles (ps.foldl State.setOp s) := by
  refine List.foldlRecOn (motive := fun x : State => s.Settles x) _ _ (.refl s) fun t ht p hp => ?_
  obtain ⟨hm, hc, ho⟩ := ht
  refine ⟨hm, hc, fun x hx => ?_⟩
  rcases State.mem_setOp hx with rfl | hx
  · exact h _ hp
  · exact ho x hx

theorem State.settles_settleReplies (s : State) (cid team : Nat) (batch : Option Nat) : s.Settles (s.settleReplies cid team batch) := by
  have hf : ∀ resume, s.Settles ((s.replied resume (s.batchOps cid team batch) []).foldl State.setOp s) := fun resume =>
    State.settles_foldl_setOp fun p hp => by
      obtain ⟨y, hy, hyp⟩ := s.follows_replied _ _ _ p hp
      exact ⟨y, (List.mem_filter.1 hy).1, hyp⟩
  unfold State.settleReplies
  dsimp only
  split
  · exact .refl s
  · cases batch with
    | none => exact hf _
    | some n => exact (hf _).trans (State.settles_settleBatch _ _ _ _)

/-- Replies are not acted on while an operation of the batch has a record that is not answered. -/
theorem State.settleReplies_of_unanswered {f : FailPage} (ho : o ∈ s.ops) (hp : o.phase = .stopped) (hf : f ∈ o.fails) (ha : f.answer = none) :
    s.settleReplies o.crew o.team o.batch = s := by
  have hmem : o ∈ (s.batchOps o.crew o.team o.batch).filter (fun o => o.phase == .stopped) :=
    List.mem_filter.2 ⟨List.mem_filter.2 ⟨ho, by simp⟩, by simp [hp]⟩
  refine if_pos (Bool.or_eq_true_iff.2 (.inr (List.any_eq_true.2 ⟨o, hmem, List.any_eq_true.2 ⟨f, hf, ?_⟩⟩)))
  simp [ha]

theorem State.settles_putOp (s : State) (o : EngineOp) : (s.setOp o).Settles (s.putOp o) := by
  have h := (s.setOp o).settles_settleReplies o.crew o.team o.batch
  unfold State.putOp
  dsimp only
  split
  · split
    · exact h.trans (State.settles_settleBatch _ _ _ _)
    · exact h
  · exact h

/-- An operation that has ended stands in the table as it was put there, or has left it. -/
theorem State.eq_of_mem_putOp (he : o.phase = .ended) (h : x ∈ (s.putOp o).ops) (hi : x.id = o.id) : x = o := by
  obtain ⟨y, hy, hid, -, hend⟩ := (s.settles_putOp o).2.2 x h
  obtain rfl := State.eq_of_mem_setOp hy (hid.symm.trans hi)
  exact hend he

/-- An operation that stops with an unanswered record is only put in the table. -/
theorem State.putOp_of_unanswered {f : FailPage} (h : x ∈ s.ops) (hi : x.id = o.id) (hp : o.phase = .stopped) (hf : f ∈ o.fails)
    (ha : f.answer = none) : s.putOp o = s.setOp o := by
  unfold State.putOp
  rw [State.settleReplies_of_unanswered (State.mem_setOp_self h hi) hp hf ha]
  cases o.batch with
  | none => rfl
  | some n => exact if_neg (by simp [hp])

/-! How the units of an operation end. -/

/-- The operation goes to the table with the id and the bytes read that it has, and batches settle; memory but for range locks stands where the
operation sends nothing. -/
def State.Puts (s : State) (o : EngineOp) (t : State) : Prop :=
  ∃ m o', o'.id = o.id ∧ o'.payload = o.payload ∧ ((s.setMsys m).setOp o').Settles t ∧ (o.words.op ≠ 4 → m = s.msys)

theorem State.puts_setOp (s : State) {o o' : EngineOp} (hi : o'.id = o.id) (hp : o'.payload = o.payload) : s.Puts o (s.setOp o') :=
  ⟨s.msys, o', hi, hp, .refl _, fun _ => rfl⟩

theorem State.puts_putOp (s : State) {o o' : EngineOp} (hi : o'.id = o.id) (hp : o'.payload = o.payload) : s.Puts o (s.putOp o') :=
  ⟨s.msys, o', hi, hp, s.settles_putOp o', fun _ => rfl⟩

theorem State.failOp_of_canPost (h : s.msys.canPost o.die = true) (code cause : Nat) (write : Bool) (addr : Nat) :
    s.failOp o code cause write addr = (s.setMsys (s.msys.faultWrite (o.post code cause write addr (o.mode s.msys)) .none)).putOp
      { o with phase := .ended, failed := true, walked := [], xfer := none, failing := none } := if_pos h

theorem State.failOp_of_full (h : s.msys.canPost o.die = false) (code cause : Nat) (write : Bool) (addr : Nat) :
    s.failOp o code cause write addr = s.setOp { o with failing := some (.stop code cause write addr, o.mode s.msys) } :=
  if_neg (by simp [h])

/-- A send that fails is put in the table, with or without a record. -/
theorem State.puts_failOp (s : State) {o o' : EngineOp} (ho : o.words.op = 4) (hi : o'.id = o.id) (hp : o'.payload = o.payload) (code cause : Nat)
    (write : Bool) (addr : Nat) : s.Puts o (s.failOp o' code cause write addr) := by
  cases hc : s.msys.canPost o'.die with
  | true =>
    rw [State.failOp_of_canPost hc]
    exact ⟨_, { o' with phase := .ended, failed := true, walked := [], xfer := none, failing := none }, hi, hp, State.settles_putOp _ _,
      fun h => absurd ho h⟩
  | false => exact State.failOp_of_full hc .. ▸ s.puts_setOp hi hp

theorem State.puts_sendOff (s : State) (ho : o.words.op = 4) : s.Puts o (s.sendOff o) := by
  unfold State.sendOff
  split
  · exact s.puts_putOp rfl rfl
  · exact s.puts_failOp (o' := { o with done := 0 }) ho rfl rfl _ _ _ _

theorem State.puts_endUnits (s : State) (o : EngineOp) : s.Puts o (s.endUnits o) := by
  unfold State.endUnits
  dsimp only
  split
  · exact s.puts_putOp rfl rfl
  · split
    · split
      · exact s.puts_putOp rfl rfl
      · exact s.puts_putOp rfl rfl
    · split
      next h => exact s.puts_sendOff h.1
      next => exact s.puts_putOp rfl rfl

namespace State.Puts

theorem crewAt (h : s.Puts o t) {cid : Nat} {c : Crew} (hc : s.crewAt cid = some c) : ∃ cr, t.crewAt cid = some cr ∧ cr.scratch = c.scratch := by
  obtain ⟨m, o', -, -, ⟨-, hs, -⟩, -⟩ := h
  obtain ⟨teams, he⟩ := hs cid c hc
  exact ⟨_, he, rfl⟩

theorem payload (h : s.Puts o t) (hx : x ∈ t.ops) (hi : x.id = o.id) : x.payload = o.payload := by
  obtain ⟨m, o', hid, hp, ⟨-, -, ho⟩, -⟩ := h
  obtain ⟨y, hy, hyi, hyp, -⟩ := ho x hx
  obtain rfl := State.eq_of_mem_setOp hy (by rw [← hyi, hi, hid])
  exact hyp.trans hp

theorem msys (h : s.Puts o t) (h4 : o.words.op ≠ 4) : ∃ locks, t.msys = { s.msys with locks := locks } := by
  obtain ⟨m, o', -, -, ⟨⟨locks, hm⟩, -, -⟩, hs⟩ := h
  exact ⟨locks, by rw [hm, hs h4]; rfl⟩

end State.Puts

end Sys2Proof.Machine
end

section
/-! SUPPORT. Where the bytes of a unit of an engine operation lie (R101, R125, R129, R321, R336). -/

namespace Sys2Proof.Machine

variable {m n k : MemSys} {o p q : EngineOp}

/-! Runs of virtual addresses. -/

/-- The virtual addresses of `len` bytes from `va` on, in a space of 57 bits (R320). -/
def vaRun (va len : Nat) : List Nat := (List.range len).map (fun i => (va + i) % 2 ^ 57)

theorem vaRun_add (va a b : Nat) : vaRun va (a + b) = vaRun va a ++ vaRun (va + a) b := by
  simp [vaRun, List.range_add, Nat.add_assoc]

theorem vaRun_mod (va len : Nat) : vaRun (va % 2 ^ 57) len = vaRun va len := by simp [vaRun]

@[simp] theorem length_vaRun (va len : Nat) : (vaRun va len).length = len := by simp [vaRun]

/-- The pieces of a run of bytes are the run, piece by piece, and each lies in one line. -/
theorem linePieces_run : ∀ (fuel va len : Nat), len ≤ fuel → (linePieces fuel va len).flatMap (fun p => vaRun p.1 p.2) = vaRun va len ∧
    ∀ p ∈ linePieces fuel va len, p.1 % 128 + p.2 ≤ 128
  | 0, va, len, h => by
    obtain rfl : len = 0 := by omega
    exact ⟨rfl, by simp [linePieces]⟩
  | fuel + 1, va, len, h => by
    unfold linePieces
    by_cases h0 : len = 0
    · subst h0
      exact ⟨rfl, by simp⟩
    · rw [if_neg h0]
      dsimp only
      have hn : Nat.min len (128 - va % 128) ≤ len ∧ 1 ≤ Nat.min len (128 - va % 128) ∧ Nat.min len (128 - va % 128) ≤ 128 - va % 128 :=
        ⟨Nat.min_le_left _ _, Nat.le_min.2 ⟨by omega, by omega⟩, Nat.min_le_right _ _⟩
      generalize Nat.min len (128 - va % 128) = n at hn ⊢
      obtain ⟨ih, ihl⟩ := linePieces_run fuel ((va + n) % 2 ^ 57) (len - n) (by omega)
      refine ⟨?_, fun p hp => ?_⟩
      · rw [List.flatMap_cons, ih, vaRun_mod, ← vaRun_add, Nat.add_sub_cancel' hn.1]
      · rcases List.mem_cons.1 hp with rfl | hp
        · dsimp only
          omega
        · exact ihl p hp

/-- The pieces of an aligned run are aligned. -/
theorem linePieces_dvd {d : Nat} (hd : d ∣ 128) : ∀ (fuel va len : Nat), d ∣ va → d ∣ len → ∀ p ∈ linePieces fuel va len, d ∣ p.1 ∧ d ∣ p.2
  | 0, _, _, _, _ => by simp [linePieces]
  | fuel + 1, va, len, hv, hl => by
    unfold linePieces
    by_cases h0 : len = 0
    · simp [h0]
    · rw [if_neg h0]
      dsimp only
      have hn : d ∣ Nat.min len (128 - va % 128) := by
        show d ∣ min len (128 - va % 128)
        rw [Nat.min_def]
        split
        · exact hl
        · exact Nat.dvd_sub hd ((Nat.dvd_mod_iff hd).2 hv)
      have h57 : d ∣ 2 ^ 57 := hd.trans (by decide)
      intro p hp
      rcases List.mem_cons.1 hp with rfl | hp
      · exact ⟨hv, hn⟩
      · exact linePieces_dvd hd fuel _ _ ((Nat.dvd_mod_iff h57).2 (Nat.dvd_add hv hn)) (Nat.dvd_sub hl hn) p hp

/-! Places. -/

/-- The place lies in one line. -/
def EngLoc.Fits (l : EngLoc) : Prop := l.addr % 128 + l.len ≤ 128

theorem EngineOp.Covers.run {write : Bool} {space addr len : Nat} {ls : List EngLoc} (h : o.Covers write space addr len ls) :
    ls.flatMap (fun l => vaRun l.va l.len) = vaRun addr len := h.1

/-- Places cover a run where they are the run, and each of them lies where its own addresses do. -/
theorem EngineOp.covers_of_run {write : Bool} {space addr len : Nat} {ls : List EngLoc} (hr : ls.flatMap (fun l => vaRun l.va l.len) = vaRun addr len)
    (h : ∀ l ∈ ls, o.Covers write space l.va l.len [l]) : o.Covers write space addr len ls :=
  ⟨hr, fun l hl => (h l hl).2 l List.mem_cons_self⟩

theorem EngineOp.Covers.single {write : Bool} {space addr len : Nat} {ls : List EngLoc} (h : o.Covers write space addr len ls) {l : EngLoc} (hl : l ∈ ls) :
    o.Covers write space l.va l.len [l] := by
  refine ⟨by simp, fun x hx => ?_⟩
  rw [List.mem_singleton.1 hx]
  exact h.2 l hl

theorem EngineOp.covers_nil (o : EngineOp) (write : Bool) (space addr : Nat) : o.Covers write space addr 0 [] := ⟨rfl, by simp⟩

/-- A place of global memory lies where a page that the operation has translated puts it. -/
theorem EngineOp.covers_global {write : Bool} {l : EngLoc} : o.Covers write 0 l.va l.len [l] ↔ l.space = 0 ∧
    ∃ lvl, (⟨l.va / 4096, write, l.leaf, lvl⟩ : WalkedPage) ∈ o.walked ∧ l.addr = leafPa l.leaf + l.va % pageBytes lvl := by
  simp [EngineOp.Covers]

/-- A place of another space lies at its own address. -/
theorem EngineOp.covers_scratch {write : Bool} {l : EngLoc} : o.Covers write 1 l.va l.len [l] ↔ l.space = 1 ∧ l.addr = l.va := by
  simp [EngineOp.Covers]

theorem EngineOp.covers_flash {write : Bool} {space : Nat} {l : EngLoc} :
    o.Covers write (space + 2) l.va l.len [l] ↔ l.space = 2 ∧ l.addr = l.va := by
  simp [EngineOp.Covers]

theorem EngineOp.Covers.mono {write : Bool} {space addr len : Nat} {ls : List EngLoc} (hw : ∀ w ∈ o.walked, w ∈ p.walked)
    (h : o.Covers write space addr len ls) : p.Covers write space addr len ls := by
  refine EngineOp.covers_of_run h.run fun l hl => ?_
  have hs := h.single hl
  match space with
  | 0 =>
    obtain ⟨h0, lvl, hm, ha⟩ := EngineOp.covers_global.1 hs
    exact EngineOp.covers_global.2 ⟨h0, lvl, hw _ hm, ha⟩
  | 1 => exact EngineOp.covers_scratch.2 (EngineOp.covers_scratch.1 hs)
  | n + 2 => exact EngineOp.covers_flash.2 (EngineOp.covers_flash.1 hs)

/-- An aligned place is aligned at its physical address too: a page of any size is 4096 bytes many times (R321). -/
theorem EngineOp.Covers.dvd_addr {write : Bool} {space d : Nat} {l : EngLoc} (h : o.Covers write space l.va l.len [l]) (hd : d ∣ 4096) (hv : d ∣ l.va) :
    d ∣ l.addr := by
  match space with
  | 0 =>
    obtain ⟨-, lvl, -, ha⟩ := EngineOp.covers_global.1 h
    have hp : d ∣ pageBytes lvl := hd.trans ⟨2 ^ (9 * lvl), by rw [pageBytes, Nat.pow_add]⟩
    rw [ha]
    exact Nat.dvd_add (hd.mul_left _) ((Nat.dvd_mod_iff hp).2 hv)
  | 1 => exact (EngineOp.covers_scratch.1 h).2 ▸ hv
  | n + 2 => exact (EngineOp.covers_flash.1 h).2 ▸ hv

/-- The part of a place of `n` bytes from its `j`-th on. -/
def EngLoc.part (l : EngLoc) (j n : Nat) : EngLoc := { l with addr := l.addr + j, va := l.va + j, len := n }

/-- A part of a place within a line lies where the place does. -/
theorem EngineOp.Covers.part {write : Bool} {space j n : Nat} {l : EngLoc} (h : o.Covers write space l.va l.len [l])
    (hl : space = 0 → l.va % 128 + l.len ≤ 128) (hj : j + n ≤ l.len) (hn : 0 < n) : o.Covers write space (l.part j n).va n [l.part j n] := by
  match space with
  | 0 =>
    obtain ⟨h0, lvl, hm, ha⟩ := EngineOp.covers_global.1 h
    have hline := hl rfl
    have hpage : (l.va + j) / 4096 = l.va / 4096 := by omega
    have hoff : (l.va + j) % pageBytes lvl = l.va % pageBytes lvl + j := by
      obtain ⟨e, he⟩ : ∃ e, pageBytes lvl = 128 * e := ⟨32 * 2 ^ (9 * lvl), by rw [pageBytes, Nat.pow_add]; omega⟩
      have hpos : 0 < pageBytes lvl := Nat.two_pow_pos _
      have hsmall : l.va % pageBytes lvl + j < pageBytes lvl := by
        have hlt := Nat.mod_lt l.va hpos
        have hmod : l.va % pageBytes lvl % 128 = l.va % 128 := Nat.mod_mod_of_dvd _ ⟨e, he⟩
        omega
      rw [← Nat.mod_add_mod, Nat.mod_eq_of_lt hsmall]
    refine EngineOp.covers_global.2 ⟨h0, lvl, ?_, ?_⟩
    · exact hpage ▸ hm
    · show l.addr + j = leafPa l.leaf + (l.va + j) % pageBytes lvl
      rw [ha, hoff, Nat.add_assoc]
  | 1 =>
    obtain ⟨h1, ha⟩ := EngineOp.covers_scratch.1 h
    exact EngineOp.covers_scratch.2 ⟨h1, congrArg (· + j) ha⟩
  | n + 2 =>
    obtain ⟨h2, ha⟩ := EngineOp.covers_flash.1 h
    exact EngineOp.covers_flash.2 ⟨h2, congrArg (· + j) ha⟩

/-! Places cut at the multiples of a unit. -/

/-- The parts of a place are the place, part by part; each lies in it, is not empty and crosses no multiple of the unit. -/
theorem cutAt_run {unit : Nat} (hu : 0 < unit) : ∀ (fuel : Nat) (l : EngLoc), l.len ≤ fuel →
    (cutAt unit fuel l).flatMap (fun x => vaRun x.va x.len) = vaRun l.va l.len ∧ ∀ x ∈ cutAt unit fuel l,
      ∃ j n, x = l.part j n ∧ j + n ≤ l.len ∧ 0 < n ∧ n ≤ unit - (l.addr + j) % unit
  | 0, l, h => by
    have h0 : l.len = 0 := by omega
    exact ⟨by simp [cutAt, h0, vaRun], by simp [cutAt]⟩
  | fuel + 1, l, h => by
    unfold cutAt
    by_cases h0 : l.len = 0
    · exact ⟨by simp [h0, vaRun], by simp [h0]⟩
    · rw [if_neg h0]
      dsimp only
      have hlt := Nat.mod_lt l.addr hu
      have hn : Nat.min l.len (unit - l.addr % unit) ≤ l.len ∧ 1 ≤ Nat.min l.len (unit - l.addr % unit) ∧
          Nat.min l.len (unit - l.addr % unit) ≤ unit - l.addr % unit :=
        ⟨Nat.min_le_left _ _, Nat.le_min.2 ⟨by omega, by omega⟩, Nat.min_le_right _ _⟩
      generalize Nat.min l.len (unit - l.addr % unit) = n at hn ⊢
      obtain ⟨ih, ihl⟩ := cutAt_run hu fuel (l.part n (l.len - n)) (by dsimp only [EngLoc.part]; omega)
      refine ⟨?_, fun x hx => ?_⟩
      · rw [List.flatMap_cons]
        refine (congrArg (_ ++ ·) ih).trans ?_
        exact (vaRun_add l.va n (l.len - n)).symm.trans (by rw [Nat.add_sub_cancel' hn.1])
      · rcases List.mem_cons.1 hx with rfl | hx
        · exact ⟨0, n, rfl, by omega, by omega, by simpa using hn.2.2⟩
        · obtain ⟨j, i, rfl, h1, h2, h3⟩ := ihl x hx
          dsimp only [EngLoc.part] at h1 h3
          refine ⟨n + j, i, ?_, by omega, h2, by rwa [← Nat.add_assoc]⟩
          simp only [EngLoc.part, Nat.add_assoc]

/-- An aligned place has as many parts as its bytes hold units. -/
theorem length_cutAt {unit : Nat} (hu : 0 < unit) : ∀ (fuel : Nat) (l : EngLoc), l.len ≤ fuel → unit ∣ l.addr → unit ∣ l.len →
    unit * (cutAt unit fuel l).length = l.len
  | 0, l, h, _, _ => by
    simp only [cutAt, List.length_nil]
    omega
  | fuel + 1, l, h, ha, hl => by
    unfold cutAt
    by_cases h0 : l.len = 0
    · simp [h0]
    · rw [if_neg h0]
      dsimp only
      have hle : unit ≤ l.len := Nat.le_of_dvd (by omega) hl
      have hn : Nat.min l.len (unit - l.addr % unit) = unit := by
        rw [Nat.mod_eq_zero_of_dvd ha, Nat.sub_zero]
        exact Nat.min_eq_right hle
      rw [hn, List.length_cons, Nat.mul_succ]
      have ih := length_cutAt hu fuel (l.part unit (l.len - unit)) (by dsimp only [EngLoc.part]; omega)
        (Nat.dvd_add ha (Nat.dvd_refl _)) (Nat.dvd_sub hl (Nat.dvd_refl _))
      refine (congrArg (· + unit) ih).trans ?_
      exact Nat.sub_add_cancel hle

/-- The parts of places, cut at the multiples of a unit. -/
def cutParts (unit : Nat) (ls : List EngLoc) : List EngLoc := ls.flatMap (fun l => cutAt unit (l.len + 1) l)

theorem flatten_cutUnits (ls : List EngLoc) : (cutUnits ls).flatten = cutParts 8 ls := by
  simp only [cutUnits, cutParts, List.flatMap, List.flatten_flatten, List.map_map]
  congr 1
  refine List.map_congr_left fun l _ => ?_
  exact List.flatMap_singleton' _

/-- A part that crosses no multiple of a unit of a line lies in one line. -/
theorem fits_of_unit {unit a n : Nat} (hd : unit ∣ 128) (h : n ≤ unit - a % unit) : a % 128 + n ≤ 128 := by
  have h1 : a % 128 % unit = a % unit := Nat.mod_mod_of_dvd _ hd
  obtain ⟨e, he⟩ := hd
  have hlt : a % 128 < unit * e := he ▸ Nat.mod_lt a (by decide)
  have hu : 0 < unit := Nat.pos_of_ne_zero fun h0 => by simp [h0] at he
  have h2 := Nat.div_add_mod (a % 128) unit
  have h3 : a % 128 / unit + 1 ≤ e := Nat.div_lt_of_lt_mul hlt
  have h4 := Nat.mul_le_mul_left unit h3
  have h5 := Nat.mod_lt (a % 128) hu
  rw [Nat.mul_succ] at h4
  omega

theorem cutParts_fits {unit : Nat} (hd : unit ∣ 128) {ls : List EngLoc} {x : EngLoc} (hx : x ∈ cutParts unit ls) : x.Fits := by
  obtain ⟨l, hl, hx⟩ := List.mem_flatMap.1 hx
  obtain ⟨j, n, rfl, -, -, h⟩ := (cutAt_run (Nat.pos_of_dvd_of_pos hd (by decide)) _ l (Nat.le_succ _)).2 x hx
  exact fits_of_unit hd h

/-- Parts of places cover what the places do. -/
theorem EngineOp.Covers.cutParts {write : Bool} {space addr len unit : Nat} {ls : List EngLoc} (h : o.Covers write space addr len ls)
    (hl : space = 0 → ∀ l ∈ ls, l.va % 128 + l.len ≤ 128) (hu : 0 < unit) : o.Covers write space addr len (cutParts unit ls) := by
  have hcut := fun l : EngLoc => cutAt_run hu (l.len + 1) l (Nat.le_succ _)
  refine EngineOp.covers_of_run ?_ fun x hx => ?_
  · rw [Machine.cutParts, List.flatMap_assoc, ← h.run]
    exact congrArg (List.flatMap · ls) (funext fun l => (hcut l).1)
  · obtain ⟨l, hm, hx⟩ := List.mem_flatMap.1 hx
    obtain ⟨j, n, rfl, hj, hn, -⟩ := (hcut l).2 x hx
    exact (h.single hm).part (fun h0 => hl h0 l hm) hj hn

/-- Places that cover a run, all aligned, have as many parts as the run holds units. -/
theorem EngineOp.Covers.length_cutParts {write : Bool} {space addr len unit : Nat} {ls : List EngLoc} (h : o.Covers write space addr len ls)
    (hd : unit ∣ 128) (ha : ∀ l ∈ ls, unit ∣ l.va ∧ unit ∣ l.len) : unit * (Machine.cutParts unit ls).length = len := by
  have hu : 0 < unit := Nat.pos_of_dvd_of_pos hd (by decide)
  have hlen : (ls.map EngLoc.len).sum = len := by
    have := congrArg List.length h.run
    simpa [List.length_flatMap] using this
  have hsum : ∀ ks : List EngLoc, (∀ l ∈ ks, unit ∣ l.addr ∧ unit ∣ l.len) → unit * (Machine.cutParts unit ks).length = (ks.map EngLoc.len).sum := by
    intro ks
    induction ks with
    | nil => exact fun _ => rfl
    | cons l ks ih =>
      intro hk
      obtain ⟨h1, h2⟩ := hk l List.mem_cons_self
      have hc := length_cutAt hu (l.len + 1) l (Nat.le_succ _) h1 h2
      have hr := ih fun x hx => hk x (List.mem_cons_of_mem _ hx)
      rw [Machine.cutParts] at hr ⊢
      rw [List.flatMap_cons, List.length_append, Nat.mul_add, hc, hr]
      rfl
  rw [hsum ls fun l hl => ⟨(h.single hl).dvd_addr (hd.trans (by decide)) (ha l hl).1, (ha l hl).2⟩, hlen]

end Sys2Proof.Machine
end

section
/-! SUPPORT. What the checks of an engine operation's unit leave and answer (R122, R125, R334, R336). -/

namespace Sys2Proof.Machine

variable {α β : Type} {s : State} {m n k : MemSys} {o p q : EngineOp} {c : Crew}

/-! Frames. -/

/-- Between the two only what translating, counting and numbering change has changed. -/
def MemSys.Walked (m n : MemSys) : Prop :=
  ∃ tlb walks counters reached seq, n = { m with tlb := tlb, walks := walks, counters := counters, reached := reached, seq := seq }

theorem MemSys.Walked.refl (m : MemSys) : m.Walked m := ⟨_, _, _, _, _, rfl⟩

theorem MemSys.Walked.trans (h : m.Walked n) (h' : n.Walked k) : m.Walked k := by
  obtain ⟨_, _, _, _, _, rfl⟩ := h
  obtain ⟨_, _, _, _, _, rfl⟩ := h'
  exact ⟨_, _, _, _, _, rfl⟩

theorem MemSys.Used.walked (h : m.Used n) : m.Walked n := ⟨_, _, _, _, _, h⟩

theorem MemSys.Walked.agrees (h : m.Walked n) : m.Agrees n := by
  obtain ⟨_, _, _, _, _, rfl⟩ := h
  exact ⟨rfl, rfl, rfl, rfl, rfl, rfl, rfl⟩

/-- The operation has translated pages, and is otherwise as it was. -/
def EngineOp.Walks (o p : EngineOp) : Prop := p = { o with walked := p.walked } ∧ ∀ w ∈ o.walked, w ∈ p.walked

theorem EngineOp.Walks.refl (o : EngineOp) : o.Walks o := ⟨rfl, fun _ h => h⟩

theorem EngineOp.Walks.trans (h : o.Walks p) (h' : p.Walks q) : o.Walks q := by
  obtain ⟨h1, h2⟩ := h
  obtain ⟨h1', h2'⟩ := h'
  refine ⟨?_, fun w hw => h2' w (h2 w hw)⟩
  rw [h1', h1]

/-! A check, and checks one after another. -/

/-- A check has translated and counted, and what it answers satisfies `P`, with the operation as it leaves it. -/
def EngCheck.Leaves (x : EngCheck α) (o : EngineOp) (m : MemSys) (P : α → EngineOp → Prop) : Prop :=
  o.Walks x.2.1 ∧ m.Walked x.2.2 ∧ ∀ a, x.1 = .ok a → P a x.2.1

theorem EngCheck.leaves_ok {P : α → EngineOp → Prop} {a : α} (ho : o.Walks p) (hm : m.Walked n) (h : P a p) :
    EngCheck.Leaves (.ok a, p, n) o m P :=
  ⟨ho, hm, fun b hb => by
    cases hb
    exact h⟩

theorem EngCheck.leaves_error (e : EngFail) (o : EngineOp) (m : MemSys) (P : α → EngineOp → Prop) : EngCheck.Leaves (.error e, o, m) o m P :=
  ⟨.refl o, .refl m, fun _ hb => nomatch hb⟩

theorem EngCheck.Leaves.andThen {P : α → EngineOp → Prop} {Q : β → EngineOp → Prop} {x : EngCheck α} {f : α → EngineOp → MemSys → EngCheck β}
    (hx : x.Leaves o m P) (hf : ∀ a p n, o.Walks p → m.Walked n → P a p → (f a p n).Leaves p n Q) : (x.andThen f).Leaves o m Q := by
  obtain ⟨r, p, n⟩ := x
  obtain ⟨hp, hn, hr⟩ := hx
  cases r with
  | error e => exact ⟨hp, hn, fun _ hb => nomatch hb⟩
  | ok a =>
    obtain ⟨hp', hn', hr'⟩ := hf a p n hp hn (hr a rfl)
    exact ⟨hp.trans hp', hn.trans hn', hr'⟩

theorem EngCheck.Leaves.imp {P Q : α → EngineOp → Prop} {x : EngCheck α} (hx : x.Leaves o m P) (h : ∀ a p, o.Walks p → P a p → Q a p) :
    x.Leaves o m Q :=
  ⟨hx.1, hx.2.1, fun a ha => h a _ hx.1 (hx.2.2 a ha)⟩

/-- A check that has answered. -/
theorem EngCheck.Leaves.answer {P : α → EngineOp → Prop} {x : EngCheck α} (hx : x.Leaves o m P) {a : α} (h : x = (.ok a, p, n)) :
    o.Walks p ∧ m.Walked n ∧ P a p := by
  subst h
  exact ⟨hx.1, hx.2.1, hx.2.2 a rfl⟩

/-- The operation as a check leaves it, whatever that answers. -/
theorem EngCheck.Leaves.walks {P : α → EngineOp → Prop} {x : EngCheck α} (hx : x.Leaves o m P) {r : Except EngFail α} (h : x = (r, p, n)) : o.Walks p := by
  subst h
  exact hx.1

/-! A translated piece. -/

theorem frameCheck_ne_ok (f : BitVec 16) (world : Nat) (leaf : Dword) (pa : Nat) (leaf' : Dword) (lvl : Nat) :
    frameCheck f world leaf ≠ some (.ok pa leaf' lvl) := by
  intro h
  unfold frameCheck at h
  dsimp only at h
  repeat' split at h
  all_goals cases h

theorem MemSys.check_ne_ok (m : MemSys) (free : Nat) (a : Access) (pa : Nat) (leaf : Dword) (pa' : Nat) (leaf' : Dword) (lvl : Nat) :
    m.check free a pa leaf ≠ some (.ok pa' leaf' lvl) := by
  intro h
  unfold MemSys.check at h
  repeat' split at h
  all_goals cases h
  next hx =>
    split at hx
    · cases hx
    · exact frameCheck_ne_ok _ _ _ _ _ _ hx

/-- A translation puts an address in the page of the leaf that it answers. -/
theorem MemSys.translate_ok {free : Nat} {a : Access} {va pa lvl : Nat} {leaf : Dword} (h : m.translate free a va = .ok pa leaf lvl) :
    pa = leafPa leaf + va % pageBytes lvl := by
  unfold MemSys.translate at h
  split at h
  · cases h
  · split at h
    · repeat' split at h
      all_goals cases h
    · dsimp only at h
      split at h
      next hc =>
        subst h
        exact absurd hc (m.check_ne_ok _ _ _ _ _ _ _)
      next =>
        cases h
        rfl

theorem MemSys.engXlate_ok {free : Nat} {a : Access} {heal : Bool} {va pa lvl : Nat} {leaf : Dword}
    (h : m.engXlate free a heal va = .ok pa leaf lvl) : pa = leafPa leaf + va % pageBytes lvl := by
  unfold MemSys.engXlate at h
  split at h
  · split at h
    · exact MemSys.translate_ok h
    · cases h
  · exact MemSys.translate_ok h

/-- What is answered of a piece of global memory: it lies where a translated page puts it. -/
def EngLoc.IsPiece (write : Bool) (va len : Nat) (l : EngLoc) (p : EngineOp) : Prop :=
  l.va = va ∧ l.len = len ∧ p.Covers write 0 l.va l.len [l]

theorem EngineOp.piece_leaves (o : EngineOp) (m : MemSys) (free : Nat) (write heal : Bool) (va len : Nat) :
    (o.piece m free write heal va len).Leaves o m (EngLoc.IsPiece write va len) := by
  have found : ∀ (pa : Nat) (leaf : Dword) (lvl : Nat) (p : EngineOp) (n : MemSys), o.Walks p → m.Walked n →
      (⟨va / 4096, write, leaf, lvl⟩ : WalkedPage) ∈ p.walked → pa = leafPa leaf + va % pageBytes lvl →
      EngCheck.Leaves (if write && n.isHeld pa then (.error (.stop 4 13 true va), p, n)
        else (.ok (⟨0, pa, va, len, leaf, heal⟩ : EngLoc), p, n)) o m (EngLoc.IsPiece write va len) := by
    intro pa leaf lvl p n hp hn hw ha
    split
    · exact ⟨hp, hn, fun _ hb => nomatch hb⟩
    · exact EngCheck.leaves_ok hp hn ⟨rfl, rfl, EngineOp.covers_global.2 ⟨rfl, lvl, hw, ha⟩⟩
  unfold EngineOp.piece
  dsimp only
  split
  next w hw =>
    split
    · exact EngCheck.leaves_error _ _ _ _
    · have hf := List.find?_some hw
      simp only [Bool.and_eq_true, beq_iff_eq] at hf
      have he : w = ⟨va / 4096, write, w.leaf, w.level⟩ := by rw [← hf.1, ← hf.2]
      exact found _ _ _ o m (.refl o) (.refl m) (he ▸ List.mem_of_find?_eq_some hw) rfl
  next =>
    split
    next pa leaf lvl hx =>
      exact found pa leaf lvl _ _ ⟨rfl, fun w hw => List.mem_cons_of_mem _ hw⟩ (m.used_tlbFill _ _ _ _).walked List.mem_cons_self
        (MemSys.engXlate_ok hx)
    all_goals exact EngCheck.leaves_error _ _ _ _

theorem EngLoc.IsPiece.mono {write : Bool} {va len : Nat} {l : EngLoc} (hw : o.Walks p) (h : l.IsPiece write va len o) : l.IsPiece write va len p :=
  ⟨h.1, h.2.1, h.2.2.mono hw.2⟩

/-- The places answered of pieces are the pieces, one by one. -/
theorem EngineOp.pieces_leaves (write whole : Bool) : ∀ (ps : List (Nat × Nat)) (o : EngineOp) (m : MemSys) (free : Nat),
    (o.pieces m free write whole ps).Leaves o m (fun ls p => List.Forall₂ (fun x l => EngLoc.IsPiece write x.1 x.2 l p) ps ls)
  | [], o, m, _ => EngCheck.leaves_ok (.refl o) (.refl m) .nil
  | (va, len) :: ps, o, m, free =>
    (o.piece_leaves m free write (whole && len == 128) va len).andThen fun _ p n _ _ hl =>
      (EngineOp.pieces_leaves write whole ps p n (free + 1)).andThen fun _ p' n' hp' _ hls =>
        EngCheck.leaves_ok (.refl p') (.refl n') (.cons (hl.mono hp') hls)

/-- The places answered of the pieces of a run cover the run. -/
theorem covers_of_pieces {write : Bool} {ps : List (Nat × Nat)} {ls : List EngLoc} (h : List.Forall₂ (fun x l => EngLoc.IsPiece write x.1 x.2 l o) ps ls) :
    ls.flatMap (fun l => vaRun l.va l.len) = ps.flatMap (fun x => vaRun x.1 x.2) ∧
      ∀ l ∈ ls, (l.va, l.len) ∈ ps ∧ o.Covers write 0 l.va l.len [l] := by
  induction h with
  | nil => exact ⟨rfl, by simp⟩
  | cons hx _ ih =>
    obtain ⟨hv, hn, hc⟩ := hx
    refine ⟨by rw [List.flatMap_cons, List.flatMap_cons, ih.1, hv, hn], fun l hl => ?_⟩
    rcases List.mem_cons.1 hl with rfl | hl
    · exact ⟨by simp [hv, hn], hc⟩
    · exact ⟨List.mem_cons_of_mem _ (ih.2 l hl).1, (ih.2 l hl).2⟩

/-- Places that cover a run, each of global memory in one line, and each aligned as the run is. -/
structure EngineOp.Places (o : EngineOp) (write : Bool) (space addr len : Nat) (ls : List EngLoc) : Prop where
  covers : o.Covers write space addr len ls
  line : space = 0 → ∀ l ∈ ls, l.va % 128 + l.len ≤ 128
  aligned : ∀ d, d ∣ 128 → d ∣ addr ∨ len = 0 → d ∣ len → ∀ l ∈ ls, d ∣ l.va ∧ d ∣ l.len

theorem EngineOp.Places.mono {write : Bool} {space addr len : Nat} {ls : List EngLoc} (hw : o.Walks p) (h : o.Places write space addr len ls) :
    p.Places write space addr len ls := ⟨h.covers.mono hw.2, h.line, h.aligned⟩

/-- A run of scratchpad or of flash is one place. -/
theorem EngineOp.places_single {write : Bool} {space addr len : Nat} {l : EngLoc} (h0 : space ≠ 0) (hv : l.va = addr) (hn : l.len = len)
    (hlen : len ≠ 0) (h : o.Covers write space l.va l.len [l]) : o.Places write space addr len [l] := by
  subst hv hn
  refine ⟨h, fun h' => absurd h' h0, fun d _ hv hn x hx => ?_⟩
  rw [List.mem_singleton.1 hx]
  exact ⟨hv.resolve_right hlen, hn⟩

theorem State.engPlaces_leaves (s : State) (k : Nat) (write whole : Bool) (space addr len : Nat) (o : EngineOp) (m : MemSys) :
    (s.engPlaces k write whole space addr len o m).Leaves o m (fun ls p => p.Places write space addr len ls) := by
  unfold State.engPlaces
  by_cases h0 : len = 0
  · subst h0
    exact EngCheck.leaves_ok (.refl o) (.refl m) ⟨o.covers_nil write space addr, by simp, by simp⟩
  · rw [if_neg h0]
    match space with
    | 0 =>
      refine (EngineOp.pieces_leaves write whole _ o m _).imp fun ls p _ h => ?_
      obtain ⟨hr, hl⟩ := covers_of_pieces h
      obtain ⟨hrun, hline⟩ := linePieces_run (len + 1) (addr % 2 ^ 57) len (Nat.le_succ _)
      refine ⟨EngineOp.covers_of_run (by rw [hr, hrun, vaRun_mod]) fun l h => (hl l h).2, fun _ l h => hline _ (hl l h).1, fun d hd ha hn l h => ?_⟩
      exact linePieces_dvd hd _ _ _ ((Nat.dvd_mod_iff (hd.trans (by decide))).2 (ha.resolve_right h0)) hn _ (hl l h).1
    | 1 => exact EngCheck.leaves_ok (.refl o) (.refl m) (EngineOp.places_single (by decide) rfl rfl h0 (EngineOp.covers_scratch.2 ⟨rfl, rfl⟩))
    | n + 2 =>
      cases s.flashCheck k addr len with
      | some e => exact EngCheck.leaves_error _ _ _ _
      | none => exact EngCheck.leaves_ok (.refl o) (.refl m) (EngineOp.places_single (by omega) rfl rfl h0 (EngineOp.covers_flash.2 ⟨rfl, rfl⟩))

/-! What a unit has to read and to write. -/

/-- A transfer that has read nothing yet, and writes within lines. -/
def Xfer.Starts (x : Xfer) (count : Nat) : Prop := x.got = [] ∧ x.count = count ∧ ∀ l ∈ x.writes.flatten, l.Fits

/-- A run of bytes moved from one place to another. -/
def Xfer.Moves (ss sa ds da len : Nat) (x : Xfer) (p : EngineOp) : Prop :=
  x.Starts len ∧ p.Covers false ss sa len x.reads.flatten ∧ p.Covers true ds da len x.writes.flatten

theorem State.moveXfer_leaves (s : State) (whole : Bool) (ss sa ds da len : Nat) (o : EngineOp) (m : MemSys) :
    (s.moveXfer whole ss sa ds da len o m).Leaves o m (Xfer.Moves ss sa ds da len) :=
  (s.engPlaces_leaves 45000 false false ss sa len o m).andThen fun rs p n _ _ hr =>
    (s.engPlaces_leaves 45512 true whole ds da len p n).andThen fun ws q k hq _ hw => by
      refine EngCheck.leaves_ok (.refl q) (.refl k) ⟨⟨rfl, rfl, fun l hl => ?_⟩, ?_, ?_⟩
      · rw [flatten_cutUnits] at hl
        exact cutParts_fits (by decide) hl
      · rw [flatten_cutUnits]
        exact (hr.mono hq).covers.cutParts hr.line (by decide)
      · rw [flatten_cutUnits]
        exact hw.covers.cutParts hw.line (by decide)

/-- The read of a unit that writes nothing yet. -/
theorem State.readXfer_leaves (s : State) (ss sa len count : Nat) (o : EngineOp) (m : MemSys) :
    ((s.engPlaces 45000 false false ss sa len o m).andThen fun rs o m => (.ok (⟨cutUnits rs, [], [], count⟩ : Xfer), o, m)).Leaves o m
      (fun x p => x.Starts count ∧ p.Covers false ss sa len x.reads.flatten ∧ x.writes = []) :=
  (s.engPlaces_leaves 45000 false false ss sa len o m).andThen fun rs p n _ _ hr => by
    refine EngCheck.leaves_ok (.refl p) (.refl n) ⟨⟨rfl, rfl, by simp⟩, ?_, rfl⟩
    rw [flatten_cutUnits]
    exact hr.covers.cutParts hr.line (by decide)

/-! Blocks with their scales (R99, R101). -/

/-- Blocks of `unit` bytes with their scales: as many of each. -/
theorem mxUnits_of_length {unit : Nat} {es ks : List EngLoc} (h : (cutParts unit es).length = (cutParts 1 ks).length) :
    (mxUnits unit es ks).length = (cutParts unit es).length ∧ (∀ ls ∈ mxUnits unit es ks, ls.length = 2) ∧
      (mxUnits unit es ks).flatMap (fun ls => ls.take 1) = cutParts unit es ∧ (mxUnits unit es ks).flatMap (fun ls => ls.drop 1) = cutParts 1 ks := by
  have key : ∀ a b : List EngLoc, a.length = b.length → (List.zipWith (fun e k => [e, k]) a b).length = a.length ∧
      (∀ ls ∈ List.zipWith (fun e k => [e, k]) a b, ls.length = 2) ∧ (List.zipWith (fun e k => [e, k]) a b).flatMap (fun ls => ls.take 1) = a ∧
        (List.zipWith (fun e k => [e, k]) a b).flatMap (fun ls => ls.drop 1) = b := by
    intro a
    induction a with
    | nil =>
      intro b hb
      obtain rfl : b = [] := List.length_eq_zero_iff.1 hb.symm
      simp
    | cons e a ih =>
      intro b hb
      cases b with
      | nil => cases hb
      | cons k b =>
        obtain ⟨h1, h2, h3, h4⟩ := ih b (Nat.succ.inj hb)
        refine ⟨by simp [h1], ?_, by simp [h3], by rw [List.zipWith_cons_cons, List.flatMap_cons, h4]; rfl⟩
        simpa using h2
  exact key _ _ h

theorem mxUnits_fits {unit : Nat} (hd : unit ∣ 128) {es ks : List EngLoc} {l : EngLoc} (hl : l ∈ (mxUnits unit es ks).flatten) : l.Fits := by
  obtain ⟨ls, hls, hl⟩ := List.mem_flatten.1 hl
  obtain ⟨i, hi, rfl⟩ := List.mem_iff_getElem.1 hls
  simp only [mxUnits, List.getElem_zipWith, List.mem_cons, List.not_mem_nil, or_false] at hl
  rcases hl with rfl | rfl
  · exact cutParts_fits hd (List.getElem_mem _)
  · exact cutParts_fits (by decide) (List.getElem_mem _)

/-- An MX copy's sector: where its blocks and their scales lie, if it is aligned. -/
def Xfer.MxMoves (k : Cmd) (off len : Nat) (x : Xfer) (p : EngineOp) : Prop :=
  let b := off / k.mxBytes
  let n := len / k.mxBytes
  let scales := fun (base : Nat) (at_ : Int) => truncBits ((base : Int) + at_ + b) 57
  x.Starts (len + n) ∧ (k.mxBytes ∣ k.srcAddr + off ∨ len = 0 → k.mxBytes ∣ k.w2 + off ∨ len = 0 → k.mxBytes ∣ len →
    x.reads.length = n ∧ x.writes.length = n ∧ (∀ ls ∈ x.reads ++ x.writes, ls.length = 2) ∧
    p.Covers false k.src (k.srcAddr + off) len (x.reads.flatMap (fun ls => ls.take 1)) ∧
    p.Covers false k.src (scales k.srcAddr k.srcScale) n (x.reads.flatMap (fun ls => ls.drop 1)) ∧
    p.Covers true k.dst (k.w2 + off) len (x.writes.flatMap (fun ls => ls.take 1)) ∧
    p.Covers true k.dst (scales k.w2 k.dstScale) n (x.writes.flatMap (fun ls => ls.drop 1)))

theorem Cmd.mxBytes_dvd (k : Cmd) : k.mxBytes ∣ 128 := by
  unfold Cmd.mxBytes
  split <;> decide

/-- Element places and scale places of one side of an MX copy, cut into blocks with their scales. -/
theorem EngineOp.Places.mxUnits {write : Bool} {space ea ka len unit : Nat} {es ks : List EngLoc} (he : o.Places write space ea len es)
    (hk : o.Places write space ka (len / unit) ks) (hd : unit ∣ 128) (ha : unit ∣ ea ∨ len = 0) (hl : unit ∣ len) :
    (Machine.mxUnits unit es ks).length = len / unit ∧ (∀ ls ∈ Machine.mxUnits unit es ks, ls.length = 2) ∧
      o.Covers write space ea len ((Machine.mxUnits unit es ks).flatMap (fun ls => ls.take 1)) ∧
      o.Covers write space ka (len / unit) ((Machine.mxUnits unit es ks).flatMap (fun ls => ls.drop 1)) := by
  have hu : 0 < unit := Nat.pos_of_dvd_of_pos hd (by decide)
  have h1 : (cutParts unit es).length = len / unit :=
    (Nat.div_eq_of_eq_mul_right hu (he.covers.length_cutParts hd (he.aligned unit hd ha hl)).symm).symm
  have h2 : (cutParts 1 ks).length = len / unit := by
    have := hk.covers.length_cutParts (unit := 1) (by decide) fun l _ => ⟨Nat.one_dvd _, Nat.one_dvd _⟩
    omega
  obtain ⟨hlen, htwo, htake, hdrop⟩ := mxUnits_of_length (h1.trans h2.symm)
  refine ⟨hlen.trans h1, htwo, ?_, ?_⟩
  · rw [htake]
    exact he.covers.cutParts he.line hu
  · rw [hdrop]
    exact hk.covers.cutParts hk.line (by decide)

theorem State.mxXfer_leaves (s : State) (k : Cmd) (off len : Nat) (o : EngineOp) (m : MemSys) :
    (s.mxXfer k off len o m).Leaves o m (Xfer.MxMoves k off len) :=
  (s.engPlaces_leaves _ _ _ _ _ _ o m).andThen fun es p1 m1 _ _ he =>
    (s.engPlaces_leaves _ _ _ _ _ _ p1 m1).andThen fun ks p2 m2 h2 _ hk =>
      (s.engPlaces_leaves _ _ _ _ _ _ p2 m2).andThen fun es' p3 m3 h3 _ he' =>
        (s.engPlaces_leaves _ _ _ _ _ _ p3 m3).andThen fun ks' p4 m4 h4 _ hk' => by
          refine EngCheck.leaves_ok (.refl p4) (.refl m4) ⟨⟨rfl, rfl, fun l hl => mxUnits_fits k.mxBytes_dvd hl⟩, fun hs hd hl => ?_⟩
          obtain ⟨r1, r2, r3, r4⟩ := (he.mono (h2.trans (h3.trans h4))).mxUnits (hk.mono (h3.trans h4)) k.mxBytes_dvd hs hl
          obtain ⟨w1, w2, w3, w4⟩ := (he'.mono h4).mxUnits hk' k.mxBytes_dvd hd hl
          exact ⟨r1, w1, fun ls h => (List.mem_append.1 h).elim (r2 ls) (w2 ls), r3, r4, w3, w4⟩

/-- The part of an aligned MX copy is whole blocks (R99, R125). -/
theorem Cmd.part_aligned {k : Cmd} (h0 : k.op = 0) (hmx : k.mx = true) (ha : k.misaligned = false) (u : Nat) :
    (k.mxBytes ∣ k.srcAddr + (k.part u).1 ∨ (k.part u).2 = 0) ∧ (k.mxBytes ∣ k.w2 + (k.part u).1 ∨ (k.part u).2 = 0) ∧ k.mxBytes ∣ (k.part u).2 := by
  have hb : k.bytes = k.count * k.mxBytes := by rw [Cmd.bytes, if_pos hmx]
  rw [Cmd.part, if_neg (by omega), hb]
  dsimp only
  by_cases hc : k.count = 0
  · have hz : Nat.min (k.w2 + k.count * k.mxBytes) ((k.w2 / 256 + u + 1) * 256) - Nat.max k.w2 ((k.w2 / 256 + u) * 256) = 0 := by
      rw [hc, Nat.zero_mul]
      exact Nat.sub_eq_zero_of_le ((Nat.min_le_left _ _).trans (Nat.le_max_left _ _))
    rw [hz]
    exact ⟨.inr rfl, .inr rfl, Nat.dvd_zero _⟩
  · have hal : k.mxBytes ∣ k.srcAddr ∧ k.mxBytes ∣ k.w2 := by
      simp only [Cmd.misaligned, hmx, Bool.true_and, Bool.and_eq_false_iff, Bool.or_eq_false_iff, bne_eq_false_iff_eq] at ha
      obtain ha | ⟨⟨⟨h1, h2⟩, -⟩, -⟩ := ha
      · exact absurd ha hc
      · exact ⟨Nat.dvd_of_mod_eq_zero h1, Nat.dvd_of_mod_eq_zero h2⟩
    have h256 : k.mxBytes ∣ 256 := k.mxBytes_dvd.trans (by decide)
    have hlo : k.mxBytes ∣ Nat.max k.w2 ((k.w2 / 256 + u) * 256) := by
      rw [show Nat.max k.w2 ((k.w2 / 256 + u) * 256) = max k.w2 ((k.w2 / 256 + u) * 256) from rfl, Nat.max_def]
      split
      · exact h256.mul_left _
      · exact hal.2
    have hhi : k.mxBytes ∣ Nat.min (k.w2 + k.count * k.mxBytes) ((k.w2 / 256 + u + 1) * 256) := by
      rw [show Nat.min (k.w2 + k.count * k.mxBytes) ((k.w2 / 256 + u + 1) * 256) = min (k.w2 + k.count * k.mxBytes) ((k.w2 / 256 + u + 1) * 256) from rfl,
        Nat.min_def]
      split
      · exact Nat.dvd_add hal.2 (Nat.dvd_mul_left _ _)
      · exact h256.mul_left _
    have hoff := Nat.dvd_sub hlo hal.2
    exact ⟨.inl (Nat.dvd_add hal.1 hoff), .inl (Nat.dvd_add hal.2 hoff), Nat.dvd_sub hhi hlo⟩

/-! Bytes read (R118, R129). -/

theorem MemSys.readN_eq_map (m : MemSys) (pa len : Nat) : m.readN pa len = (List.range len).map (fun i => m.readB (pa + i)) :=
  List.ext_getElem (by simp) fun i h _ => by
    have hi : i < len := by simpa using h
    rw [List.getElem_map, List.getElem_range, ← m.getD_readN hi, List.getD_eq_getElem _ _ h]

theorem run_eq_map (t : List (Nat × Byte)) (i len : Nat) : Sparse.run 0 t i len = (List.range len).map (fun j => Sparse.get 0 t (i + j)) :=
  List.ext_getElem (by simp [length_run]) fun j h _ => by
    have hj : j < len := by simpa [length_run] using h
    rw [List.getElem_map, List.getElem_range, ← getD_run 0 t len i j hj, List.getD_eq_getElem _ _ h]

/-- The byte that one address of a place names. -/
def State.byteAt (s : State) (c : Crew) (space a : Nat) : Byte :=
  match space with
  | 0 => s.msys.readB a
  | 1 => Sparse.get 0 c.scratch a
  | _ => Sparse.get 0 s.flash a

theorem State.bytesAt_eq (s : State) (c : Crew) (ls : List EngLoc) :
    s.bytesAt c ls = ls.flatMap (fun l => (List.range l.len).map (fun i => s.byteAt c l.space (l.addr + i))) := rfl

theorem State.bytesAt_append (s : State) (c : Crew) (ls ks : List EngLoc) : s.bytesAt c (ls ++ ks) = s.bytesAt c ls ++ s.bytesAt c ks :=
  List.flatMap_append

/-- Translating changes no byte at a place. -/
theorem State.bytesAt_setMsys (s : State) (c : Crew) (ls : List EngLoc) {m : MemSys} (h : s.msys.Agrees m) :
    (s.setMsys m).bytesAt c ls = s.bytesAt c ls := by
  have hb : ∀ space a, (s.setMsys m).byteAt c space a = s.byteAt c space a := fun space a => by
    unfold State.byteAt
    rw [State.setMsys_msys, State.setMsys_flash, h.readB]
  simp only [State.bytesAt_eq, hb]

theorem State.engRead_bytes (hc : s.crewAt o.crew = some c) (l : EngLoc) : (s.engRead o l).1 = s.bytesAt c [l] := by
  obtain ⟨space, addr, va, len, leaf, heal⟩ := l
  match space with
  | 0 => exact (s.msys.readN_eq_map addr len).trans (List.append_nil _).symm
  | 1 =>
    simp only [State.engRead, hc]
    exact (run_eq_map c.scratch addr len).trans (List.append_nil _).symm
  | n + 2 => exact (run_eq_map s.flash addr len).trans (List.append_nil _).symm

/-- A read leaves at most a number (R118). -/
theorem State.engRead_leaves (s : State) (o : EngineOp) (l : EngLoc) : ∃ seq, (s.engRead o l).2 = s.setMsys { s.msys with seq := seq } := by
  unfold State.engRead
  split
  · unfold MemSys.number
    dsimp only
    split
    · exact ⟨_, rfl⟩
    · exact ⟨s.msys.seq, rfl⟩
  · exact ⟨s.msys.seq, rfl⟩
  · exact ⟨s.msys.seq, rfl⟩

theorem State.readUnit_leaves (o : EngineOp) : ∀ (ls : List EngLoc) (s : State), ∃ seq, (s.readUnit o ls).2 = s.setMsys { s.msys with seq := seq }
  | [], s => ⟨s.msys.seq, rfl⟩
  | l :: ls, s => by
    obtain ⟨q, hq⟩ := s.engRead_leaves o l
    obtain ⟨q', hq'⟩ := State.readUnit_leaves o ls (s.engRead o l).2
    exact ⟨q', hq'.trans (by rw [hq]; rfl)⟩

/-- A unit is read at once: the bytes at its places. -/
theorem State.readUnit_bytes : ∀ (ls : List EngLoc) (s : State), s.crewAt o.crew = some c → (s.readUnit o ls).1 = s.bytesAt c ls
  | [], _, _ => rfl
  | l :: ls, s, hc => by
    obtain ⟨q, hq⟩ := s.engRead_leaves o l
    have ih := State.readUnit_bytes ls (s.engRead o l).2 (by rw [hq]; exact hc)
    have hb : (s.engRead o l).2.bytesAt c ls = s.bytesAt c ls := by
      rw [hq]
      exact s.bytesAt_setMsys c ls ⟨rfl, rfl, rfl, rfl, rfl, rfl, rfl⟩
    show (s.engRead o l).1 ++ ((s.engRead o l).2.readUnit o ls).1 = _
    rw [ih, hb, State.engRead_bytes hc, ← State.bytesAt_append]
    rfl

/-! A unit begins. -/

namespace EngineOp.Walks

theorem cmd (h : o.Walks p) : p.cmd = o.cmd := by
  rw [h.1]
  rfl

theorem crew (h : o.Walks p) : p.crew = o.crew := by rw [h.1]

theorem next (h : o.Walks p) : p.next = o.next := by rw [h.1]

theorem redo (h : o.Walks p) : p.redo = o.redo := by rw [h.1]

end EngineOp.Walks

/-- The index of an element lies in its place of the index array, and is the value there. -/
def State.IsIndex (s : State) (o : EngineOp) (u i : Nat) (ls : List EngLoc) (p : EngineOp) : Prop :=
  p.Covers false (boolNat o.cmd.idxScratch) (o.cmd.idxAddr + 4 * u) 4 ls ∧ ∀ c, s.crewAt o.crew = some c → i = leNat (s.bytesAt c ls)

theorem State.engIndex_leaves (s : State) (u : Nat) (o : EngineOp) :
    (s.engIndex o.cmd u o s.msys).Leaves o s.msys (fun r p => s.IsIndex o u r.1 r.2 p) :=
  (s.engPlaces_leaves _ _ _ _ _ _ o s.msys).andThen fun ls p n hp hn hc => by
    obtain ⟨seq, hq⟩ := State.readUnit_leaves p ls (s.setMsys n)
    refine EngCheck.leaves_ok (.refl p) ?_ ⟨hc.covers, fun c hcrew => ?_⟩
    · rw [hq]
      exact ⟨_, _, _, _, _, rfl⟩
    · rw [State.readUnit_bytes (c := c) ls (s.setMsys n) (by rw [hp.crew]; exact hcrew), s.bytesAt_setMsys c ls hn.agrees]

/-- What unit `u` has to read and to write, where its index is `i` (R121, R125). -/
def EngineOp.UnitAt (o : EngineOp) (u i : Nat) (x : Xfer) (p : EngineOp) : Prop :=
  let k := o.cmd
  let off := (k.part u).1
  let len := (k.part u).2
  (k.op = 0 → k.mx = false → x.Moves k.src (k.srcAddr + off) k.dst (k.w2 + off) len p) ∧
  (k.op = 0 → k.mx = true → x.MxMoves k off len p) ∧
  (k.op = 1 → x.Moves k.src (k.srcAddr + i * k.elem) k.dst (k.w2 + u * k.elem) k.elem p) ∧
  (k.op = 2 → x.Moves k.src (k.srcAddr + u * k.elem) k.dst (k.w2 + i * k.elem) k.elem p ∨
    (x.Starts k.elem ∧ x.reads = [] ∧ x.writes = [] ∧ ∃ j, u < j ∧ j < o.next ∧ j ∉ o.redo)) ∧
  (2 < k.op → x.Starts len ∧ p.Covers false k.src (k.srcAddr + off) len x.reads.flatten ∧ x.writes = [])

theorem EngineOp.UnitAt.walks {u i : Nat} {x : Xfer} (h : o.Walks p) (hu : p.UnitAt u i x q) : o.UnitAt u i x q := by
  unfold EngineOp.UnitAt at *
  rwa [h.cmd, h.next, h.redo] at hu

/-- A later element that names the same destination is one that is done already. -/
theorem State.overwritten_later {k : Cmd} {u i : Nat} (h : s.overwritten o k u i = true) : ∃ j, u < j ∧ j < o.next ∧ j ∉ o.redo := by
  simp only [State.overwritten, Bool.and_eq_true, List.any_eq_true, List.mem_range, decide_eq_true_eq, Bool.not_eq_true', List.contains_eq_mem,
    decide_eq_false_iff_not] at h
  obtain ⟨-, j, hj, ⟨⟨hu, hr⟩, -⟩, -⟩ := h
  exact ⟨j, hu, hj, hr⟩

theorem State.gatherXfer_leaves (s : State) (k : Cmd) (u i : Nat) (o : EngineOp) (m : MemSys) :
    (s.gatherXfer k u i o m).Leaves o m (Xfer.Moves k.src (k.srcAddr + i * k.elem) k.dst (k.w2 + u * k.elem) k.elem) := by
  unfold State.gatherXfer
  split
  · exact EngCheck.leaves_error _ _ _ _
  · exact s.moveXfer_leaves _ _ _ _ _ _ o m

theorem State.scatterXfer_leaves (s : State) (k : Cmd) (u i : Nat) (o : EngineOp) (m : MemSys) : (s.scatterXfer k u i o m).Leaves o m
    (fun x p => x.Moves k.src (k.srcAddr + u * k.elem) k.dst (k.w2 + i * k.elem) k.elem p ∨
      (x.Starts k.elem ∧ x.reads = [] ∧ x.writes = [] ∧ ∃ j, u < j ∧ j < o.next ∧ j ∉ o.redo)) := by
  unfold State.scatterXfer
  split
  · exact EngCheck.leaves_error _ _ _ _
  · split
    next h => exact EngCheck.leaves_ok (.refl o) (.refl m) (.inr ⟨⟨rfl, rfl, by simp⟩, rfl, rfl, State.overwritten_later h⟩)
    next => exact (s.moveXfer_leaves _ _ _ _ _ _ o m).imp fun x p _ h => .inl h

theorem State.unitXfer_leaves (s : State) (u i : Nat) (o : EngineOp) (m : MemSys) : (s.unitXfer u i o m).Leaves o m (o.UnitAt u i) := by
  have only : ∀ {P Q : Xfer → EngineOp → Prop} {x : EngCheck Xfer}, x.Leaves o m P → (∀ y p, P y p → Q y p) → x.Leaves o m Q :=
    fun hx h => hx.imp fun y p _ => h y p
  unfold State.unitXfer
  dsimp only
  split
  next h0 =>
    split
    next hmx => exact only (s.mxXfer_leaves _ _ _ o m) fun x p h => ⟨fun _ h' => by simp [hmx] at h', fun _ _ => h, by omega, by omega, by omega⟩
    next hmx => exact only (s.moveXfer_leaves _ _ _ _ _ _ o m) fun x p h => ⟨fun _ _ => h, fun _ h' => absurd h' hmx, by omega, by omega, by omega⟩
  next h1 => exact only (s.gatherXfer_leaves _ u i o m) fun x p h => ⟨by omega, by omega, fun _ => h, by omega, by omega⟩
  next h2 => exact only (s.scatterXfer_leaves _ u i o m) fun x p h => ⟨by omega, by omega, by omega, fun _ => h, by omega⟩
  next h0 h1 h2 =>
    exact only (s.readXfer_leaves _ _ _ _ o m) fun x p h => ⟨fun h' => absurd h' h0, fun h' => absurd h' h0, fun h' => absurd h' h1,
      fun h' => absurd h' h2, fun _ => h⟩

theorem MemSys.walked_countXfer (m : MemSys) (o : EngineOp) (x : Xfer) (index : List EngLoc) : m.Walked (m.countXfer o x index) :=
  List.foldlRecOn (motive := fun n : MemSys => m.Walked n) _ _ (.refl m) fun n hn _ _ => hn.trans (n.used_count _ _ _ _ _).walked

/-- What is answered of a unit that begins: its places, and for an element the place and value of its index. -/
def State.BeginsUnit (s : State) (o : EngineOp) (u : Nat) (x : Xfer) (p : EngineOp) : Prop :=
  ∃ i, o.UnitAt u i x p ∧ (o.cmd.op = 1 ∨ o.cmd.op = 2 → ∃ ls, s.IsIndex o u i ls p)

theorem State.unitStart_leaves (s : State) (o : EngineOp) (u : Nat) (hr : o.reading = false) :
    (s.unitStart o u).Leaves o s.msys (s.BeginsUnit o u) := by
  have hindex : (s.unitIndex o u).Leaves o s.msys (fun r p => o.cmd.op = 1 ∨ o.cmd.op = 2 → s.IsIndex o u r.1 r.2 p) := by
    unfold State.unitIndex
    split
    next => exact (s.engIndex_leaves u o).imp fun _ _ _ h _ => h
    next h => exact EngCheck.leaves_ok (.refl o) (.refl _) fun h' => absurd h' h
  unfold State.unitStart
  rw [hr]
  split
  · exact EngCheck.leaves_error _ _ _ _
  · refine hindex.andThen fun r p n hp hn hi => ?_
    split
    · exact EngCheck.leaves_error _ _ _ _
    · refine (s.unitXfer_leaves u r.1 p n).andThen fun x q k hq _ hx => ?_
      exact EngCheck.leaves_ok (.refl q) (k.walked_countXfer q x r.2) ⟨r.1, hx.walks hp, fun h => ⟨r.2, (hi h).1.mono hq.2, (hi h).2⟩⟩

end Sys2Proof.Machine
end

section
/-! SUPPORT. A unit of an engine operation as it is read and written (R118, R125, R129, R326). -/

namespace Sys2Proof.Machine

variable {s t : State} {m n k : MemSys} {o p : EngineOp} {c : Crew} {x : Xfer}

/-! Where the bytes of a unit lie (R101, R121, R125). -/

/-- A unit begins with nothing read, and writes within lines. -/
theorem EngineOp.UnitAt.starts {u i : Nat} (h : o.UnitAt u i x p) : ∃ count, x.Starts count := by
  obtain ⟨hcopy, hmx, hgather, hscatter, hsend⟩ := h
  rcases Nat.lt_or_ge 2 o.cmd.op with h | h
  · exact ⟨_, (hsend h).1⟩
  · rcases (by omega : o.cmd.op = 0 ∨ o.cmd.op = 1 ∨ o.cmd.op = 2) with h | h | h
    · cases hm : o.cmd.mx with
      | false => exact ⟨_, (hcopy h hm).1⟩
      | true => exact ⟨_, (hmx h hm).1⟩
    · exact ⟨_, (hgather h).1⟩
    · rcases hscatter h with h | h
      · exact ⟨_, h.1⟩
      · exact ⟨_, h.1⟩

theorem Xfer.Moves.covers {ss sa ds da len : Nat} (h : x.Moves ss sa ds da len p) :
    x.count = len ∧ p.Covers false ss sa len x.reads.flatten ∧ p.Covers true ds da len x.writes.flatten := ⟨h.1.2.1, h.2⟩

/-- The places of an element, whose index is read where the index array has it. -/
theorem State.BeginsUnit.element {u : Nat} (h : s.BeginsUnit o u x p) (hc : s.crewAt o.crew = some c) (hop : o.cmd.op = 1 ∨ o.cmd.op = 2) :
    ∃ ls, p.Covers false (boolNat o.cmd.idxScratch) (o.cmd.idxAddr + 4 * u) 4 ls ∧ o.UnitAt u (leNat (s.bytesAt c ls)) x p := by
  obtain ⟨i, hunit, hidx⟩ := h
  obtain ⟨ls, hcov, hval⟩ := hidx hop
  exact ⟨ls, hcov, hval c hc ▸ hunit⟩

/-! One unit. -/

theorem unitBytes_nil : unitBytes [] = 0 := rfl

theorem unitBytes_append (ls ks : List EngLoc) : unitBytes (ls ++ ks) = unitBytes ls + unitBytes ks := by
  simp only [unitBytes, ← List.sum_eq_foldl, List.map_append, List.sum_append]

theorem unitBytes_cons (l : EngLoc) (ls : List EngLoc) : unitBytes (l :: ls) = l.len + unitBytes ls := by
  rw [← List.singleton_append, unitBytes_append]
  simp [unitBytes]

/-- A unit is read where none of its places fails. -/
theorem State.xferUnit_read {ls : List EngLoc} {rest : List (List EngLoc)} (hx : x.reads = ls :: rest) (hl : ∀ l ∈ ls, s.msys.engLate false l = none) :
    s.xferUnit o x = .ok ((s.readUnit o ls).2, { x with reads := rest, got := x.got ++ (s.readUnit o ls).1 }) := by
  have hf : ls.findSome? (s.msys.engLate false) = none := List.findSome?_eq_none_iff.2 hl
  unfold State.xferUnit
  simp only [hx, hf]

/-- A unit is written once all are read, where none of its places fails. -/
theorem State.xferUnit_write {ls : List EngLoc} {rest : List (List EngLoc)} (hr : x.reads = []) (hx : x.writes = ls :: rest)
    (hl : ∀ l ∈ ls, s.msys.engLate true l = none) :
    s.xferUnit o x = .ok (s.writeUnit o ls x.got, { x with writes := rest, got := x.got.drop (unitBytes ls) }) := by
  have hf : ls.findSome? (s.msys.engLate true) = none := List.findSome?_eq_none_iff.2 hl
  unfold State.xferUnit
  simp only [hr, hx, hf]

/-- A unit that is performed has no place that fails. -/
theorem State.engLate_of_xferUnit_read {ls : List EngLoc} {rest : List (List EngLoc)} {r : State × Xfer} (h : s.xferUnit o x = .ok r)
    (hx : x.reads = ls :: rest) : ∀ l ∈ ls, s.msys.engLate false l = none := by
  refine List.findSome?_eq_none_iff.1 (Option.eq_none_iff_forall_ne_some.2 fun e he => ?_)
  unfold State.xferUnit at h
  simp only [hx, he] at h
  cases h

theorem State.engLate_of_xferUnit_write {ls : List EngLoc} {rest : List (List EngLoc)} {r : State × Xfer} (h : s.xferUnit o x = .ok r)
    (hr : x.reads = []) (hx : x.writes = ls :: rest) : ∀ l ∈ ls, s.msys.engLate true l = none := by
  refine List.findSome?_eq_none_iff.1 (Option.eq_none_iff_forall_ne_some.2 fun e he => ?_)
  unfold State.xferUnit at h
  simp only [hr, hx, he] at h
  cases h

/-- A unit that has been read: its bytes, and at most a number. -/
theorem State.xferUnit_reads {ls : List EngLoc} {rest : List (List EngLoc)} {t : State} {y : Xfer} (h : s.xferUnit o x = .ok (t, y))
    (hx : x.reads = ls :: rest) (hc : s.crewAt o.crew = some c) :
    y = { x with reads := rest, got := x.got ++ s.bytesAt c ls } ∧ t = { s with msys := { s.msys with seq := t.msys.seq } } := by
  rw [State.xferUnit_read hx (State.engLate_of_xferUnit_read h hx)] at h
  obtain ⟨seq, hs⟩ := State.readUnit_leaves o ls s
  rw [hs, State.readUnit_bytes ls s hc] at h
  cases h
  exact ⟨rfl, rfl⟩

/-! Bytes written to memory. -/

/-- A write of an engine is one of software, before which the line takes a number or a copy in the L1 changes, and after which a line may be healed
(R118, R139, R326). -/
theorem MemSys.engPut_cases (m : MemSys) (o : EngineOp) (l : EngLoc) (bs : List Byte) : ∃ seq l1,
    let w := ({ m with seq := seq, l1 := l1 } : MemSys).softWrite o.world (m.norm l.addr) bs
    m.engPut o l bs = w ∨ ∃ line, m.engPut o l bs = w.setPoison line false := by
  have hpre : ∃ seq l1, (if leafMsd l.leaf then m.number true (m.norm l.addr)
      else if m.fixedIn (m.norm l.addr) bs.length then m.l1Drop (m.l1Of o.die o.core (m.norm l.addr)) (lineOf (m.norm l.addr))
      else m.l1Store (m.l1Of o.die o.core (m.norm l.addr)) (m.norm l.addr) bs) = { m with seq := seq, l1 := l1 } := by
    split
    · exact ⟨_, m.l1, rfl⟩
    · split
      · exact ⟨m.seq, _, rfl⟩
      · exact ⟨m.seq, _, rfl⟩
  obtain ⟨seq, l1, he⟩ := hpre
  refine ⟨seq, l1, ?_⟩
  unfold MemSys.engPut
  dsimp only
  rw [he]
  split
  · exact .inr ⟨_, rfl⟩
  · exact .inl rfl

theorem MemSys.agrees_prepared (m : MemSys) (seq : List (Nat × Nat)) (l1 : List L1Line) : m.Agrees { m with seq := seq, l1 := l1 } :=
  ⟨rfl, rfl, rfl, rfl, rfl, rfl, rfl⟩

/-- The bytes that a write of an engine within a line leaves. -/
theorem MemSys.readB_engPut (hd : m.dirtyOk) {l : EngLoc} {bs : List Byte} (hl : m.norm l.addr % 128 + bs.length ≤ 128) (a : Nat) :
    (m.engPut o l bs).readB a = if m.norm l.addr ≤ m.norm a ∧ m.norm a < m.norm l.addr + bs.length ∧ m.readOnly (m.norm a) = false
      then bs.getD (m.norm a - m.norm l.addr) 0 else m.readB a := by
  obtain ⟨seq, l1, hw⟩ := m.engPut_cases o l bs
  have h := MemSys.readB_softWrite (m.agrees_prepared seq l1) hd o.world (m.norm_norm l.addr) hl a
  rcases hw with hw | ⟨line, hw⟩
  · rw [hw, h]
  · rw [hw]
    exact h

/-! Places written. -/

theorem State.engWrite_global {l : EngLoc} (h : l.space = 0) (bs : List Byte) : s.engWrite o l bs = s.setMsys (s.msys.engPut o l bs) := if_pos h

theorem State.engWrite_scratch {l : EngLoc} (h : l.space ≠ 0) (hc : s.crewAt o.crew = some c) (bs : List Byte) :
    s.engWrite o l bs = s.setCrew o.crew { c with scratch := Sparse.setRun 0 c.scratch l.addr bs } := by
  unfold State.engWrite
  rw [if_neg h, hc]

theorem State.writeUnit_cons (s : State) (o : EngineOp) (l : EngLoc) (ls : List EngLoc) (bs : List Byte) :
    s.writeUnit o (l :: ls) bs = (s.engWrite o l (bs.take l.len)).writeUnit o ls (bs.drop l.len) := rfl

theorem State.writeUnit_single (s : State) (o : EngineOp) (l : EngLoc) (bs : List Byte) : s.writeUnit o [l] bs = s.engWrite o l (bs.take l.len) := rfl

theorem State.writeUnit_append (o : EngineOp) (ks : List EngLoc) : ∀ (ls : List EngLoc) (s : State) (bs : List Byte),
    s.writeUnit o (ls ++ ks) bs = (s.writeUnit o ls bs).writeUnit o ks (bs.drop (unitBytes ls))
  | [], _, _ => rfl
  | l :: ls, s, bs => by
    rw [List.cons_append, State.writeUnit_cons, State.writeUnit_append o ks ls, State.writeUnit_cons, List.drop_drop, unitBytes_cons]

theorem getD_take_of_lt {bs : List Byte} {n k : Nat} (h : k < n) : (bs.take n).getD k 0 = bs.getD k 0 := by
  simp [List.getD_eq_getElem?_getD, List.getElem?_take_of_lt h]

/-- A unit of one place that has been written. -/
theorem State.xferUnit_writes {l : EngLoc} {rest : List (List EngLoc)} {t : State} {y : Xfer} (h : s.xferUnit o x = .ok (t, y)) (hr : x.reads = [])
    (hx : x.writes = [l] :: rest) : y = { x with writes := rest, got := x.got.drop l.len } ∧ t = s.engWrite o l (x.got.take l.len) := by
  rw [State.xferUnit_write hr hx (State.engLate_of_xferUnit_write h hr hx)] at h
  cases h
  exact ⟨by rw [unitBytes_cons, unitBytes_nil, Nat.add_zero], State.writeUnit_single _ _ _ _⟩

theorem State.readB_engWrite {l : EngLoc} {bs : List Byte} (h0 : l.space = 0) (hd : s.msys.dirtyOk) (hlen : l.len ≤ bs.length)
    (hl : s.msys.norm l.addr % 128 + l.len ≤ 128) (a : Nat) : (s.engWrite o l (bs.take l.len)).msys.readB a =
      if s.msys.norm l.addr ≤ s.msys.norm a ∧ s.msys.norm a < s.msys.norm l.addr + l.len ∧ s.msys.readOnly (s.msys.norm a) = false
      then bs.getD (s.msys.norm a - s.msys.norm l.addr) 0 else s.msys.readB a := by
  have htake : (bs.take l.len).length = l.len := List.length_take_of_le hlen
  rw [State.engWrite_global h0]
  refine (MemSys.readB_engPut hd (by rw [htake]; exact hl) a).trans ?_
  rw [htake]
  split
  next h => exact getD_take_of_lt (by omega)
  next => rfl

theorem State.scratch_engWrite {l : EngLoc} {bs : List Byte} (h1 : l.space = 1) (hc : s.crewAt o.crew = some c) (hlen : l.len ≤ bs.length) :
    ∃ cr, (s.engWrite o l (bs.take l.len)).crewAt o.crew = some cr ∧ (s.engWrite o l (bs.take l.len)).msys = s.msys ∧
      ∀ a, Sparse.get 0 cr.scratch a = if l.addr ≤ a ∧ a < l.addr + l.len then bs.getD (a - l.addr) 0 else Sparse.get 0 c.scratch a := by
  have htake : (bs.take l.len).length = l.len := List.length_take_of_le hlen
  rw [State.engWrite_scratch (by omega) hc]
  refine ⟨_, State.crewAt_setCrew_self _ _ _, rfl, fun a => (get_setRun 0 c.scratch l.addr a (bs.take l.len)).trans ?_⟩
  rw [htake]
  split
  next h => exact getD_take_of_lt (by omega)
  next => rfl

theorem getD_drop_eq (bs : List Byte) (n k : Nat) : (bs.drop n).getD k 0 = bs.getD (n + k) 0 := by
  simp [List.getD_eq_getElem?_getD]

theorem cellsOf_cons (l : EngLoc) (ls : List EngLoc) : cellsOf (l :: ls) = (List.range l.len).map (fun i => l.addr + i) ++ cellsOf ls := rfl

theorem mem_run_iff {a n q : Nat} : q ∈ (List.range n).map (fun i => a + i) ↔ a ≤ q ∧ q < a + n := by
  simp only [List.mem_map, List.mem_range]
  exact ⟨fun ⟨i, hi, he⟩ => by omega, fun ⟨h1, h2⟩ => ⟨q - a, by omega, by omega⟩⟩

/-- A write at the place keeps `I` and is seen by `V`, byte by byte, and nothing else is. -/
def EngLoc.Seen (o : EngineOp) (I : State → Prop) (V : State → Nat → Byte) (l : EngLoc) : Prop :=
  ∀ (s : State) (bs : List Byte), I s → bs.length = l.len → I (s.engWrite o l bs) ∧
    ∀ a, V (s.engWrite o l bs) a = if l.addr ≤ a ∧ a < l.addr + l.len then bs.getD (a - l.addr) 0 else V s a

/-- Places written one after another, none of them twice, hold the bytes in order. -/
theorem State.writeUnit_seen {I : State → Prop} {V : State → Nat → Byte} : ∀ (ls : List EngLoc) (s : State) (bs : List Byte),
    (∀ l ∈ ls, l.Seen o I V) → I s → (cellsOf ls).Nodup → (cellsOf ls).length ≤ bs.length →
    I (s.writeUnit o ls bs) ∧ (∀ k, k < (cellsOf ls).length → V (s.writeUnit o ls bs) ((cellsOf ls).getD k 0) = bs.getD k 0) ∧
      ∀ a, a ∉ cellsOf ls → V (s.writeUnit o ls bs) a = V s a
  | [], s, bs, _, hI, _, _ => ⟨hI, fun k hk => absurd hk (Nat.not_lt_zero k), fun _ _ => rfl⟩
  | l :: ls, s, bs, hseen, hI, hnd, hlen => by
    have hl : (cellsOf (l :: ls)).length = l.len + (cellsOf ls).length := by simp [cellsOf_cons]
    rw [cellsOf_cons, List.nodup_append'] at hnd
    obtain ⟨-, hnd, hdis⟩ := hnd
    obtain ⟨hI1, hV1⟩ := hseen l List.mem_cons_self s (bs.take l.len) hI (List.length_take_of_le (by omega))
    obtain ⟨hI2, hin, hout⟩ := State.writeUnit_seen ls (s.engWrite o l (bs.take l.len)) (bs.drop l.len)
      (fun x hx => hseen x (List.mem_cons_of_mem _ hx)) hI1 hnd (by rw [List.length_drop]; omega)
    rw [State.writeUnit_cons]
    refine ⟨hI2, fun k hk => ?_, fun a ha => ?_⟩
    · by_cases hkl : k < l.len
      · have hcell : (cellsOf (l :: ls)).getD k 0 = l.addr + k := by
          rw [cellsOf_cons, List.getD_append _ _ _ _ (by simpa using hkl), List.getD_eq_getElem _ _ (by simpa using hkl)]
          simp
        rw [hcell, hout _ (hdis (mem_run_iff.2 ⟨by omega, by omega⟩)), hV1, if_pos ⟨by omega, by omega⟩, Nat.add_sub_cancel_left, getD_take_of_lt hkl]
      · have hcell : (cellsOf (l :: ls)).getD k 0 = (cellsOf ls).getD (k - l.len) 0 := by
          rw [cellsOf_cons, List.getD_append_right _ _ _ _ (by simpa using hkl)]
          simp
        rw [hcell, hin _ (by omega), getD_drop_eq, Nat.add_sub_cancel' (by omega)]
    · rw [cellsOf_cons, List.mem_append, not_or, mem_run_iff] at ha
      rw [hout a ha.2, hV1, if_neg ha.1]

/-! Scratchpad. -/

/-- A byte of the crew's scratchpad. -/
def State.scratchByte (s : State) (cid a : Nat) : Byte := ((s.crewAt cid).map (fun c => Sparse.get 0 c.scratch a)).getD 0

theorem State.scratchByte_of_crewAt {cid : Nat} (hc : s.crewAt cid = some c) (a : Nat) : s.scratchByte cid a = Sparse.get 0 c.scratch a := by
  rw [State.scratchByte, hc]
  rfl

theorem EngLoc.seen_scratch {l : EngLoc} (h : l.space ≠ 0) :
    l.Seen o (fun s => ∃ c, s.crewAt o.crew = some c) (fun s => s.scratchByte o.crew) := by
  rintro s bs ⟨c, hc⟩ hlen
  rw [State.engWrite_scratch h hc]
  have hc' := s.crewAt_setCrew_self o.crew { c with scratch := Sparse.setRun 0 c.scratch l.addr bs }
  refine ⟨⟨_, hc'⟩, fun a => ?_⟩
  beta_reduce
  rw [State.scratchByte_of_crewAt hc', State.scratchByte_of_crewAt hc, get_setRun, hlen]

/-! Memory. -/

/-- A write of software within a line of HBM, as the home slices see it. -/
theorem MemSys.homeB_softWrite_hbm (m : MemSys) (world : Nat) {pa : Nat} {bs : List Byte} (hp : pa + bs.length ≤ hbmBytes)
    (hl : pa % 128 + bs.length ≤ 128) (q : Nat) : (m.softWrite world pa bs).homeB q =
      if pa ≤ q ∧ q < pa + bs.length ∧ m.readOnly q = false then bs.getD (q - pa) 0 else m.homeB q := by
  have hw := m.get_softWrite world hp hl q
  by_cases hq : pa ≤ q ∧ q < pa + bs.length ∧ m.readOnly q = false
  · have hhbm : inHbm q = true := decide_eq_true (by omega)
    rw [MemSys.homeB_of_not_inHost (not_inHost_of_inHbm hhbm), hw]
    rw [if_pos hq, if_pos hq]
  · rw [if_neg hq] at hw ⊢
    refine MemSys.homeB_of_find ?_ hw
    rw [(MemSys.onlyBytes_softWrite m world hp hl).eq]
    rfl

/-- The memory systems on which the fields that software may not write depend alike (R7). -/
def MemSys.SameFields (m n : MemSys) : Prop :=
  n.fixed = m.fixed ∧ n.completions = m.completions ∧ n.bring = m.bring ∧ n.assistRouting = m.assistRouting

/-- A place of one line of HBM that no read-only field holds is written as it stands. -/
theorem EngLoc.seen_hbm {l : EngLoc} (h : l.space = 0) (hfit : l.Fits)
    (hcell : ∀ q, l.addr ≤ q → q < l.addr + l.len → inHbm q = true ∧ ∀ m' : MemSys, m.SameFields m' → m'.readOnly q = false) :
    l.Seen o (fun s => m.SameFields s.msys) (fun s => s.msys.homeB) := by
  intro s bs hI hlen
  rw [State.engWrite_global h]
  obtain ⟨seq, l1, hw⟩ := s.msys.engPut_cases o l bs
  have ha := s.msys.agrees_prepared seq l1
  generalize ({ s.msys with seq := seq, l1 := l1 } : MemSys) = n at hw ha
  have hsame : m.SameFields n := ⟨ha.fixed.trans hI.1, ha.completions.trans hI.2.1, ha.bring.trans hI.2.2.1, ha.routing.trans hI.2.2.2⟩
  have key : m.SameFields (n.softWrite o.world (s.msys.norm l.addr) bs) ∧ ∀ a, (n.softWrite o.world (s.msys.norm l.addr) bs).homeB a =
      if l.addr ≤ a ∧ a < l.addr + l.len then bs.getD (a - l.addr) 0 else s.msys.homeB a := by
    by_cases h0 : l.len = 0
    · obtain rfl : bs = [] := List.length_eq_zero_iff.1 (hlen.trans h0)
      rw [MemSys.softWrite_nil]
      exact ⟨hsame, fun a => by rw [if_neg (by omega), ha.homeB]⟩
    · have hn : s.msys.norm l.addr = l.addr := MemSys.norm_of_inHbm (hcell l.addr le_rfl (by omega)).1
      have hend : l.addr + bs.length ≤ hbmBytes := by
        have := inHbm_iff.1 (hcell (l.addr + l.len - 1) (by omega) (by omega)).1
        have hb : hbmBytes = 2 ^ 39 := rfl
        omega
      have hline : l.addr % 128 + bs.length ≤ 128 := hlen ▸ hfit
      rw [hn]
      obtain ⟨mem, sq, rp, he⟩ := MemSys.onlyBytes_softWrite n o.world hend hline
      refine ⟨by rw [he]; exact hsame, fun a => ?_⟩
      rw [MemSys.homeB_softWrite_hbm n o.world hend hline, ha.homeB, hlen]
      have hiff : (l.addr ≤ a ∧ a < l.addr + l.len ∧ n.readOnly a = false) ↔ (l.addr ≤ a ∧ a < l.addr + l.len) :=
        ⟨fun ⟨h1, h2, _⟩ => ⟨h1, h2⟩, fun ⟨h1, h2⟩ => ⟨h1, h2, (hcell a h1 h2).2 n hsame⟩⟩
      simp only [hiff]
  rcases hw with hw | ⟨line, hw⟩
  · rw [hw]
    exact key
  · rw [hw]
    exact key

end Sys2Proof.Machine
end

section
/-! SUPPORT. An engine operation performs a unit whole, where nothing is late (R125, R129, log 4), and what that leaves. -/

namespace Sys2Proof.Machine

variable {s t : State} {m n k : MemSys} {o p : EngineOp} {c : Crew} {x : Xfer}

/-! Places that could be accessed as the unit began stay so (R51, R326, R354, R357). -/

/-- What makes a line inaccessible is as it was, but for poison that has gone. -/
def MemSys.Heals (m n : MemSys) : Prop :=
  n.bring = m.bring ∧ n.held = m.held ∧ n.podDown = m.podDown ∧ n.fenced = m.fenced ∧ n.linkUp = m.linkUp ∧ n.hostOk = m.hostOk ∧
    ∀ line, Sparse.get false n.poison line = true → Sparse.get false m.poison line = true

theorem MemSys.Heals.refl (m : MemSys) : m.Heals m := ⟨rfl, rfl, rfl, rfl, rfl, rfl, fun _ h => h⟩

theorem MemSys.Heals.trans (h : m.Heals n) (h' : n.Heals k) : m.Heals k := by
  obtain ⟨h1, h2, h3, h4, h5, h6, h7⟩ := h
  obtain ⟨h1', h2', h3', h4', h5', h6', h7'⟩ := h'
  exact ⟨h1'.trans h1, h2'.trans h2, h3'.trans h3, h4'.trans h4, h5'.trans h5, h6'.trans h6, fun line h => h7 line (h7' line h)⟩

theorem MemSys.AgentFrame.heals (h : m.AgentFrame n) : m.Heals n := by
  obtain ⟨_, _, _, _, _, _, _, _, _, _, _, _, _, rfl⟩ := h
  exact ⟨rfl, rfl, rfl, rfl, rfl, rfl, fun _ h => h⟩

theorem MemSys.Walked.heals (h : m.Walked n) : m.Heals n := by
  obtain ⟨_, _, _, _, _, rfl⟩ := h
  exact ⟨rfl, rfl, rfl, rfl, rfl, rfl, fun _ h => h⟩

theorem MemSys.softWrite_frame (m : MemSys) (world pa : Nat) (bs : List Byte) : m.AgentFrame (m.softWrite world pa bs) := by
  unfold MemSys.softWrite
  split
  · refine List.foldlRecOn (motive := fun n : MemSys => m.AgentFrame n) _ _ (.refl m) fun n hn i _ => ?_
    split
    · exact hn
    · exact hn.trans (n.writeN_frame _ _ _)
  · exact m.writeN_frame _ _ _

theorem MemSys.heals_engPut (m : MemSys) (o : EngineOp) (l : EngLoc) (bs : List Byte) : m.Heals (m.engPut o l bs) := by
  obtain ⟨seq, l1, hw⟩ := m.engPut_cases o l bs
  have h1 : m.Heals { m with seq := seq, l1 := l1 } := ⟨rfl, rfl, rfl, rfl, rfl, rfl, fun _ h => h⟩
  have h2 := h1.trans (MemSys.softWrite_frame { m with seq := seq, l1 := l1 } o.world (m.norm l.addr) bs).heals
  rcases hw with hw | ⟨line, hw⟩
  · rwa [hw]
  · rw [hw]
    refine h2.trans ⟨rfl, rfl, rfl, rfl, rfl, rfl, fun k hk => ?_⟩
    by_cases he : k = line
    · subst he
      rw [MemSys.setPoison, Sparse.get_set, if_pos rfl] at hk
      cases hk
    · rwa [MemSys.setPoison, Sparse.get_set, if_neg he] at hk

theorem MemSys.Heals.broken (h : m.Heals n) {pa : Nat} (hb : m.broken pa = false) : n.broken pa = false := by
  obtain ⟨h1, -, -, -, h5, h6, h7⟩ := h
  simp only [MemSys.broken, MemSys.poisoned, MemSys.norm_congr h1, h5, h6, Bool.or_eq_false_iff] at hb ⊢
  refine ⟨hb.1, Bool.eq_false_iff.2 fun hp => ?_⟩
  rw [h7 _ hp] at hb
  exact absurd hb.2 (by decide)

theorem MemSys.engLate_eq_none {write : Bool} {l : EngLoc} : m.engLate write l = none ↔ l.space = 0 → (write && m.isHeld l.addr) = false ∧
    m.fencedAt l.addr = false ∧ (if l.heal then inHost l.addr && !(m.linkUp && m.hostOk) else m.broken l.addr) = false := by
  unfold MemSys.engLate MemSys.engRecheck
  by_cases h0 : l.space = 0
  · rw [if_neg (not_not.2 h0)]
    generalize (if l.heal then inHost l.addr && !(m.linkUp && m.hostOk) else m.broken l.addr) = broken
    split
    next hheld => simp [hheld, h0]
    next hheld =>
      split
      next hfence => simp [hfence, h0]
      next hfence =>
        split
        next hbroken => simp [hbroken, h0]
        next hbroken => simp [hheld, hfence, hbroken, h0]
  · simp [h0]

/-- A place that could be accessed still can. -/
theorem MemSys.Heals.engLate (h : m.Heals n) {write : Bool} {l : EngLoc} (hl : m.engLate write l = none) : n.engLate write l = none := by
  refine MemSys.engLate_eq_none.2 fun h0 => ?_
  obtain ⟨hheld, hfence, hbroken⟩ := MemSys.engLate_eq_none.1 hl h0
  have hb := h.broken (pa := l.addr)
  obtain ⟨h1, h2, h3, h4, h5, h6, -⟩ := h
  refine ⟨?_, ?_, ?_⟩
  · rwa [MemSys.isHeld, MemSys.norm_congr h1, h2]
  · rwa [MemSys.fencedAt, MemSys.norm_congr h1, h3, h4]
  · rw [h5, h6]
    split
    next hheal => rwa [if_pos hheal] at hbroken
    next hheal =>
      rw [if_neg hheal] at hbroken
      exact hb hbroken

/-! Units one after another. -/

theorem State.choose_of_prompt (h : s.late = []) : s.choose = (false, s) := by
  have he : ({ s with late := [] } : State) = s := by rw [← h]
  unfold State.choose
  rw [h]
  exact congrArg (Prod.mk false) he

/-- A unit after which nothing is late is followed by the next. -/
theorem State.xferGo_succ {s' : State} {x' : Xfer} (h : s.xferUnit o x = .ok (s', x')) (hlate : s'.late = []) (n : Nat) :
    s.xferGo o (n + 1) x = s'.xferGo o n x' := by
  rw [State.xferGo, h]
  cases hsense : x'.senses <;> simp [hsense, State.choose_of_prompt hlate]

theorem State.engWrite_keeps (s : State) (o : EngineOp) (l : EngLoc) (bs : List Byte) :
    (s.engWrite o l bs).late = s.late ∧ s.msys.Heals (s.engWrite o l bs).msys := by
  unfold State.engWrite
  split
  · exact ⟨rfl, s.msys.heals_engPut o l bs⟩
  · split
    · exact ⟨rfl, .refl _⟩
    · exact ⟨rfl, .refl _⟩

theorem State.writeUnit_keeps (o : EngineOp) : ∀ (ls : List EngLoc) (s : State) (bs : List Byte),
    (s.writeUnit o ls bs).late = s.late ∧ s.msys.Heals (s.writeUnit o ls bs).msys
  | [], s, _ => ⟨rfl, .refl _⟩
  | l :: ls, s, bs => by
    obtain ⟨h1, h2⟩ := s.engWrite_keeps o l (bs.take l.len)
    obtain ⟨h3, h4⟩ := State.writeUnit_keeps o ls (s.engWrite o l (bs.take l.len)) (bs.drop l.len)
    exact ⟨h3.trans h1, h2.trans h4⟩

/-- Units that are only to be written are all written. -/
theorem State.xferGo_writes (o : EngineOp) (count : Nat) : ∀ (ws : List (List EngLoc)) (s : State) (got : List Byte), s.late = [] →
    (∀ l ∈ ws.flatten, s.msys.engLate true l = none) →
    s.xferGo o ws.length ⟨[], got, ws, count⟩ = (.ok ⟨[], got.drop (unitBytes ws.flatten), [], count⟩, s.writeUnit o ws.flatten got)
  | [], _, _, _, _ => rfl
  | ls :: ws, s, got, hlate, hl => by
    obtain ⟨hk1, hk2⟩ := State.writeUnit_keeps o ls s got
    have hunit : s.xferUnit o ⟨[], got, ls :: ws, count⟩ = .ok (s.writeUnit o ls got, ⟨[], got.drop (unitBytes ls), ws, count⟩) :=
      State.xferUnit_write (x := ⟨[], got, ls :: ws, count⟩) rfl rfl fun l h => hl l (List.mem_flatten.2 ⟨ls, List.mem_cons_self, h⟩)
    rw [List.length_cons, State.xferGo_succ hunit (hk1.trans hlate), State.xferGo_writes o count ws _ _ (hk1.trans hlate), List.flatten_cons,
      unitBytes_append, State.writeUnit_append, List.drop_drop]
    intro l h
    exact hk2.engLate (hl l (by rw [List.flatten_cons]; exact List.mem_append_right _ h))

/-- Units that are to be read are all read. -/
theorem State.xferGo_reads (o : EngineOp) (n count : Nat) (ws : List (List EngLoc)) (c : Crew) : ∀ (rs : List (List EngLoc)) (s : State) (got : List Byte),
    s.late = [] → s.crewAt o.crew = some c → (∀ l ∈ rs.flatten, s.msys.engLate false l = none) →
    ∃ seq, s.xferGo o (rs.length + n) ⟨rs, got, ws, count⟩ =
      (s.setMsys { s.msys with seq := seq }).xferGo o n ⟨[], got ++ s.bytesAt c rs.flatten, ws, count⟩
  | [], s, got, _, _, _ => ⟨s.msys.seq, by rw [List.length_nil, Nat.zero_add]; exact congrArg (s.xferGo o n) (by simp [State.bytesAt])⟩
  | ls :: rs, s, got, hlate, hc, hl => by
    obtain ⟨seq, hs⟩ := State.readUnit_leaves o ls s
    have hunit : s.xferUnit o ⟨ls :: rs, got, ws, count⟩ = .ok ((s.readUnit o ls).2, ⟨rs, got ++ (s.readUnit o ls).1, ws, count⟩) :=
      State.xferUnit_read (x := ⟨ls :: rs, got, ws, count⟩) rfl fun l h => hl l (List.mem_flatten.2 ⟨ls, List.mem_cons_self, h⟩)
    rw [hs, State.readUnit_bytes ls s hc] at hunit
    have ha : s.msys.Agrees { s.msys with seq := seq } := s.msys.agrees_prepared seq s.msys.l1
    have hh : s.msys.Heals { s.msys with seq := seq } := ⟨rfl, rfl, rfl, rfl, rfl, rfl, fun _ h => h⟩
    obtain ⟨seq', ih⟩ := State.xferGo_reads o n count ws c rs (s.setMsys { s.msys with seq := seq }) (got ++ s.bytesAt c ls) hlate hc
      fun l h => hh.engLate (hl l (by rw [List.flatten_cons]; exact List.mem_append_right _ h))
    refine ⟨seq', ?_⟩
    rw [List.length_cons, Nat.add_right_comm, State.xferGo_succ hunit hlate, ih, s.bytesAt_setMsys c _ ha, List.append_assoc, ← State.bytesAt_append,
      ← List.flatten_cons]
    rfl

/-- A unit that begins with nothing late and no place that fails is read and written whole. -/
theorem State.moveUnit_prompt (u : Nat) (hlate : s.late = []) (hc : s.crewAt o.crew = some c) (hgot : x.got = [])
    (hr : ∀ l ∈ x.reads.flatten, s.msys.engLate false l = none) (hw : ∀ l ∈ x.writes.flatten, s.msys.engLate true l = none) : ∃ seq,
    s.moveUnit o u x = ((s.setMsys { s.msys with seq := seq }).writeUnit o x.writes.flatten (s.bytesAt c x.reads.flatten)).unitDone o u
      ⟨[], (s.bytesAt c x.reads.flatten).drop (unitBytes x.writes.flatten), [], x.count⟩ := by
  obtain ⟨rs, got, ws, count⟩ := x
  obtain rfl : got = [] := hgot
  obtain ⟨seq, hs⟩ := State.xferGo_reads o ws.length count ws c rs s [] hlate hc hr
  have hh : s.msys.Heals { s.msys with seq := seq } := ⟨rfl, rfl, rfl, rfl, rfl, rfl, fun _ h => h⟩
  refine ⟨seq, ?_⟩
  unfold State.moveUnit
  rw [Xfer.left, hs, State.xferGo_writes o count ws (s.setMsys { s.msys with seq := seq }) _ hlate fun l h => hh.engLate (hw l h)]
  rfl

/-! What a whole unit leaves. -/

theorem EngineOp.pop_leaves (o : EngineOp) : ∃ redo next, o.pop = { o with redo := redo, next := next } := by
  unfold EngineOp.pop
  split
  · exact ⟨_, o.next, rfl⟩
  · exact ⟨o.redo, _, rfl⟩

/-- The operation once a unit has been moved. -/
def EngineOp.moved (o : EngineOp) (u : Nat) (x : Xfer) : EngineOp :=
  let p := { o with xfer := none }
  { p.pop with done := o.done + x.count, payload := if o.cmd.op = 4 then o.payload ++ [(u, x.got)] else o.payload }

theorem EngineOp.moved_leaves (o : EngineOp) (u : Nat) (x : Xfer) : (o.moved u x).id = o.id ∧ (o.moved u x).words = o.words ∧
    (o.moved u x).payload = if o.cmd.op = 4 then o.payload ++ [(u, x.got)] else o.payload := by
  obtain ⟨redo, next, hp⟩ := EngineOp.pop_leaves { o with xfer := none }
  unfold EngineOp.moved
  dsimp only
  rw [hp]
  exact ⟨rfl, rfl, rfl⟩

theorem State.unitDone_eq (s : State) (u : Nat) (x : Xfer) (hr : o.reading = false) :
    s.unitDone o u x = if (o.moved u x).head.isNone then s.endUnits (o.moved u x) else s.setOp (o.moved u x) := by
  have hr' : ¬ ({ o with xfer := none } : EngineOp).reading = true := show ¬ o.reading = true by
    rw [hr]
    decide
  exact if_neg hr'

/-- A unit that has been moved goes to the table with its operation, and batches settle. -/
theorem State.puts_unitDone (s : State) (u : Nat) (x : Xfer) (hr : o.reading = false) : s.Puts (o.moved u x) (s.unitDone o u x) := by
  rw [State.unitDone_eq s u x hr]
  split
  · exact s.puts_endUnits _
  · exact s.puts_setOp rfl rfl

/-- A unit performed whole into the scratchpad: the bytes read stand at the places written to, and no other byte changes. -/
theorem State.moveUnit_scratch {u : Nat} (hrd : o.reading = false) (hlate : s.late = []) (hc : s.crewAt o.crew = some c) (hgot : x.got = [])
    (hr : ∀ l ∈ x.reads.flatten, s.msys.engLate false l = none) (hw : ∀ l ∈ x.writes.flatten, l.space = 1)
    (hnd : (cellsOf x.writes.flatten).Nodup) (hlen : (cellsOf x.writes.flatten).length ≤ (s.bytesAt c x.reads.flatten).length) :
    ∃ cr, (s.moveUnit o u x).crewAt o.crew = some cr ∧
      (∀ k, k < (cellsOf x.writes.flatten).length →
        Sparse.get 0 cr.scratch ((cellsOf x.writes.flatten).getD k 0) = (s.bytesAt c x.reads.flatten).getD k 0) ∧
      ∀ a, a ∉ cellsOf x.writes.flatten → Sparse.get 0 cr.scratch a = Sparse.get 0 c.scratch a := by
  obtain ⟨seq, hmove⟩ := State.moveUnit_prompt u hlate hc hgot hr fun l hl => MemSys.engLate_eq_none.2 fun h0 => by simp [hw l hl] at h0
  obtain ⟨⟨c1, hc1⟩, hin, hout⟩ := State.writeUnit_seen x.writes.flatten (s.setMsys { s.msys with seq := seq }) (s.bytesAt c x.reads.flatten)
    (fun l hl => EngLoc.seen_scratch (o := o) (by rw [hw l hl]; decide)) ⟨c, hc⟩ hnd hlen
  have hputs := State.puts_unitDone ((s.setMsys { s.msys with seq := seq }).writeUnit o x.writes.flatten (s.bytesAt c x.reads.flatten)) u
    ⟨[], (s.bytesAt c x.reads.flatten).drop (unitBytes x.writes.flatten), [], x.count⟩ hrd
  obtain ⟨cr, hcr, hscratch⟩ := hputs.crewAt hc1
  rw [hmove]
  refine ⟨cr, hcr, fun k hk => ?_, fun a ha => ?_⟩
  · rw [hscratch, ← State.scratchByte_of_crewAt hc1, hin k hk]
  · rw [hscratch, ← State.scratchByte_of_crewAt hc1]
    exact (hout a ha).trans (State.scratchByte_of_crewAt hc a)

/-- A unit performed whole into HBM: the bytes read stand at the places written to, and no other byte of memory changes. -/
theorem State.moveUnit_memory {u : Nat} (hrd : o.reading = false) (h4 : o.words.op ≠ 4) (hlate : s.late = []) (hc : s.crewAt o.crew = some c)
    (hgot : x.got = []) (hr : ∀ l ∈ x.reads.flatten, s.msys.engLate false l = none) (hw : ∀ l ∈ x.writes.flatten, s.msys.engLate true l = none)
    (hspace : ∀ l ∈ x.writes.flatten, l.space = 0) (hfit : ∀ l ∈ x.writes.flatten, l.Fits)
    (hnd : (cellsOf x.writes.flatten).Nodup) (hlen : (cellsOf x.writes.flatten).length ≤ (s.bytesAt c x.reads.flatten).length)
    (hcell : ∀ q ∈ cellsOf x.writes.flatten, inHbm q = true ∧ ∀ m' : MemSys, s.msys.SameFields m' → m'.readOnly q = false) :
    (∀ k, k < (cellsOf x.writes.flatten).length →
      (s.moveUnit o u x).msys.readB ((cellsOf x.writes.flatten).getD k 0) = (s.bytesAt c x.reads.flatten).getD k 0) ∧
    ∀ q, s.msys.norm q ∉ cellsOf x.writes.flatten → (s.moveUnit o u x).msys.readB q = s.msys.readB q := by
  obtain ⟨seq, hmove⟩ := State.moveUnit_prompt u hlate hc hgot hr hw
  have hin_cells : ∀ l ∈ x.writes.flatten, ∀ q, l.addr ≤ q → q < l.addr + l.len → q ∈ cellsOf x.writes.flatten := fun l hl q h1 h2 =>
    List.mem_flatMap.2 ⟨l, hl, mem_run_iff.2 ⟨h1, h2⟩⟩
  obtain ⟨hsame, hin, hout⟩ := State.writeUnit_seen x.writes.flatten (s.setMsys { s.msys with seq := seq }) (s.bytesAt c x.reads.flatten)
    (fun l hl => EngLoc.seen_hbm (m := s.msys) (o := o) (hspace l hl) (hfit l hl) fun q h1 h2 => hcell q (hin_cells l hl q h1 h2))
    ⟨rfl, rfl, rfl, rfl⟩ hnd hlen
  have hputs := State.puts_unitDone ((s.setMsys { s.msys with seq := seq }).writeUnit o x.writes.flatten
    (s.bytesAt c x.reads.flatten)) u ⟨[], (s.bytesAt c x.reads.flatten).drop (unitBytes x.writes.flatten), [], x.count⟩ hrd
  obtain ⟨locks, hm⟩ := hputs.msys (by rwa [(o.moved_leaves u _).2.1])
  rw [hmove, hm]
  have hread : ∀ w : State, w.msys.bring = s.msys.bring → ∀ q, ({ w.msys with locks := locks } : MemSys).readB q = w.msys.homeB (s.msys.norm q) := by
    intro w hw q
    rw [← MemSys.norm_congr hw]
    rfl
  refine ⟨fun k hk => ?_, fun q hq => ?_⟩
  · have hmem : (cellsOf x.writes.flatten).getD k 0 ∈ cellsOf x.writes.flatten := by
      rw [List.getD_eq_getElem _ _ hk]
      exact List.getElem_mem hk
    rw [hread _ hsame.2.2.1, MemSys.norm_of_inHbm (hcell _ hmem).1, hin k hk]
  · rw [hread _ hsame.2.2.1, hout _ hq, MemSys.readB_eq_homeB]
    rfl

/-- A part of a send performed whole is among the parts read. -/
theorem State.moveUnit_send {u : Nat} (hrd : o.reading = false) (h4 : o.cmd.op = 4) (hlate : s.late = []) (hc : s.crewAt o.crew = some c)
    (hgot : x.got = []) (hr : ∀ l ∈ x.reads.flatten, s.msys.engLate false l = none) (hw : x.writes = []) :
    ∀ y ∈ (s.moveUnit o u x).ops, y.id = o.id → (u, s.bytesAt c x.reads.flatten) ∈ y.payload := by
  obtain ⟨seq, hmove⟩ := State.moveUnit_prompt u hlate hc hgot hr (by simp [hw])
  have hputs := State.puts_unitDone ((s.setMsys { s.msys with seq := seq }).writeUnit o x.writes.flatten
    (s.bytesAt c x.reads.flatten)) u ⟨[], (s.bytesAt c x.reads.flatten).drop (unitBytes x.writes.flatten), [], x.count⟩ hrd
  intro y hy hi
  rw [hmove] at hy
  obtain ⟨hid, -, hpay⟩ := o.moved_leaves u ⟨[], (s.bytesAt c x.reads.flatten).drop (unitBytes x.writes.flatten), [], x.count⟩
  rw [hputs.payload hy (hi.trans hid.symm), hpay, if_pos h4, hw]
  exact List.mem_append_right _ List.mem_cons_self

end Sys2Proof.Machine
end

section
/-! SUPPORT. The event ENGINE_SECTOR, unit by unit (R125, R330, R336). -/

namespace Sys2Proof.Machine

variable {s t : State} {m n : MemSys} {o p : EngineOp} {c : Crew} {x : Xfer}

/-! The event. -/

theorem exec_engineSector {id : Nat} (h : s.opAt id = some o) (hr : o.phase = .running) (hb : s.opBlocked o = false) :
    exec (.engineSector ⟨o.die, o.core, o.slot⟩ id) s = .next (s.engineUnit o) := by
  show execEngineSector _ id s = _
  unfold execEngineSector
  rw [h]
  exact if_pos ⟨by simp [State.opRuns, hr, hb], rfl⟩

theorem State.engineUnit_of_none (h : o.unit = none) : s.engineUnit o = s.endUnits o := by
  unfold State.engineUnit
  simp only [h]

theorem State.engineUnit_of_failing {u : Nat} {f : EngFail × Bool} (h : o.unit = some u) (hf : o.failing = some f) :
    s.engineUnit o = s.unitFailed o u f.1 := by
  unfold State.engineUnit
  simp only [h, hf]

theorem State.engineUnit_of_xfer {u : Nat} (h : o.unit = some u) (hf : o.failing = none) (hx : o.xfer = some x) :
    s.engineUnit o = s.moveUnit o u x := by
  unfold State.engineUnit
  simp only [h, hf, hx]

theorem State.engineUnit_of_start {u : Nat} (h : o.unit = some u) (hf : o.failing = none) (hx : o.xfer = none)
    (hs : s.unitStart o u = (.ok x, p, m)) : s.engineUnit o = (s.setMsys m).moveUnit p u x := by
  unfold State.engineUnit
  simp only [h, hf, hx, hs]

theorem State.engineUnit_of_start_error {u : Nat} {f : EngFail} (h : o.unit = some u) (hf : o.failing = none) (hx : o.xfer = none)
    (hs : s.unitStart o u = (.error f, p, m)) : s.engineUnit o = (s.setMsys m).unitFailed p u f := by
  unfold State.engineUnit
  simp only [h, hf, hx, hs]

/-! A unit that begins, also that of a chain's record, translates and counts only. -/

/-- A check translates and counts only. -/
theorem State.unitStart_walks (s : State) (o : EngineOp) (u : Nat) : (s.unitStart o u).Leaves o s.msys (fun _ _ => True) := by
  cases hr : o.reading with
  | false => exact (s.unitStart_leaves o u hr).imp fun _ _ _ _ => trivial
  | true =>
    unfold State.unitStart
    rw [hr]
    split
    · exact EngCheck.leaves_error _ _ _ _
    · exact (s.engPlaces_leaves _ _ _ _ _ _ o s.msys).andThen fun ls q n _ _ _ =>
        EngCheck.leaves_ok (.refl q) (n.walked_countXfer q _ _) trivial

/-! A failure that ends the operation (R125, R330). -/

theorem EngineOp.mode_of_none (h : o.failing = none) (m : MemSys) : o.mode m = m.assistFaults := by
  unfold EngineOp.mode
  rw [h]

theorem State.unitFailed_stop_full {u code cause addr : Nat} {write : Bool} (h : s.msys.canPost o.die = false) (hf : o.failing = none) :
    s.unitFailed o u (.stop code cause write addr) =
      s.setOp { o with xfer := none, failing := some (.stop code cause write addr, s.msys.assistFaults) } := by
  show s.failOp { o with xfer := none } code cause write addr = _
  rw [State.failOp_of_full (o := { o with xfer := none }) h, EngineOp.mode_of_none (o := { o with xfer := none }) hf]

theorem State.unitFailed_stop_posted {u code cause addr : Nat} {write : Bool} (h : s.msys.canPost o.die = true) {y : EngineOp}
    (hy : y ∈ (s.unitFailed o u (.stop code cause write addr)).ops) (hi : y.id = o.id) : y.phase = .ended ∧ y.failed = true := by
  have he : s.unitFailed o u (.stop code cause write addr) = s.failOp { o with xfer := none } code cause write addr := rfl
  rw [he, State.failOp_of_canPost (o := { o with xfer := none }) h] at hy
  rw [State.eq_of_mem_putOp rfl hy hi]
  exact ⟨rfl, rfl⟩

/-! A failure whose unit is missing (R125, R330, R336). -/

theorem addRun_ne_nil (u n : Nat) (rs : List (Nat × Nat)) : addRun u n rs ≠ [] := by
  unfold addRun
  repeat' split
  all_goals simp

/-- An operation that loses a unit has one missing. -/
theorem EngineOp.lose_leaves (o : EngineOp) (u : Nat) : ∃ missing redo next tail, missing ≠ [] ∧
    o.lose u = { o with missing := missing, redo := redo, next := next, tail := tail } := by
  unfold EngineOp.lose
  dsimp only
  split
  · refine ⟨_, _, _, _, ?_, rfl⟩
    split
    · exact addRun_ne_nil _ _ _
    · exact List.foldlRecOn (motive := fun rs : List (Nat × Nat) => rs ≠ []) _ _ (addRun_ne_nil _ _ _) fun _ _ _ _ => addRun_ne_nil _ _ _
  · obtain ⟨redo, next, hp⟩ := o.pop_leaves
    exact ⟨_, redo, next, o.tail, addRun_ne_nil _ _ _, by rw [hp]⟩

/-- The operation that a unit is lost of. -/
def EngineOp.losing (o : EngineOp) : EngineOp := if o.reading then { o with xfer := none, next := o.cmd.units } else { o with xfer := none }

theorem EngineOp.losing_leaves (o : EngineOp) : ∃ next, o.losing = { o with xfer := none, next := next } := by
  unfold EngineOp.losing
  split
  · exact ⟨_, rfl⟩
  · exact ⟨o.next, rfl⟩

theorem State.unitFailed_miss (s : State) (o : EngineOp) (u : Nat) (write : Bool) (cause va : Nat) :
    s.unitFailed o u (.miss write cause va) = s.loseUnit o.losing u write cause va := rfl

theorem State.loseUnit_full {u cause va : Nat} {write : Bool} (h : s.msys.canPost o.die = false) (hf : o.failing = none) :
    s.loseUnit o u write cause va = s.setOp { o with failing := some (.miss write cause va, s.msys.assistFaults) } := by
  unfold State.loseUnit
  rw [if_pos (by simp [h]), EngineOp.mode_of_none hf]

/-- An operation that has a missing unit and an unanswered record stops where no unit is left. -/
theorem State.endUnits_of_unanswered {f : FailPage} {y : EngineOp} (hm : o.missing ≠ []) (hy : y ∈ s.ops) (hi : y.id = o.id) (hf : f ∈ o.fails)
    (ha : f.answer = none) : s.endUnits o = s.setOp { o with phase := .stopped } := by
  unfold State.endUnits
  rw [if_pos (by simpa using hm)]
  exact State.putOp_of_unanswered (o := { o with phase := .stopped }) hy hi rfl hf ha

/-- Where the queue has a free slot, the operation goes on, or stops, with the record that its unit has posted. -/
theorem State.loseUnit_posted {u cause va : Nat} {write : Bool} (h : s.msys.canPost o.die = true) {y : EngineOp} (hy : y ∈ s.ops) (hi : y.id = o.id) :
    ∃ m x, s.loseUnit o u write cause va = (s.setMsys m).setOp x ∧ x.id = o.id ∧ (x.phase = o.phase ∨ x.phase = .stopped) ∧
      x.fails = o.fails ++ [⟨va / 4096, write, Sparse.get 0 s.msys.faultNext o.die, none⟩] := by
  obtain ⟨missing, redo, next, tail, hm, hl⟩ := EngineOp.lose_leaves { o with failing := none } u
  unfold State.loseUnit
  rw [if_neg (by simp [h])]
  dsimp only
  rw [hl]
  split
  · exact ⟨_, _, State.endUnits_of_unanswered hm hy hi (List.mem_append_right _ List.mem_cons_self) rfl, rfl, .inr rfl, rfl⟩
  · exact ⟨_, _, rfl, rfl, .inl rfl, rfl⟩

/-! A copy within scratchpad (R112, R125). -/

/-- A run of scratchpad as places. -/
def scratchRun (addr len : Nat) : List EngLoc := if len = 0 then [] else [⟨1, addr, addr, len, 0, false⟩]

theorem State.engPlaces_scratch (s : State) (k : Nat) (write whole : Bool) (addr len : Nat) (o : EngineOp) (m : MemSys) :
    s.engPlaces k write whole 1 addr len o m = (.ok (scratchRun addr len), o, m) := by
  unfold State.engPlaces scratchRun
  split
  · rfl
  · rfl

/-- What a scratchpad copy has to read and to write at a unit. -/
def scratchXfer (k : Cmd) (u : Nat) : Xfer :=
  ⟨cutUnits (scratchRun (k.w1 + (k.part u).1) (k.part u).2), [], cutUnits (scratchRun (k.w2 + (k.part u).1) (k.part u).2), (k.part u).2⟩

/-- A unit of a scratchpad copy begins: it has no page to translate. -/
theorem State.unitStart_scratch (s : State) (u : Nat) (hr : o.reading = false) (h0 : o.cmd.op = 0) (hmx : o.cmd.mx = false) (hs : o.cmd.src = 1)
    (hd : o.cmd.dst = 1) : ∃ m, s.unitStart o u = (.ok (scratchXfer o.cmd u), o, m) ∧ s.msys.Walked m := by
  have hknows : ∀ i, o.knows (o.runsAt u i) = false := by
    intro i
    have hruns : o.runsAt u i = ([], []) := by simp [EngineOp.runsAt, hr, h0, hmx, hs, hd]
    rw [hruns]
    simp [EngineOp.knows]
  have hindex : s.unitIndex o u = (.ok (0, []), o, s.msys) := if_neg (by omega)
  have hxfer : s.unitXfer u 0 o s.msys = (.ok (scratchXfer o.cmd u), o, s.msys) := by
    have hsrc : o.cmd.srcAddr = o.cmd.w1 := if_neg (by omega)
    unfold State.unitXfer State.moveXfer
    simp only [h0, hmx, hs, hd, hsrc, State.engPlaces_scratch, EngCheck.andThen, scratchXfer, Bool.false_eq_true, if_false]
  refine ⟨_, ?_, s.msys.walked_countXfer o (scratchXfer o.cmd u) []⟩
  unfold State.unitStart
  simp only [hr, hknows, hindex, hxfer, EngCheck.andThen, Bool.false_eq_true, if_false]

/-- The addresses of a place, each taken by `f` with its space, are those of its parts. -/
theorem cutAt_flatMap {α : Type} (f : Nat → Nat → α) {unit : Nat} (hu : 0 < unit) : ∀ (fuel : Nat) (l : EngLoc), l.len ≤ fuel →
    (cutAt unit fuel l).flatMap (fun x => (List.range x.len).map (fun i => f x.space (x.addr + i))) = (List.range l.len).map (fun i => f l.space (l.addr + i))
  | 0, l, h => by
    have h0 : l.len = 0 := by omega
    simp [cutAt, h0]
  | fuel + 1, l, h => by
    unfold cutAt
    by_cases h0 : l.len = 0
    · simp [h0]
    · rw [if_neg h0]
      dsimp only
      have hlt := Nat.mod_lt l.addr hu
      have hn : Nat.min l.len (unit - l.addr % unit) ≤ l.len ∧ 1 ≤ Nat.min l.len (unit - l.addr % unit) :=
        ⟨Nat.min_le_left _ _, Nat.le_min.2 ⟨by omega, by omega⟩⟩
      generalize Nat.min l.len (unit - l.addr % unit) = n at hn ⊢
      have ih := cutAt_flatMap f hu fuel (l.part n (l.len - n)) (by dsimp only [EngLoc.part]; omega)
      rw [List.flatMap_cons]
      refine (congrArg (_ ++ ·) ih).trans ?_
      obtain ⟨j, hj⟩ := Nat.exists_eq_add_of_le hn.1
      simp [hj, EngLoc.part, List.range_add, Nat.add_assoc]

theorem cellsOf_scratchRun (addr len : Nat) : cellsOf (cutUnits (scratchRun addr len)).flatten = (List.range len).map (fun i => addr + i) := by
  rw [flatten_cutUnits, scratchRun]
  split
  next h => simp [h, cutParts, cellsOf]
  next =>
    have h := cutAt_flatMap (fun _ a => a) (unit := 8) (by decide) (len + 1) (⟨1, addr, addr, len, 0, false⟩ : EngLoc) (Nat.le_succ _)
    rw [← h]
    simp [cutParts, cellsOf]

theorem State.bytesAt_scratchRun (s : State) (c : Crew) (addr len : Nat) :
    s.bytesAt c (cutUnits (scratchRun addr len)).flatten = (List.range len).map (fun i => Sparse.get 0 c.scratch (addr + i)) := by
  rw [flatten_cutUnits, scratchRun]
  split
  next h => simp [h, cutParts, State.bytesAt]
  next =>
    have h := cutAt_flatMap (s.byteAt c) (unit := 8) (by decide) (len + 1) (⟨1, addr, addr, len, 0, false⟩ : EngLoc) (Nat.le_succ _)
    refine Eq.trans ?_ h
    simp [cutParts, State.bytesAt_eq]

theorem space_of_mem_scratchRun {addr len : Nat} {l : EngLoc} (h : l ∈ (cutUnits (scratchRun addr len)).flatten) : l.space = 1 := by
  rw [flatten_cutUnits, scratchRun] at h
  split at h
  · simp [cutParts] at h
  · obtain ⟨l0, hl0, hl⟩ := List.mem_flatMap.1 h
    obtain ⟨j, n, rfl, -⟩ := (cutAt_run (by decide) _ l0 (Nat.le_succ _)).2 l hl
    rw [List.mem_singleton.1 hl0]
    rfl

theorem getD_map_range {α : Type} (f : Nat → α) (d : α) {n k : Nat} (h : k < n) : ((List.range n).map f).getD k d = f k := by
  rw [List.getD_eq_getElem _ _ (by simpa using h)]
  simp

/-- A unit of a copy within scratchpad, performed whole: its bytes are those of the source as they stood. -/
theorem State.engineUnit_scratchCopy {u : Nat} (hr : o.reading = false) (hu : o.head = some u) (hf : o.failing = none) (hx : o.xfer = none)
    (hlate : s.late = []) (h0 : o.cmd.op = 0) (hmx : o.cmd.mx = false) (hs : o.cmd.src = 1) (hd : o.cmd.dst = 1) (hc : s.crewAt o.crew = some c) :
    let off := (o.cmd.part u).1
    let len := (o.cmd.part u).2
    ∃ cr, (s.engineUnit o).crewAt o.crew = some cr ∧ ∀ a, Sparse.get 0 cr.scratch a =
      if o.cmd.w2 + off ≤ a ∧ a < o.cmd.w2 + off + len then Sparse.get 0 c.scratch (o.cmd.w1 + (a - o.cmd.w2)) else Sparse.get 0 c.scratch a := by
  intro off len
  obtain ⟨m, hstart, hm⟩ := s.unitStart_scratch u hr h0 hmx hs hd
  have hunit : o.unit = some u := by rw [EngineOp.unit, hr]; exact hu
  have hcells : cellsOf (scratchXfer o.cmd u).writes.flatten = (List.range len).map (fun i => o.cmd.w2 + off + i) := cellsOf_scratchRun _ _
  have hbytes : (s.setMsys m).bytesAt c (scratchXfer o.cmd u).reads.flatten =
      (List.range len).map (fun i => Sparse.get 0 c.scratch (o.cmd.w1 + off + i)) := State.bytesAt_scratchRun _ _ _ _
  have hmove := State.moveUnit_scratch (s := s.setMsys m) (u := u) (x := scratchXfer o.cmd u) hr hlate hc rfl
    (fun l hl => MemSys.engLate_eq_none.2 fun h => by simp [space_of_mem_scratchRun hl] at h) (fun l hl => space_of_mem_scratchRun hl)
  rw [hcells, hbytes] at hmove
  obtain ⟨cr, hcr, hin, hout⟩ := hmove (List.nodup_range.map fun a b h => by simpa using h) (by simp)
  refine ⟨cr, by rw [State.engineUnit_of_start hunit hf hx hstart]; exact hcr, fun a => ?_⟩
  split
  next ha =>
    have hk : a - (o.cmd.w2 + off) < len := by omega
    have := hin (a - (o.cmd.w2 + off)) (by simpa using hk)
    rw [getD_map_range _ _ hk, getD_map_range _ _ hk] at this
    rw [show a = o.cmd.w2 + off + (a - (o.cmd.w2 + off)) by omega, this]
    congr 1
    omega
  next ha => exact hout a (by rwa [mem_run_iff])

end Sys2Proof.Machine
end

section
/-! SUPPORT. Sends and receive rings (R123, R356, R357). -/

namespace Sys2Proof.Machine

variable {s t : State} {m : SendMsg} {ring : Nat} {o : EngineOp}

/-! What a message's arrival and delivery leave. -/

theorem State.hears_leaves (s : State) (m : SendMsg) : ∃ silence, s.hears m = { s with silence := silence } ∧
    (m.sender = none → Sparse.get 0 silence m.src = 0) := by
  unfold State.hears
  split
  next h => exact ⟨s.silence, rfl, fun h' => by rw [h] at h'; cases h'⟩
  next => exact ⟨_, rfl, fun _ => by rw [Sparse.get_set, if_pos rfl]⟩

/-- Marking a send changes operations only. -/
theorem State.markSend_leaves (s : State) (m : SendMsg) (k : Nat) :
    (s.markSend m k).sends = s.sends ∧ (s.markSend m k).silence = s.silence ∧ (s.markSend m k).ringTails = s.ringTails := by
  unfold State.markSend
  split <;> exact ⟨rfl, rfl, rfl⟩

theorem State.ringRead_leaves {r : Ring} {s1 : State} (h : s.ringRead ring = .ok (r, s1)) : ∃ n, s1 = s.setMsys n := by
  unfold State.ringRead at h
  split at h
  · cases h
    exact ⟨_, rfl⟩
  · cases h

/-- A failed read of an agent that is posted leaves a reader. -/
theorem State.readerFails_posted {key die world cause va : Nat} (h0 : cause ≠ 0) (h : s.msys.canPost die = true) :
    s.readerFails key die world (cause, va) = { s.setMsys (s.msys.agentFail 7 die world false (cause, va) (.reader key)) with readers := key :: s.readers } :=
  (if_neg h0).trans (if_pos h)

/-- A delivery advances the ring's tail, and all else that it changes is the agents' writes. -/
theorem State.deliver_leaves (s : State) (ring : Nat) (r : Ring) (m : SendMsg) :
    ({ s with ringTails := Sparse.set 0 s.ringTails ring ((r.tail + 1) % 2 ^ 32) } : State).AgentFrame (s.deliver ring r m) :=
  ((State.agentWrite_frame _ _ _ _ _ _ _).trans (State.agentWrite_frame _ _ _ _ _ _ _)).trans (State.agentWrite_frame _ _ _ _ _ _ _)

theorem State.endDelivery_of_free (h : s.agentBusy (ringChan ring) = false) :
    (s.endDelivery ring m).sends = changeSend ring (fun _ => []) s.sends ∧ (s.endDelivery ring m).ringTails = s.ringTails := by
  obtain ⟨hs, -, ht⟩ := State.markSend_leaves { s with sends := changeSend ring (fun _ => []) s.sends } m 2
  rw [State.endDelivery, if_neg (by simp [h])]
  exact ⟨hs, ht⟩

theorem State.endDelivery_of_busy (h : s.agentBusy (ringChan ring) = true) :
    (s.endDelivery ring m).sends = changeSend ring (fun w => [{ w with written := true }]) s.sends ∧ (s.endDelivery ring m).ringTails = s.ringTails := by
  rw [State.endDelivery, if_pos h]
  exact ⟨rfl, rfl⟩

/-! SEND_ARRIVAL. -/

theorem exec_sendArrival (h : s.mayArrive m = true) (hr : s.ringFor m = some ring) (hn : 64 + ring ∈ s.readers) :
    exec (.sendArrival m) s = .next (s.hears m) := by
  show execSendArrival m s = _
  unfold execSendArrival
  simp only [h, hr]
  exact if_pos (List.contains_iff_mem.2 hn)

/-- A message whose ring's entry is read is taken and waits, or is refused. -/
theorem exec_sendArrival_read {r : Ring} {s1 : State} (h : s.mayArrive m = true) (hr : s.ringFor m = some ring) (hn : 64 + ring ∉ s.readers)
    (hrd : s.ringRead ring = .ok (r, s1)) : exec (.sendArrival m) s = .next (if r.takes m then
      State.markSend { s1.hears m with sends := (s1.hears m).sends ++ [⟨ring, m, false⟩] } m 1 else (s1.hears m).markSend m 3) := by
  show execSendArrival m s = _
  unfold execSendArrival
  simp only [h, hr]
  rw [if_neg (by simpa using hn)]
  simp only [hrd]

theorem exec_sendArrival_failed {f : AgentFail} (h : s.mayArrive m = true) (hr : s.ringFor m = some ring) (hn : 64 + ring ∉ s.readers)
    (hrd : s.ringRead ring = .error f) : exec (.sendArrival m) s = .next ((s.hears m).readerFails (64 + ring) 0 0 f) := by
  show execSendArrival m s = _
  unfold execSendArrival
  simp only [h, hr]
  rw [if_neg (by simpa using hn)]
  simp only [hrd]

/-- A message whose ring's entry is read waits there if the ring takes it; another module's ends that module's silence. -/
theorem exec_sendArrival_arrives {r : Ring} {s1 : State} (h : s.mayArrive m = true) (hr : s.ringFor m = some ring) (hn : 64 + ring ∉ s.readers)
    (hrd : s.ringRead ring = .ok (r, s1)) : ∃ s', exec (.sendArrival m) s = .next s' ∧
      s'.sends = (if r.takes m = true then s.sends ++ [⟨ring, m, false⟩] else s.sends) ∧ (m.sender = none → Sparse.get 0 s'.silence m.src = 0) := by
  obtain ⟨n, rfl⟩ := State.ringRead_leaves hrd
  obtain ⟨silence, hh, hsil⟩ := (s.setMsys n).hears_leaves m
  refine ⟨_, exec_sendArrival_read h hr hn hrd, ?_⟩
  rw [hh]
  split
  next =>
    obtain ⟨h1, h2, -⟩ := State.markSend_leaves { s.setMsys n with silence := silence, sends := s.sends ++ [⟨ring, m, false⟩] } m 1
    exact ⟨h1, fun h => (congrArg (Sparse.get 0 · m.src) h2).trans (hsil h)⟩
  next =>
    obtain ⟨h1, h2, -⟩ := State.markSend_leaves { s.setMsys n with silence := silence } m 3
    exact ⟨h1, fun h => (congrArg (Sparse.get 0 · m.src) h2).trans (hsil h)⟩

/-! RECEIVE_RING_DELIVERY. -/

theorem exec_receiveRingDelivery_written {w : WaitSend} (h : s.sendFor ring = some w) (hw : w.written = true) (hb : s.agentBusy (ringChan ring) = false) :
    exec (.receiveRingDelivery ring) s = .next (s.endDelivery ring w.msg) := by
  show execReceiveRingDelivery ring s = _
  unfold execReceiveRingDelivery
  simp only [h, hw, hb]
  rfl

theorem exec_receiveRingDelivery_reader {w : WaitSend} (h : s.sendFor ring = some w) (hw : w.written = false) (hn : 64 + ring ∈ s.readers) :
    exec (.receiveRingDelivery ring) s = .next s := by
  show execReceiveRingDelivery ring s = _
  unfold execReceiveRingDelivery
  simp only [h, hw, Bool.false_eq_true, if_false]
  exact if_pos (List.contains_iff_mem.2 hn)

theorem exec_receiveRingDelivery_read {w : WaitSend} {r : Ring} {s1 : State} (h : s.sendFor ring = some w) (hw : w.written = false)
    (hn : 64 + ring ∉ s.readers) (hrd : s.ringRead ring = .ok (r, s1)) : exec (.receiveRingDelivery ring) s =
      if r.room then .next ((s1.deliver ring r w.msg).endDelivery ring w.msg) else .next s := by
  show execReceiveRingDelivery ring s = _
  unfold execReceiveRingDelivery
  simp only [h, hw, Bool.false_eq_true, if_false]
  rw [if_neg (by simpa using hn)]
  simp only [hrd]

/-- A delivery into a ring with room advances its tail, and the send leaves, or waits for its bytes to be written. -/
theorem exec_receiveRingDelivery_delivers {w : WaitSend} {r : Ring} {s1 : State} (h : s.sendFor ring = some w) (hw : w.written = false)
    (hn : 64 + ring ∉ s.readers) (hrd : s.ringRead ring = .ok (r, s1)) (hroom : r.room = true) :
    ∃ s', exec (.receiveRingDelivery ring) s = .next s' ∧ Sparse.get 0 s'.ringTails ring = (r.tail + 1) % 2 ^ 32 ∧
      (s'.sends = changeSend ring (fun _ => []) s.sends ∨ s'.sends = changeSend ring (fun w => [{ w with written := true }]) s.sends) := by
  obtain ⟨n, rfl⟩ := State.ringRead_leaves hrd
  obtain ⟨n', agents, ids, -, hd⟩ := (s.setMsys n).deliver_leaves ring r w.msg
  have htail : Sparse.get 0 ((s.setMsys n).deliver ring r w.msg).ringTails ring = (r.tail + 1) % 2 ^ 32 := by
    rw [hd]
    exact (Sparse.get_set ..).trans (if_pos rfl)
  have hsends : ((s.setMsys n).deliver ring r w.msg).sends = s.sends := by
    rw [hd]
    rfl
  refine ⟨_, (exec_receiveRingDelivery_read h hw hn hrd).trans (if_pos hroom), ?_⟩
  cases hb : ((s.setMsys n).deliver ring r w.msg).agentBusy (ringChan ring) with
  | false =>
    obtain ⟨h1, h2⟩ := State.endDelivery_of_free (m := w.msg) hb
    exact ⟨by rw [h2, htail], .inl (by rw [h1, hsends])⟩
  | true =>
    obtain ⟨h1, h2⟩ := State.endDelivery_of_busy (m := w.msg) hb
    exact ⟨by rw [h2, htail], .inr (by rw [h1, hsends])⟩

theorem exec_receiveRingDelivery_failed {w : WaitSend} {f : AgentFail} (h : s.sendFor ring = some w) (hw : w.written = false)
    (hn : 64 + ring ∉ s.readers) (hrd : s.ringRead ring = .error f) :
    exec (.receiveRingDelivery ring) s = .next (s.readerFails (64 + ring) 0 0 f) := by
  show execReceiveRingDelivery ring s = _
  unfold execReceiveRingDelivery
  simp only [h, hw, Bool.false_eq_true, if_false]
  rw [if_neg (by simpa using hn)]
  simp only [hrd]

/-! SEND_ACKNOWLEDGE. -/

theorem State.hearAnswer_leaves (s : State) (o : EngineOp) : ∃ silence, s.hearAnswer o = { s with silence := silence } := by
  unfold State.hearAnswer State.flitFrom
  split
  · split
    · exact ⟨_, rfl⟩
    · exact ⟨s.silence, rfl⟩
  · exact ⟨s.silence, rfl⟩

theorem exec_sendAcknowledge_accepted {id : Nat} (h : s.opAt id = some o) (hp : o.phase = .sent) (ha : s.answered o true = true) :
    exec (.sendAcknowledge ⟨o.die, o.core, o.slot⟩ id true) s = .next ((s.hearAnswer o).putOp { o with phase := .ended, done := o.words.count }) := by
  show execSendAcknowledge _ id true s = _
  unfold execSendAcknowledge
  simp only [h]
  exact (if_neg (by simp [hp, ha])).trans (if_pos trivial)

theorem exec_sendAcknowledge_refused {id : Nat} (h : s.opAt id = some o) (hp : o.phase = .sent) (ha : s.answered o false = true) :
    exec (.sendAcknowledge ⟨o.die, o.core, o.slot⟩ id false) s = .next ((s.hearAnswer o).failSend o 49000) := by
  show execSendAcknowledge _ id false s = _
  unfold execSendAcknowledge
  simp only [h]
  exact (if_neg (by simp [hp, ha])).trans (if_neg (by decide))

/-- A send that is refused while the queue is full waits with its failure. -/
theorem State.failSend_full (h : s.msys.canPost o.die = false) (k : Nat) : ∃ f, s.failSend o k = s.setOp { o with done := 0, failing := some f } :=
  ⟨_, State.failOp_of_full (o := { o with done := 0 }) h _ _ _ _⟩

/-- A send that is refused ends failed, with no byte done. -/
theorem State.failSend_posted (h : s.msys.canPost o.die = true) (k : Nat) {x : EngineOp} (hx : x ∈ (s.failSend o k).ops) (hi : x.id = o.id) :
    x.phase = .ended ∧ x.failed = true ∧ x.done = 0 := by
  rw [State.failSend, State.failOp_of_canPost (o := { o with done := 0 }) h] at hx
  rw [State.eq_of_mem_putOp rfl hx hi]
  exact ⟨rfl, rfl, rfl⟩

theorem State.opAt_hearAnswer (s : State) (o : EngineOp) (id : Nat) : (s.hearAnswer o).opAt id = s.opAt id ∧ (s.hearAnswer o).msys = s.msys := by
  obtain ⟨silence, hh⟩ := s.hearAnswer_leaves o
  rw [hh]
  exact ⟨rfl, rfl⟩

/-- A refused send whose record finds no slot keeps its failure. -/
theorem exec_sendAcknowledge_waits {id : Nat} (h : s.opAt id = some o) (hp : o.phase = .sent) (ha : s.answered o false = true)
    (hc : s.msys.canPost o.die = false) : ∃ s' x, exec (.sendAcknowledge ⟨o.die, o.core, o.slot⟩ id false) s = .next s' ∧ s'.msys = s.msys ∧
      s'.opAt id = some x ∧ x = { o with done := 0, failing := x.failing } ∧ x.failing ≠ none := by
  obtain ⟨hat, hm⟩ := s.opAt_hearAnswer o id
  have hoid := State.opAt_id h
  obtain ⟨f, hf⟩ := State.failSend_full (s := s.hearAnswer o) (o := o) (by rwa [hm]) 49000
  exact ⟨_, { o with done := 0, failing := some f }, (exec_sendAcknowledge_refused h hp ha).trans (congrArg Host.Outcome.next hf), hm,
    State.opAt_setOp (hat.trans h) hoid, rfl, fun he => nomatch he⟩

/-- A send that is answered ends, done whole, or failed with no byte done. -/
theorem exec_sendAcknowledge_ends {id : Nat} {accepted : Bool} (h : s.opAt id = some o) (hp : o.phase = .sent) (ha : s.answered o accepted = true)
    (hc : accepted = true ∨ s.msys.canPost o.die = true) : ∃ s', exec (.sendAcknowledge ⟨o.die, o.core, o.slot⟩ id accepted) s = .next s' ∧
      ∀ x ∈ s'.ops, x.id = id → x.phase = .ended ∧ (accepted = true → x.done = o.words.count) ∧ (accepted = false → x.failed = true ∧ x.done = 0) := by
  have hoid := State.opAt_id h
  cases accepted with
  | true =>
    refine ⟨_, exec_sendAcknowledge_accepted h hp ha, fun x hx hi => ?_⟩
    rw [State.eq_of_mem_putOp rfl hx (hi.trans hoid.symm)]
    exact ⟨rfl, fun _ => rfl, fun h' => nomatch h'⟩
  | false =>
    refine ⟨_, exec_sendAcknowledge_refused h hp ha, fun x hx hi => ?_⟩
    have hpost : (s.hearAnswer o).msys.canPost o.die = true := by
      rw [(s.opAt_hearAnswer o id).2]
      simpa using hc
    obtain ⟨h1, h2, h3⟩ := State.failSend_posted hpost 49000 hx (hi.trans hoid.symm)
    exact ⟨h1, fun h' => absurd h' (by decide), fun _ => ⟨h2, h3⟩⟩

end Sys2Proof.Machine
end

section
/-! PROOF. O50: engine operations unit by unit, the bytes they move, and sends (R120 to R125, R129, R141, R329, R330, R356). -/

namespace Sys2Proof.Machine

variable {s : State} {m : MemSys} {o p : EngineOp} {c : Crew} {x : Xfer} {id u : Nat}

/-! A unit that fails as it begins. -/

/-- A failure that ends the operation: it waits with it, or ends failed. -/
theorem exec_engineSector_stops (ho : s.opAt id = some o) (hp : o.phase = .running) (hb : s.opBlocked o = false) (hu : o.unit = some u)
    (hf : o.failing = none) (hx : o.xfer = none) {code cause addr : Nat} {write : Bool}
    (hs : s.unitStart o u = (.error (.stop code cause write addr), p, m)) :
    (m.canPost o.die = false → exec (.engineSector ⟨o.die, o.core, o.slot⟩ id) s = .next ((s.setMsys m).setOp
      { p with xfer := none, failing := some (.stop code cause write addr, m.assistFaults) })) ∧
    (m.canPost o.die = true → ∃ s', exec (.engineSector ⟨o.die, o.core, o.slot⟩ id) s = .next s' ∧
      ∀ x ∈ s'.ops, x.id = id → x.phase = .ended ∧ x.failed = true) := by
  have hoid := State.opAt_id ho
  have hw := (s.unitStart_walks o u).walks hs
  have hdie : p.die = o.die := by rw [hw.1]
  have hfail : p.failing = none := by rw [hw.1]; exact hf
  have hid : p.id = id := by rw [hw.1]; exact hoid
  rw [exec_engineSector ho hp hb, State.engineUnit_of_start_error hu hf hx hs]
  refine ⟨fun hc => congrArg Host.Outcome.next (State.unitFailed_stop_full (s := s.setMsys m) (hdie ▸ hc) hfail), fun hc => ⟨_, rfl, fun y hy hi => ?_⟩⟩
  exact State.unitFailed_stop_posted (s := s.setMsys m) (hdie ▸ hc) hy (hi.trans hid.symm)

/-- A failure that awaits a reply: the operation waits with it, or goes on with its record. -/
theorem exec_engineSector_misses (ho : s.opAt id = some o) (hp : o.phase = .running) (hb : s.opBlocked o = false) (hu : o.unit = some u)
    (hf : o.failing = none) (hx : o.xfer = none) {cause va : Nat} {write : Bool} (hs : s.unitStart o u = (.error (.miss write cause va), p, m)) :
    (m.canPost o.die = false → ∃ s' x, exec (.engineSector ⟨o.die, o.core, o.slot⟩ id) s = .next s' ∧ s'.msys = m ∧ s'.opAt id = some x ∧
      x.phase = .running ∧ x.fails = o.fails ∧ x.failing = some (.miss write cause va, m.assistFaults)) ∧
    (m.canPost o.die = true → ∃ s' x, exec (.engineSector ⟨o.die, o.core, o.slot⟩ id) s = .next s' ∧ s'.opAt id = some x ∧
      (x.phase = .running ∨ x.phase = .stopped) ∧ x.fails = o.fails ++ [⟨va / 4096, write, Sparse.get 0 m.faultNext o.die, none⟩]) := by
  have hoid := State.opAt_id ho
  have hw := (s.unitStart_walks o u).walks hs
  obtain ⟨next, hl⟩ := p.losing_leaves
  have hid : p.losing.id = id := by rw [hl, hw.1]; exact hoid
  have hdie : p.losing.die = o.die := by rw [hl, hw.1]
  have hphase : p.losing.phase = .running := by rw [hl, hw.1]; exact hp
  have hfails : p.losing.fails = o.fails := by rw [hl, hw.1]
  have hfail : p.losing.failing = none := by rw [hl, hw.1]; exact hf
  rw [exec_engineSector ho hp hb, State.engineUnit_of_start_error hu hf hx hs, State.unitFailed_miss]
  refine ⟨fun hc => ?_, fun hc => ?_⟩
  · rw [State.loseUnit_full (s := s.setMsys m) (hdie ▸ hc) hfail]
    exact ⟨_, _, rfl, rfl, State.opAt_setOp ho hid, hphase, hfails, rfl⟩
  · obtain ⟨m', y, he, hyi, hyp, hyf⟩ := State.loseUnit_posted (s := s.setMsys m) (o := p.losing) (u := u) (cause := cause) (va := va) (write := write)
      (hdie ▸ hc) (State.mem_of_opAt ho) (hoid.trans hid.symm)
    refine ⟨_, y, congrArg Host.Outcome.next he, State.opAt_setOp (s := (s.setMsys m).setMsys m') ho (hyi.trans hid), by rwa [hphase] at hyp, ?_⟩
    rw [hyf, hfails, hdie]
    rfl

/-! A unit that begins and is performed whole. -/

/-- What holds of a unit that begins, once its operation has translated. -/
structure State.Begun (s : State) (o : EngineOp) (u : Nat) (x : Xfer) (p : EngineOp) (m : MemSys) : Prop where
  exec_eq : ∀ {id}, s.opAt id = some o → exec (.engineSector ⟨o.die, o.core, o.slot⟩ id) s = .next ((s.setMsys m).moveUnit p u x)
  walks : o.Walks p
  walked : s.msys.Walked m
  reading : p.reading = false
  got : x.got = []
  fits : ∀ l ∈ x.writes.flatten, l.Fits
  send : o.cmd.op = 4 → x.writes = []

theorem State.begun (hp : o.phase = .running) (hb : s.opBlocked o = false) (hr : o.reading = false) (hu : o.unit = some u) (hf : o.failing = none)
    (hx : o.xfer = none) (hs : s.unitStart o u = (.ok x, p, m)) : s.Begun o u x p m := by
  obtain ⟨hw, hm, i, hunit, -⟩ := (s.unitStart_leaves o u hr).answer hs
  obtain ⟨count, hgot, -, hfits⟩ := hunit.starts
  refine ⟨fun ho => ?_, hw, hm, ?_, hgot, hfits, fun h4 => ?_⟩
  · rw [exec_engineSector ho hp hb, State.engineUnit_of_start hu hf hx hs]
  · rw [hw.1]
    exact hr
  · obtain ⟨-, -, -, -, hsend⟩ := hunit
    exact (hsend (by omega)).2.2

section

variable (h : s.Begun o u x p m) (ho : s.opAt id = some o) (hlate : s.late = []) (hc : s.crewAt o.crew = some c)
  (hr : ∀ l ∈ x.reads.flatten, m.engLate false l = none)

include h ho hlate hc hr

/-- A unit into scratchpad, performed whole. -/
theorem State.Begun.scratch (hnd : (cellsOf x.writes.flatten).Nodup) (hlen : (cellsOf x.writes.flatten).length ≤ (s.bytesAt c x.reads.flatten).length)
    (hw : ∀ l ∈ x.writes.flatten, l.space = 1) :
    ∃ s' cr, exec (.engineSector ⟨o.die, o.core, o.slot⟩ id) s = .next s' ∧ s'.crewAt o.crew = some cr ∧
      (∀ k, k < (cellsOf x.writes.flatten).length →
        Sparse.get 0 cr.scratch ((cellsOf x.writes.flatten).getD k 0) = (s.bytesAt c x.reads.flatten).getD k 0) ∧
      ∀ a, a ∉ cellsOf x.writes.flatten → Sparse.get 0 cr.scratch a = Sparse.get 0 c.scratch a := by
  have hbytes := s.bytesAt_setMsys c x.reads.flatten h.walked.agrees
  obtain ⟨cr, hcr, hin, hout⟩ := State.moveUnit_scratch (s := s.setMsys m) (u := u) h.reading hlate (h.walks.crew ▸ hc) h.got hr hw hnd (by rwa [hbytes])
  rw [h.walks.crew] at hcr
  rw [hbytes] at hin
  exact ⟨_, cr, h.exec_eq ho, hcr, hin, hout⟩

/-- A unit into HBM, performed whole. -/
theorem State.Begun.memory (hw : ∀ l ∈ x.writes.flatten, m.engLate true l = none) (hnd : (cellsOf x.writes.flatten).Nodup)
    (hlen : (cellsOf x.writes.flatten).length ≤ (s.bytesAt c x.reads.flatten).length) (hspace : ∀ l ∈ x.writes.flatten, l.space = 0)
    (h4 : o.words.op ≠ 4)
    (hcell : ∀ q ∈ cellsOf x.writes.flatten, inHbm q = true ∧ ∀ m' : MemSys, m.SameFields m' → m'.readOnly q = false) :
    ∃ s', exec (.engineSector ⟨o.die, o.core, o.slot⟩ id) s = .next s' ∧
      (∀ k, k < (cellsOf x.writes.flatten).length →
        s'.msys.readB ((cellsOf x.writes.flatten).getD k 0) = (s.bytesAt c x.reads.flatten).getD k 0) ∧
      ∀ q, m.norm q ∉ cellsOf x.writes.flatten → s'.msys.readB q = s.msys.readB q := by
  have hbytes := s.bytesAt_setMsys c x.reads.flatten h.walked.agrees
  have hwords : p.words = o.words := by
    rw [h.walks.1]
    rfl
  obtain ⟨hin, hout⟩ := State.moveUnit_memory (s := s.setMsys m) (u := u) h.reading (hwords ▸ h4) hlate (h.walks.crew ▸ hc) h.got hr hw hspace h.fits
    hnd (by rwa [hbytes]) hcell
  rw [hbytes] at hin
  exact ⟨_, h.exec_eq ho, hin, fun q hq => (hout q hq).trans (h.walked.agrees.readB q)⟩

/-- A part of a send, performed whole. -/
theorem State.Begun.sent (h4 : o.cmd.op = 4) : ∃ s', exec (.engineSector ⟨o.die, o.core, o.slot⟩ id) s = .next s' ∧
    ∀ y ∈ s'.ops, y.id = id → (u, s.bytesAt c x.reads.flatten) ∈ y.payload := by
  have hbytes := s.bytesAt_setMsys c x.reads.flatten h.walked.agrees
  have hoid := State.opAt_id ho
  have hid : p.id = id := by
    rw [h.walks.1]
    exact hoid
  refine ⟨_, h.exec_eq ho, fun y hy hi => ?_⟩
  have hmem := State.moveUnit_send (s := s.setMsys m) (u := u) h.reading (h.walks.cmd ▸ h4) hlate (h.walks.crew ▸ hc) h.got hr (h.send h4) y hy
    (hi.trans hid.symm)
  rwa [hbytes] at hmem

end

/-- Settles O50: an operation's unit is one event, case by case; what a unit that begins has to read and to write is what its checks answer; a unit
performed whole with nothing late is its reads and then its writes; and a send goes the way of its ring's entry. -/
theorem enginesAndSends : Obligations.EnginesAndSends := by
  refine ⟨fun s id o ho hp hb => ?_, fun s o p u x m c hr hs hc => ?_, fun s s1 o x x1 c hx hc => ?_, fun s m ring hm hring => ?_,
    fun s ring w hw => ?_, fun s id o accepted ho hp ha => ?_⟩
  · intro i
    have hexec := exec_engineSector ho hp hb
    refine ⟨fun hu => ?_, fun u f a hu hf => ?_, fun u x hu hf hx => ?_, fun u p m hu hf hx => ?_, fun u x p m c hr hu hf hx hlate hs hc hread hwrite => ?_,
      fun u c hr hu hf hx hlate h0 hmx hsrc hdst hc => ?_⟩
    · rw [hexec, State.engineUnit_of_none hu]
    · rw [hexec, State.engineUnit_of_failing hu hf]
    · rw [hexec, State.engineUnit_of_xfer hu hf hx]
    · exact ⟨fun x hs => by rw [hexec, State.engineUnit_of_start hu hf hx hs], fun f hs => by rw [hexec, State.engineUnit_of_start_error hu hf hx hs],
        fun code cause write addr hs => exec_engineSector_stops ho hp hb hu hf hx hs,
        fun write cause va hs => exec_engineSector_misses ho hp hb hu hf hx hs⟩
    · have hbegun := State.begun hp hb hr hu hf hx hs
      refine ⟨fun hnd hlen hspace => hbegun.scratch ho hlate hc hread hnd hlen hspace, fun hnd hlen hspace _ h4 hcell => ?_,
        fun h4 => hbegun.sent ho hlate hc hread h4⟩
      exact hbegun.memory ho hlate hc hread hwrite hnd hlen hspace h4 fun q hq => ⟨(hcell q hq).2.1, fun m' ⟨h1, h2, h3, h5⟩ => (hcell q hq).2.2 m' h1 h2 h3 h5⟩
    · obtain ⟨cr, hcr, hbytes⟩ := State.engineUnit_scratchCopy hr hu hf hx hlate h0 hmx hsrc hdst hc
      exact ⟨_, cr, hexec, hcr, hbytes⟩
  · intro k off len reads writes
    obtain ⟨-, -, hb⟩ := (s.unitStart_leaves o u hr).answer hs
    obtain ⟨i, hunit, -⟩ := id hb
    obtain ⟨count, hgot, -⟩ := hunit.starts
    obtain ⟨hcopy, hmx, -, -, hsend⟩ := hunit
    refine ⟨hgot, fun h0 hm => (hcopy h0 hm).covers, fun h0 hm ha => ?_, fun hop => ?_, fun h4 => ?_⟩
    · obtain ⟨hst, hplaces⟩ := hmx h0 hm
      obtain ⟨h1, h2, h3⟩ := Cmd.part_aligned h0 hm ha u
      exact ⟨hst.2.1, hplaces h1 h2 h3⟩
    · obtain ⟨ls, hcov, -, -, hgather, hscatter, -⟩ := hb.element hc hop
      refine ⟨ls, hcov, ?_, fun h1 => (hgather h1).2,
        fun h2 => (hscatter h2).imp (fun h => h.2) fun ⟨_, h1, h2, h3⟩ => ⟨congrArg List.flatten h1, congrArg List.flatten h2, h3⟩⟩
      rcases hop with h1 | h2
      · exact (hgather h1).1.2.1
      · exact (hscatter h2).elim (fun h => h.1.2.1) fun h => h.1.2.1
    · obtain ⟨hst, hcov, hw⟩ := hsend (by rw [show o.cmd.op = 4 from h4]; decide)
      exact ⟨hst.2.1, hcov, congrArg List.flatten hw⟩
  · refine ⟨fun ls rest hr => State.xferUnit_reads hx hr hc, fun l rest hr hw hlen => ?_⟩
    obtain ⟨hx1, rfl⟩ := State.xferUnit_writes hx hr hw
    exact ⟨hx1, fun h0 hd hfit => State.readB_engWrite h0 hd hlen hfit, fun h1 => State.scratch_engWrite h1 hc hlen⟩
  · refine ⟨exec_sendArrival hm hring, fun r s1 hn hrd => exec_sendArrival_arrives hm hring hn hrd, fun cause va hn hrd h0 hpost => ?_⟩
    obtain ⟨silence, hh, -⟩ := s.hears_leaves m
    refine ⟨_, exec_sendArrival_failed hm hring hn hrd, ?_⟩
    rw [hh, State.readerFails_posted (s := { s with silence := silence }) h0 hpost]
    exact ⟨rfl, rfl⟩
  · refine ⟨fun r s1 hwr hn hrd hroom => exec_receiveRingDelivery_delivers hw hwr hn hrd hroom, fun r s1 hwr hrd hroom => ?_,
      exec_receiveRingDelivery_reader hw, fun cause va hwr hn hrd h0 hpost => ?_,
      fun hwr hbusy => ⟨_, exec_receiveRingDelivery_written hw hwr hbusy, (State.endDelivery_of_free hbusy).1⟩⟩
    · by_cases hn : 64 + ring ∈ s.readers
      · exact exec_receiveRingDelivery_reader hw hwr hn
      · exact (exec_receiveRingDelivery_read hw hwr hn hrd).trans (if_neg (by simp [hroom]))
    · refine ⟨_, exec_receiveRingDelivery_failed hw hwr hn hrd, ?_⟩
      rw [State.readerFails_posted h0 hpost]
      exact ⟨rfl, rfl, rfl⟩
  · refine ⟨fun hacc hfull => ?_, exec_sendAcknowledge_ends ho hp ha⟩
    subst hacc
    exact exec_sendAcknowledge_waits ho hp ha hfull

end Sys2Proof.Machine
end

section
/-! SUPPORT. A load of one lane (R129, R239, R242), a block with its scale (R99, R101, R244), and how an access is accepted and what a load reads as
it is performed (R113, R118, R130 to R132). -/

namespace Sys2Proof.Machine

variable {m n : MemSys} {s : State} {c : Issuer}

/-! What an accepted piece says of places. -/

theorem MemSys.Used.agrees (h : m.Used n) : m.Agrees n := h.walked.agrees

/-- A place as memory stands once accesses have been translated is that of the memory before. -/
theorem MemSys.Used.place (h : m.Used n) (leaf : Dword) (pa len : Nat) : n.place leaf pa len = ⟨false, leafMsd leaf, m.norm pa, len⟩ := by
  rw [MemSys.place, h.norm]

theorem LaneAccess.imp {q : LaneSeq} {l va len : Nat} {write : Bool} {r : Except LaneFail LaneSeq} {P Q : MemSys → Nat → Dword → Prop}
    (h : LaneAccess c s q l write va len r P) (hPQ : ∀ m pa leaf, q.m.Used m → P m pa leaf → Q m pa leaf) : LaneAccess c s q l write va len r Q := by
  obtain ⟨hlocked, hfree⟩ := h
  refine ⟨hlocked, fun hl => ?_⟩
  obtain ⟨hfail, hworld, hats, hok⟩ := hfree hl
  refine ⟨hfail, hworld, hats, fun pa leaf lvl hx => ?_⟩
  obtain ⟨hheld, hput⟩ := hok pa leaf lvl hx
  refine ⟨hheld, fun hw => ?_⟩
  obtain ⟨m, hm, hP⟩ := hput hw
  exact ⟨m, hm, hPQ m pa leaf hm hP⟩

/-! A load of one lane. -/

section

variable {d a b : Reg} {off : BitVec 16} {len regs : Nat} {acq home : Bool} {q : LaneSeq} {l : Nat}

theorem Issuer.loadLane_misaligned (h : c.team.globalAddr s.rf l a b off % len ≠ 0) :
    c.loadLane s d a b off len regs acq home q l = .error (.trap .misaligned (c.team.globalAddr s.rf l a b off)) :=
  if_pos h

theorem Issuer.loadLane_access (h : c.team.globalAddr s.rf l a b off % len = 0) :
    LaneAccess c s q l false (c.team.globalAddr s.rf l a b off) len (c.loadLane s d a b off len regs acq home q l) fun m pa leaf =>
      c.loadLane s d a b off len regs acq home q l = .ok (c.loadParts s l d.toNat len regs pa leaf acq home { q with m := m }) := by
  refine LaneAccess.of_piece (fun e he => ?_) fun m pa leaf he => ?_
  · simp only [Issuer.loadLane, h, he, ne_eq, not_true, if_false]
  · simp only [Issuer.loadLane, h, he, ne_eq, not_true, if_false]

/-- A load of any length but 16 bytes is one access. -/
theorem Issuer.loadParts_one {d pa : Nat} {leaf : Dword} (hm : q.m.Used m) (hlen : len ≠ 16) :
    c.loadParts s l d len regs pa leaf acq home { q with m := m } = c.put s l acq [⟨false, leafMsd leaf, q.m.norm pa, len⟩] false
      (.load (laneKeys l d regs) (c.team.narrow len) home) { q with m := m } := by
  rw [Issuer.loadParts, if_neg hlen]
  simp only [hm.place]

/-- A load of 16 bytes is one access to each half, the low one first (R129). -/
theorem Issuer.loadParts_halves {d pa : Nat} {leaf : Dword} (hm : q.m.Used m) :
    c.loadParts s l d 16 regs pa leaf acq home { q with m := m } =
      c.put s l acq [⟨false, leafMsd leaf, q.m.norm (pa + 8), 8⟩] false (.load (laneKeys l (d + 2) 2) none home)
        (c.put s l acq [⟨false, leafMsd leaf, q.m.norm pa, 8⟩] false (.load (laneKeys l d 2) none home) { q with m := m }) := by
  rw [Issuer.loadParts, if_pos rfl]
  simp only [hm.place]

end

/-! The translation of a piece, by its outcome (R325). -/

section

variable {free va : Nat} {write needMsd : Bool}

theorem Issuer.xlatePiece_fail {cause : Nat} (h : m.translate free (c.access write needMsd) va = .fail cause) :
    c.xlatePiece m free write needMsd va = .error (.xlate cause va) := by
  rw [Issuer.xlatePiece, h]

theorem Issuer.xlatePiece_world (h : m.translate free (c.access write needMsd) va = .world) :
    c.xlatePiece m free write needMsd va = .error (.trap .worldViolation va) := by
  rw [Issuer.xlatePiece, h]

theorem Issuer.xlatePiece_ats (h : m.translate free (c.access write needMsd) va = .ats) :
    c.xlatePiece m free write needMsd va = .error (.ats va) := by
  rw [Issuer.xlatePiece, h]

theorem Issuer.xlatePiece_ok {pa lvl : Nat} {leaf : Dword} (h : m.translate free (c.access write needMsd) va = .ok pa leaf lvl) :
    c.xlatePiece m free write needMsd va = .ok (pa, leaf, lvl) := by
  rw [Issuer.xlatePiece, h]

end

/-! A block and its scale, check by check (R99, R239, R244). -/

section

variable {free base sc len pa lvl : Nat} {leaf : Dword} {write : Bool}

theorem Issuer.mxPieces_misaligned (h : base % len ≠ 0 ∨ (base ≤ sc ∧ sc < base + len)) :
    c.mxPieces m free write base sc len = .error (.trap .misaligned base) :=
  if_pos h

variable (hal : base % len = 0) (hapart : ¬ (base ≤ sc ∧ sc < base + len))

include hal hapart

theorem Issuer.mxPieces_block_locked (h : m.conflict c.ref.die c.ref.core [] false write base len = true) :
    c.mxPieces m free write base sc len = .error (.trap .rangeConflict base) := by
  simp only [Issuer.mxPieces, hal, hapart, h, ne_eq, not_true, or_self, if_false, if_true]

variable (hblock : m.conflict c.ref.die c.ref.core [] false write base len = false)

include hblock

theorem Issuer.mxPieces_scale_locked (h : m.conflict c.ref.die c.ref.core [] false write sc 1 = true) :
    c.mxPieces m free write base sc len = .error (.trap .rangeConflict sc) := by
  simp only [Issuer.mxPieces, hal, hapart, hblock, h, ne_eq, not_true, or_self, Bool.false_eq_true, if_false, if_true]

variable (hscale : m.conflict c.ref.die c.ref.core [] false write sc 1 = false)

include hscale

theorem Issuer.mxPieces_block_fails {e : LaneFail} (h : c.xlatePiece m free write false base = .error e) :
    c.mxPieces m free write base sc len = .error e := by
  simp only [Issuer.mxPieces, hal, hapart, hblock, hscale, h, ne_eq, not_true, or_self, Bool.false_eq_true, if_false]

variable (hx : c.xlatePiece m free write false base = .ok (pa, leaf, lvl))

include hx

theorem Issuer.mxPieces_scale_fails {e : LaneFail} (h : c.xlatePiece (c.usePiece m write false base leaf lvl) (free + 1) write false sc = .error e) :
    c.mxPieces m free write base sc len = .error e := by
  simp only [Issuer.mxPieces, hal, hapart, hblock, hscale, hx, h, ne_eq, not_true, or_self, Bool.false_eq_true, if_false]

/-- Both translated, only the held lines can keep a write from being accepted (R51). -/
theorem Issuer.mxPieces_translated {pa' lvl' : Nat} {leaf' : Dword}
    (h : c.xlatePiece (c.usePiece m write false base leaf lvl) (free + 1) write false sc = .ok (pa', leaf', lvl')) :
    c.mxPieces m free write base sc len =
      if write && m.isHeld pa then .error (.trap .worldViolation base)
      else if write && m.isHeld pa' then .error (.trap .worldViolation sc)
      else .ok (c.usePiece (c.usePiece m write false base leaf lvl) write false sc leaf' lvl', (pa, leaf), (pa', leaf')) := by
  simp only [Issuer.mxPieces, hal, hapart, hblock, hscale, hx, h, ne_eq, not_true, or_self, Bool.false_eq_true, if_false]

end

/-! `ldmx` and `stmx` of one lane. -/

/-- The access of one lane to a block and its scale: `stmx` or `ldmx`. -/
def Issuer.mxLane (c : Issuer) (s : State) (d a b : Reg) (off : BitVec 16) (write : Bool) (q : LaneSeq) (l : Nat) : Except LaneFail LaneSeq :=
  if write then c.stmxLane s d a b off q l else c.ldmxLane s d a b off q l

/-- A lane's block and scale, accepted at the places `ps`: `stmx` puts the low bytes of its registers, and rings where one of the places is a
doorbell; `ldmx` loads both at once, at home where they lie in two lines. -/
def Issuer.mxPut (c : Issuer) (s : State) (d : Reg) (off : BitVec 16) (write : Bool) (l : Nat) (leaf leaf' : Dword) (pa pa' : Nat) (q : LaneSeq) : LaneSeq :=
  let len := mxLen off
  let ps : List Target := [⟨false, leafMsd leaf, pa, len⟩, ⟨false, leafMsd leaf', pa', 1⟩]
  if write then c.put s l (q.m.isBell pa || q.m.isBell pa') ps (q.m.isReply pa || q.m.isReply pa')
    (.store ((c.team.regBytes s.rf l d.toNat (len / 4 + 1)).take (len + 1))) q
  else c.put s l false ps false (.load (laneKeys l d.toNat (len / 4 + 1)) none (decide (pa / 128 ≠ pa' / 128))) q

section

variable {d a b : Reg} {off : BitVec 16} {write : Bool} {q : LaneSeq} {l base sc pa pa' lvl lvl' : Nat} {leaf leaf' : Dword}
  (haddr : c.team.mxAddrs s.rf l a b off = (base, sc))

include haddr

theorem Issuer.mxLane_error {e : LaneFail} (h : c.mxPieces q.m (laneFree s l 0) write base sc (mxLen off) = .error e) :
    c.mxLane s d a b off write q l = .error e := by
  cases write <;> simp only [Issuer.mxLane, Issuer.ldmxLane, Issuer.stmxLane, haddr, h, Bool.false_eq_true, if_false, if_true]

theorem Issuer.mxLane_ok (hm : q.m.Used m)
    (h : c.mxPieces q.m (laneFree s l 0) write base sc (mxLen off) = .ok (m, (pa, leaf), (pa', leaf'))) :
    c.mxLane s d a b off write q l = .ok (c.mxPut s d off write l leaf leaf' (q.m.norm pa) (q.m.norm pa') { q with m := m }) := by
  cases write with
  | false =>
    have hapart : (lineOf (q.m.norm pa) != lineOf (q.m.norm pa')) = decide (q.m.norm pa / 128 ≠ q.m.norm pa' / 128) := by
      rw [Bool.eq_iff_iff, bne_iff_ne, decide_eq_true_iff, lineOf, lineOf]
    simp only [Issuer.mxLane, Issuer.ldmxLane, haddr, h, Issuer.mxPut, hm.place, hm.norm, hapart, Bool.false_eq_true, if_false]
  | true =>
    simp [Issuer.mxLane, Issuer.stmxLane, haddr, h, Issuer.mxPut, Issuer.putStore, hm.place]

/-- Both translated, the lane is accepted but for the held lines, which stop a write only (R51). -/
theorem Issuer.mxLane_translated (hal : base % mxLen off = 0) (hapart : ¬ (base ≤ sc ∧ sc < base + mxLen off))
    (hblock : q.m.conflict c.ref.die c.ref.core [] false write base (mxLen off) = false)
    (hscale : q.m.conflict c.ref.die c.ref.core [] false write sc 1 = false)
    (hx : c.xlatePiece q.m (laneFree s l 0) write false base = .ok (pa, leaf, lvl))
    (hx' : c.xlatePiece (c.usePiece q.m write false base leaf lvl) (laneFree s l 0 + 1) write false sc = .ok (pa', leaf', lvl')) :
    (write = true → q.m.isHeld pa = true → c.mxLane s d a b off write q l = .error (.trap .worldViolation base)) ∧
    (write = true → q.m.isHeld pa = false → q.m.isHeld pa' = true → c.mxLane s d a b off write q l = .error (.trap .worldViolation sc)) ∧
    (write = false ∨ (q.m.isHeld pa = false ∧ q.m.isHeld pa' = false) → ∃ m, q.m.Used m ∧
      c.mxLane s d a b off write q l = .ok (c.mxPut s d off write l leaf leaf' (q.m.norm pa) (q.m.norm pa') { q with m := m })) := by
  have h := Issuer.mxPieces_translated hal hapart hblock hscale hx hx'
  refine ⟨fun hw hh => Issuer.mxLane_error haddr (h.trans ?_), fun hw hh hh' => Issuer.mxLane_error haddr (h.trans ?_), fun hfree => ?_⟩
  · simp only [hw, hh, Bool.and_self, if_true]
  · simp only [hw, hh, hh', Bool.and_self, Bool.and_false, Bool.false_eq_true, if_false, if_true]
  · have hm := (c.used_usePiece q.m write false base leaf lvl).trans (c.used_usePiece _ write false sc leaf' lvl')
    refine ⟨_, hm, Issuer.mxLane_ok haddr hm (h.trans ?_)⟩
    rcases hfree with hw | ⟨hh, hh'⟩
    · simp only [hw, Bool.false_and, Bool.false_eq_true, if_false]
    · simp only [hh, hh', Bool.and_false, Bool.false_eq_true, if_false]

end

/-! How an access is accepted (R130, R132, log 4). -/

/-- The access may not be performed yet: behind one of the team's, or at a unit that serves another team first. -/
def LaneSeq.HoldsBack (q : LaneSeq) (a : LateAcc) : Prop := (∃ b ∈ q.late, a.behind b = true) ∨ ∃ u ∈ q.busy, a.unit = some u

theorem LaneSeq.holdsBack_iff (q : LaneSeq) (a : LateAcc) : (q.late.any a.behind || a.unit.any q.busy.contains) = true ↔ q.HoldsBack a := by
  cases h : a.unit <;> simp [LaneSeq.HoldsBack, h]

section

variable {q : LaneSeq} {free world : Nat} {r : TeamRef} {a : LateAcc}

theorem LaneSeq.put_now_blocked (h : q.HoldsBack a) : q.put free r world true a = { q with blocked := some a.waitFor } := by
  simp only [LaneSeq.put, (q.holdsBack_iff a).2 h, Bool.and_self, if_true]

theorem LaneSeq.put_stands_late (h : q.HoldsBack a ∨ q.choices.head? = some true) : q.put free r world false a =
    { q with late := q.late ++ [a], choices := q.choices.drop 1, writes := q.writes ++ a.keys.map fun k => (k, 0) } := by
  have hlate : ((q.late.any a.behind || a.unit.any q.busy.contains) || q.choices.headD false) = true := by
    rw [Bool.or_eq_true, q.holdsBack_iff, List.headD_eq_head?_getD]
    exact h.imp_right fun h => by rw [h]; rfl
  simp only [LaneSeq.put, hlate, Bool.false_and, Bool.not_false, Bool.true_and, Bool.false_eq_true, if_false, if_true]

theorem LaneSeq.put_performed {now : Bool} (h : ¬ q.HoldsBack a) (hnow : now = true ∨ q.choices.head? ≠ some true) :
    let p := a.kind.perform free r world a.places a.kind.bytes q.m q.crew
    q.put free r world now a = { q with m := p.2.1, crew := p.2.2, got := a.kind.gives p.1 q.got
                                        choices := if now then q.choices else q.choices.drop 1, writes := q.writes ++ a.results p.1 } := by
  have hfree : (q.late.any a.behind || a.unit.any q.busy.contains) = false := by
    rw [← Bool.not_eq_true, q.holdsBack_iff]
    exact h
  have hhead : (!now && q.choices.headD false) = false := by
    rcases hnow with rfl | hc
    · rfl
    · rw [List.headD_eq_head?_getD]
      cases hh : q.choices.head? with
      | none => exact Bool.and_false _
      | some x => cases x <;> simp_all
  simp only [LaneSeq.put, hfree, hhead, Bool.and_false, Bool.false_or, Bool.false_eq_true, if_false]

end

theorem LateAcc.behind_of_release {a b : LateAcc} (hr : a.rel = true) (hid : a.id ≠ b.id) (hp : b.places ≠ []) : a.behind b = true := by
  simp [LateAcc.behind, hr, hid, hp]

theorem LateAcc.behind_of_shared {a b : LateAcc} {x y : Target} (hx : x ∈ a.places) (hy : y ∈ b.places) (h : x.overlaps y = true) :
    a.behind b = true := by
  have ht : b.touches a.places = true := List.any_eq_true.2 ⟨x, hx, List.any_eq_true.2 ⟨y, hy, h⟩⟩
  simp [LateAcc.behind, ht]

/-! What a load reads (R113, R118, R130, R131, R242). -/

/-- A load at the home slice delivers the bytes there. -/
theorem MemSys.loadHome_bytes (m : MemSys) (die core world : Nat) (msd : Bool) (pa k : Nat) :
    (m.loadHome die core world msd pa k).1 = m.readN (m.norm pa) k :=
  (m.agrees_number msd (m.norm pa)).readN _ _

/-- A load at the home slice takes a number and may bring the L1's copy up to date. -/
theorem MemSys.loadHome_frame (m : MemSys) (die core world : Nat) (msd : Bool) (pa k : Nat) :
    (m.loadHome die core world msd pa k).2 =
      { m with l1 := (m.loadHome die core world msd pa k).2.l1, seq := (m.loadHome die core world msd pa k).2.seq } := by
  cases msd <;> (unfold MemSys.loadHome; dsimp only; split <;> rfl)

/-- A relaxed load of a memory-side line is one at home (R118). -/
theorem MemSys.loadRelaxed_msd (m : MemSys) (free die core world pa k : Nat) : (m.loadRelaxed free die core world true pa k).1 = m.readN (m.norm pa) k := rfl

/-- A relaxed load takes a number or fills a line of the L1. -/
theorem MemSys.loadRelaxed_frame (m : MemSys) (free die core world : Nat) (msd : Bool) (pa k : Nat) :
    (m.loadRelaxed free die core world msd pa k).2 =
      { m with l1 := (m.loadRelaxed free die core world msd pa k).2.l1, seq := (m.loadRelaxed free die core world msd pa k).2.seq } := by
  unfold MemSys.loadRelaxed
  dsimp only
  repeat' split
  all_goals rfl

/-- A relaxed load delivers the bytes at home, or those of a copy that the L1 holds (R113, R131). -/
theorem MemSys.loadRelaxed_bytes (m : MemSys) (free die core world : Nat) (msd : Bool) (pa k : Nat) :
    (m.loadRelaxed free die core world msd pa k).1 = m.readN (m.norm pa) k ∨
      ∃ y, m.l1Find (m.l1Of die core (m.norm pa)) (lineOf (m.norm pa)) world = some y ∧
        (m.loadRelaxed free die core world msd pa k).1 = (y.data.drop (m.norm pa % 128)).take k := by
  unfold MemSys.loadRelaxed
  dsimp only
  split
  · exact .inl rfl
  · split
    · next y hy =>
      split
      · exact .inr ⟨y, hy, rfl⟩
      · exact .inl rfl
    · exact .inl rfl

section

variable {keys : List Nat} {ext : Option Bool} {home : Bool} {free world : Nat} {r : TeamRef} {p : Target} {bs : List Byte} {crew : Crew}

theorem LateKind.act_load_scratch (hp : p.scratch = true) : (LateKind.load keys ext home).act free r world p bs m crew =
    (Sparse.run 0 crew.scratch p.addr p.len, m, crew) := by
  simp only [LateKind.act, Target.read, hp, if_true]

theorem LateKind.act_load_home (hp : p.scratch = false) : (LateKind.load keys ext true).act free r world p bs m crew =
    ((m.loadHome r.die r.core world p.msd p.addr p.len).1, (m.loadHome r.die r.core world p.msd p.addr p.len).2, crew) := by
  simp only [LateKind.act, Target.read, hp, Bool.false_eq_true, if_false, if_true]

theorem LateKind.act_load_relaxed (hp : p.scratch = false) : (LateKind.load keys ext false).act free r world p bs m crew =
    ((m.loadRelaxed free r.die r.core world p.msd p.addr p.len).1, (m.loadRelaxed free r.die r.core world p.msd p.addr p.len).2, crew) := by
  simp only [LateKind.act, Target.read, hp, Bool.false_eq_true, if_false]

/-- A load leaves the crew as it is, wherever its place lies. -/
theorem LateKind.act_load_crew : ((LateKind.load keys ext home).act free r world p bs m crew).2.2 = crew := rfl

end

end Sys2Proof.Machine
end

section
/-! PROOF. O20: what a load of one lane delivers, and that memory does not change (R99, R101, R128 to R132, R239, R242, R244, R325). -/

namespace Sys2Proof.Machine

/-- Settles O20: a load and a block go no further where their pieces do not; an accepted access is one of the three cases of `put`, and what a load
reads is what its place gives it. -/
theorem loadLane : Obligations.LoadLane := by
  refine ⟨fun s c d a b off len regs acq home q l => ⟨Issuer.loadLane_misaligned, fun h => ?_⟩, fun s c d a b off q l => ?_,
    fun s c l now rel ps k q => ⟨fun hw hn => ?_, fun hl hn => ?_, fun hw hn => LaneSeq.put_performed hw hn⟩,
    fun a b => ⟨LateAcc.behind_of_release, fun x hx y hy h1 h2 h3 => LateAcc.behind_of_shared hx hy ?_⟩,
    fun k free world r ps p bs m crew => ⟨rfl, rfl⟩, fun keys ext home free world r p m crew => ?_⟩
  · refine (Issuer.loadLane_access h).imp fun m pa leaf hm hr => ⟨fun hlen => ?_, fun hlen => ?_⟩
    · rw [hr, Issuer.loadParts_one hm hlen]
      rfl
    · subst hlen
      rw [hr, Issuer.loadParts_halves hm]
      rfl
  · intro len base sc bs write r locked x
    refine ⟨fun h => Issuer.mxLane_error rfl (Issuer.mxPieces_misaligned h), fun hal hapart => ⟨fun hl => ?_, fun hb hl => ?_, fun hb hs => ?_⟩⟩
    · exact Issuer.mxLane_error rfl (Issuer.mxPieces_block_locked hal hapart hl)
    · exact Issuer.mxLane_error rfl (Issuer.mxPieces_scale_locked hal hapart hb hl)
    · have hfails : ∀ {e}, c.xlatePiece q.m (laneFree s l 0) write false base = .error e → r = .error e :=
        fun he => Issuer.mxLane_error rfl (Issuer.mxPieces_block_fails hal hapart hb hs he)
      refine ⟨fun cause hx => hfails (Issuer.xlatePiece_fail hx), fun hx => hfails (Issuer.xlatePiece_world hx),
        fun hx => hfails (Issuer.xlatePiece_ats hx), fun pa leaf lvl hx => ?_⟩
      have hx := Issuer.xlatePiece_ok hx
      have hfails' : ∀ {e}, c.xlatePiece (c.usePiece q.m write false base leaf lvl) (laneFree s l 0 + 1) write false sc = .error e → r = .error e :=
        fun he => Issuer.mxLane_error rfl (Issuer.mxPieces_scale_fails hal hapart hb hs hx he)
      exact ⟨fun cause hx' => hfails' (Issuer.xlatePiece_fail hx'), fun hx' => hfails' (Issuer.xlatePiece_world hx'),
        fun hx' => hfails' (Issuer.xlatePiece_ats hx'),
        fun pa' leaf' lvl' hx' => Issuer.mxLane_translated rfl hal hapart hb hs hx (Issuer.xlatePiece_ok hx')⟩
  · subst hn
    exact LaneSeq.put_now_blocked hw
  · subst hn
    exact LaneSeq.put_stands_late hl
  · simp [Target.overlaps, h1, h2, h3]
  · refine ⟨LateKind.act_load_crew, rfl, fun hp => ?_, fun hp => ?_⟩
    · rw [LateKind.act_load_scratch hp]
      exact ⟨rfl, rfl⟩
    · cases home with
      | true =>
        rw [LateKind.act_load_home hp]
        have hread := m.loadHome_bytes r.die r.core world p.msd p.addr p.len
        exact ⟨m.loadHome_frame r.die r.core world p.msd p.addr p.len, fun _ => hread, .inl hread⟩
      | false =>
        rw [LateKind.act_load_relaxed hp]
        refine ⟨m.loadRelaxed_frame free r.die r.core world p.msd p.addr p.len, fun hmsd => ?_,
          m.loadRelaxed_bytes free r.die r.core world p.msd p.addr p.len⟩
        rw [hmsd.resolve_left Bool.false_ne_true]
        exact m.loadRelaxed_msd free r.die r.core world p.addr p.len

end Sys2Proof.Machine
end

section
/-! SUPPORT. Fences (R132, R133, R135, R250), what an acquire discards of the L1 (R133), and the lines that `pref` fills (R113, R245). -/

namespace Sys2Proof.Machine

variable {m n k : MemSys} {s : State} {c : Issuer}

/-! A fence waits or goes on. -/

theorem LateAcc.reads_iff (a : LateAcc) : a.reads = true ↔ (∀ bs, a.kind ≠ .store bs) ∧ ∀ l data x, a.kind ≠ .take l data x := by
  unfold LateAcc.reads
  cases a.kind <;> simp

section

variable {i : Instr} {w : Wait} {waits : LateAcc → Bool} {f : Issuer → MemSys → MemSys}

theorem Waits.of_fence (h : s.issuer = some c) (he : exec i s = fenceOp w waits f s) (hw : c.team.late.any waits = true) : Waits i s c w :=
  he.trans ((State.issue_of_issuer h _).trans (congrArg Host.Outcome.next (if_pos hw)))

/-- A fence that nothing holds back does what it does to the memory system, and its team goes on. -/
theorem exec_fence (h : s.issuer = some c) (he : exec i s = fenceOp w waits f s) (hw : c.team.late.any waits = false) :
    exec i s = .next ((s.setMsys (f c s.msys)).setTeam c.ref (c.team.advance 1 none)) :=
  he.trans ((State.issue_of_issuer h _).trans (congrArg Host.Outcome.next (if_neg (by simp [hw]))))

end

/-- The line is of the core's own L1, or of its fused quad (R117, R133). -/
def MemSys.OwnLine (m : MemSys) (die core : Nat) (l : L1Line) : Prop :=
  if m.quadFused die core then l.cache / 4 = (die * 64 + core) / 4 else l.cache = die * 64 + core

theorem MemSys.mem_l1Discard (m : MemSys) (die core : Nat) (l : L1Line) : l ∈ (m.l1Discard die core).l1 ↔ l ∈ m.l1 ∧ ¬ m.OwnLine die core l := by
  unfold MemSys.l1Discard MemSys.OwnLine
  rw [List.mem_filter]
  split <;> simp

/-- An acquire discards lines of the L1 and changes nothing else. -/
theorem MemSys.acquire_frame (m : MemSys) (die core : Nat) (sc : Scope) : m.acquire die core sc = { m with l1 := (m.acquire die core sc).l1 } := by
  cases sc with
  | core => rfl
  | quad =>
    simp only [MemSys.acquire]
    split <;> rfl
  | die | pkg | pod | sys => rfl

/-- At a scope within the L1 itself an acquire discards nothing, and at a wider one the L1's own lines (R133). -/
theorem MemSys.mem_acquire (m : MemSys) (die core : Nat) (sc : Scope) (l : L1Line) : l ∈ (m.acquire die core sc).l1 ↔
    l ∈ m.l1 ∧ (sc = .core ∨ (sc = .quad ∧ m.quadFused die core = true) ∨ ¬ m.OwnLine die core l) := by
  cases sc with
  | core => simp [MemSys.acquire]
  | quad =>
    by_cases hf : m.quadFused die core = true
    · simp [MemSys.acquire, hf]
    · simp [MemSys.acquire, hf, m.mem_l1Discard]
  | die | pkg | pod | sys => simp [MemSys.acquire, m.mem_l1Discard]

/-! The lines that an L1 keeps and fills. -/

theorem mem_of_mem_keepLines {cache : Nat} {x : L1Line} : ∀ {n : Nat} {ls : List L1Line}, x ∈ keepLines cache n ls → x ∈ ls := by
  intro n ls
  induction ls generalizing n with
  | nil => exact id
  | cons l ls ih =>
    intro h
    simp only [keepLines] at h
    split at h
    · cases n with
      | zero => exact List.mem_cons_of_mem _ (ih h)
      | succ n => exact List.mem_cons.2 ((List.mem_cons.1 h).imp_right ih)
    · exact List.mem_cons.2 ((List.mem_cons.1 h).imp_right ih)

theorem MemSys.mem_l1Fill {cache line world : Nat} {x : L1Line} (h : x ∈ (m.l1Fill cache line world).l1) :
    x = ⟨cache, line, world, m.readN (line * 128) 128⟩ ∨ x ∈ m.l1 :=
  (List.mem_cons.1 h).imp_right fun h => (List.mem_filter.1 (mem_of_mem_keepLines h)).1

/-- A line just filled is found with the bytes at home. -/
theorem MemSys.l1Find_l1Fill (m : MemSys) (cache line world : Nat) :
    (m.l1Fill cache line world).l1Find cache line world = some ⟨cache, line, world, m.readN (line * 128) 128⟩ := by
  simp [MemSys.l1Find, MemSys.l1Fill]

/-! `pref` (R245). -/

/-- Between the two, accesses have been translated and counted, and lines of the L1 filled from home or gone. -/
structure MemSys.Fetched (m n : MemSys) : Prop where
  used : ({ m with l1 := n.l1 } : MemSys).Used n
  lines : ∀ x ∈ n.l1, x ∈ m.l1 ∨ x.data = m.readN (x.line * 128) 128

theorem MemSys.Fetched.agrees (h : m.Fetched n) : m.Agrees n :=
  MemSys.Agrees.trans (n := { m with l1 := n.l1 }) ⟨rfl, rfl, rfl, rfl, rfl, rfl, rfl⟩ h.used.agrees

theorem MemSys.Used.fetched (h : m.Used n) : m.Fetched n := by
  have hl1 : n.l1 = m.l1 := by rw [h]
  refine ⟨?_, fun x hx => .inl (hl1 ▸ hx)⟩
  rw [hl1]
  exact h

theorem MemSys.Fetched.refl (m : MemSys) : m.Fetched m := MemSys.Used.fetched (m := m) rfl

theorem MemSys.Fetched.trans (h : m.Fetched n) (h' : n.Fetched k) : m.Fetched k := by
  refine ⟨?_, fun x hx => ?_⟩
  · have hn := h.used
    have hk := h'.used
    unfold MemSys.Used at *
    rw [hk, hn]
  · rcases h'.lines x hx with hx | hx
    · exact h.lines x hx
    · exact .inr (hx.trans (h.agrees.readN _ _))

theorem MemSys.fetched_l1Fill (m : MemSys) (cache line world : Nat) : m.Fetched (m.l1Fill cache line world) := by
  refine ⟨rfl, fun x hx => ?_⟩
  rcases MemSys.mem_l1Fill hx with rfl | hx
  · exact .inr rfl
  · exact .inl hx

section

variable {a b : Reg} {off : BitVec 16} {l : Nat}

theorem Issuer.prefLane_unaligned (h : c.team.globalAddr s.rf l a b off % 128 ≠ 0) : c.prefLane s a b off m l = m :=
  if_pos h

/-- A lane of `pref` fills at most one line, with the bytes at home. -/
theorem Issuer.fetched_prefLane (c : Issuer) (s : State) (a b : Reg) (off : BitVec 16) (m : MemSys) (l : Nat) : m.Fetched (c.prefLane s a b off m l) := by
  unfold Issuer.prefLane
  dsimp only
  split
  · exact .refl m
  · split
    · next hp =>
      have hm := (Issuer.used_piece hp).fetched
      split
      · exact hm
      · exact hm.trans (MemSys.fetched_l1Fill _ _ _ _)
    · exact .refl m

/-- The lane's line, where its access would be accepted and is none to a memory-side line. -/
theorem Issuer.prefLane_fills {pa lvl : Nat} {leaf : Dword} (hal : c.team.globalAddr s.rf l a b off % 128 = 0)
    (hfree : m.conflict c.ref.die c.ref.core [] false false (c.team.globalAddr s.rf l a b off) 128 = false)
    (hx : m.translate (laneFree s l 0) (c.access false false) (c.team.globalAddr s.rf l a b off) = .ok pa leaf lvl) (hmsd : leafMsd leaf = false) :
    ∃ n, m.Used n ∧ c.prefLane s a b off m l = n.l1Fill (n.l1Of c.ref.die c.ref.core (n.norm pa)) (lineOf (n.norm pa)) c.crew.world := by
  have hp := Issuer.piece_of_xlate_ok hfree (Issuer.xlatePiece_ok hx)
  refine ⟨_, c.used_usePiece m false false (c.team.globalAddr s.rf l a b off) leaf lvl, ?_⟩
  simp [Issuer.prefLane, hal, hp, hmsd]

end

/-- `pref` of the lanes `ls`, one after another. -/
def Issuer.prefLanes (c : Issuer) (s : State) (a b : Reg) (off : BitVec 16) (ls : List Nat) : MemSys := ls.foldl (c.prefLane s a b off) s.msys

section

variable {a b : Reg} {off : BitVec 16} {ls : List Nat}

theorem Issuer.fetched_prefLanes (c : Issuer) (s : State) (a b : Reg) (off : BitVec 16) (ls : List Nat) : s.msys.Fetched (c.prefLanes s a b off ls) :=
  List.foldlRecOn (motive := s.msys.Fetched) ls _ (.refl _) fun m hm l _ => hm.trans (c.fetched_prefLane s a b off m l)

/-- Lanes whose addresses are not aligned to a line request nothing (log 29). -/
theorem Issuer.prefLanes_unaligned (h : ∀ l ∈ ls, c.team.globalAddr s.rf l a b off % 128 ≠ 0) : c.prefLanes s a b off ls = s.msys :=
  List.foldlRecOn (motive := (· = s.msys)) ls _ rfl fun m hm l hl => (Issuer.prefLane_unaligned (m := m) (h l hl)).trans hm

/-- The line of a single lane is found in the L1 with the bytes at home. -/
theorem Issuer.l1Find_prefLanes {l pa lvl : Nat} {leaf : Dword} (hal : c.team.globalAddr s.rf l a b off % 128 = 0)
    (hfree : s.msys.conflict c.ref.die c.ref.core [] false false (c.team.globalAddr s.rf l a b off) 128 = false)
    (hx : s.msys.translate (laneFree s l 0) (c.access false false) (c.team.globalAddr s.rf l a b off) = .ok pa leaf lvl) (hmsd : leafMsd leaf = false) :
    let m := c.prefLanes s a b off [l]
    m.l1Find (m.l1Of c.ref.die c.ref.core (m.norm pa)) (lineOf (m.norm pa)) c.crew.world =
      some ⟨m.l1Of c.ref.die c.ref.core (m.norm pa), lineOf (m.norm pa), c.crew.world, s.msys.readN (lineOf (m.norm pa) * 128) 128⟩ := by
  obtain ⟨n, hn, hfill⟩ := Issuer.prefLane_fills hal hfree hx hmsd
  have hm : c.prefLanes s a b off [l] = n.l1Fill (n.l1Of c.ref.die c.ref.core (n.norm pa)) (lineOf (n.norm pa)) c.crew.world := hfill
  dsimp only
  rw [hm, ← hn.agrees.readN]
  exact n.l1Find_l1Fill _ _ _

end

end Sys2Proof.Machine
end

section
/-! PROOF. O25: the fences and `pref` (R75, R132, R133, R135, R245, R250). -/

namespace Sys2Proof.Machine

variable {s : State} {c : Issuer}

/-! The fences. -/

/-- A fence that nothing holds back goes on, and has discarded what its acquire names. -/
theorem exec_fence_acquires {i : Instr} {w : Wait} {waits : LateAcc → Bool} {sc : Scope} (h : s.issuer = some c)
    (he : exec i s = fenceOp w waits (fun c => c.acquire sc) s) (hw : c.team.late.any waits = false) :
    ∃ m u, exec i s = .next ((s.setMsys m).setTeam c.ref u) ∧ c.team.FrameP u ∧ u.pc = c.team.nextPc 1 ∧ m = { s.msys with l1 := m.l1 } ∧
      ∀ l, l ∈ m.l1 ↔ l ∈ s.msys.l1 ∧ (sc = .core ∨ (sc = .quad ∧ s.msys.quadFused c.ref.die c.ref.core = true) ∨ ¬ s.msys.OwnLine c.ref.die c.ref.core l) :=
  ⟨_, _, exec_fence h he hw, Team.advance_frame _ _ _, Team.advance_pc _ _ _, s.msys.acquire_frame _ _ _, s.msys.mem_acquire _ _ _⟩

theorem exec_fenceRel (sc : Scope) (s : State) : exec (.fenceRel sc) s = fenceOp .accesses (fun _ => true) (fun _ m => m) s := rfl

theorem exec_fenceRel_goesOn {sc : Scope} (h : s.issuer = some c) (hl : c.team.late.any (fun _ => true) = false) :
    GoesOn (.fenceRel sc) s c 1 c.team :=
  ⟨_, exec_fence h (exec_fenceRel sc s) hl, Team.advance_frame _ _ _, Team.advance_pc _ _ _⟩

/-! `pref`. -/

section

variable {a b : Reg} {off : BitVec 16}

theorem exec_pref_illegal (h : s.issuer = some c) (hi : evenReg a = false ∨ c.vOk false b = false) : RaisesIllegal (.pref a b off) s c := by
  refine (State.issue_of_issuer h _).trans (congrArg Host.Outcome.next (if_pos ?_))
  rcases hi with hi | hi <;> simp [hi]

theorem exec_pref (h : s.issuer = some c) (ha : evenReg a = true) (hb : c.vOk false b = true) :
    exec (.pref a b off) s = .next ((s.setMsys (c.prefLanes s a b off (c.team.active s.rf))).setTeam c.ref (c.team.advance 2 none)) :=
  (State.issue_of_issuer h _).trans (congrArg Host.Outcome.next (if_neg (by simp [ha, hb])))

end

/-- Settles O25: a fence waits for the late accesses that it names, and `pref` is its lanes one after another. -/
theorem fencesAndPrefetch : Obligations.FencesAndPrefetch := by
  intro s c h t fused own acquires reads
  have hreads : t.late.any LateAcc.reads = true ↔ reads := by
    simp only [List.any_eq_true, LateAcc.reads_iff, reads]
  have hall : t.late.any (fun _ => true) = true ↔ t.late ≠ [] := by
    cases t.late <;> simp
  have hnone : t.late = [] → t.late.any (fun _ => true) = false := fun hl => by rw [hl, List.any_nil]
  refine ⟨fun sc => ⟨fun hr => Waits.of_fence h rfl (hreads.2 hr), fun hr => exec_fence_acquires h rfl ?_⟩,
    fun sc => ⟨fun hl => Waits.of_fence h rfl (hall.2 hl), fun hl => exec_fence_acquires h rfl (hnone hl)⟩,
    fun sc => ⟨fun hl => Waits.of_fence h (exec_fenceRel sc s) (hall.2 hl), fun hl => exec_fenceRel_goesOn h (hnone hl)⟩,
    fun a b off => exec_pref_illegal h, fun a b off ha hb => ?_⟩
  · rwa [← Bool.not_eq_true, hreads]
  · have hf := c.fetched_prefLanes s a b off (t.active s.rf)
    refine ⟨_, _, exec_pref h ha hb, Team.advance_frame _ _ _, Team.advance_pc _ _ _, hf.used, hf.lines, Issuer.prefLanes_unaligned, ?_⟩
    intro l pa leaf lvl hact va hal hfree hx hmsd
    rw [hact]
    exact Issuer.l1Find_prefLanes hal hfree hx hmsd

end Sys2Proof.Machine
end

section
/-! SUPPORT. Integer instructions: which shared operation each row of R179 to R186 runs, and a uniform result or `ILLEGAL_OP`. -/

namespace Sys2Proof.Machine

variable {s : State} {c : Issuer}

/-! The rows of vector instructions (R179 to R183). -/

theorem exec_intV3 : ∀ p ∈ intV3Rows, ∀ d a b s, exec (p.1 d a b) s = intV3 p.2 1 d (.v a) (.v b) s := by
  intro p hp d a b s
  fin_cases hp <;> rfl

theorem exec_intV2 : ∀ p ∈ intV2Rows, ∀ d a s, exec (p.1 d a) s = intV2 p.2 1 d (.v a) s := by
  intro p hp d a s
  fin_cases hp <;> rfl

theorem exec_intV4 : ∀ p ∈ intV4Rows, ∀ d a b e ub uc s, exec (p.1 d a b e ub uc) s = intV4 p.2 d a (srcOf ub b) (srcOf uc e) s := by
  intro p hp d a b e ub uc s
  fin_cases hp <;> rfl

theorem exec_intImm : ∀ p ∈ intImmRows, ∀ d x s, exec (p.1 d x) s = intImm p.2 d x.toNat s := by
  intro p hp d x s
  fin_cases hp <;> rfl

theorem exec_intShift : ∀ p ∈ intShiftRows, ∀ d x s, exec (p.1 d x) s = intImm p.2 d x.toNat s := by
  intro p hp d x s
  fin_cases hp <;> rfl

/-! Their uniform forms (R186). -/

theorem exec_uniV3 : ∀ p ∈ uniV3Rows, ∀ d a b s, exec (p.1 d a b) s = uniV3 p.2 d a b s := by
  intro p hp d a b s
  fin_cases hp <;> rfl

theorem exec_uniV2 : ∀ p ∈ uniV2Rows, ∀ d a s, exec (p.1 d a) s = uniV2 p.2 d a s := by
  intro p hp d a s
  fin_cases hp <;> rfl

theorem exec_uniV4 : ∀ p ∈ uniV4Rows, ∀ d a b e s, exec (p.1 d a b e) s = uniV4 p.2 d a b e s := by
  intro p hp d a b e s
  fin_cases hp <;> rfl

theorem exec_uniImm : ∀ p ∈ uniImmRows, ∀ d x s, exec (p.1 d x) s = uniImm p.2 d x.toNat s := by
  intro p hp d x s
  fin_cases hp <;> rfl

theorem exec_uniShift : ∀ p ∈ uniShiftRows, ∀ d x s, exec (p.1 d x) s = uniImm p.2 d x.toNat s := by
  intro p hp d x s
  fin_cases hp <;> rfl

/-- An instruction with one result in the uniform file where its operands are legal, and illegal elsewhere. -/
theorem uniformResult_or_illegal {i : Instr} {n : Nat} {src : Option Reg} {f : Issuer → TeamRes} {wide ok : Bool} {d : Reg} {x : Result}
    (h : s.issuer = some c) (he : exec i s = s.teamOp n src f) (hf : f c = if ok = true then .done (c.team.uniformResult wide d x) else .illegal) :
    if ok = true then UniformResult i s c n wide d x else RaisesIllegal i s c := by
  split
  next hok => exact .of_done h he (hf.trans (if_pos hok))
  next hok => exact .of_illegal h he (hf.trans (if_neg hok))

/-- A word result is the plain write of its register. -/
theorem Team.uniformResult_toNat (t : Team) (d : Reg) (w : Word) : t.uniformResult false d (w.toNat, false) = t.writeS d.toNat w := by
  rw [Team.uniformResult_word, BitVec.ofNat_toNat, BitVec.setWidth_eq]

end Sys2Proof.Machine
end

section
/-! PROOF. O1 to O4: integer instructions, vector and uniform (R162, R163, R179 to R187). -/

namespace Sys2Proof.Machine

variable {s : State} {c : Issuer}

/-- Settles O1: each row is one sweep of its operation, legal where its destination and both sources are. -/
theorem vectorIntThree : Obligations.VectorIntThree := by
  intro p hp s c d a b h
  exact vectorResult_or_illegal h (exec_intV3 p hp d a b s) rfl fun hok => Issuer.vOk_even (Bool.and_elim_left (Bool.and_elim_left hok))

/-- Settles O2: each row is one sweep of its operation, legal where its destination and its source are. -/
theorem vectorIntTwo : Obligations.VectorIntTwo := by
  intro p hp s c d a h
  exact vectorResult_or_illegal h (exec_intV2 p hp d a s) rfl fun hok => Issuer.vOk_even (Bool.and_elim_left hok)

theorem exec_intImm_result {i : Instr} {op : IntImm} {d : Reg} {x : Nat} (h : s.issuer = some c) (he : exec i s = intImm op d x s) :
    if c.vOk c.team.et.wide d = true then
      VectorResult i s c 1 c.team.et.wide d fun l =>
        op.eval c.team.et.width c.team.et.signed c.team.sat (c.team.read s.rf l c.team.et.wide (.v d)) x
    else RaisesIllegal i s c :=
  vectorResult_or_illegal h he rfl Issuer.vOk_even

/-- Settles O3: the rows are sweeps of their operations, and each of the other instructions is one sweep of its own; the destination comes first
among what must be legal, but for `cvti`, whose types come before it. -/
theorem vectorIntFourImmediateAndOther : Obligations.VectorIntFourImmediateAndOther := by
  refine ⟨⟨fun p hp s c d a b e ub uc h => ?_, fun p hp s c d x h => ?_, fun p hp s c d x h => ?_⟩,
    fun s c h => ⟨fun d a pos width => ?_, fun d a b pos width => ?_, fun d x => ?_, fun d x => ?_, fun d a dt st => ?_, fun d a b => ?_, fun d a => ?_⟩⟩
  · exact vectorResult_or_illegal h (exec_intV4 p hp d a b e ub uc s) rfl fun hok =>
      Issuer.vOk_even (Bool.and_elim_left (Bool.and_elim_left (Bool.and_elim_left hok)))
  · exact exec_intImm_result h (exec_intImm p hp d x s)
  · exact exec_intImm_result h (exec_intShift p hp d x s)
  · exact vectorResult_or_illegal h rfl rfl fun hok => Issuer.vOk_even (Bool.and_elim_left (Bool.and_elim_left (Bool.and_elim_left hok)))
  · exact vectorResult_or_illegal h rfl rfl fun hok =>
      Issuer.vOk_even (Bool.and_elim_left (Bool.and_elim_left (Bool.and_elim_left (Bool.and_elim_left hok))))
  · exact vectorResult_or_illegal h rfl rfl Issuer.vOk_even
  · exact vectorResult_or_illegal h rfl rfl Issuer.vOk_even
  · exact vectorResult_or_illegal h rfl rfl fun hok => Issuer.vOk_even (Bool.and_elim_right (Bool.and_elim_left hok))
  · exact vectorResult_or_illegal h rfl rfl fun hok => Issuer.vOk_even (Bool.and_elim_left (Bool.and_elim_left hok))
  · exact vectorResult_or_illegal h rfl rfl Issuer.vOk_even

theorem exec_uniImm_result {i : Instr} {op : IntImm} {d : Reg} {x : Nat} (h : s.issuer = some c) (he : exec i s = uniImm op d x s) :
    if sOk c.team.et.wide d = true then
      UniformResult i s c 1 c.team.et.wide d
        (op.eval c.team.et.width c.team.et.signed c.team.sat (c.team.read s.rf 0 c.team.et.wide (.s d)) x)
    else RaisesIllegal i s c :=
  uniformResult_or_illegal h he rfl

/-- The value that `vtos` delivers (R187). -/
def Team.laneValue (t : Team) (free : Nat) (a b : Reg) : Nat :=
  let lane := (t.s free b.toNat).toNat
  if lane < 1024 ∧ t.isActive free lane = true then (t.v free lane a.toNat).toNat else 0

theorem exec_vtos {d a b : Reg} (h : s.issuer = some c) :
    if c.vOk false a = true then UniformResult (.vtos d a b) s c 1 false d (c.team.laneValue s.rf a b, false) else RaisesIllegal (.vtos d a b) s c := by
  refine uniformResult_or_illegal h rfl ?_
  have hval : c.team.uniformResult false d (c.team.laneValue s.rf a b, false) = c.team.writeS d.toNat
      (if decide ((c.team.s s.rf b.toNat).toNat < 1024) && c.team.isActive s.rf (c.team.s s.rf b.toNat).toNat then
        c.team.v s.rf (c.team.s s.rf b.toNat).toNat a.toNat else 0) := by
    rw [← Team.uniformResult_toNat, Team.laneValue]
    simp only [Bool.and_eq_true, decide_eq_true_eq, apply_ite BitVec.toNat]
    rfl
  rw [hval]

/-- Settles O4: the rows and the other uniform forms write one result; `smovi` and `smovh` are always legal. -/
theorem uniformInteger : Obligations.UniformInteger := by
  refine ⟨fun s c h => ⟨fun p hp d a b => ?_, fun p hp d a => ?_, fun p hp d a b e => ?_, fun p hp d x => ?_, fun p hp d x => ?_⟩,
    fun s c h => ⟨fun d a pos width => ?_, fun d a b pos width => ?_, fun d x => ?_, fun d x => ?_, fun d a dt st => ?_, fun d a b => ?_, fun d a b => ?_⟩⟩
  · exact uniformResult_or_illegal h (exec_uniV3 p hp d a b s) rfl
  · exact uniformResult_or_illegal h (exec_uniV2 p hp d a s) rfl
  · exact uniformResult_or_illegal h (exec_uniV4 p hp d a b e s) rfl
  · exact exec_uniImm_result h (exec_uniImm p hp d x s)
  · exact exec_uniImm_result h (exec_uniShift p hp d x s)
  · exact uniformResult_or_illegal h rfl rfl
  · exact uniformResult_or_illegal h rfl rfl
  · exact .of_done h (rfl : execSmovi d x s = s.teamOp 1 none _) rfl
  · refine .of_done h (rfl : execSmovh d x s = s.teamOp 1 none _) ?_
    rw [Team.uniformResult_toNat]
  · exact uniformResult_or_illegal h rfl rfl
  · exact uniformResult_or_illegal h rfl rfl
  · exact exec_vtos h

end Sys2Proof.Machine
end

section
/-! SUPPORT. Control instructions: sets of lanes, the lanes that a condition takes, and an instruction that is a branch (R151, R169 to R173). -/

namespace Sys2Proof.Machine

variable {s : State} {c : Issuer}

/-! Sets of lanes. -/

theorem getLsbD_laneSet (k l : Nat) : (laneSet k).getLsbD l = (decide (l < 1024) && decide (k = l)) := by
  rw [laneSet, BitVec.getLsbD_ofNat, Nat.testBit_two_pow]

theorem getLsbD_laneSetOf (ls : List Nat) (l : Nat) : (laneSetOf ls).getLsbD l = (decide (l < 1024) && decide (l ∈ ls)) := by
  induction ls with
  | nil => simp [laneSetOf]
  | cons k ls ih =>
    rw [laneSetOf, BitVec.getLsbD_or, getLsbD_laneSet, ih, ← Bool.and_or_distrib_left]
    simp [eq_comm]

/-- A lane that is active is one of the 1024 that a mask names. -/
theorem Team.isActive_lt {t : Team} {free l : Nat} (h : t.isActive free l = true) : l < 1024 := by
  simp only [Team.isActive, Bool.and_eq_true] at h
  obtain ⟨⟨-, hmask⟩, -⟩ := h
  exact BitVec.lt_of_getLsbD hmask

theorem Team.getLsbD_taken (t : Team) (free : Nat) (r : Reg) (l : Nat) :
    (t.taken free r).getLsbD l = (t.isActive free l && (t.v free l r.toNat != 0)) := by
  rw [Team.taken, getLsbD_laneSetOf, Bool.eq_iff_iff]
  simp only [Bool.and_eq_true, decide_eq_true_eq, List.mem_filter, Team.mem_active]
  exact ⟨fun h => h.2, fun h => ⟨Team.isActive_lt h.1, h⟩⟩

theorem LaneSet.or_eq_zero (x y : LaneSet) : x ||| y = 0 ↔ x = 0 ∧ y = 0 := BitVec.or_eq_zero_iff

theorem heldLanes_eq_zero (es : List DivEntry) : heldLanes es = 0 ↔ ∀ e ∈ es, e.outer = 0 ∧ e.pend = 0 := by
  induction es with
  | nil => simp [heldLanes]
  | cons e es ih => rw [heldLanes, LaneSet.or_eq_zero, LaneSet.or_eq_zero, List.forall_mem_cons, ih]

/-! Branches. -/

/-- An instruction whose meaning is another team at a place of its own. -/
theorem BranchTo.of_jump {i : Instr} {n : Nat} {src : Option Reg} {f : Issuer → TeamRes} {t : Team} {x : VAddr}
    (h : s.issuer = some c) (he : exec i s = s.teamOp n src f) (hf : f c = .jump t x) : BranchTo i s c t x :=
  ⟨_, he.trans (State.teamOp_jump h hf), Team.jump_frame _ _, Team.jump_pc _ _, rfl⟩

/-- What holds of the top entry of the divergence stack, for a match on the stack. -/
theorem Team.top_of_div {t : Team} {e : DivEntry} {rest : List DivEntry} {P : DivEntry → Prop} (hdiv : t.div = e :: rest) (he : P e) :
    ∀ e' rest', t.div = e' :: rest' → P e' := by
  intro e' rest' h'
  obtain ⟨rfl, -⟩ := List.cons.inj (hdiv.symm.trans h')
  exact he

end Sys2Proof.Machine
end

section
/-! PROOF. O12: the if-group (R169 to R171). -/

namespace Sys2Proof.Machine

variable {s : State} {c : Issuer}

theorem exec_mif {r : Reg} (off : BitVec 16) (h : s.issuer = some c) (hr : c.vOk false r = true) (hd : c.team.div.length < 32) :
    let m := c.team.taken s.rf r
    BranchTo (.mif r off) s c { c.team with div := ⟨.ifPath, c.team.mask, c.team.mask &&& ~~~m, 0⟩ :: c.team.div, mask := m }
      (if m = 0 then c.team.target off else c.team.after) :=
  .of_jump h (rfl : execMif r off s = s.teamOp 1 none _) (if_neg (by simpa [hr] using hd))

theorem exec_mif_illegal {r : Reg} (off : BitVec 16) (h : s.issuer = some c) (hi : ¬ (c.vOk false r = true ∧ c.team.div.length < 32)) :
    RaisesIllegal (.mif r off) s c := by
  refine .of_illegal h (rfl : execMif r off s = s.teamOp 1 none _) (if_pos ?_)
  simpa [imp_iff_not_or] using hi

theorem exec_melse {e : DivEntry} {rest : List DivEntry} (off : BitVec 24) (h : s.issuer = some c) (hdiv : c.team.div = e :: rest)
    (hf : c.team.frameSize ≠ 0) (hk : e.kind = .ifPath) :
    let m := e.pend &&& c.team.present
    BranchTo (.melse off) s c { c.team with div := { e with pend := 0, kind := .elsePath } :: rest, mask := m }
      (if m = 0 then c.team.target off else c.team.after) := by
  refine .of_jump h (rfl : execMelse off s = s.teamOp 1 none _) ?_
  simp only [hdiv]
  exact if_neg (by simp [hf, hk])

theorem exec_melse_illegal (off : BitVec 24) (h : s.issuer = some c)
    (hi : ∀ e rest, c.team.div = e :: rest → c.team.frameSize = 0 ∨ e.kind ≠ .ifPath) : RaisesIllegal (.melse off) s c := by
  refine .of_illegal h (rfl : execMelse off s = s.teamOp 1 none _) ?_
  dsimp only
  split
  next e rest hdiv => exact if_pos (hi e rest hdiv)
  next => rfl

theorem exec_mend {e : DivEntry} {rest : List DivEntry} (h : s.issuer = some c) (hdiv : c.team.div = e :: rest)
    (hf : c.team.frameSize ≠ 0) (hk : e.kind ≠ .loop) :
    BranchTo .mend s c { c.team with div := rest, mask := e.outer &&& c.team.present } c.team.after := by
  refine .of_jump h (rfl : execMend s = s.teamOp 1 none _) ?_
  simp only [hdiv]
  exact if_neg (by simp [hf, hk])

theorem exec_mend_illegal (h : s.issuer = some c) (hi : ∀ e rest, c.team.div = e :: rest → c.team.frameSize = 0 ∨ e.kind = .loop) :
    RaisesIllegal .mend s c := by
  refine .of_illegal h (rfl : execMend s = s.teamOp 1 none _) ?_
  dsimp only
  split
  next e rest hdiv => exact if_pos (hi e rest hdiv)
  next => rfl

/-- Settles O12: each clause is one case of its instruction. -/
theorem ifGroup : Obligations.IfGroup := by
  intro s c h
  refine ⟨c.team.getLsbD_taken s.rf, fun r off => ?_, fun hf => ⟨exec_mend_illegal h fun _ _ _ => .inl hf, fun off => exec_melse_illegal off h fun _ _ _ => .inl hf⟩,
    fun e rest off hdiv hf => ?_, fun e rest hdiv hf => ?_⟩
  · split
    next hok => exact exec_mif off h hok.1 hok.2
    next hok => exact exec_mif_illegal off h hok
  · split
    next hk => exact exec_melse off h hdiv hf hk
    next hk => exact exec_melse_illegal off h (Team.top_of_div hdiv (.inr hk))
  · split
    next hk => exact exec_mend_illegal h (Team.top_of_div hdiv (.inr hk))
    next hk => exact exec_mend h hdiv hf hk

end Sys2Proof.Machine
end

section
/-! PROOF. O13: the loop-group, and branches on a condition (R172, R173). -/

namespace Sys2Proof.Machine

variable {s : State} {c : Issuer} {r : Reg}

theorem exec_mloop (off : BitVec 24) (h : s.issuer = some c) (hd : c.team.div.length < 32) :
    BranchTo (.mloop off) s c { c.team with div := ⟨.loop, c.team.mask, 0, c.team.target off⟩ :: c.team.div } c.team.after :=
  .of_jump h (rfl : execMloop off s = s.teamOp 1 none _) (if_neg (Nat.not_le.2 hd))

theorem exec_mloop_illegal (off : BitVec 24) (h : s.issuer = some c) (hd : ¬ c.team.div.length < 32) : RaisesIllegal (.mloop off) s c :=
  .of_illegal h (rfl : execMloop off s = s.teamOp 1 none _) (if_pos (Nat.not_lt.1 hd))

/-! `mbrk` and `mcont` are one operation, `leaveLoop`. -/

theorem leaveLoop_illegal {i : Instr} {again : Bool} (h : s.issuer = some c) (he : exec i s = leaveLoop again r s)
    (hi : c.vOk false r = false ∨ splitLoop c.team.frameSize c.team.div = none) : RaisesIllegal i s c := by
  refine .of_illegal h (he.trans (rfl : _ = s.teamOp 1 (some r) _)) ?_
  rcases hi with hr | hs
  · simp [hr]
  · simp [hs]

/-- The loop entry as `mbrk`, or `mcont` where `again` is true, leaves it. -/
def DivEntry.left (e : DivEntry) (again : Bool) (b : LaneSet) : DivEntry := if again then { e with pend := e.pend ||| b } else e

section

variable {i : Instr} {again : Bool} {above below : List DivEntry} {e : DivEntry}

theorem leaveLoop_toTail (h : s.issuer = some c) (he : exec i s = leaveLoop again r s) (hr : c.vOk false r = true)
    (hs : splitLoop c.team.frameSize c.team.div = some (above, e, below))
    (hm : c.team.mask &&& ~~~c.team.taken s.rf r = 0) (ha : ∀ x ∈ above.map (·.without (c.team.taken s.rf r)), x.outer = 0 ∧ x.pend = 0) :
    BranchTo i s c { c.team with mask := c.team.mask &&& ~~~c.team.taken s.rf r, div := e.left again (c.team.taken s.rf r) :: below } e.target := by
  refine .of_jump h (he.trans (rfl : _ = s.teamOp 1 (some r) _)) ?_
  simp only [hr, hs]
  refine (if_neg (by decide)).trans (if_pos ?_)
  exact (LaneSet.or_eq_zero _ _).2 ⟨hm, (heldLanes_eq_zero _).2 ha⟩

theorem leaveLoop_goesOn (h : s.issuer = some c) (he : exec i s = leaveLoop again r s) (hr : c.vOk false r = true)
    (hs : splitLoop c.team.frameSize c.team.div = some (above, e, below))
    (hn : ¬ (c.team.mask &&& ~~~c.team.taken s.rf r = 0 ∧ ∀ x ∈ above.map (·.without (c.team.taken s.rf r)), x.outer = 0 ∧ x.pend = 0)) :
    BranchTo i s c { c.team with mask := c.team.mask &&& ~~~c.team.taken s.rf r
                                 div := above.map (·.without (c.team.taken s.rf r)) ++ e.left again (c.team.taken s.rf r) :: below }
      c.team.after := by
  refine .of_jump h (he.trans (rfl : _ = s.teamOp 1 (some r) _)) ?_
  simp only [hr, hs]
  refine (if_neg (by decide)).trans (if_neg fun h0 => hn ?_)
  rwa [LaneSet.or_eq_zero, heldLanes_eq_zero] at h0

end

/-! `mnext`. -/

theorem exec_mnext_illegal (off : BitVec 24) (h : s.issuer = some c)
    (hi : ∀ e rest, c.team.div = e :: rest → c.team.frameSize = 0 ∨ e.kind ≠ .loop) : RaisesIllegal (.mnext off) s c := by
  refine .of_illegal h (rfl : execMnext off s = s.teamOp 1 none _) ?_
  dsimp only
  split
  next e rest hdiv => exact if_pos (hi e rest hdiv)
  next => rfl

theorem exec_mnext_again {e : DivEntry} {rest : List DivEntry} (off : BitVec 24) (h : s.issuer = some c) (hdiv : c.team.div = e :: rest)
    (hf : c.team.frameSize ≠ 0) (hk : e.kind = .loop) (hm : (c.team.mask ||| e.pend) &&& c.team.present ≠ 0) :
    BranchTo (.mnext off) s c { c.team with mask := (c.team.mask ||| e.pend) &&& c.team.present, div := { e with pend := 0 } :: rest }
      (c.team.target off) := by
  refine .of_jump h (rfl : execMnext off s = s.teamOp 1 none _) ?_
  simp only [hdiv]
  exact (if_neg (by simp [hf, hk])).trans (if_pos hm)

theorem exec_mnext_ends {e : DivEntry} {rest : List DivEntry} (off : BitVec 24) (h : s.issuer = some c) (hdiv : c.team.div = e :: rest)
    (hf : c.team.frameSize ≠ 0) (hk : e.kind = .loop) (hm : ¬ (c.team.mask ||| e.pend) &&& c.team.present ≠ 0) :
    BranchTo (.mnext off) s c { c.team with mask := e.outer &&& c.team.present, div := rest } c.team.after := by
  refine .of_jump h (rfl : execMnext off s = s.teamOp 1 none _) ?_
  simp only [hdiv]
  exact (if_neg (by simp [hf, hk])).trans (if_neg hm)

/-! `many` and `mall`. -/

theorem exec_many_illegal (off : BitVec 16) (h : s.issuer = some c) (hr : c.vOk false r = false) : RaisesIllegal (.many r off) s c :=
  .of_illegal h (rfl : execMany r off s = s.teamOp 1 none _) (if_pos (by simp [hr]))

theorem exec_mall_illegal (off : BitVec 16) (h : s.issuer = some c) (hr : c.vOk false r = false) : RaisesIllegal (.mall r off) s c :=
  .of_illegal h (rfl : execMall r off s = s.teamOp 1 none _) (if_pos (by simp [hr]))

/-- Some active lane has a condition that is not zero. -/
def Team.someOn (t : Team) (free : Nat) (r : Reg) : Prop := ∃ l, t.isActive free l = true ∧ t.v free l r.toNat ≠ 0

/-- Some active lane has a condition that is zero. -/
def Team.someOff (t : Team) (free : Nat) (r : Reg) : Prop := ∃ l, t.isActive free l = true ∧ t.v free l r.toNat = 0

theorem Team.any_active (t : Team) (free : Nat) (r : Reg) : (t.active free).any (fun l => t.v free l r.toNat != 0) = true ↔ t.someOn free r := by
  simp [Team.someOn, Team.mem_active]

theorem Team.all_active (t : Team) (free : Nat) (r : Reg) :
    (!(t.active free).isEmpty && (t.active free).all (fun l => t.v free l r.toNat != 0)) = true ↔ t.someOn free r ∧ ¬ t.someOff free r := by
  simp only [Bool.and_eq_true, Bool.not_eq_true', List.isEmpty_eq_false_iff_exists_mem, List.all_eq_true, Team.mem_active, bne_iff_ne,
    Team.someOn, Team.someOff, not_exists, not_and]
  exact ⟨fun ⟨⟨l, hl⟩, hall⟩ => ⟨⟨l, hl, hall l hl⟩, hall⟩, fun ⟨⟨l, hl, _⟩, hall⟩ => ⟨⟨l, hl⟩, hall⟩⟩

theorem exec_many_taken (off : BitVec 16) (h : s.issuer = some c) (hr : c.vOk false r = true) (hon : c.team.someOn s.rf r) :
    BranchTo (.many r off) s c c.team (c.team.target off) :=
  .of_jump h (rfl : execMany r off s = s.teamOp 1 none _)
    ((if_neg (by simp [hr])).trans (congrArg (TeamRes.jump _) (if_pos ((c.team.any_active s.rf r).2 hon))))

theorem exec_many_not_taken (off : BitVec 16) (h : s.issuer = some c) (hr : c.vOk false r = true) (hon : ¬ c.team.someOn s.rf r) :
    BranchTo (.many r off) s c c.team c.team.after :=
  .of_jump h (rfl : execMany r off s = s.teamOp 1 none _)
    ((if_neg (by simp [hr])).trans (congrArg (TeamRes.jump _) (if_neg (mt (c.team.any_active s.rf r).1 hon))))

theorem exec_mall_taken (off : BitVec 16) (h : s.issuer = some c) (hr : c.vOk false r = true)
    (hall : c.team.someOn s.rf r ∧ ¬ c.team.someOff s.rf r) : BranchTo (.mall r off) s c c.team (c.team.target off) :=
  .of_jump h (rfl : execMall r off s = s.teamOp 1 none _)
    ((if_neg (by simp [hr])).trans (congrArg (TeamRes.jump _) (if_pos ((c.team.all_active s.rf r).2 hall))))

theorem exec_mall_not_taken (off : BitVec 16) (h : s.issuer = some c) (hr : c.vOk false r = true)
    (hall : ¬ (c.team.someOn s.rf r ∧ ¬ c.team.someOff s.rf r)) : BranchTo (.mall r off) s c c.team c.team.after :=
  .of_jump h (rfl : execMall r off s = s.teamOp 1 none _)
    ((if_neg (by simp [hr])).trans (congrArg (TeamRes.jump _) (if_neg (mt (c.team.all_active s.rf r).1 hall))))

/-- Settles O13: each clause is one case of its instruction; `mbrk` and `mcont` are two uses of `leaveLoop`. -/
theorem loopGroup : Obligations.LoopGroup := by
  intro s c h
  refine ⟨fun off => ?_, fun r hi => ⟨leaveLoop_illegal (again := false) h rfl hi, leaveLoop_illegal (again := true) h rfl hi⟩,
    fun r above e below hr hs => ⟨fun ⟨hm, ha⟩ => ⟨?_, ?_⟩, fun hn => ⟨?_, ?_⟩⟩, fun off hf => exec_mnext_illegal off h fun _ _ _ => .inl hf,
    fun e rest off hdiv hf => ?_, fun r off hr => ⟨exec_many_illegal off h hr, exec_mall_illegal off h hr⟩,
    fun r off hr => ⟨exec_many_taken off h hr, exec_many_not_taken off h hr, exec_mall_taken off h hr, fun hor => exec_mall_not_taken off h hr ?_⟩⟩
  · split
    next hd => exact exec_mloop off h hd
    next hd => exact exec_mloop_illegal off h hd
  · exact leaveLoop_toTail (again := false) h rfl hr hs hm ha
  · exact leaveLoop_toTail (again := true) h rfl hr hs hm ha
  · exact leaveLoop_goesOn (again := false) h rfl hr hs hn
  · exact leaveLoop_goesOn (again := true) h rfl hr hs hn
  · split
    next hk =>
      dsimp only
      split
      next hm => exact exec_mnext_again off h hdiv hf hk hm
      next hm => exact exec_mnext_ends off h hdiv hf hk hm
    next hk => exact exec_mnext_illegal off h (Team.top_of_div hdiv (.inr hk))
  · exact fun ⟨hon, hoff⟩ => hor.elim (fun hnot => hnot hon) hoff

end Sys2Proof.Machine
end

section
/-! PROOF. O15: `exit` and a vector file that is not in canonical form (R168). -/

namespace Sys2Proof.Machine

variable {s : State} {c : Issuer}

/-- The issuing team as `exit` leaves it (R168). -/
def Issuer.exited (c : Issuer) (free : Nat) : Team := (c.team.without (laneSetOf (c.team.active free))).jump c.team.after

/-- `exit` of a team that keeps lanes changes that team only. -/
theorem exec_exit_stays (h : s.issuer = some c) (hp : (c.exited s.rf).present ≠ 0) : exec .exit s = .next (s.setTeam c.ref (c.exited s.rf)) :=
  (State.issue_of_issuer h _).trans (congrArg Host.Outcome.next (if_pos hp))

/-- Lane 1 alone is in the mask. The vector file lists v0 of lane 1 before v0 of lane 0, so that its keys do not rise. -/
def unsortedTeam : Team := { loaderTeam with mask := 2, vregs := [(regKey 1 0, 5), (regKey 0 0, 7)] }

/-- The team issues. -/
def unsortedState : State := { (State.reset.setCrew 0 loaderCrew).setTeam ⟨0, 0, 0⟩ unsortedTeam with cur := some ⟨0, 0, 0⟩ }

def unsortedIssuer : Issuer := ⟨⟨0, 0, 0⟩, unsortedTeam, 0, loaderCrew⟩

theorem unsortedState_issuer : unsortedState.issuer = some unsortedIssuer := rfl

/-- Refutes O15: of a vector file that is not in canonical form (`Sparse.wf`), which the statement does not ask for, a read sees the entries in front
only. Here v0 of lane 0 reads 0, and lane 1, whose entry hides the one of lane 0, exits: after that v0 of lane 0, which stays present, reads 7. -/
theorem not_exitRemovesLanes : ¬ Obligations.ExitRemovesLanes := by
  intro hall
  obtain ⟨-, -, hexit⟩ := hall unsortedState unsortedIssuer unsortedState_issuer
  have hstays : (unsortedIssuer.exited unsortedState.rf).present ≠ 0 := by decide +kernel
  obtain ⟨s', u, hexec, hu, -, -, hregs, -⟩ := hexit (.inl hstays)
  rw [exec_exit_stays unsortedState_issuer hstays] at hexec
  cases hexec
  rw [State.teamAt_setTeam_self] at hu
  cases hu
  have hbefore : unsortedTeam.vreg 0 0 = 0 := by decide +kernel
  have hafter : (unsortedIssuer.exited unsortedState.rf).vreg 0 0 = 7 := by decide +kernel
  have hgone : (laneSetOf (unsortedTeam.active unsortedState.rf)).getLsbD 0 = false := by decide +kernel
  have hkept : (unsortedIssuer.exited unsortedState.rf).vreg 0 0 =
      if (laneSetOf (unsortedTeam.active unsortedState.rf)).getLsbD 0 = true then 0 else unsortedTeam.vreg 0 0 := hregs 0 0 (by decide)
  rw [hafter, hgone, hbefore] at hkept
  exact absurd hkept (by decide)

end Sys2Proof.Machine
end

section
/-! SUPPORT. Bit fields (R182): the extension word E-B, the operands as numbers below 2^w, and the bits of the results. -/

namespace Sys2Proof

/-! Words. -/

theorem toNat_extB (width : BitVec 7) (pos : BitVec 6) : (extB width pos).toNat = 128 * width.toNat + pos.toNat := by
  have hpos := pos.isLt
  simp only [extB, BitVec.toNat_append, BitVec.toNat_ofNat, Nat.zero_mod, Nat.zero_shiftLeft, Nat.zero_or, Nat.or_zero]
  rw [← Nat.shiftLeft_add_eq_or_of_lt hpos, Nat.shiftLeft_eq, Nat.shiftLeft_eq]
  omega

/-- The b field of a field extraction is reserved. -/
theorem decode_bfx_reserved {op : BitVec 8} {f : Reg → Reg → BitVec 6 → BitVec 7 → Instr} (h : opcodeMap op = some (.bfx f)) (d a : Reg) {b : Reg}
    (hb : b ≠ 0) (e : Word) (rest : List Word) : decodeWords (word4 op d a b :: e :: rest) = .error .reservedField := by
  have hs : (Shape.bfx f).extended = true := rfl
  have hd : (Shape.bfx f).decode (word4 op d a b) e = .error .reservedField := by
    rw [Shape.decode, bOf_word4]
    exact if_neg (mt eq_of_beq hb)
  simp [decodeWords, h, hs, hd, Except.map]

end Sys2Proof

namespace Sys2Proof.Machine

/-! Operands. -/

theorem Team.v64_lt (t : Team) (free lane r : Nat) : t.v64 free lane r < 2 ^ 64 := by
  have hlow := (t.v free lane r).isLt
  have hhigh := (t.v free lane (r + 1)).isLt
  unfold Team.v64
  omega

/-- A vector operand of a view is a number of the view's width. -/
theorem Team.read_v_lt (t : Team) (free lane : Nat) (et : EType) (r : Reg) : t.read free lane et.wide (.v r) < 2 ^ et.width := by
  have hone := (t.v free lane r.toNat).isLt
  have htwo := t.v64_lt free lane r.toNat
  cases et <;> assumption

/-! Bits. -/

theorem testBit_bitsOf (x lo n j : Nat) : (bitsOf x lo n).testBit j = (decide (j < n) && x.testBit (lo + j)) := by
  rw [bitsOf, Nat.testBit_mod_two_pow, Nat.testBit_div_two_pow, Nat.add_comm]

theorem bitsOf_lt (x lo n : Nat) : bitsOf x lo n < 2 ^ n := Nat.mod_lt _ (by positivity)

/-- A field of `k` bits, sign-extended to `w` bits. -/
theorem truncBits_toSigned (w k x : Nat) : truncBits (toSigned k x) w = ((BitVec.ofNat k x).signExtend w).toNat := by
  rw [truncBits_eq_toNat, toSigned_eq_toInt]
  rfl

/-- The bits of an extracted field, and above them zeros or its highest bit. -/
theorem testBit_bfxBits {w pos k j : Nat} (sgn : Bool) (x : Nat) (hk : k ≠ 0) (hj : j < w) :
    (bfxBits w sgn x pos k).testBit j = if j < k then x.testBit (pos + j) else sgn && x.testBit (pos + k - 1) := by
  cases sgn with
  | false =>
    show (bitsOf x pos k).testBit j = _
    rw [testBit_bitsOf]
    split <;> simp [*]
  | true =>
    have hlow : ∀ i, i < k → (BitVec.ofNat k (bitsOf x pos k)).getLsbD i = x.testBit (pos + i) := fun i hi => by
      rw [BitVec.getLsbD_ofNat, testBit_bitsOf, decide_eq_true hi, Bool.true_and, Bool.true_and]
    show (truncBits (toSigned k (bitsOf x pos k)) w).testBit j = _
    rw [truncBits_toSigned, BitVec.testBit_toNat, BitVec.getLsbD_signExtend, decide_eq_true hj, Bool.true_and]
    split
    next h => exact hlow j h
    next =>
      rw [BitVec.msb_eq_getLsbD_last, hlow _ (by omega), Bool.true_and]
      congr 1
      omega

theorem bfxBits_lt {w pos k : Nat} (sgn : Bool) (x : Nat) (hk : pos + k ≤ w) : bfxBits w sgn x pos k < 2 ^ w := by
  cases sgn with
  | false => exact (bitsOf_lt x pos k).trans_le (Nat.pow_le_pow_right (by decide) (by omega))
  | true => exact truncBits_lt _ _

/-- The bits of an inserted field, and those of the first operand around it. -/
theorem testBit_bfiBits (x y pos k j : Nat) :
    (bfiBits x y pos k).testBit j = if pos ≤ j ∧ j < pos + k then y.testBit (j - pos) else x.testBit j := by
  have hform : bfiBits x y pos k = 2 ^ pos * (2 ^ k * (x / 2 ^ (pos + k)) + bitsOf y 0 k) + bitsOf x 0 pos := by
    rw [bfiBits, Nat.pow_add]
    ring
  rw [hform, Nat.testBit_two_pow_mul_add _ (bitsOf_lt x 0 pos), Nat.testBit_two_pow_mul_add _ (bitsOf_lt y 0 k), testBit_bitsOf, testBit_bitsOf,
    Nat.testBit_div_two_pow]
  rcases Nat.lt_or_ge j pos with hj | hj
  · simp [hj, Nat.not_le.2 hj]
  · rcases Nat.lt_or_ge (j - pos) k with hk | hk
    · simp [hj, hk, Nat.not_lt.2 hj, show j < pos + k by omega]
    · rw [if_neg (Nat.not_lt.2 hj), if_neg (Nat.not_lt.2 hk), if_neg (by omega)]
      congr 1
      omega

theorem bfiBits_lt {w x pos k : Nat} (y : Nat) (hx : x < 2 ^ w) (hk : pos + k ≤ w) : bfiBits x y pos k < 2 ^ w := by
  refine Nat.lt_pow_two_of_testBit _ fun i hi => ?_
  rw [testBit_bfiBits, if_neg (by omega)]
  exact Nat.testBit_lt_two_pow (hx.trans_le (Nat.pow_le_pow_right (by decide) hi))

end Sys2Proof.Machine
end

section
/-! PROOF. O52: `bfx` and `bfi`. -/

namespace Sys2Proof.Machine

theorem width_ne_zero_iff (width : BitVec 7) : (width != 0) = true ↔ width.toNat ≠ 0 := by
  rw [bne_iff_ne, ne_eq, ← BitVec.toNat_inj]
  rfl

/-- Settles O52: the words by the round trips of their shapes, what the instructions leave by O3, and the results bit by bit. -/
theorem bitFields : Obligations.BitFields := by
  refine ⟨fun d a b pos width => ⟨extB width pos, toNat_extB width pos, rfl, rfl, fun rest =>
    ⟨Laws.rt_bfx rfl d a pos width rest, Laws.rt_bfi rfl d a b pos width rest, fun hb => decode_bfx_reserved rfl d a hb _ rest⟩⟩,
    fun s c d a b pos width h => ?_⟩
  obtain ⟨hbfx, hbfi, -⟩ := vectorIntFourImmediateAndOther.2 s c h
  have hx := hbfx d a pos width
  have hi := hbfi d a b pos width
  simp only [Bool.and_eq_true, width_ne_zero_iff, decide_eq_true_eq, and_assoc] at hx hi
  constructor
  · split
    next hok =>
      rw [if_pos hok] at hx
      obtain ⟨-, -, hk, hfits⟩ := hok
      exact ⟨_, hx, fun l => ⟨bfxBits_lt _ _ hfits, fun j hj => testBit_bfxBits _ _ hk hj⟩⟩
    next hok => rwa [if_neg hok] at hx
  · split
    next hok =>
      rw [if_pos hok] at hi
      obtain ⟨-, -, -, -, hfits⟩ := hok
      exact ⟨_, hi, fun l => ⟨bfiBits_lt _ (c.team.read_v_lt s.rf l c.team.et a) hfits, fun j _ => testBit_bfiBits _ _ _ _ j⟩⟩
    next hok => rwa [if_neg hok] at hi

end Sys2Proof.Machine
end
